-- ==== Sys2Proof/Word.lean ====
section
/-! DEFINITION. The word types of the H12 and their plainest arithmetic. -/

namespace Sys2Proof

/-- A 64-bit register, address or counter. -/
abbrev Word := BitVec 64
/-- One byte of any memory. -/
abbrev Byte := BitVec 8
/-- A 32-bit element, syllable or field. -/
abbrev Half := BitVec 32
/-- An accumulator row: 512 bytes in a single core, 1,024 in a ganged core (R126). -/
abbrev Row := BitVec 8192
/-- A lane predicate (R125). -/
abbrev LaneMask := BitVec 512

end Sys2Proof
end

