-- ==== Sys2Proof/Config.lean ====
section
/-! DEFINITION. What one H12 fixes (its configuration record, the numbers of the spec) and the free values: opaque
constants without a body, for every value and every choice that the spec leaves open. -/

namespace Sys2Proof

/-- A configuration record of an LMH-12P without defects, in the layout of R408: magic, version 1, model 0; serial number, identity key, half-slab results,
GMASK and layers zero; 2,097,152 MiB of pager memory; fabric number 0; signature zero. -/
def plainRecord : List Byte :=
  [0x46, 0x52, 0x43, 0x32, 0x31, 0x48, 0x4D, 0x4C, 1, 0, 0, 0] ++ List.replicate 244 0 ++ [0, 0, 0x20, 0, 0, 0, 0, 0] ++ List.replicate 104 0

/-- What a cold start finds (R408, R410, R411): the bytes of the configuration record, the firmware image with the root key and the signature that come
with it, and how this start's training and self-test turn out. -/
structure ConfigRecord where
  record : List Byte := plainRecord
  firmware : List Byte := []
  rootKey : List Byte := []
  fwSig : List Byte := []
  /-- Halves that the self-test of step 4 finds newly failing. -/
  newDefects : List (BitVec 40) := List.replicate 12 0
  /-- For each attempt of R411, whether the training of step 3 succeeds. -/
  trainOk : List Bool := [true, true, true]
deriving DecidableEq, Repr, Inhabited

/-- What a Warath flit carries, by its TYPE (R402). The spec gives no byte format of the payload. -/
inductive FlitPayload where
  | idle
  /-- Remote store: region-0 address on the receiver, bytes, and whether they carry poison. -/
  | store (addr : Nat) (bytes : List Byte) (poison : Bool)
  /-- Remote load request: address, length, tag of the requester. -/
  | load (addr len tag : Nat)
  /-- PUSH: the receiver descriptor's address on the receiver, the source format and number of elements, and the source codes of the elements from
  `first` on that this flit carries. -/
  | pushData (desc fmt total first : Nat) (codes : List Nat) (tag : Nat)
  /-- Atomic: address, operation code, size, operand, comparand, tag, whether a value is returned. -/
  | atomic (addr aop : Nat) (dbl : Bool) (x cmp : Word) (tag : Nat) (ret : Bool)
  /-- Response: tag, status and value bytes. -/
  | response (tag status : Nat) (bytes : List Byte)
  /-- Duplicate of a write to a DUP page. -/
  | dupWrite (addr : Nat) (bytes : List Byte)
  /-- Acknowledgement of duplicates. -/
  | dupAck (count : Nat)
  /-- SMOVE: destination job, tower, format (true is binary16), snapshots held, the number of tiles of the state and of its snapshots, and a tag. -/
  | stateMove (job tower : Nat) (fmt16 : Bool) (snap tiles tag : Nat)
  /-- A part of its tile n: the tile's kind and poison, and the elements from `first` on; the kind of a tile that has none travels alone. -/
  | stateTile (n kind : Nat) (poison : Bool) (first : Nat) (elems : List Half) (tag : Nat)
  /-- Registration of an arrival key at the end of a PUSH: the receiver descriptor's address, the key, and the PUSH's tag. -/
  | arrival (desc : Nat) (key : Word) (tag : Nat)
  /-- Control: the sender's fabric number, and bytes that tell the device apart from every other (its serial number). -/
  | control (fabric : Nat) (device : List Byte)
deriving DecidableEq, Repr, Inhabited

namespace Config

/-- FREE VALUE (R76). Which value a read returns that crosses a landing point: true is the new value.
Arguments: the free-value counter and a code of the register. -/
opaque oldOrNew : Nat → Nat → Bool
/-- FREE VALUE (R438, R439, R441, R243, R226, R440, R366). Cycles by which an unpromised time exceeds its nominal figure. -/
opaque extra : Nat → Nat
/-- FREE VALUE. A choice among n alternatives that the spec leaves open (R204 replacement, R282 order of posted accesses, R272). -/
opaque pick : Nat → Nat → Nat
/-- FREE VALUE (R402). What a flit's payload bytes mean. -/
opaque flitPayload : List Byte → FlitPayload
/-- FREE VALUE (R402). The payload bytes of a flit that carries the given payload, 240 bytes used at most. -/
opaque flitBytes : FlitPayload → List Byte
/-- FREE VALUE (R408). The SHA-384 digest of the root's public key in the boot ROM. -/
opaque rootDigest : List Byte
/-- FREE VALUE (R408). The device identity's public key, derived from the physically unclonable circuit: 97 bytes. -/
opaque identityKey : List Byte
/-- FREE VALUE (R408, R409). The identity signature over 160 bytes. -/
opaque sign : List Byte → List Byte
/-- FREE VALUE (R400). Module input power in mW over the last millisecond. -/
opaque modulePower : Nat → Half
/-- FREE VALUE (R381). Firmware version word of a commit record. -/
opaque firmwareVersion : Word
/-- FREE VALUE (R404, R349). The value a remote load or atomic leaves when its port went down; SINFO of a TSET on key 0 whose Xb is pending. -/
opaque lostValue : Nat → Word
/-- FREE VALUE (R200). A byte of a peer's memory as an engine of this device reads it: counter and address. -/
opaque peerByte : Nat → Nat → Byte
/-- FREE VALUE (R219, R236). What the pager memory's check bits find as a state comes in: 1 a corrected error, 2 an uncorrectable one, else none. -/
opaque pagerError : Nat → Nat
/-- FREE VALUE (R339). The physical address of the state handle table, which firmware reserves. -/
opaque handleBase : Nat
/-- FREE VALUE (R217). Words of SRAM in which wrong bits arise in a cycle: the core, or 192 and the tower; the number of the SRAM; the word; whether
two bits are wrong. -/
opaque upsets : Nat → List (Nat × Nat × Nat × Bool)
/-- FREE VALUE (R217). SRAM words of a near array with an error: word number and whether two bits are wrong. -/
opaque sramErrors : Nat → List (Nat × Bool)
/-- FREE VALUE (R218). What the retention code finds at a bank's exit: 1 a corrected error, 2 an uncorrectable one, else none. -/
opaque retentionError : Nat → Nat
/-- FREE VALUE (R168, R195). A result whose enclosure the model's search did not decide; see the assumption log. -/
opaque undecided : Nat → Nat → Nat
/-- FREE VALUE (R410). The halves that a self-test at a warm start finds newly failing, one mask a tower. -/
opaque selfTest : Nat → List (BitVec 40)
/-- FREE VALUE (R410). Step 3 of attempt n of a warm start: none where the check sum of the saved results holds, else how the training turns out. -/
opaque warmTrain : Nat → Option Bool
/-- FREE VALUE (R379). Words of a checkpoint image, whose layout the spec does not give: number of the image and place; and its length in words. -/
opaque imageWord : Nat → Nat → Word
opaque imageLen : Nat → Nat

/-- R18. -/
def towers : Nat := 12
/-- R12. -/
def frontEnds : Nat := 16
/-- The period of gauges and slices in cycles (R350). -/
def period : Nat := 8192
/-- The rate window in cycles (R360). -/
def rateWindow : Nat := 536870912
/-- The recheck interval of a park without a wait-table entry (R333). -/
def recheck : Nat := 4096

end Config
end Sys2Proof
end

