-- ==== Sys2Proof/Syntax.lean ====
section
/-! DEFINITION. The syntax of the H12: one constructor for each row of the opcode table. The first 189 are the operations a
syllable encodes (R66); the others are the device's own steps, which have no encoding (file 95). `g` is the guard number, `d`, `a`,
`b` register numbers, `i` and `off` sign-extended immediates, `t`, `f`, `st` a tower, a front end and a strand. -/

namespace Sys2Proof

/-- Condition codes 0 to 13 (R67). -/
inductive Cond where
  | eq | ne | lt | ge | le | gt | ltu | geu | leu | gtu | bs | bc | un | or
deriving DecidableEq, Repr, Inhabited

/-- Pointer update codes 0 to 2 (R67); code 3 is illegal. -/
inductive Upd where
  | none | post | add
deriving DecidableEq, Repr, Inhabited

/-- Atomic operation codes 0 to 12 (R67). -/
inductive Aop where
  | add | and | or | xor | min | max | minu | maxu | swap | cas | fadd | fmin | fmax
deriving DecidableEq, Repr, Inhabited

/-- A host access: a write of bytes, or a read of so many. -/
inductive HostAccess where
  | write (bs : List Byte)
  | read (n : Nat)
deriving DecidableEq, Repr, Inhabited

/-- An operation of a syllable, or a step of the device. -/
inductive Instr where
  /-- R145. Writes Xa + Xb to Xd, modulo 2^64. -/
  | add (g d a b : Nat)
  /-- R145. Writes Xa − Xb to Xd. -/
  | sub (g d a b : Nat)
  /-- R145. Writes bitwise Xa AND Xb to Xd. -/
  | and_ (g d a b : Nat)
  /-- R145. Writes bitwise Xa OR Xb to Xd. -/
  | or_ (g d a b : Nat)
  /-- R145. Writes bitwise Xa XOR Xb to Xd. -/
  | xor (g d a b : Nat)
  /-- R145. Writes Xa AND NOT Xb to Xd. -/
  | andn (g d a b : Nat)
  /-- R145. Shifts Xa left by bits 5:0 of Xb. -/
  | shl (g d a b : Nat)
  /-- R145. Shifts Xa right logically by bits 5:0 of Xb. -/
  | shr (g d a b : Nat)
  /-- R145. Shifts Xa right arithmetically by bits 5:0 of Xb. -/
  | sra (g d a b : Nat)
  /-- R145. Rotates Xa left by bits 5:0 of Xb. -/
  | rot (g d a b : Nat)
  /-- R145. Writes the low 64 bits of Xa × Xb, latency 3. -/
  | mul (g d a b : Nat)
  /-- R145. Writes bits 127:64 of the signed product. -/
  | mulh (g d a b : Nat)
  /-- R145. Writes bits 127:64 of the unsigned product. -/
  | mulhu (g d a b : Nat)
  /-- R145. Writes the signed minimum of Xa and Xb. -/
  | min (g d a b : Nat)
  /-- R145. Writes the signed maximum of Xa and Xb. -/
  | max (g d a b : Nat)
  /-- R145. Writes the unsigned minimum of Xa and Xb. -/
  | minu (g d a b : Nat)
  /-- R145. Writes the unsigned maximum of Xa and Xb. -/
  | maxu (g d a b : Nat)
  /-- R145. Writes Xa if the lend-byte predicate is true, else Xb. -/
  | sel (g d a b k : Nat)
  /-- R145. Counts the leading zero bits of Xa. -/
  | clz (g d a : Nat)
  /-- R145. Counts the trailing zero bits of Xa. -/
  | ctz (g d a : Nat)
  /-- R145. Counts the set bits of Xa. -/
  | popc (g d a : Nat)
  /-- R145. Reverses the bit order of Xa. -/
  | brev (g d a : Nat)
  /-- R145. Sign-extends the low w bits of Xa. -/
  | sext (g d a w : Nat)
  /-- R145. Zero-extends the low w bits of Xa. -/
  | zext (g d a w : Nat)
  /-- R146. Signed division on XF with variable latency; Xd pending. -/
  | div (g d a b : Nat)
  /-- R146. Unsigned division on XF with variable latency. -/
  | divu (g d a b : Nat)
  /-- R146. Signed remainder on XF with variable latency. -/
  | rem (g d a b : Nat)
  /-- R146. Unsigned remainder on XF with variable latency. -/
  | remu (g d a b : Nat)
  /-- R147. Writes Xa plus a sign-extended immediate. -/
  | addi (g d a : Nat) (i : Int)
  /-- R147. Writes Xa AND the sign-extended immediate. -/
  | andi (g d a : Nat) (i : Int)
  /-- R147. Writes Xa OR the sign-extended immediate. -/
  | ori (g d a : Nat) (i : Int)
  /-- R147. Writes Xa XOR the sign-extended immediate. -/
  | xori (g d a : Nat) (i : Int)
  /-- R147. Shifts Xa left by an immediate amount. -/
  | shli (g d a s : Nat)
  /-- R147. Shifts Xa right logically by an immediate amount. -/
  | shri (g d a s : Nat)
  /-- R147. Shifts Xa right arithmetically by an immediate amount. -/
  | srai (g d a s : Nat)
  /-- R147. Writes the low 64 bits of Xa times the immediate. -/
  | muli (g d a : Nat) (i : Int)
  /-- R148. Writes a sign-extended 21-bit immediate to Xd. -/
  | movi (g d : Nat) (i : Int)
  /-- R148. Writes a 16-bit value into one halfword of Xd, zeroing the others. -/
  | movw (g d data h : Nat)
  /-- R147. Writes the signed minimum of Xa and the immediate. -/
  | mini (g d a : Nat) (i : Int)
  /-- R147. Writes the signed maximum of Xa and the immediate. -/
  | maxi (g d a : Nat) (i : Int)
  /-- R149. Compares Xa with Xb and writes a predicate pair. -/
  | cmp (g : Nat) (cc : Cond) (k a b : Nat)
  /-- R149. Compares Xa with an immediate and writes a predicate pair. -/
  | cmpi (g : Nat) (cc : Cond) (k a : Nat) (i : Int)
  /-- R150. Writes Pa AND Pb to Pd. -/
  | pand (g d a b : Nat)
  /-- R150. Writes Pa OR Pb to Pd. -/
  | por (g d a b : Nat)
  /-- R150. Writes Pa XOR Pb to Pd. -/
  | pxor (g d a b : Nat)
  /-- R150. Writes Pa AND NOT Pb to Pd. -/
  | pandn (g d a b : Nat)
  /-- R150. Writes NOT Pa to Pd. -/
  | pnot (g d a : Nat)
  /-- R150. Copies Pa to Pd. -/
  | pmov (g d a : Nat)
  /-- R151. Compares two F registers and writes a predicate pair, setting invalid as stated. -/
  | fcmp (g : Nat) (cc : Cond) (k a b : Nat)
  /-- R152. Branches to a bundle-relative target. -/
  | br (g : Nat) (off : Int)
  /-- R152. Branches to a bundle-relative target and writes the return address to Xd. -/
  | call (g d : Nat) (off : Int)
  /-- R152. Branches to the address in Xa. -/
  | brx (g a : Nat)
  /-- R152. Returns to the address in Xa, counted as a return. -/
  | ret (g a : Nat)
  /-- R154. Starts a zero-overhead loop with the count in Xc. -/
  | loop (lvl c e : Nat)
  /-- R154. Starts a zero-overhead loop with an immediate count. -/
  | loopi (lvl n e : Nat)
  /-- R156. Exits loop level lvl, clearing its count. -/
  | lbrk (g lvl : Nat)
  /-- R159. Floating add, rounded by IRM or by RRM in rational mode. -/
  | fadd (g d a b : Nat) (dbl : Bool)
  /-- R159. Floating subtract. -/
  | fsub (g d a b : Nat) (dbl : Bool)
  /-- R159. Floating multiply. -/
  | fmul (g d a b : Nat) (dbl : Bool)
  /-- R159. Fused multiply-add into Fd with one rounding. -/
  | ffma (g d a b : Nat) (dbl : Bool)
  /-- R164. Floating divide on XF with variable latency. -/
  | fdiv (g d a b : Nat) (dbl : Bool)
  /-- R164. Floating square root on XF with variable latency. -/
  | fsqrt (g d a : Nat) (dbl : Bool)
  /-- R160. Returns the smaller floating operand. -/
  | fmin (g d a b : Nat) (dbl : Bool)
  /-- R160. Returns the larger floating operand. -/
  | fmax (g d a b : Nat) (dbl : Bool)
  /-- R161. Clears the sign of Fa. -/
  | fabs (g d a : Nat) (dbl : Bool)
  /-- R161. Inverts the sign of Fa. -/
  | fneg (g d a : Nat) (dbl : Bool)
  /-- R163. Converts between floating, integer and FS64 types. -/
  | fcvt (g d a src dst : Nat)
  /-- R162. Writes the class mask of Fa to Xd. -/
  | fclass (g d a : Nat) (dbl : Bool)
  /-- R161. Copies Fa to Fd unchanged. -/
  | fmov (g d a : Nat) (dbl : Bool)
  /-- R166. Writes the signed FS64 numerator of Fa to Xd. -/
  | fnum (g d a : Nat) (dbl : Bool)
  /-- R166. Writes the FS64 denominator of Fa to Xd. -/
  | fden (g d a : Nat) (dbl : Bool)
  /-- R167. Writes the FS64 value of Xa ÷ Xb, rounded by RRM. -/
  | fmake (g d a b : Nat) (dbl : Bool)
  /-- R168. Rounds Fa onto fractions with denominators at most Xb. -/
  | frnd (g d a b : Nat) (dbl : Bool)
  /-- R249. Writes Aa + Xb to Ad. -/
  | aadd (g d a b : Nat)
  /-- R249. Writes Xa to Ad. -/
  | aset (g d a : Nat)
  /-- R249. Writes the control and base words of AMd after checking the control word. -/
  | amset (g d a b : Nat)
  /-- R169. Reads a strand or core register by number. -/
  | sysrd (g d n : Nat)
  /-- R169. Writes a strand or core register by number at the end of its issue cycle. -/
  | syswr (g d n : Nat)
  /-- R170. Takes the software trap with the given code. -/
  | trap (g n : Nat)
  /-- R171. Returns from a handler to SEPC and clears TH. -/
  | eret (g : Nat)
  /-- R172. Compares two registers and raises the mirror cause on a difference. -/
  | cmpt (g f a b : Nat)
  /-- R173. Does nothing. -/
  | nop (g : Nat)
  /-- R174. Ends the strand and seals its current row. -/
  | exit (g : Nat)
  /-- R353. Reads a counter or snapshot value into Xd. -/
  | cntrd (g d n : Nat)
  /-- R353. Reads a counter and CYC into a register pair. -/
  | cntrdc (g d n : Nat)
  /-- R354. Copies the readable counters into the strand's snapshot. -/
  | cntsnap (g : Nat)
  /-- R337. Drops translation-cache entries of the job across the device. -/
  | xlinv (g a b : Nat)
  /-- R252. Loads one byte zero-extended. -/
  | ldB (g oc p d : Nat) (u : Upd) (f : Int)
  /-- R252. Loads two bytes zero-extended. -/
  | ldH (g oc p d : Nat) (u : Upd) (f : Int)
  /-- R252. Loads four bytes zero-extended. -/
  | ldW (g oc p d : Nat) (u : Upd) (f : Int)
  /-- R252. Loads eight bytes. -/
  | ldD (g oc p d : Nat) (u : Upd) (f : Int)
  /-- R253. Stores one byte via the row buffer or store queue by class. -/
  | stB (g oc p d : Nat) (u : Upd) (f : Int)
  /-- R253. Stores two bytes. -/
  | stH (g oc p d : Nat) (u : Upd) (f : Int)
  /-- R253. Stores four bytes. -/
  | stW (g oc p d : Nat) (u : Upd) (f : Int)
  /-- R253. Stores eight bytes. -/
  | stD (g oc p d : Nat) (u : Upd) (f : Int)
  /-- R254. Loads one accumulator row, converting from a bank format. -/
  | vld (g oc p d : Nat) (u : Upd) (f : Int)
  /-- R254. Stores one accumulator row, converting into a bank format. -/
  | vst (g oc p d : Nat) (u : Upd) (f : Int)
  /-- R255. Loads one element per lane at descriptor-walked addresses. -/
  | vlds (g oc p d : Nat) (u : Upd) (f : Int)
  /-- R255. Stores one element per lane at descriptor-walked addresses. -/
  | vsts (g oc p d : Nat) (u : Upd) (f : Int)
  /-- R252. Loads 4 or 8 bytes into an F register. -/
  | ldf (g oc p : Nat) (dbl : Bool) (d : Nat) (u : Upd) (f : Int)
  /-- R252. Stores 4 or 8 bytes of an F register. -/
  | stf (g oc p : Nat) (dbl : Bool) (d : Nat) (u : Upd) (f : Int)
  /-- R257. Loads a doubleword through the constant path. -/
  | ldk (g p d : Nat) (u : Upd) (f : Int)
  /-- R327. Writes the slot of the tag entry matching Xa. -/
  | tlook (g d a : Nat)
  /-- R327. Makes a tag entry valid for key Xa with slot Xb. -/
  | tset (g a b : Nat)
  /-- R327. Invalidates the tag entry for key Xa. -/
  | tclr (g a : Nat)
  /-- R327. Invalidates every tag entry. -/
  | tinv (g : Nat)
  /-- R259. Performs an atomic read-modify-write and returns the old value. -/
  | amo (g oc p d s : Nat) (op : Aop) (dbl : Bool)
  /-- R260. Posts an atomic reduction without returning a value. -/
  | red (g oc p s : Nat) (op : Aop) (dbl : Bool)
  /-- R263. Orders the named classes' accesses at a scope. -/
  | fence (g m sc : Nat)
  /-- R264. Waits for the partner's acknowledgement of earlier DUP writes. -/
  | fenceD (g : Nat)
  /-- R265. Seals the strand's current row. -/
  | row (g : Nat)
  /-- R266. Arms the strand's watch on a line and snapshots it. -/
  | watch (g p : Nat) (u : Upd) (f : Int)
  /-- R267. Parks until the armed watch triggers. -/
  | waitw (g : Nat)
  /-- R258. Moves the strand's constant-path begin point. -/
  | kinv (g : Nat)
  /-- R181. Lanewise add. -/
  | vadd (g d a b : Nat)
  /-- R181. Lanewise subtract. -/
  | vsub (g d a b : Nat)
  /-- R181. Lanewise multiply. -/
  | vmul (g d a b : Nat)
  /-- R181. Lanewise fused multiply-add into Vd. -/
  | vfma (g d a b : Nat)
  /-- R181. Lanewise minimum. -/
  | vmin (g d a b : Nat)
  /-- R181. Lanewise maximum. -/
  | vmax (g d a b : Nat)
  /-- R181. Lanewise absolute value. -/
  | vabs (g d a : Nat)
  /-- R181. Lanewise negation. -/
  | vneg (g d a : Nat)
  /-- R182. Lanewise bitwise AND. -/
  | vand (g d a b : Nat)
  /-- R182. Lanewise bitwise OR. -/
  | vor (g d a b : Nat)
  /-- R182. Lanewise bitwise XOR. -/
  | vxor (g d a b : Nat)
  /-- R182. Lanewise bitwise NOT. -/
  | vnot (g d a : Nat)
  /-- R182. Lanewise left shift by lane amounts. -/
  | vshl (g d a b : Nat)
  /-- R182. Lanewise logical right shift. -/
  | vshr (g d a b : Nat)
  /-- R182. Lanewise arithmetic right shift. -/
  | vsra (g d a b : Nat)
  /-- R186. Selects lanes of Va or Vb by a lane predicate. -/
  | vsel (g d a b k : Nat)
  /-- R192. Packed 8-bit dot product accumulated with one saturation. -/
  | vdot4 (g d a b : Nat) (au bu : Bool)
  /-- R194. One compare-exchange stage of a sorting network. -/
  | vcmx (g d a b : Nat)
  /-- R185. Lanewise compare into a lane-predicate pair. -/
  | vcmp (g : Nat) (cc : Cond) (k a b : Nat)
  /-- R187. Gathers lanes of Va by an index row. -/
  | vshuf (g d a b : Nat)
  /-- R187. Rotates lanes toward lane 0 by n. -/
  | vrot (g d a n : Nat)
  /-- R189. Converts elements between format codes. -/
  | vcvt (g d a src dst : Nat) (sat : Bool)
  /-- R191. Narrows two rows into one. -/
  | vpack (g d a b mode : Nat) (sat : Bool)
  /-- R191. Widens half of one row. -/
  | vunpk (g d a mode : Nat) (hi : Bool)
  /-- R193. Sums guarded lanes by a fixed tree into lane 0. -/
  | vreds (g d a : Nat)
  /-- R193. Takes the max or min of guarded lanes into lane 0. -/
  | vredm (g d a : Nat) (mn : Bool)
  /-- R184. Writes each lane's index. -/
  | vidx (g d : Nat)
  /-- R187. Broadcasts the low bits of Xa to every lane. -/
  | vbcast (g d a : Nat)
  /-- R188. Extracts one lane into an X register. -/
  | vext (g d a idx : Nat)
  /-- R187. Inserts the low bits of Xa into one lane. -/
  | vins (g d a idx : Nat)
  /-- R182. Shifts every lane left by an immediate. -/
  | vshli (g d a s : Nat)
  /-- R182. Shifts every lane right logically by an immediate. -/
  | vshri (g d a s : Nat)
  /-- R182. Shifts every lane right arithmetically by an immediate. -/
  | vsrai (g d a s : Nat)
  /-- R183. Adds an immediate to every lane. -/
  | vaddi (g d a : Nat) (i : Int)
  /-- R183. Writes an immediate into every lane. -/
  | vmovi (g d : Nat) (i : Int)
  /-- R195. Correctly rounded e^x per lane. -/
  | vexp (g d a : Nat)
  /-- R195. Correctly rounded ln x per lane. -/
  | vlog (g d a : Nat)
  /-- R195. Correctly rounded reciprocal per lane. -/
  | vrcp (g d a : Nat)
  /-- R195. Correctly rounded reciprocal square root per lane. -/
  | vrsq (g d a : Nat)
  /-- R195. Correctly rounded tanh per lane. -/
  | vtanh (g d a : Nat)
  /-- R195. Correctly rounded logistic sigmoid per lane. -/
  | vsig (g d a : Nat)
  /-- R195. Correctly rounded sine per lane. -/
  | vsin (g d a : Nat)
  /-- R195. Correctly rounded cosine per lane. -/
  | vcos (g d a : Nat)
  /-- R195. Correctly rounded error function per lane. -/
  | verf (g d a : Nat)
  /-- R222. Queues a weight stream of T tiles on engine 0. -/
  | wstr (g f a b : Nat) (acq : Bool) (sc : Nat)
  /-- R224. Claims the oldest FIFO tile and loads it into the shadow plane. -/
  | wld (g : Nat)
  /-- R226. Loads the shadow plane's E8 scales. -/
  | wscl (g a : Nat) (acq : Bool) (sc : Nat)
  /-- R227. Exchanges the active and shadow planes. -/
  | wswap (g : Nat)
  /-- R228. Multiplies activation rows by the active plane into accumulator rows. -/
  | mma (g d a n : Nat) (zs : Bool)
  /-- R232. Scales and converts accumulator rows into scratchpad on engine 2. -/
  | mrd (g d a b n : Nat)
  /-- R233. Sets SCFG.ACCT. -/
  | acfg (g f : Nat)
  /-- R238. Reads a state tile through the shadow plane into output rows. -/
  | fwdRead (g d a b c : Nat)
  /-- R239. Reads, fades and applies delta-rule steps to a state tile. -/
  | fwdDelta (g d a b c : Nat)
  /-- R240. Reads, fades and applies outer-product updates to a state tile. -/
  | fwdOuter (g d a b c : Nat)
  /-- R241. Applies c fused rank-1 updates to a state tile on engine 3. -/
  | opu (g d a b c : Nat)
  /-- R343. Creates a new state handle or forks an existing one. -/
  | sfork (g d a b : Nat)
  /-- R344. Takes snapshot n of a handle's tile words. -/
  | ssnap (g a b : Nat)
  /-- R344. Rolls a handle back to snapshot n. -/
  | sroll (g a b : Nat)
  /-- R345. Writes a weighted sum of two states into a third. -/
  | savg (g d a b w : Nat) (fs : Bool)
  /-- R346. Releases a handle, its tiles and snapshots. -/
  | sfree (g a : Nat)
  /-- R347. Moves a state and its snapshots to another tower or device. -/
  | smove (g d a b : Nat)
  /-- R348. Writes a handle's status word. -/
  | sqry (g d a : Nat)
  /-- R297. Blocks until the strand's commands on the named engines complete. -/
  | ewait (g m : Nat)
  /-- R298. Writes the strand's count and error word for one engine. -/
  | epoll (g d e : Nat)
  /-- R309. Submits a task record to a pool. -/
  | tsub (g a : Nat)
  /-- R315. Retires the current task, or offers the strand for work, and parks for the next. -/
  | tdone (g : Nat)
  /-- R305. Places a child launch in the pending-launch pool. -/
  | launch (g d a : Nat)
  /-- R306. Waits for a child launch to complete. -/
  | ljoin (g a : Nat)
  /-- R307. Initialises a range counter or takes a chunk from it. -/
  | range (g d a b : Nat)
  /-- R300. Arrives at the gang barrier and gives up the slot. -/
  | gbar (g : Nat)
  /-- R300. Gives up the issue slot and stays ready. -/
  | yield_ (g : Nat)
  /-- R299. Writes the occupancy of a selected queue. -/
  | qcnt (g d a : Nat)
  /-- R317. Passes a prefetch, evict, keep or release hint to the pager. -/
  | spage (g a b : Nat)
  /-- R269. Passes a copy descriptor to engine 4. -/
  | cpy (g a : Nat)
  /-- R274. Passes sender and receiver descriptors to engine 5. -/
  | push (g a b : Nat)
  /-- R71. A fixed-latency result lands in its register at the end of its cycle. -/
  | resultLanding (t f st : Nat)
  /-- R73. A variable-latency result lands and clears its pending mark. -/
  | pendingResultLands (t f st : Nat)
  /-- R366. The shade context completes a miss service and the freeze ends. -/
  | shadeMissService (t f : Nat)
  /-- R133. After results land, the strand enters its handler with SEPC, SCAUSE and SINFO set. -/
  | trapEntry (t f st code detail syl : Nat) (sinfo : Word)
  /-- R368. After the condition clears, a recovered cause rewinds the strand to its restart point. -/
  | recoveryRewind (t f st : Nat)
  /-- R372. The gang stops, its state is saved, its launch is halted and event 7 is posted. -/
  | gangFailure (gang gsi reason : Nat)
  /-- R37. The placer places a gang whole on free cores and starts its strands. -/
  | gangPlacement (t : Nat)
  /-- R374. A gang is diverted or rewound, its commands complete, and its state is saved. -/
  | preemption (gang : Nat)
  /-- R49. A pre-empted gang is restored whole on free cores of its shape. -/
  | gangReturn (gang : Nat)
  /-- R38. The gang barrier completes once rows drain and accesses are performed. -/
  | gbarCompletion (gang : Nat)
  /-- R285. The sealed lines of an advanced row drain in gang strand-index order. -/
  | rowDrain (gang : Nat)
  /-- R39. After the last row drains, scratchpad is discarded, L1 written back and cores freed. -/
  | gangRetirement (gang : Nat)
  /-- R50. A gang's waiting sum exceeds its budget and it is pre-empted with event type 3. -/
  | waitBudgetPreemption (gang : Nat)
  /-- R51. A throughput job's deadline counter passes its deadline and the job is halted. -/
  | deadlineHalt (job : Nat)
  /-- R357. At each 8,192-cycle period start the gauges carry over overshoot and admit waiting requests. -/
  | periodStart
  /-- R359. A new slice begins and every gang's WSUM is reset. -/
  | sliceStart (job : Nat)
  /-- R360. A new error-rate window begins and windowed counts reset. -/
  | rateWindowStart
  /-- R223. The decompressor checks a weight block and writes it into the FIFO once room exists. -/
  | decompressBlock (t f : Nat)
  /-- R224. A WLD finishes loading its tile into the shadow plane. -/
  | planeLoadComplete (t f : Nat)
  /-- R226. A WSCL finishes and sets the scale-resident bit. -/
  | scaleLoadComplete (t f : Nat)
  /-- R227. The plane exchange takes effect once earlier MMA passes and FWD reads are done. -/
  | wswapEffect (t f : Nat)
  /-- R232. Engine 2 completes an MRD's scratchpad writes. -/
  | mrdComplete (t f : Nat)
  /-- R221. Engine 3 completes a state write and posts its completion. -/
  | stateEngineComplete (t f : Nat)
  /-- R242. A shared tile's copy on write finishes and the writer proceeds on the copy. -/
  | copyOnWriteComplete (t f : Nat)
  /-- R275. A CPY finishes and posts its completion word. -/
  | copyComplete (t f : Nat)
  /-- R274. A PUSH's elements are performed, its key is registered and its completion posted. -/
  | pushComplete (t f : Nat)
  /-- R331. An arrival key is registered in the arrival table and waiting records wake. -/
  | arrivalRegistration (t job : Nat) (key : Word)
  /-- R318. The state pager takes the next absent-state fault or hint and starts a move. -/
  | pagerServe (t : Nat)
  /-- R236. A state becomes resident and parked strands become ready. -/
  | pageInComplete (t : Nat)
  /-- R318. A state finishes paging out and becomes absent. -/
  | pageOutComplete (t : Nat)
  /-- R347. An SMOVE finishes writing, frees the source and lands the new handle. -/
  | stateMoveComplete (t f st : Nat)
  /-- R218. An idle state SRAM bank enters low-voltage retention. -/
  | retentionEntry (t slab bank : Nat)
  /-- R218. A bank leaves retention, restoring SECDED, and waiting accesses proceed. -/
  | retentionExit (t slab bank : Nat)
  /-- R313. The dispatcher assigns one ready record to a core, pushing it into Q7 and a staging slot. -/
  | taskDispatch (t : Nat)
  /-- R314. A staged task starts on a task strand parked in TDONE. -/
  | taskStart (t f : Nat)
  /-- R310. One record moves from the spill ring head to the queue tail. -/
  | ringRefill (t pool : Nat)
  /-- R261. A posted write, atomic or reduction performs at its coherence point. -/
  | postedWritePerform (t f k : Nat)
  /-- R263. A FENCE's actions end and held later accesses proceed. -/
  | fenceActionsComplete (t f st : Nat)
  /-- R337. Every tower acknowledges an XLINV drop and the strand's freeze ends. -/
  | translationDropAck (t f st : Nat)
  /-- R333. A park without a wait-table entry is rechecked every 4,096 cycles. -/
  | waitRecheck (t f st : Nat)
  /-- R213. The hot-page tracker proposes migrating a page to a using tower. -/
  | hotPageProposal (t user job : Nat) (va frame : Word)
  /-- R214. A migration freezes writes to the page and drains its write queue. -/
  | migrationFreeze (t k : Nat)
  /-- R214. The page copy ends; the entry is remapped and caches invalidated. -/
  | migrationCopyComplete (t k : Nat)
  /-- R303. A host 64-byte write appends a launch record to a launch queue. -/
  | launchRecordSubmit (fn t q : Nat) (rec : List Word)
  /-- R303. A host 64-byte write submits a task record to a pool. -/
  | taskRecordSubmit (fn t pool : Nat) (rec : List Word)
  /-- R396. A host write to EQCFG; setting EN resets head and tail. -/
  | eqcfgWrite (fn : Nat) (v : Half)
  /-- R397. A host write to EQHEAD frees queue room, or is ignored if out of range. -/
  | eqheadWrite (fn : Nat) (v : Half)
  /-- R395. A host write to a BAR0 register with no behaviour of its own. -/
  | registerWrite (fn off : Nat) (a : HostAccess)
  /-- R397. Held events are written to the host event queue when room exists. -/
  | heldEventDelivery (fn : Nat)
  /-- R397. An MSI-X message is sent, at most once per 4,096 cycles per function. -/
  | msixMessage (fn : Nat)
  /-- R399. Mailbox command that creates a job and binds its function. -/
  | create (addr : Word)
  /-- R399. Mailbox command that ends a job, forced or not. -/
  | close (arg : Word)
  /-- R410. Mailbox command that performs a warm start. -/
  | warm (keep : Word) (gmask : List Byte)
  /-- R409. Mailbox command that writes a signed attestation report. -/
  | attest (nonce dest : Word)
  /-- R380. Mailbox command that requests a checkpoint. -/
  | checkpoint
  /-- R382. Mailbox command that creates a job and restores its last committed checkpoint. -/
  | restore (addr : Word)
  /-- R400. Mailbox command that writes a device parameter. -/
  | param (num tower value : Word)
  /-- R400. Mailbox command that returns module power and hottest sensor. -/
  | power
  /-- R380. One job is pre-empted, imaged, committed and resumed, posting event type 9. -/
  | jobCheckpoint (job : Nat)
  /-- R398. A host read or write through BAR2 performs at the home Umbra cache. -/
  | hostApertureAccess (off : Nat) (a : HostAccess)
  /-- R384. A stack reports a corrected or uncorrectable burst, logged and counted. -/
  | hbmArrayError (t : Nat) (unc : Bool) (loc addr : Word) (syms : Nat)
  /-- R385. A burst that failed parity is retried 16 cycles later. -/
  | hbmParityRetry (t stack pc lane tries : Nat) (wr : Bool) (addr : Word) (mism : Half) (ok : Bool)
  /-- R386. After a lane test, a failing lane is swapped to a spare and event 11 posted. -/
  | laneSwap (t stack pc lane tries : Nat) (wr : Bool) (addr : Word) (mism : Half)
  /-- R402. A Warath flit is received, checked and delivered or NAKed. -/
  | flitReceive (port : Nat) (raw : List Byte)
  /-- R404. A port retrains after 8 replays of one flit. -/
  | linkRetrain (port : Nat) (ok : Bool)
  /-- R407. A UCIe mesh link fails and is retrained, or all jobs halt. -/
  | meshLinkFailure (a b : Nat) (ok : Bool)
  /-- R393. The management controller reads the temperature sensors every 1 ms. -/
  | sensorRead (deci : Int) (t die : Nat)
  /-- R393. Power is removed after the halts or 10 ms, and START reads failed. -/
  | powerRemoval
  /-- R410. The start sequence runs from power-on to START ready. -/
  | coldStart (cfg : ConfigRecord)
  /-- R218. A bank's 2,048-cycle entry into retention ends, and any access that waited on it starts the exit. -/
  | retentionEntryEnd (t slab bank : Nat)
  /-- R246. The pager's moves of a returning gang's state tiles into the paired new slabs end, tile words are rewritten, RES leaves 2 and the gang's strands may issue. -/
  | returnTileMovesComplete (gang : Nat)
deriving DecidableEq, Repr, Inhabited

end Sys2Proof
end

