-- ==== Sys2Proof/WellFormed.lean ====
section
/-! DEFINITION. Which operations are well formed: every field within its width and naming a register of its file, every code one that
the map lists (R65 to R69, R179, R220, R248, R295, R326, R341, R352), and the coordinates of a step within the device. -/

namespace Sys2Proof

/-- i fits the n-bit two's complement range. -/
def fits (n : Nat) (i : Int) : Bool := decide (-(2 ^ (n - 1) : Nat) ≤ i) && decide (i < (2 ^ (n - 1) : Nat))

/-- An element format code that is not reserved (R96). -/
def fmtListed (c : Nat) : Bool := c < 28 || (32 ≤ c && c ≤ 34) || (36 ≤ c && c ≤ 42)

/-- A format that VCVT takes (R189). -/
def vcvtFmt (c : Nat) : Bool := fmtListed c && c != 34

/-- A plane format that WSTR takes (R222). -/
def planeFmt (c : Nat) : Bool := c < 28 || c == 32 || c == 36 || c == 37

/-- An accumulator type code (R131, R233). -/
def acctCode (c : Nat) : Bool := c == 32 || c == 33 || c == 38 || c == 40

/-- A register number that SYSRD and SYSWR name (R136). -/
def sysNumber (n : Nat) : Bool :=
  n ≤ 6 || (0x10 ≤ n && n ≤ 0x1B) || (0x30 ≤ n && n ≤ 0x5F) || (0x100 ≤ n && n ≤ 0x120)

/-- A counter number of the table of R350. -/
def cntDirect (n : Nat) : Bool :=
  n ≤ 9 || (0x10 ≤ n && n ≤ 0x1F) || (0x100 ≤ n && n ≤ 0x10B) || (0x110 ≤ n && n ≤ 0x115) || (0x118 ≤ n && n ≤ 0x11D)
    || (0x120 ≤ n && n ≤ 0x127) || (0x130 ≤ n && n ≤ 0x137) || (0x200 ≤ n && n ≤ 0x205) || n == 0xFFF

/-- A number that the counter instructions name, directly or with bit 11 set (R353). -/
def cntNumber (n : Nat) : Bool := cntDirect n || (n ≥ 0x800 && n < 0xFFF && cntDirect (n - 0x800))

/-- Conditions that apply to integers (R68). -/
def Cond.forInt : Cond → Bool
  | .un | .or => false
  | .eq | .ne | .lt | .ge | .le | .gt | .ltu | .geu | .leu | .gtu | .bs | .bc => true

/-- Conditions that apply to floating values (R68). -/
def Cond.forFloat : Cond → Bool
  | .ltu | .geu | .leu | .gtu | .bs | .bc => false
  | .eq | .ne | .lt | .ge | .le | .gt | .un | .or => true

/-- Towers a and b are horizontal or vertical neighbours of the mesh, and so have a link (R18). -/
def meshLink (a b : Nat) : Bool :=
  a < 12 && b < 12 && ((a / 4 == b / 4 && (a % 4 == b % 4 + 1 || b % 4 == a % 4 + 1)) || (a % 4 == b % 4 && (a / 4 == b / 4 + 1 || b / 4 == a / 4 + 1)))

/-- A front end and a tower of the device (R12, R18). -/
def coreOk (t f : Nat) : Bool := t < 12 && f < 16
/-- A strand of the device. -/
def strandOk (t f st : Nat) : Bool := coreOk t f && st < 4

namespace Instr

/-- The check of one operation or step. -/
def wf : Instr → Bool
  | .add g d a b => g < 16 && d < 64 && a < 64 && b < 64
  | .sub g d a b => g < 16 && d < 64 && a < 64 && b < 64
  | .and_ g d a b => g < 16 && d < 64 && a < 64 && b < 64
  | .or_ g d a b => g < 16 && d < 64 && a < 64 && b < 64
  | .xor g d a b => g < 16 && d < 64 && a < 64 && b < 64
  | .andn g d a b => g < 16 && d < 64 && a < 64 && b < 64
  | .shl g d a b => g < 16 && d < 64 && a < 64 && b < 64
  | .shr g d a b => g < 16 && d < 64 && a < 64 && b < 64
  | .sra g d a b => g < 16 && d < 64 && a < 64 && b < 64
  | .rot g d a b => g < 16 && d < 64 && a < 64 && b < 64
  | .mul g d a b => g < 16 && d < 64 && a < 64 && b < 64
  | .mulh g d a b => g < 16 && d < 64 && a < 64 && b < 64
  | .mulhu g d a b => g < 16 && d < 64 && a < 64 && b < 64
  | .min g d a b => g < 16 && d < 64 && a < 64 && b < 64
  | .max g d a b => g < 16 && d < 64 && a < 64 && b < 64
  | .minu g d a b => g < 16 && d < 64 && a < 64 && b < 64
  | .maxu g d a b => g < 16 && d < 64 && a < 64 && b < 64
  | .sel g d a b k => g < 16 && d < 64 && a < 64 && b < 64 && k < 16
  | .clz g d a => g < 16 && d < 64 && a < 64
  | .ctz g d a => g < 16 && d < 64 && a < 64
  | .popc g d a => g < 16 && d < 64 && a < 64
  | .brev g d a => g < 16 && d < 64 && a < 64
  | .sext g d a w => g < 16 && d < 64 && a < 64 && w < 64
  | .zext g d a w => g < 16 && d < 64 && a < 64 && w < 64
  | .div g d a b => g < 16 && d < 64 && a < 64 && b < 64
  | .divu g d a b => g < 16 && d < 64 && a < 64 && b < 64
  | .rem g d a b => g < 16 && d < 64 && a < 64 && b < 64
  | .remu g d a b => g < 16 && d < 64 && a < 64 && b < 64
  | .addi g d a i => g < 16 && d < 64 && a < 64 && fits 15 i
  | .andi g d a i => g < 16 && d < 64 && a < 64 && fits 15 i
  | .ori g d a i => g < 16 && d < 64 && a < 64 && fits 15 i
  | .xori g d a i => g < 16 && d < 64 && a < 64 && fits 15 i
  | .shli g d a s => g < 16 && d < 64 && a < 64 && s < 64
  | .shri g d a s => g < 16 && d < 64 && a < 64 && s < 64
  | .srai g d a s => g < 16 && d < 64 && a < 64 && s < 64
  | .muli g d a i => g < 16 && d < 64 && a < 64 && fits 15 i
  | .movi g d i => g < 16 && d < 64 && fits 21 i
  | .movw g d data h => g < 16 && d < 64 && data < 65536 && h < 4
  | .mini g d a i => g < 16 && d < 64 && a < 64 && fits 15 i
  | .maxi g d a i => g < 16 && d < 64 && a < 64 && fits 15 i
  | .cmp g cc k a b => g < 16 && k < 8 && a < 64 && b < 64 && cc.forInt
  | .cmpi g cc k a i => g < 16 && k < 8 && a < 64 && fits 15 i && cc.forInt
  | .pand g d a b => g < 16 && d < 16 && a < 16 && b < 16
  | .por g d a b => g < 16 && d < 16 && a < 16 && b < 16
  | .pxor g d a b => g < 16 && d < 16 && a < 16 && b < 16
  | .pandn g d a b => g < 16 && d < 16 && a < 16 && b < 16
  | .pnot g d a => g < 16 && d < 16 && a < 16
  | .pmov g d a => g < 16 && d < 16 && a < 16
  | .fcmp g cc k a b => g < 16 && k < 8 && a < 32 && b < 32 && cc.forFloat
  | .br g off => g < 16 && fits 28 off
  | .call g d off => g < 16 && d < 64 && fits 22 off
  | .brx g a => g < 16 && a < 64
  | .ret g a => g < 16 && a < 64
  | .loop lvl c e => lvl < 4 && c < 64 && e < 1048576 && 1 ≤ e
  | .loopi lvl n e => lvl < 4 && n < 16384 && e < 4096 && 1 ≤ e
  | .lbrk g lvl => g < 16 && lvl < 4
  | .fadd g d a b _ => g < 16 && d < 32 && a < 32 && b < 32
  | .fsub g d a b _ => g < 16 && d < 32 && a < 32 && b < 32
  | .fmul g d a b _ => g < 16 && d < 32 && a < 32 && b < 32
  | .ffma g d a b _ => g < 16 && d < 32 && a < 32 && b < 32
  | .fdiv g d a b _ => g < 16 && d < 32 && a < 32 && b < 32
  | .fsqrt g d a _ => g < 16 && d < 32 && a < 32
  | .fmin g d a b _ => g < 16 && d < 32 && a < 32 && b < 32
  | .fmax g d a b _ => g < 16 && d < 32 && a < 32 && b < 32
  | .fabs g d a _ => g < 16 && d < 32 && a < 32
  | .fneg g d a _ => g < 16 && d < 32 && a < 32
  | .fcvt g d a src dst => g < 16 && src < 7 && dst < 7 && src != dst && d < (if 2 ≤ dst && dst ≤ 5 then 64 else 32) && a < (if 2 ≤ src && src ≤ 5 then 64 else 32)
  | .fclass g d a _ => g < 16 && d < 64 && a < 32
  | .fmov g d a _ => g < 16 && d < 32 && a < 32
  | .fnum g d a _ => g < 16 && d < 64 && a < 32
  | .fden g d a _ => g < 16 && d < 64 && a < 32
  | .fmake g d a b _ => g < 16 && d < 32 && a < 64 && b < 64
  | .frnd g d a b _ => g < 16 && d < 32 && a < 32 && b < 64
  | .aadd g d a b => g < 16 && d < 16 && a < 16 && b < 64
  | .aset g d a => g < 16 && d < 16 && a < 64
  | .amset g d a b => g < 16 && d < 16 && a < 64 && b < 64
  | .sysrd g d n => g < 16 && d < 64 && n < 4096 && sysNumber n
  | .syswr g d n => g < 16 && d < 64 && n < 4096 && sysNumber n
  | .trap g n => g < 16 && n < 256
  | .eret g => g < 16
  | .cmpt g f a b => g < 16 && f < 64 && a < 64 && b < 64 && f < 3 && (f != 1 || (a < 32 && b < 32))
  | .nop g => g < 16
  | .exit g => g < 16
  | .cntrd g d n => g < 16 && d < 64 && n < 4096 && cntNumber n
  | .cntrdc g d n => g < 16 && d < 64 && n < 4096 && cntNumber n && d % 2 == 0 && d ≤ 54
  | .cntsnap g => g < 16
  | .xlinv g a b => g < 16 && a < 64 && b < 64
  | .ldB g oc p d _ f => g < 16 && oc < 16 && p < 16 && d < 64 && fits 12 f
  | .ldH g oc p d _ f => g < 16 && oc < 16 && p < 16 && d < 64 && fits 12 f
  | .ldW g oc p d _ f => g < 16 && oc < 16 && p < 16 && d < 64 && fits 12 f
  | .ldD g oc p d _ f => g < 16 && oc < 16 && p < 16 && d < 64 && fits 12 f
  | .stB g oc p d _ f => g < 16 && oc < 16 && p < 16 && d < 64 && fits 12 f
  | .stH g oc p d _ f => g < 16 && oc < 16 && p < 16 && d < 64 && fits 12 f
  | .stW g oc p d _ f => g < 16 && oc < 16 && p < 16 && d < 64 && fits 12 f
  | .stD g oc p d _ f => g < 16 && oc < 16 && p < 16 && d < 64 && fits 12 f
  | .vld g oc p d _ f => g < 16 && oc < 16 && p < 16 && d < 64 && fits 12 f
  | .vst g oc p d _ f => g < 16 && oc < 16 && p < 16 && d < 64 && fits 12 f
  | .vlds g oc p d _ f => g < 16 && oc < 16 && p < 16 && d < 64 && fits 12 f
  | .vsts g oc p d _ f => g < 16 && oc < 16 && p < 16 && d < 64 && fits 12 f
  | .ldf g oc p _ d _ f => g < 16 && oc < 16 && p < 16 && d < 32 && fits 12 f
  | .stf g oc p _ d _ f => g < 16 && oc < 16 && p < 16 && d < 32 && fits 12 f
  | .ldk g p d _ f => g < 16 && p < 16 && d < 64 && fits 12 f
  | .tlook g d a => g < 16 && d < 64 && a < 64
  | .tset g a b => g < 16 && a < 64 && b < 64
  | .tclr g a => g < 16 && a < 64
  | .tinv g => g < 16
  | .amo g oc p d s _ _ => g < 16 && oc < 16 && p < 16 && d < 64 && s < 64 && 1 ≤ oc
  | .red g oc p s op _ => g < 16 && oc < 16 && p < 16 && s < 64 && 1 ≤ oc && op != .swap && op != .cas
  | .fence g m sc => g < 16 && m < 65536 && sc < 8 && 1 ≤ m && sc < 6
  | .fenceD g => g < 16
  | .row g => g < 16
  | .watch g p _ f => g < 16 && p < 16 && fits 12 f
  | .waitw g => g < 16
  | .kinv g => g < 16
  | .vadd g d a b => g < 16 && d < 64 && a < 64 && b < 64
  | .vsub g d a b => g < 16 && d < 64 && a < 64 && b < 64
  | .vmul g d a b => g < 16 && d < 64 && a < 64 && b < 64
  | .vfma g d a b => g < 16 && d < 64 && a < 64 && b < 64
  | .vmin g d a b => g < 16 && d < 64 && a < 64 && b < 64
  | .vmax g d a b => g < 16 && d < 64 && a < 64 && b < 64
  | .vabs g d a => g < 16 && d < 64 && a < 64
  | .vneg g d a => g < 16 && d < 64 && a < 64
  | .vand g d a b => g < 16 && d < 64 && a < 64 && b < 64
  | .vor g d a b => g < 16 && d < 64 && a < 64 && b < 64
  | .vxor g d a b => g < 16 && d < 64 && a < 64 && b < 64
  | .vnot g d a => g < 16 && d < 64 && a < 64
  | .vshl g d a b => g < 16 && d < 64 && a < 64 && b < 64
  | .vshr g d a b => g < 16 && d < 64 && a < 64 && b < 64
  | .vsra g d a b => g < 16 && d < 64 && a < 64 && b < 64
  | .vsel g d a b k => g < 16 && d < 64 && a < 64 && b < 64 && k < 16
  | .vdot4 g d a b _ _ => g < 16 && d < 64 && a < 64 && b < 64
  | .vcmx g d a b => g < 16 && d < 64 && a < 64 && b < 64
  | .vcmp g _ k a b => g < 16 && k < 8 && a < 64 && b < 64
  | .vshuf g d a b => g < 16 && d < 64 && a < 64 && b < 64
  | .vrot g d a n => g < 16 && d < 64 && a < 64 && n < 512
  | .vcvt g d a src dst _ => g < 16 && d < 64 && a < 64 && dst < 64 && src < 64 && vcvtFmt src && vcvtFmt dst
  | .vpack g d a b mode sat => g < 16 && d < 64 && a < 64 && b < 64 && mode < 4 && (mode == 0 || !sat)
  | .vunpk g d a mode _ => g < 16 && d < 64 && a < 64 && mode < 4
  | .vreds g d a => g < 16 && d < 64 && a < 64
  | .vredm g d a _ => g < 16 && d < 64 && a < 64
  | .vidx g d => g < 16 && d < 64
  | .vbcast g d a => g < 16 && d < 64 && a < 64
  | .vext g d a idx => g < 16 && d < 64 && a < 64 && idx < 32768
  | .vins g d a idx => g < 16 && d < 64 && a < 64 && idx < 32768
  | .vshli g d a s => g < 16 && d < 64 && a < 64 && s < 64
  | .vshri g d a s => g < 16 && d < 64 && a < 64 && s < 64
  | .vsrai g d a s => g < 16 && d < 64 && a < 64 && s < 64
  | .vaddi g d a i => g < 16 && d < 64 && a < 64 && fits 15 i
  | .vmovi g d i => g < 16 && d < 64 && fits 15 i
  | .vexp g d a => g < 16 && d < 64 && a < 64
  | .vlog g d a => g < 16 && d < 64 && a < 64
  | .vrcp g d a => g < 16 && d < 64 && a < 64
  | .vrsq g d a => g < 16 && d < 64 && a < 64
  | .vtanh g d a => g < 16 && d < 64 && a < 64
  | .vsig g d a => g < 16 && d < 64 && a < 64
  | .vsin g d a => g < 16 && d < 64 && a < 64
  | .vcos g d a => g < 16 && d < 64 && a < 64
  | .verf g d a => g < 16 && d < 64 && a < 64
  | .wstr g f a b _ sc => g < 16 && f < 64 && a < 64 && b < 64 && planeFmt f && sc < 6
  | .wld g => g < 16
  | .wscl g a _ sc => g < 16 && a < 64 && sc < 6
  | .wswap g => g < 16
  | .mma g d a n _ => g < 16 && d < 64 && a < 64 && 1 ≤ n && n ≤ 64 && d + n ≤ 64
  | .mrd g d a b n => g < 16 && d < 64 && a < 64 && b < 32 && 1 ≤ n && n ≤ 64 && a + n ≤ 64
  | .acfg g f => g < 16 && f < 64 && acctCode f
  | .fwdRead g d a b c => g < 16 && d < 64 && a < 64 && b < 64 && 1 ≤ c && c ≤ 16 && d + c ≤ 64 && a + c ≤ 64
  | .fwdDelta g d a b c => g < 16 && d < 64 && a < 64 && b < 64 && 1 ≤ c && c ≤ 16 && d + c ≤ 64 && a + 3 * c + 1 ≤ 64
  | .fwdOuter g d a b c => g < 16 && d < 64 && a < 64 && b < 64 && 1 ≤ c && c ≤ 16 && d + c ≤ 64 && a + 3 * c + 1 ≤ 64
  | .opu g d a b c => g < 16 && d < 64 && a < 64 && b < 64 && 1 ≤ c && c ≤ 16 && a + c ≤ 64 && b + c ≤ 64
  | .sfork g d a b => g < 16 && d < 64 && a < 64 && b < 64
  | .ssnap g a b => g < 16 && a < 64 && b < 64
  | .sroll g a b => g < 16 && a < 64 && b < 64
  | .savg g d a b w _ => g < 16 && d < 64 && a < 64 && b < 64 && w < 32
  | .sfree g a => g < 16 && a < 64
  | .smove g d a b => g < 16 && d < 64 && a < 64 && b < 64
  | .sqry g d a => g < 16 && d < 64 && a < 64
  | .ewait g m => g < 16 && m < 64 && 1 ≤ m
  | .epoll g d e => g < 16 && d < 64 && e < 64 && e < 6
  | .tsub g a => g < 16 && a < 64
  | .tdone g => g < 16
  | .launch g d a => g < 16 && d < 64 && a < 64
  | .ljoin g a => g < 16 && a < 64
  | .range g d a b => g < 16 && d < 64 && a < 64 && b < 64
  | .gbar g => g < 16
  | .yield_ g => g < 16
  | .qcnt g d a => g < 16 && d < 64 && a < 64
  | .spage g a b => g < 16 && a < 64 && b < 64
  | .cpy g a => g < 16 && a < 64
  | .push g a b => g < 16 && a < 64 && b < 64
  | .resultLanding t f st => strandOk t f st
  | .pendingResultLands t f st => strandOk t f st
  | .shadeMissService t f => coreOk t f
  | .trapEntry t f st code detail syl _ => strandOk t f st && code < 256 && detail < 256 && syl < 8
  | .recoveryRewind t f st => strandOk t f st
  | .gangFailure _ _ _ => true
  | .gangPlacement t => t < 12
  | .preemption _ => true
  | .gangReturn _ => true
  | .gbarCompletion _ => true
  | .rowDrain _ => true
  | .gangRetirement _ => true
  | .waitBudgetPreemption _ => true
  | .deadlineHalt job => job < 64
  | .periodStart => true
  | .sliceStart job => job < 64
  | .rateWindowStart => true
  | .decompressBlock t f => coreOk t f
  | .planeLoadComplete t f => coreOk t f
  | .scaleLoadComplete t f => coreOk t f
  | .wswapEffect t f => coreOk t f
  | .mrdComplete t f => coreOk t f
  | .stateEngineComplete t f => coreOk t f
  | .copyOnWriteComplete t f => coreOk t f
  | .copyComplete t f => coreOk t f
  | .pushComplete t f => coreOk t f
  | .arrivalRegistration t job _ => t < 12 && job < 64
  | .pagerServe t => t < 12
  | .pageInComplete t => t < 12
  | .pageOutComplete t => t < 12
  | .stateMoveComplete t f st => strandOk t f st
  | .retentionEntry t slab bank => t < 12 && slab < 36 && bank < 16
  | .retentionExit t slab bank => t < 12 && slab < 36 && bank < 16
  | .taskDispatch t => t < 12
  | .taskStart t f => coreOk t f
  | .ringRefill t pool => t < 12 && pool < 16
  | .postedWritePerform t f _ => coreOk t f
  | .fenceActionsComplete t f st => strandOk t f st
  | .translationDropAck t f st => strandOk t f st
  | .waitRecheck t f st => strandOk t f st
  | .hotPageProposal t user job _ _ => t < 12 && job < 64 && user < 12
  | .migrationFreeze t _ => t < 12
  | .migrationCopyComplete t _ => t < 12
  | .launchRecordSubmit fn t q rec => t < 12 && fn < 33 && rec.length == 8 && q < 8
  | .taskRecordSubmit fn t pool rec => t < 12 && fn < 33 && rec.length == 8 && pool < 16
  | .eqcfgWrite fn _ => fn < 33
  | .eqheadWrite fn _ => fn < 33
  | .registerWrite fn _ _ => fn < 33
  | .heldEventDelivery fn => fn < 33
  | .msixMessage fn => fn < 33
  | .create _ => true
  | .close _ => true
  | .warm _ gmask => gmask.length == 12
  | .attest _ _ => true
  | .checkpoint => true
  | .restore _ => true
  | .param _ _ _ => true
  | .power => true
  | .jobCheckpoint job => job < 64
  | .hostApertureAccess _ _ => true
  | .hbmArrayError t _ _ _ _ => t < 12
  | .hbmParityRetry t stack pc lane _ _ _ _ _ => t < 12 && stack < 2 && pc < 64 && lane < 32
  | .laneSwap t stack pc lane _ _ _ _ => t < 12 && stack < 2 && pc < 64 && lane < 32
  | .flitReceive port raw => port < 16 && raw.length == 256
  | .linkRetrain port _ => port < 16
  | .meshLinkFailure a b _ => meshLink a b
  | .sensorRead _ t _ => t < 12
  | .powerRemoval => true
  | .coldStart _ => true
  | .retentionEntryEnd t slab bank => t < 12 && slab < 36 && bank < 16
  | .returnTileMovesComplete _ => true

end Instr
end Sys2Proof
end

