-- ==== Sys2Proof/Decode.lean ====
section
/-! DEFINITION. The decoder of one syllable with its lend byte (R54 to R56, R65 to R69), and the encoder written from the same
tables. A syllable is a number below 2^32, the lend byte a number below 256. A refusal carries the detail code of R84: 1 for a code the
map does not list, 2 for a nonzero field or lend bit that must be zero, 3 for a header outside s0, 8 for a guarded LOOP or LOOPI. Conditions
on operand values (details 1, 10, 11 and 12 of a listed operation) do not stop the decoder: the group raises them when it issues. -/

namespace Sys2Proof

/-- Bits lo + n - 1 to lo of w. -/
def fld (w lo n : Nat) : Nat := w / 2 ^ lo % 2 ^ n

/-- The n-bit value u as a two's complement integer (`sext` of R9). -/
def sx (n u : Nat) : Int := if u < 2 ^ (n - 1) then (u : Int) else (u : Int) - (2 ^ n : Nat)

/-- The n-bit two's complement pattern of i. -/
def ux (n : Nat) (i : Int) : Nat := (i % ((2 ^ n : Nat) : Int)).toNat

/-- A decoding: an operation, or the detail code of the refusal (R84) with the operation that the codes of the syllable list all the same: it may
meet a condition of a lower detail. -/
abbrev Dec := Except (Nat × Option Instr) Instr

/-- Refuses with detail 2 unless every field that must be zero is zero. -/
def dz (z : Nat) (i : Instr) : Dec := if z = 0 then .ok i else .error (2, some i)

/-- Refuses a code that the map does not list, with detail 1. -/
def unlisted : Dec := .error (1, none)

/-- Condition codes of R67. -/
def condOf : Nat → Option Cond
  | 0 => some .eq | 1 => some .ne | 2 => some .lt | 3 => some .ge | 4 => some .le | 5 => some .gt | 6 => some .ltu
  | 7 => some .geu | 8 => some .leu | 9 => some .gtu | 10 => some .bs | 11 => some .bc | 12 => some .un | 13 => some .or
  | _ => none

/-- The code of a condition (R67). -/
def condCode : Cond → Nat
  | .eq => 0 | .ne => 1 | .lt => 2 | .ge => 3 | .le => 4 | .gt => 5 | .ltu => 6 | .geu => 7 | .leu => 8 | .gtu => 9
  | .bs => 10 | .bc => 11 | .un => 12 | .or => 13

/-- Update codes of R67; code 3 is illegal. -/
def updOf : Nat → Option Upd
  | 0 => some .none | 1 => some .post | 2 => some .add | _ => none

def updCode : Upd → Nat
  | .none => 0 | .post => 1 | .add => 2

/-- Atomic operation codes of R67. -/
def aopOf : Nat → Option Aop
  | 0 => some .add | 1 => some .and | 2 => some .or | 3 => some .xor | 4 => some .min | 5 => some .max | 6 => some .minu
  | 7 => some .maxu | 8 => some .swap | 9 => some .cas | 10 => some .fadd | 11 => some .fmin | 12 => some .fmax | _ => none

def aopCode : Aop → Nat
  | .add => 0 | .and => 1 | .or => 2 | .xor => 3 | .min => 4 | .max => 5 | .minu => 6 | .maxu => 7 | .swap => 8 | .cas => 9
  | .fadd => 10 | .fmin => 11 | .fmax => 12

def withCond (c : Nat) (k : Cond → Dec) : Dec := match condOf c with | some x => k x | none => unlisted
def withUpd (c : Nat) (k : Upd → Dec) : Dec := match updOf c with | some x => k x | none => unlisted
def withAop (c : Nat) (k : Aop → Dec) : Dec := match aopOf c with | some x => k x | none => unlisted

/-- Class 0, scalar RRR (R66). -/
def decodeC0 (w e : Nat) : Dec :=
  let g := fld w 23 4
  match fld w 18 5 with
  | 0 => dz (e) (.add g (fld w 12 6) (fld w 6 6) (fld w 0 6))
  | 1 => dz (e) (.sub g (fld w 12 6) (fld w 6 6) (fld w 0 6))
  | 2 => dz (e) (.and_ g (fld w 12 6) (fld w 6 6) (fld w 0 6))
  | 3 => dz (e) (.or_ g (fld w 12 6) (fld w 6 6) (fld w 0 6))
  | 4 => dz (e) (.xor g (fld w 12 6) (fld w 6 6) (fld w 0 6))
  | 5 => dz (e) (.andn g (fld w 12 6) (fld w 6 6) (fld w 0 6))
  | 6 => dz (e) (.shl g (fld w 12 6) (fld w 6 6) (fld w 0 6))
  | 7 => dz (e) (.shr g (fld w 12 6) (fld w 6 6) (fld w 0 6))
  | 8 => dz (e) (.sra g (fld w 12 6) (fld w 6 6) (fld w 0 6))
  | 9 => dz (e) (.rot g (fld w 12 6) (fld w 6 6) (fld w 0 6))
  | 10 => dz (e) (.mul g (fld w 12 6) (fld w 6 6) (fld w 0 6))
  | 11 => dz (e) (.mulh g (fld w 12 6) (fld w 6 6) (fld w 0 6))
  | 12 => dz (e) (.mulhu g (fld w 12 6) (fld w 6 6) (fld w 0 6))
  | 13 => dz (e) (.min g (fld w 12 6) (fld w 6 6) (fld w 0 6))
  | 14 => dz (e) (.max g (fld w 12 6) (fld w 6 6) (fld w 0 6))
  | 15 => dz (e) (.minu g (fld w 12 6) (fld w 6 6) (fld w 0 6))
  | 16 => dz (e) (.maxu g (fld w 12 6) (fld w 6 6) (fld w 0 6))
  | 17 => dz (fld e 4 4) (.sel g (fld w 12 6) (fld w 6 6) (fld w 0 6) (fld e 0 4))
  | 18 => dz (fld w 0 6 + e) (.clz g (fld w 12 6) (fld w 6 6))
  | 19 => dz (fld w 0 6 + e) (.ctz g (fld w 12 6) (fld w 6 6))
  | 20 => dz (fld w 0 6 + e) (.popc g (fld w 12 6) (fld w 6 6))
  | 21 => dz (fld w 0 6 + e) (.brev g (fld w 12 6) (fld w 6 6))
  | 22 => dz (e) (.sext g (fld w 12 6) (fld w 6 6) (fld w 0 6))
  | 23 => dz (e) (.zext g (fld w 12 6) (fld w 6 6) (fld w 0 6))
  | 24 => dz (e) (.div g (fld w 12 6) (fld w 6 6) (fld w 0 6))
  | 25 => dz (e) (.divu g (fld w 12 6) (fld w 6 6) (fld w 0 6))
  | 26 => dz (e) (.rem g (fld w 12 6) (fld w 6 6) (fld w 0 6))
  | 27 => dz (e) (.remu g (fld w 12 6) (fld w 6 6) (fld w 0 6))
  | _ => unlisted

/-- Class 1, scalar immediate (R66). -/
def decodeC1 (w e : Nat) : Dec :=
  let g := fld w 23 4
  match fld w 19 4 with
  | 0 => dz (0) (.addi g (fld w 13 6) (fld w 7 6) (sx 15 (e * 128 + fld w 0 7)))
  | 1 => dz (0) (.andi g (fld w 13 6) (fld w 7 6) (sx 15 (e * 128 + fld w 0 7)))
  | 2 => dz (0) (.ori g (fld w 13 6) (fld w 7 6) (sx 15 (e * 128 + fld w 0 7)))
  | 3 => dz (0) (.xori g (fld w 13 6) (fld w 7 6) (sx 15 (e * 128 + fld w 0 7)))
  | 4 => dz (fld w 6 1 + e) (.shli g (fld w 13 6) (fld w 7 6) (fld w 0 6))
  | 5 => dz (fld w 6 1 + e) (.shri g (fld w 13 6) (fld w 7 6) (fld w 0 6))
  | 6 => dz (fld w 6 1 + e) (.srai g (fld w 13 6) (fld w 7 6) (fld w 0 6))
  | 7 => dz (0) (.muli g (fld w 13 6) (fld w 7 6) (sx 15 (e * 128 + fld w 0 7)))
  | 8 => dz (0) (.movi g (fld w 13 6) (sx 21 (e * 8192 + fld w 0 13)))
  | 9 => dz (e / 32) (.movw g (fld w 13 6) (e % 8 * 8192 + fld w 0 13) (e / 8 % 4))
  | 10 => dz (0) (.mini g (fld w 13 6) (fld w 7 6) (sx 15 (e * 128 + fld w 0 7)))
  | 11 => dz (0) (.maxi g (fld w 13 6) (fld w 7 6) (sx 15 (e * 128 + fld w 0 7)))
  | _ => unlisted

/-- Class 2, compare and predicate (R66). -/
def decodeC2 (w e : Nat) : Dec :=
  let g := fld w 23 4
  match fld w 20 3 with
  | 0 => withCond (fld w 16 4) fun cc => dz (fld w 6 1 + e) (.cmp g cc (fld w 13 3) (fld w 7 6) (fld w 0 6))
  | 1 => withCond (fld w 16 4) fun cc => dz (0) (.cmpi g cc (fld w 13 3) (fld w 7 6) (sx 15 (e * 128 + fld w 0 7)))
  | 3 => withCond (fld w 16 4) fun cc => dz (fld w 6 1 + e) (.fcmp g cc (fld w 13 3) (fld w 7 6) (fld w 0 6))
  | 2 => match fld w 16 4 with
    | 0 => dz (fld w 0 4 + e) (.pand g (fld w 12 4) (fld w 8 4) (fld w 4 4))
    | 1 => dz (fld w 0 4 + e) (.por g (fld w 12 4) (fld w 8 4) (fld w 4 4))
    | 2 => dz (fld w 0 4 + e) (.pxor g (fld w 12 4) (fld w 8 4) (fld w 4 4))
    | 3 => dz (fld w 0 4 + e) (.pandn g (fld w 12 4) (fld w 8 4) (fld w 4 4))
    | 4 => dz (fld w 4 4 + fld w 0 4 + e) (.pnot g (fld w 12 4) (fld w 8 4))
    | 5 => dz (fld w 4 4 + fld w 0 4 + e) (.pmov g (fld w 12 4) (fld w 8 4))
    | _ => unlisted
  | _ => unlisted

/-- Refuses a guard other than P0 with detail 8 (R64). -/
def guardless (g : Nat) (i : Instr) : Dec := if g ≠ 0 then .error (8, some i) else .ok i

/-- Class 3, branch and loop (R66). -/
def decodeC3 (w e : Nat) : Dec :=
  let g := fld w 23 4
  match fld w 20 3 with
  | 0 => dz (0) (.br g (sx 28 (e * 1048576 + fld w 0 20)))
  | 1 => dz (0) (.call g (fld w 14 6) (sx 22 (e * 16384 + fld w 0 14)))
  | 2 => dz (fld w 0 14 + e) (.brx g (fld w 14 6))
  | 3 => dz (fld w 0 14 + e) (.ret g (fld w 14 6))
  | 4 => guardless g (.loop (fld w 18 2) (fld w 12 6) (e * 4096 + fld w 0 12))
  | 5 => guardless g (.loopi (fld w 18 2) (e * 64 + fld w 12 6) (fld w 0 12))
  | 6 => dz (fld w 0 18 + e) (.lbrk g (fld w 18 2))
  | _ => unlisted

/-- Class 4, floating scalar (R66). -/
def decodeC4 (w e : Nat) : Dec :=
  let g := fld w 23 4
  match fld w 18 5 with
  | 0 => dz (fld e 1 7) (.fadd g (fld w 12 6) (fld w 6 6) (fld w 0 6) (fld e 0 1 == 1))
  | 1 => dz (fld e 1 7) (.fsub g (fld w 12 6) (fld w 6 6) (fld w 0 6) (fld e 0 1 == 1))
  | 2 => dz (fld e 1 7) (.fmul g (fld w 12 6) (fld w 6 6) (fld w 0 6) (fld e 0 1 == 1))
  | 3 => dz (fld e 1 7) (.ffma g (fld w 12 6) (fld w 6 6) (fld w 0 6) (fld e 0 1 == 1))
  | 4 => dz (fld e 1 7) (.fdiv g (fld w 12 6) (fld w 6 6) (fld w 0 6) (fld e 0 1 == 1))
  | 5 => dz (fld w 0 6 + fld e 1 7) (.fsqrt g (fld w 12 6) (fld w 6 6) (fld e 0 1 == 1))
  | 6 => dz (fld e 1 7) (.fmin g (fld w 12 6) (fld w 6 6) (fld w 0 6) (fld e 0 1 == 1))
  | 7 => dz (fld e 1 7) (.fmax g (fld w 12 6) (fld w 6 6) (fld w 0 6) (fld e 0 1 == 1))
  | 8 => dz (fld w 0 6 + fld e 1 7) (.fabs g (fld w 12 6) (fld w 6 6) (fld e 0 1 == 1))
  | 9 => dz (fld w 0 6 + fld e 1 7) (.fneg g (fld w 12 6) (fld w 6 6) (fld e 0 1 == 1))
  | 11 => dz (e) (.fcvt g (fld w 12 6) (fld w 6 6) (fld w 3 3) (fld w 0 3))
  | 12 => dz (fld w 0 6 + fld e 1 7) (.fclass g (fld w 12 6) (fld w 6 6) (fld e 0 1 == 1))
  | 13 => dz (fld w 0 6 + fld e 1 7) (.fmov g (fld w 12 6) (fld w 6 6) (fld e 0 1 == 1))
  | 14 => dz (fld w 0 6 + fld e 1 7) (.fnum g (fld w 12 6) (fld w 6 6) (fld e 0 1 == 1))
  | 15 => dz (fld w 0 6 + fld e 1 7) (.fden g (fld w 12 6) (fld w 6 6) (fld e 0 1 == 1))
  | 16 => dz (fld e 1 7) (.fmake g (fld w 12 6) (fld w 6 6) (fld w 0 6) (fld e 0 1 == 1))
  | 17 => dz (fld e 1 7) (.frnd g (fld w 12 6) (fld w 6 6) (fld w 0 6) (fld e 0 1 == 1))
  | _ => unlisted

/-- Class 5, address and system (R66). -/
def decodeC5 (w e : Nat) : Dec :=
  let g := fld w 23 4
  match fld w 18 5 with
  | 0 => dz (e) (.aadd g (fld w 12 6) (fld w 6 6) (fld w 0 6))
  | 1 => dz (fld w 0 6 + e) (.aset g (fld w 12 6) (fld w 6 6))
  | 2 => dz (e) (.amset g (fld w 12 6) (fld w 6 6) (fld w 0 6))
  | 4 => dz (e) (.sysrd g (fld w 12 6) (fld w 0 12))
  | 5 => dz (e) (.syswr g (fld w 12 6) (fld w 0 12))
  | 6 => dz (fld w 8 10 + e) (.trap g (fld w 0 8))
  | 7 => dz (fld w 0 18 + e) (.eret g)
  | 8 => dz (e) (.cmpt g (fld w 12 6) (fld w 6 6) (fld w 0 6))
  | 9 => dz (fld w 0 18 + e) (.nop g)
  | 10 => dz (fld w 0 18 + e) (.exit g)
  | 11 => dz (e) (.cntrd g (fld w 12 6) (fld w 0 12))
  | 12 => dz (e) (.cntrdc g (fld w 12 6) (fld w 0 12))
  | 13 => dz (fld w 0 18 + e) (.cntsnap g)
  | 14 => dz (fld w 12 6 + e) (.xlinv g (fld w 6 6) (fld w 0 6))
  | _ => unlisted

/-- Class 6, scalar memory (R66). -/
def decodeC6 (w e : Nat) : Dec :=
  let g := fld w 23 4
  match fld w 20 3 with
  | 0 => withUpd (fld w 4 2) fun u => dz (0) (.ldB g (fld w 16 4) (fld w 12 4) (fld w 6 6) u (sx 12 (e * 16 + fld w 0 4)))
  | 1 => withUpd (fld w 4 2) fun u => dz (0) (.ldH g (fld w 16 4) (fld w 12 4) (fld w 6 6) u (sx 12 (e * 16 + fld w 0 4)))
  | 2 => withUpd (fld w 4 2) fun u => dz (0) (.ldW g (fld w 16 4) (fld w 12 4) (fld w 6 6) u (sx 12 (e * 16 + fld w 0 4)))
  | 3 => withUpd (fld w 4 2) fun u => dz (0) (.ldD g (fld w 16 4) (fld w 12 4) (fld w 6 6) u (sx 12 (e * 16 + fld w 0 4)))
  | 4 => withUpd (fld w 4 2) fun u => dz (0) (.stB g (fld w 16 4) (fld w 12 4) (fld w 6 6) u (sx 12 (e * 16 + fld w 0 4)))
  | 5 => withUpd (fld w 4 2) fun u => dz (0) (.stH g (fld w 16 4) (fld w 12 4) (fld w 6 6) u (sx 12 (e * 16 + fld w 0 4)))
  | 6 => withUpd (fld w 4 2) fun u => dz (0) (.stW g (fld w 16 4) (fld w 12 4) (fld w 6 6) u (sx 12 (e * 16 + fld w 0 4)))
  | _ => withUpd (fld w 4 2) fun u => dz (0) (.stD g (fld w 16 4) (fld w 12 4) (fld w 6 6) u (sx 12 (e * 16 + fld w 0 4)))

/-- Class 7, vector memory and tag (R66). -/
def decodeC7 (w e : Nat) : Dec :=
  let g := fld w 23 4
  match fld w 20 3 with
  | 0 => withUpd (fld w 4 2) fun u => dz (0) (.vld g (fld w 16 4) (fld w 12 4) (fld w 6 6) u (sx 12 (e * 16 + fld w 0 4)))
  | 1 => withUpd (fld w 4 2) fun u => dz (0) (.vst g (fld w 16 4) (fld w 12 4) (fld w 6 6) u (sx 12 (e * 16 + fld w 0 4)))
  | 2 => withUpd (fld w 4 2) fun u => dz (0) (.vlds g (fld w 16 4) (fld w 12 4) (fld w 6 6) u (sx 12 (e * 16 + fld w 0 4)))
  | 3 => withUpd (fld w 4 2) fun u => dz (0) (.vsts g (fld w 16 4) (fld w 12 4) (fld w 6 6) u (sx 12 (e * 16 + fld w 0 4)))
  | 4 => withUpd (fld w 4 2) fun u => dz (0) (.ldf g (fld w 16 4) (fld w 12 4) (fld w 11 1 == 1) (fld w 6 5) u (sx 12 (e * 16 + fld w 0 4)))
  | 5 => withUpd (fld w 4 2) fun u => dz (0) (.stf g (fld w 16 4) (fld w 12 4) (fld w 11 1 == 1) (fld w 6 5) u (sx 12 (e * 16 + fld w 0 4)))
  | 6 => withUpd (fld w 4 2) fun u => dz (fld w 16 4) (.ldk g (fld w 12 4) (fld w 6 6) u (sx 12 (e * 16 + fld w 0 4)))
  | _ => match fld w 18 2 with
    | 0 => dz (fld w 0 6 + e) (.tlook g (fld w 12 6) (fld w 6 6))
    | 1 => dz (fld w 12 6 + e) (.tset g (fld w 6 6) (fld w 0 6))
    | 2 => dz (fld w 12 6 + fld w 0 6 + e) (.tclr g (fld w 6 6))
    | _ => dz (fld w 0 18 + e) (.tinv g)

/-- Class 8, atomic, fence, watch (R66). -/
def decodeC8 (w e : Nat) : Dec :=
  let g := fld w 23 4
  match fld w 20 3 with
  | 0 => withAop (fld e 0 4) fun op => dz (fld e 5 3) (.amo g (fld w 16 4) (fld w 12 4) (fld w 6 6) (fld w 0 6) op (fld e 4 1 == 1))
  | 1 => withAop (fld e 0 4) fun op => dz (fld w 6 6 + fld e 5 3) (.red g (fld w 16 4) (fld w 12 4) (fld w 0 6) op (fld e 4 1 == 1))
  | 2 => dz (fld w 0 1 + e) (.fence g (fld w 4 16) (fld w 1 3))
  | 3 => dz (fld w 0 20 + e) (.fenceD g)
  | 4 => dz (fld w 0 20 + e) (.row g)
  | 5 => withUpd (fld w 4 2) fun u => dz (fld w 16 4 + fld w 6 6) (.watch g (fld w 12 4) u (sx 12 (e * 16 + fld w 0 4)))
  | 6 => dz (fld w 0 20 + e) (.waitw g)
  | _ => dz (fld w 0 20 + e) (.kinv g)

/-- Class 9, vector A (R66). -/
def decodeC9 (w e : Nat) : Dec :=
  let g := fld w 23 4
  match fld w 18 5 with
  | 0 => dz (e) (.vadd g (fld w 12 6) (fld w 6 6) (fld w 0 6))
  | 1 => dz (e) (.vsub g (fld w 12 6) (fld w 6 6) (fld w 0 6))
  | 2 => dz (e) (.vmul g (fld w 12 6) (fld w 6 6) (fld w 0 6))
  | 3 => dz (e) (.vfma g (fld w 12 6) (fld w 6 6) (fld w 0 6))
  | 4 => dz (e) (.vmin g (fld w 12 6) (fld w 6 6) (fld w 0 6))
  | 5 => dz (e) (.vmax g (fld w 12 6) (fld w 6 6) (fld w 0 6))
  | 6 => dz (fld w 0 6 + e) (.vabs g (fld w 12 6) (fld w 6 6))
  | 7 => dz (fld w 0 6 + e) (.vneg g (fld w 12 6) (fld w 6 6))
  | 8 => dz (e) (.vand g (fld w 12 6) (fld w 6 6) (fld w 0 6))
  | 9 => dz (e) (.vor g (fld w 12 6) (fld w 6 6) (fld w 0 6))
  | 10 => dz (e) (.vxor g (fld w 12 6) (fld w 6 6) (fld w 0 6))
  | 11 => dz (fld w 0 6 + e) (.vnot g (fld w 12 6) (fld w 6 6))
  | 12 => dz (e) (.vshl g (fld w 12 6) (fld w 6 6) (fld w 0 6))
  | 13 => dz (e) (.vshr g (fld w 12 6) (fld w 6 6) (fld w 0 6))
  | 14 => dz (e) (.vsra g (fld w 12 6) (fld w 6 6) (fld w 0 6))
  | 15 => dz (fld e 4 4) (.vsel g (fld w 12 6) (fld w 6 6) (fld w 0 6) (fld e 0 4))
  | 16 => dz (fld e 2 6) (.vdot4 g (fld w 12 6) (fld w 6 6) (fld w 0 6) (fld e 0 1 == 1) (fld e 1 1 == 1))
  | 17 => dz (e) (.vcmx g (fld w 12 6) (fld w 6 6) (fld w 0 6))
  | _ => unlisted

/-- Class 10, vector B (R66). -/
def decodeC10 (w e : Nat) : Dec :=
  let g := fld w 23 4
  match fld w 18 5 with
  | 0 => withCond (fld e 0 4) fun cc => dz (fld w 15 3 + fld e 4 4) (.vcmp g cc (fld w 12 3) (fld w 6 6) (fld w 0 6))
  | 1 => dz (e) (.vshuf g (fld w 12 6) (fld w 6 6) (fld w 0 6))
  | 2 => dz (e / 8) (.vrot g (fld w 12 6) (fld w 6 6) (e % 8 * 64 + fld w 0 6))
  | 3 => dz (fld e 7 1) (.vcvt g (fld w 12 6) (fld w 6 6) (fld e 0 6) (fld w 0 6) (fld e 6 1 == 1))
  | 4 => dz (fld e 3 5 + (if fld e 0 2 = 0 then 0 else fld e 2 1)) (.vpack g (fld w 12 6) (fld w 6 6) (fld w 0 6) (fld e 0 2) (fld e 2 1 == 1))
  | 5 => dz (fld w 0 6 + fld e 3 5) (.vunpk g (fld w 12 6) (fld w 6 6) (fld e 0 2) (fld e 2 1 == 1))
  | 6 => dz (fld w 0 6 + e) (.vreds g (fld w 12 6) (fld w 6 6))
  | 7 => dz (fld w 0 6 + fld e 1 7) (.vredm g (fld w 12 6) (fld w 6 6) (fld e 0 1 == 1))
  | 8 => dz (fld w 0 12 + e) (.vidx g (fld w 12 6))
  | _ => unlisted

/-- Class 11, vector immediate and lane (R66). -/
def decodeC11 (w e : Nat) : Dec :=
  let g := fld w 23 4
  match fld w 19 4 with
  | 0 => dz (fld w 0 7 + e) (.vbcast g (fld w 13 6) (fld w 7 6))
  | 1 => dz (0) (.vext g (fld w 13 6) (fld w 7 6) (e * 128 + fld w 0 7))
  | 2 => dz (0) (.vins g (fld w 13 6) (fld w 7 6) (e * 128 + fld w 0 7))
  | 3 => dz (fld w 6 1 + e) (.vshli g (fld w 13 6) (fld w 7 6) (fld w 0 6))
  | 4 => dz (fld w 6 1 + e) (.vshri g (fld w 13 6) (fld w 7 6) (fld w 0 6))
  | 5 => dz (fld w 6 1 + e) (.vsrai g (fld w 13 6) (fld w 7 6) (fld w 0 6))
  | 6 => dz (0) (.vaddi g (fld w 13 6) (fld w 7 6) (sx 15 (e * 128 + fld w 0 7)))
  | 7 => dz (fld w 7 6) (.vmovi g (fld w 13 6) (sx 15 (e * 128 + fld w 0 7)))
  | _ => unlisted

/-- Class 12, special function (R66). -/
def decodeC12 (w e : Nat) : Dec :=
  let g := fld w 23 4
  match fld w 18 5 with
  | 0 => dz (fld w 0 6 + e) (.vexp g (fld w 12 6) (fld w 6 6))
  | 1 => dz (fld w 0 6 + e) (.vlog g (fld w 12 6) (fld w 6 6))
  | 2 => dz (fld w 0 6 + e) (.vrcp g (fld w 12 6) (fld w 6 6))
  | 3 => dz (fld w 0 6 + e) (.vrsq g (fld w 12 6) (fld w 6 6))
  | 4 => dz (fld w 0 6 + e) (.vtanh g (fld w 12 6) (fld w 6 6))
  | 5 => dz (fld w 0 6 + e) (.vsig g (fld w 12 6) (fld w 6 6))
  | 6 => dz (fld w 0 6 + e) (.vsin g (fld w 12 6) (fld w 6 6))
  | 7 => dz (fld w 0 6 + e) (.vcos g (fld w 12 6) (fld w 6 6))
  | 8 => dz (fld w 0 6 + e) (.verf g (fld w 12 6) (fld w 6 6))
  | _ => unlisted

/-- Class 13, matrix, fast weight, state (R66). -/
def decodeC13 (w e : Nat) : Dec :=
  let g := fld w 23 4
  match fld w 18 5 with
  | 0 => dz (fld e 4 4) (.wstr g (fld w 12 6) (fld w 6 6) (fld w 0 6) (fld e 0 1 == 1) (fld e 1 3))
  | 1 => dz (fld w 0 18 + e) (.wld g)
  | 2 => dz (fld w 12 6 + fld w 0 6 + fld e 4 4) (.wscl g (fld w 6 6) (fld e 0 1 == 1) (fld e 1 3))
  | 3 => dz (fld w 0 18 + e) (.wswap g)
  | 4 => dz (fld w 0 6 + fld e 7 1) (.mma g (fld w 12 6) (fld w 6 6) (fld e 1 6 + 1) (fld e 0 1 == 1))
  | 5 => dz (fld e 6 2) (.mrd g (fld w 12 6) (fld w 6 6) (fld w 0 6) (fld e 0 6 + 1))
  | 6 => dz (fld w 6 12 + e) (.acfg g (fld w 0 6))
  | 7 => dz (fld e 4 4) (.fwdRead g (fld w 12 6) (fld w 6 6) (fld w 0 6) (fld e 0 4 + 1))
  | 8 => dz (fld e 4 4) (.fwdDelta g (fld w 12 6) (fld w 6 6) (fld w 0 6) (fld e 0 4 + 1))
  | 9 => dz (fld e 4 4) (.fwdOuter g (fld w 12 6) (fld w 6 6) (fld w 0 6) (fld e 0 4 + 1))
  | 10 => dz (fld e 4 4) (.opu g (fld w 12 6) (fld w 6 6) (fld w 0 6) (fld e 0 4 + 1))
  | 11 => dz (e) (.sfork g (fld w 12 6) (fld w 6 6) (fld w 0 6))
  | 12 => dz (fld w 12 6 + e) (.ssnap g (fld w 6 6) (fld w 0 6))
  | 13 => dz (fld w 12 6 + e) (.sroll g (fld w 6 6) (fld w 0 6))
  | 14 => dz (fld e 6 2) (.savg g (fld w 12 6) (fld w 6 6) (fld w 0 6) (fld e 0 5) (fld e 5 1 == 1))
  | 15 => dz (fld w 12 6 + fld w 0 6 + e) (.sfree g (fld w 6 6))
  | 16 => dz (e) (.smove g (fld w 12 6) (fld w 6 6) (fld w 0 6))
  | 17 => dz (fld w 0 6 + e) (.sqry g (fld w 12 6) (fld w 6 6))
  | _ => unlisted

/-- Class 14, engine, task, launch (R66). -/
def decodeC14 (w e : Nat) : Dec :=
  let g := fld w 23 4
  match fld w 18 5 with
  | 0 => dz (fld w 6 12 + e) (.ewait g (fld w 0 6))
  | 1 => dz (fld w 6 6 + e) (.epoll g (fld w 12 6) (fld w 0 6))
  | 2 => dz (fld w 12 6 + fld w 0 6 + e) (.tsub g (fld w 6 6))
  | 3 => dz (fld w 0 18 + e) (.tdone g)
  | 4 => dz (fld w 0 6 + e) (.launch g (fld w 12 6) (fld w 6 6))
  | 5 => dz (fld w 12 6 + fld w 0 6 + e) (.ljoin g (fld w 6 6))
  | 6 => dz (e) (.range g (fld w 12 6) (fld w 6 6) (fld w 0 6))
  | 7 => dz (fld w 0 18 + e) (.gbar g)
  | 8 => dz (fld w 0 18 + e) (.yield_ g)
  | 9 => dz (fld w 0 6 + e) (.qcnt g (fld w 12 6) (fld w 6 6))
  | 10 => dz (fld w 12 6 + e) (.spage g (fld w 6 6) (fld w 0 6))
  | 11 => dz (fld w 12 6 + fld w 0 6 + e) (.cpy g (fld w 6 6))
  | 12 => dz (fld w 12 6 + e) (.push g (fld w 6 6) (fld w 0 6))
  | _ => unlisted

/-- The operation of a syllable w with lend byte e; a header (class 15) is no operation (R55, R84 detail 3). -/
def decodeOp (w e : Nat) : Dec :=
  match fld w 27 4 with
  | 0 => decodeC0 w e
  | 1 => decodeC1 w e
  | 2 => decodeC2 w e
  | 3 => decodeC3 w e
  | 4 => decodeC4 w e
  | 5 => decodeC5 w e
  | 6 => decodeC6 w e
  | 7 => decodeC7 w e
  | 8 => decodeC8 w e
  | 9 => decodeC9 w e
  | 10 => decodeC10 w e
  | 11 => decodeC11 w e
  | 12 => decodeC12 w e
  | 13 => decodeC13 w e
  | 14 => decodeC14 w e
  | _ => .error (3, none)

/-- The operation of a syllable, or the detail code of the refusal. -/
def decodeSyl (w e : Nat) : Except Nat Instr := match decodeOp w e with | .ok i => .ok i | .error x => .error x.1

/-- The syllable, with T = 0, and the lend byte of an operation; none for the device's own steps. -/
def encode : Instr → Option (Nat × Nat)
  | .add g d a b => some (0 + g * 8388608 + d * 4096 + a * 64 + b, 0)
  | .sub g d a b => some (0 + g * 8388608 + 262144 + d * 4096 + a * 64 + b, 0)
  | .and_ g d a b => some (0 + g * 8388608 + 524288 + d * 4096 + a * 64 + b, 0)
  | .or_ g d a b => some (0 + g * 8388608 + 786432 + d * 4096 + a * 64 + b, 0)
  | .xor g d a b => some (0 + g * 8388608 + 1048576 + d * 4096 + a * 64 + b, 0)
  | .andn g d a b => some (0 + g * 8388608 + 1310720 + d * 4096 + a * 64 + b, 0)
  | .shl g d a b => some (0 + g * 8388608 + 1572864 + d * 4096 + a * 64 + b, 0)
  | .shr g d a b => some (0 + g * 8388608 + 1835008 + d * 4096 + a * 64 + b, 0)
  | .sra g d a b => some (0 + g * 8388608 + 2097152 + d * 4096 + a * 64 + b, 0)
  | .rot g d a b => some (0 + g * 8388608 + 2359296 + d * 4096 + a * 64 + b, 0)
  | .mul g d a b => some (0 + g * 8388608 + 2621440 + d * 4096 + a * 64 + b, 0)
  | .mulh g d a b => some (0 + g * 8388608 + 2883584 + d * 4096 + a * 64 + b, 0)
  | .mulhu g d a b => some (0 + g * 8388608 + 3145728 + d * 4096 + a * 64 + b, 0)
  | .min g d a b => some (0 + g * 8388608 + 3407872 + d * 4096 + a * 64 + b, 0)
  | .max g d a b => some (0 + g * 8388608 + 3670016 + d * 4096 + a * 64 + b, 0)
  | .minu g d a b => some (0 + g * 8388608 + 3932160 + d * 4096 + a * 64 + b, 0)
  | .maxu g d a b => some (0 + g * 8388608 + 4194304 + d * 4096 + a * 64 + b, 0)
  | .sel g d a b k => some (0 + g * 8388608 + 4456448 + d * 4096 + a * 64 + b, k)
  | .clz g d a => some (0 + g * 8388608 + 4718592 + d * 4096 + a * 64, 0)
  | .ctz g d a => some (0 + g * 8388608 + 4980736 + d * 4096 + a * 64, 0)
  | .popc g d a => some (0 + g * 8388608 + 5242880 + d * 4096 + a * 64, 0)
  | .brev g d a => some (0 + g * 8388608 + 5505024 + d * 4096 + a * 64, 0)
  | .sext g d a w => some (0 + g * 8388608 + 5767168 + d * 4096 + a * 64 + w, 0)
  | .zext g d a w => some (0 + g * 8388608 + 6029312 + d * 4096 + a * 64 + w, 0)
  | .div g d a b => some (0 + g * 8388608 + 6291456 + d * 4096 + a * 64 + b, 0)
  | .divu g d a b => some (0 + g * 8388608 + 6553600 + d * 4096 + a * 64 + b, 0)
  | .rem g d a b => some (0 + g * 8388608 + 6815744 + d * 4096 + a * 64 + b, 0)
  | .remu g d a b => some (0 + g * 8388608 + 7077888 + d * 4096 + a * 64 + b, 0)
  | .addi g d a i => some (134217728 + g * 8388608 + d * 8192 + a * 128 + ux 15 i % 128, ux 15 i / 128)
  | .andi g d a i => some (134217728 + g * 8388608 + 524288 + d * 8192 + a * 128 + ux 15 i % 128, ux 15 i / 128)
  | .ori g d a i => some (134217728 + g * 8388608 + 1048576 + d * 8192 + a * 128 + ux 15 i % 128, ux 15 i / 128)
  | .xori g d a i => some (134217728 + g * 8388608 + 1572864 + d * 8192 + a * 128 + ux 15 i % 128, ux 15 i / 128)
  | .shli g d a s => some (134217728 + g * 8388608 + 2097152 + d * 8192 + a * 128 + s, 0)
  | .shri g d a s => some (134217728 + g * 8388608 + 2621440 + d * 8192 + a * 128 + s, 0)
  | .srai g d a s => some (134217728 + g * 8388608 + 3145728 + d * 8192 + a * 128 + s, 0)
  | .muli g d a i => some (134217728 + g * 8388608 + 3670016 + d * 8192 + a * 128 + ux 15 i % 128, ux 15 i / 128)
  | .movi g d i => some (134217728 + g * 8388608 + 4194304 + d * 8192 + ux 21 i % 8192, ux 21 i / 8192)
  | .movw g d data h => some (134217728 + g * 8388608 + 4718592 + d * 8192 + data % 8192, data / 8192 + h * 8)
  | .mini g d a i => some (134217728 + g * 8388608 + 5242880 + d * 8192 + a * 128 + ux 15 i % 128, ux 15 i / 128)
  | .maxi g d a i => some (134217728 + g * 8388608 + 5767168 + d * 8192 + a * 128 + ux 15 i % 128, ux 15 i / 128)
  | .cmp g cc k a b => some (268435456 + g * 8388608 + condCode cc * 65536 + k * 8192 + a * 128 + b, 0)
  | .cmpi g cc k a i => some (268435456 + g * 8388608 + 1048576 + condCode cc * 65536 + k * 8192 + a * 128 + ux 15 i % 128, ux 15 i / 128)
  | .pand g d a b => some (268435456 + g * 8388608 + 2097152 + d * 4096 + a * 256 + b * 16, 0)
  | .por g d a b => some (268435456 + g * 8388608 + 2162688 + d * 4096 + a * 256 + b * 16, 0)
  | .pxor g d a b => some (268435456 + g * 8388608 + 2228224 + d * 4096 + a * 256 + b * 16, 0)
  | .pandn g d a b => some (268435456 + g * 8388608 + 2293760 + d * 4096 + a * 256 + b * 16, 0)
  | .pnot g d a => some (268435456 + g * 8388608 + 2359296 + d * 4096 + a * 256, 0)
  | .pmov g d a => some (268435456 + g * 8388608 + 2424832 + d * 4096 + a * 256, 0)
  | .fcmp g cc k a b => some (268435456 + g * 8388608 + 3145728 + condCode cc * 65536 + k * 8192 + a * 128 + b, 0)
  | .br g off => some (402653184 + g * 8388608 + ux 28 off % 1048576, ux 28 off / 1048576)
  | .call g d off => some (402653184 + g * 8388608 + 1048576 + d * 16384 + ux 22 off % 16384, ux 22 off / 16384)
  | .brx g a => some (402653184 + g * 8388608 + 2097152 + a * 16384, 0)
  | .ret g a => some (402653184 + g * 8388608 + 3145728 + a * 16384, 0)
  | .loop lvl c e => some (402653184 + 4194304 + lvl * 262144 + c * 4096 + e % 4096, e / 4096)
  | .loopi lvl n e => some (402653184 + 5242880 + lvl * 262144 + n % 64 * 4096 + e, n / 64)
  | .lbrk g lvl => some (402653184 + g * 8388608 + 6291456 + lvl * 262144, 0)
  | .fadd g d a b dbl => some (536870912 + g * 8388608 + d * 4096 + a * 64 + b, dbl.toNat)
  | .fsub g d a b dbl => some (536870912 + g * 8388608 + 262144 + d * 4096 + a * 64 + b, dbl.toNat)
  | .fmul g d a b dbl => some (536870912 + g * 8388608 + 524288 + d * 4096 + a * 64 + b, dbl.toNat)
  | .ffma g d a b dbl => some (536870912 + g * 8388608 + 786432 + d * 4096 + a * 64 + b, dbl.toNat)
  | .fdiv g d a b dbl => some (536870912 + g * 8388608 + 1048576 + d * 4096 + a * 64 + b, dbl.toNat)
  | .fsqrt g d a dbl => some (536870912 + g * 8388608 + 1310720 + d * 4096 + a * 64, dbl.toNat)
  | .fmin g d a b dbl => some (536870912 + g * 8388608 + 1572864 + d * 4096 + a * 64 + b, dbl.toNat)
  | .fmax g d a b dbl => some (536870912 + g * 8388608 + 1835008 + d * 4096 + a * 64 + b, dbl.toNat)
  | .fabs g d a dbl => some (536870912 + g * 8388608 + 2097152 + d * 4096 + a * 64, dbl.toNat)
  | .fneg g d a dbl => some (536870912 + g * 8388608 + 2359296 + d * 4096 + a * 64, dbl.toNat)
  | .fcvt g d a src dst => some (536870912 + g * 8388608 + 2883584 + d * 4096 + a * 64 + src * 8 + dst, 0)
  | .fclass g d a dbl => some (536870912 + g * 8388608 + 3145728 + d * 4096 + a * 64, dbl.toNat)
  | .fmov g d a dbl => some (536870912 + g * 8388608 + 3407872 + d * 4096 + a * 64, dbl.toNat)
  | .fnum g d a dbl => some (536870912 + g * 8388608 + 3670016 + d * 4096 + a * 64, dbl.toNat)
  | .fden g d a dbl => some (536870912 + g * 8388608 + 3932160 + d * 4096 + a * 64, dbl.toNat)
  | .fmake g d a b dbl => some (536870912 + g * 8388608 + 4194304 + d * 4096 + a * 64 + b, dbl.toNat)
  | .frnd g d a b dbl => some (536870912 + g * 8388608 + 4456448 + d * 4096 + a * 64 + b, dbl.toNat)
  | .aadd g d a b => some (671088640 + g * 8388608 + d * 4096 + a * 64 + b, 0)
  | .aset g d a => some (671088640 + g * 8388608 + 262144 + d * 4096 + a * 64, 0)
  | .amset g d a b => some (671088640 + g * 8388608 + 524288 + d * 4096 + a * 64 + b, 0)
  | .sysrd g d n => some (671088640 + g * 8388608 + 1048576 + d * 4096 + n, 0)
  | .syswr g d n => some (671088640 + g * 8388608 + 1310720 + d * 4096 + n, 0)
  | .trap g n => some (671088640 + g * 8388608 + 1572864 + n, 0)
  | .eret g => some (671088640 + g * 8388608 + 1835008, 0)
  | .cmpt g f a b => some (671088640 + g * 8388608 + 2097152 + f * 4096 + a * 64 + b, 0)
  | .nop g => some (671088640 + g * 8388608 + 2359296, 0)
  | .exit g => some (671088640 + g * 8388608 + 2621440, 0)
  | .cntrd g d n => some (671088640 + g * 8388608 + 2883584 + d * 4096 + n, 0)
  | .cntrdc g d n => some (671088640 + g * 8388608 + 3145728 + d * 4096 + n, 0)
  | .cntsnap g => some (671088640 + g * 8388608 + 3407872, 0)
  | .xlinv g a b => some (671088640 + g * 8388608 + 3670016 + a * 64 + b, 0)
  | .ldB g oc p d u f => some (805306368 + g * 8388608 + oc * 65536 + p * 4096 + d * 64 + updCode u * 16 + ux 12 f % 16, ux 12 f / 16)
  | .ldH g oc p d u f => some (805306368 + g * 8388608 + 1048576 + oc * 65536 + p * 4096 + d * 64 + updCode u * 16 + ux 12 f % 16, ux 12 f / 16)
  | .ldW g oc p d u f => some (805306368 + g * 8388608 + 2097152 + oc * 65536 + p * 4096 + d * 64 + updCode u * 16 + ux 12 f % 16, ux 12 f / 16)
  | .ldD g oc p d u f => some (805306368 + g * 8388608 + 3145728 + oc * 65536 + p * 4096 + d * 64 + updCode u * 16 + ux 12 f % 16, ux 12 f / 16)
  | .stB g oc p d u f => some (805306368 + g * 8388608 + 4194304 + oc * 65536 + p * 4096 + d * 64 + updCode u * 16 + ux 12 f % 16, ux 12 f / 16)
  | .stH g oc p d u f => some (805306368 + g * 8388608 + 5242880 + oc * 65536 + p * 4096 + d * 64 + updCode u * 16 + ux 12 f % 16, ux 12 f / 16)
  | .stW g oc p d u f => some (805306368 + g * 8388608 + 6291456 + oc * 65536 + p * 4096 + d * 64 + updCode u * 16 + ux 12 f % 16, ux 12 f / 16)
  | .stD g oc p d u f => some (805306368 + g * 8388608 + 7340032 + oc * 65536 + p * 4096 + d * 64 + updCode u * 16 + ux 12 f % 16, ux 12 f / 16)
  | .vld g oc p d u f => some (939524096 + g * 8388608 + oc * 65536 + p * 4096 + d * 64 + updCode u * 16 + ux 12 f % 16, ux 12 f / 16)
  | .vst g oc p d u f => some (939524096 + g * 8388608 + 1048576 + oc * 65536 + p * 4096 + d * 64 + updCode u * 16 + ux 12 f % 16, ux 12 f / 16)
  | .vlds g oc p d u f => some (939524096 + g * 8388608 + 2097152 + oc * 65536 + p * 4096 + d * 64 + updCode u * 16 + ux 12 f % 16, ux 12 f / 16)
  | .vsts g oc p d u f => some (939524096 + g * 8388608 + 3145728 + oc * 65536 + p * 4096 + d * 64 + updCode u * 16 + ux 12 f % 16, ux 12 f / 16)
  | .ldf g oc p dbl d u f => some (939524096 + g * 8388608 + 4194304 + oc * 65536 + p * 4096 + dbl.toNat * 2048 + d * 64 + updCode u * 16 + ux 12 f % 16, ux 12 f / 16)
  | .stf g oc p dbl d u f => some (939524096 + g * 8388608 + 5242880 + oc * 65536 + p * 4096 + dbl.toNat * 2048 + d * 64 + updCode u * 16 + ux 12 f % 16, ux 12 f / 16)
  | .ldk g p d u f => some (939524096 + g * 8388608 + 6291456 + p * 4096 + d * 64 + updCode u * 16 + ux 12 f % 16, ux 12 f / 16)
  | .tlook g d a => some (939524096 + g * 8388608 + 7340032 + d * 4096 + a * 64, 0)
  | .tset g a b => some (939524096 + g * 8388608 + 7602176 + a * 64 + b, 0)
  | .tclr g a => some (939524096 + g * 8388608 + 7864320 + a * 64, 0)
  | .tinv g => some (939524096 + g * 8388608 + 8126464, 0)
  | .amo g oc p d s op dbl => some (1073741824 + g * 8388608 + oc * 65536 + p * 4096 + d * 64 + s, aopCode op + dbl.toNat * 16)
  | .red g oc p s op dbl => some (1073741824 + g * 8388608 + 1048576 + oc * 65536 + p * 4096 + s, aopCode op + dbl.toNat * 16)
  | .fence g m sc => some (1073741824 + g * 8388608 + 2097152 + m * 16 + sc * 2, 0)
  | .fenceD g => some (1073741824 + g * 8388608 + 3145728, 0)
  | .row g => some (1073741824 + g * 8388608 + 4194304, 0)
  | .watch g p u f => some (1073741824 + g * 8388608 + 5242880 + p * 4096 + updCode u * 16 + ux 12 f % 16, ux 12 f / 16)
  | .waitw g => some (1073741824 + g * 8388608 + 6291456, 0)
  | .kinv g => some (1073741824 + g * 8388608 + 7340032, 0)
  | .vadd g d a b => some (1207959552 + g * 8388608 + d * 4096 + a * 64 + b, 0)
  | .vsub g d a b => some (1207959552 + g * 8388608 + 262144 + d * 4096 + a * 64 + b, 0)
  | .vmul g d a b => some (1207959552 + g * 8388608 + 524288 + d * 4096 + a * 64 + b, 0)
  | .vfma g d a b => some (1207959552 + g * 8388608 + 786432 + d * 4096 + a * 64 + b, 0)
  | .vmin g d a b => some (1207959552 + g * 8388608 + 1048576 + d * 4096 + a * 64 + b, 0)
  | .vmax g d a b => some (1207959552 + g * 8388608 + 1310720 + d * 4096 + a * 64 + b, 0)
  | .vabs g d a => some (1207959552 + g * 8388608 + 1572864 + d * 4096 + a * 64, 0)
  | .vneg g d a => some (1207959552 + g * 8388608 + 1835008 + d * 4096 + a * 64, 0)
  | .vand g d a b => some (1207959552 + g * 8388608 + 2097152 + d * 4096 + a * 64 + b, 0)
  | .vor g d a b => some (1207959552 + g * 8388608 + 2359296 + d * 4096 + a * 64 + b, 0)
  | .vxor g d a b => some (1207959552 + g * 8388608 + 2621440 + d * 4096 + a * 64 + b, 0)
  | .vnot g d a => some (1207959552 + g * 8388608 + 2883584 + d * 4096 + a * 64, 0)
  | .vshl g d a b => some (1207959552 + g * 8388608 + 3145728 + d * 4096 + a * 64 + b, 0)
  | .vshr g d a b => some (1207959552 + g * 8388608 + 3407872 + d * 4096 + a * 64 + b, 0)
  | .vsra g d a b => some (1207959552 + g * 8388608 + 3670016 + d * 4096 + a * 64 + b, 0)
  | .vsel g d a b k => some (1207959552 + g * 8388608 + 3932160 + d * 4096 + a * 64 + b, k)
  | .vdot4 g d a b au bu => some (1207959552 + g * 8388608 + 4194304 + d * 4096 + a * 64 + b, au.toNat + bu.toNat * 2)
  | .vcmx g d a b => some (1207959552 + g * 8388608 + 4456448 + d * 4096 + a * 64 + b, 0)
  | .vcmp g cc k a b => some (1342177280 + g * 8388608 + k * 4096 + a * 64 + b, condCode cc)
  | .vshuf g d a b => some (1342177280 + g * 8388608 + 262144 + d * 4096 + a * 64 + b, 0)
  | .vrot g d a n => some (1342177280 + g * 8388608 + 524288 + d * 4096 + a * 64 + n % 64, n / 64)
  | .vcvt g d a src dst sat => some (1342177280 + g * 8388608 + 786432 + d * 4096 + a * 64 + dst, src + sat.toNat * 64)
  | .vpack g d a b mode sat => some (1342177280 + g * 8388608 + 1048576 + d * 4096 + a * 64 + b, mode + sat.toNat * 4)
  | .vunpk g d a mode hi => some (1342177280 + g * 8388608 + 1310720 + d * 4096 + a * 64, mode + hi.toNat * 4)
  | .vreds g d a => some (1342177280 + g * 8388608 + 1572864 + d * 4096 + a * 64, 0)
  | .vredm g d a mn => some (1342177280 + g * 8388608 + 1835008 + d * 4096 + a * 64, mn.toNat)
  | .vidx g d => some (1342177280 + g * 8388608 + 2097152 + d * 4096, 0)
  | .vbcast g d a => some (1476395008 + g * 8388608 + d * 8192 + a * 128, 0)
  | .vext g d a idx => some (1476395008 + g * 8388608 + 524288 + d * 8192 + a * 128 + idx % 128, idx / 128)
  | .vins g d a idx => some (1476395008 + g * 8388608 + 1048576 + d * 8192 + a * 128 + idx % 128, idx / 128)
  | .vshli g d a s => some (1476395008 + g * 8388608 + 1572864 + d * 8192 + a * 128 + s, 0)
  | .vshri g d a s => some (1476395008 + g * 8388608 + 2097152 + d * 8192 + a * 128 + s, 0)
  | .vsrai g d a s => some (1476395008 + g * 8388608 + 2621440 + d * 8192 + a * 128 + s, 0)
  | .vaddi g d a i => some (1476395008 + g * 8388608 + 3145728 + d * 8192 + a * 128 + ux 15 i % 128, ux 15 i / 128)
  | .vmovi g d i => some (1476395008 + g * 8388608 + 3670016 + d * 8192 + ux 15 i % 128, ux 15 i / 128)
  | .vexp g d a => some (1610612736 + g * 8388608 + d * 4096 + a * 64, 0)
  | .vlog g d a => some (1610612736 + g * 8388608 + 262144 + d * 4096 + a * 64, 0)
  | .vrcp g d a => some (1610612736 + g * 8388608 + 524288 + d * 4096 + a * 64, 0)
  | .vrsq g d a => some (1610612736 + g * 8388608 + 786432 + d * 4096 + a * 64, 0)
  | .vtanh g d a => some (1610612736 + g * 8388608 + 1048576 + d * 4096 + a * 64, 0)
  | .vsig g d a => some (1610612736 + g * 8388608 + 1310720 + d * 4096 + a * 64, 0)
  | .vsin g d a => some (1610612736 + g * 8388608 + 1572864 + d * 4096 + a * 64, 0)
  | .vcos g d a => some (1610612736 + g * 8388608 + 1835008 + d * 4096 + a * 64, 0)
  | .verf g d a => some (1610612736 + g * 8388608 + 2097152 + d * 4096 + a * 64, 0)
  | .wstr g f a b acq sc => some (1744830464 + g * 8388608 + f * 4096 + a * 64 + b, acq.toNat + sc * 2)
  | .wld g => some (1744830464 + g * 8388608 + 262144, 0)
  | .wscl g a acq sc => some (1744830464 + g * 8388608 + 524288 + a * 64, acq.toNat + sc * 2)
  | .wswap g => some (1744830464 + g * 8388608 + 786432, 0)
  | .mma g d a n zs => some (1744830464 + g * 8388608 + 1048576 + d * 4096 + a * 64, zs.toNat + (n - 1) * 2)
  | .mrd g d a b n => some (1744830464 + g * 8388608 + 1310720 + d * 4096 + a * 64 + b, (n - 1))
  | .acfg g f => some (1744830464 + g * 8388608 + 1572864 + f, 0)
  | .fwdRead g d a b c => some (1744830464 + g * 8388608 + 1835008 + d * 4096 + a * 64 + b, (c - 1))
  | .fwdDelta g d a b c => some (1744830464 + g * 8388608 + 2097152 + d * 4096 + a * 64 + b, (c - 1))
  | .fwdOuter g d a b c => some (1744830464 + g * 8388608 + 2359296 + d * 4096 + a * 64 + b, (c - 1))
  | .opu g d a b c => some (1744830464 + g * 8388608 + 2621440 + d * 4096 + a * 64 + b, (c - 1))
  | .sfork g d a b => some (1744830464 + g * 8388608 + 2883584 + d * 4096 + a * 64 + b, 0)
  | .ssnap g a b => some (1744830464 + g * 8388608 + 3145728 + a * 64 + b, 0)
  | .sroll g a b => some (1744830464 + g * 8388608 + 3407872 + a * 64 + b, 0)
  | .savg g d a b w fs => some (1744830464 + g * 8388608 + 3670016 + d * 4096 + a * 64 + b, w + fs.toNat * 32)
  | .sfree g a => some (1744830464 + g * 8388608 + 3932160 + a * 64, 0)
  | .smove g d a b => some (1744830464 + g * 8388608 + 4194304 + d * 4096 + a * 64 + b, 0)
  | .sqry g d a => some (1744830464 + g * 8388608 + 4456448 + d * 4096 + a * 64, 0)
  | .ewait g m => some (1879048192 + g * 8388608 + m, 0)
  | .epoll g d e => some (1879048192 + g * 8388608 + 262144 + d * 4096 + e, 0)
  | .tsub g a => some (1879048192 + g * 8388608 + 524288 + a * 64, 0)
  | .tdone g => some (1879048192 + g * 8388608 + 786432, 0)
  | .launch g d a => some (1879048192 + g * 8388608 + 1048576 + d * 4096 + a * 64, 0)
  | .ljoin g a => some (1879048192 + g * 8388608 + 1310720 + a * 64, 0)
  | .range g d a b => some (1879048192 + g * 8388608 + 1572864 + d * 4096 + a * 64 + b, 0)
  | .gbar g => some (1879048192 + g * 8388608 + 1835008, 0)
  | .yield_ g => some (1879048192 + g * 8388608 + 2097152, 0)
  | .qcnt g d a => some (1879048192 + g * 8388608 + 2359296 + d * 4096 + a * 64, 0)
  | .spage g a b => some (1879048192 + g * 8388608 + 2621440 + a * 64 + b, 0)
  | .cpy g a => some (1879048192 + g * 8388608 + 2883584 + a * 64, 0)
  | .push g a b => some (1879048192 + g * 8388608 + 3145728 + a * 64 + b, 0)
  | .resultLanding _ _ _ => none
  | .pendingResultLands _ _ _ => none
  | .shadeMissService _ _ => none
  | .trapEntry _ _ _ _ _ _ _ => none
  | .recoveryRewind _ _ _ => none
  | .gangFailure _ _ _ => none
  | .gangPlacement _ => none
  | .preemption _ => none
  | .gangReturn _ => none
  | .gbarCompletion _ => none
  | .rowDrain _ => none
  | .gangRetirement _ => none
  | .waitBudgetPreemption _ => none
  | .deadlineHalt _ => none
  | .periodStart => none
  | .sliceStart _ => none
  | .rateWindowStart => none
  | .decompressBlock _ _ => none
  | .planeLoadComplete _ _ => none
  | .scaleLoadComplete _ _ => none
  | .wswapEffect _ _ => none
  | .mrdComplete _ _ => none
  | .stateEngineComplete _ _ => none
  | .copyOnWriteComplete _ _ => none
  | .copyComplete _ _ => none
  | .pushComplete _ _ => none
  | .arrivalRegistration _ _ _ => none
  | .pagerServe _ => none
  | .pageInComplete _ => none
  | .pageOutComplete _ => none
  | .stateMoveComplete _ _ _ => none
  | .retentionEntry _ _ _ => none
  | .retentionExit _ _ _ => none
  | .taskDispatch _ => none
  | .taskStart _ _ => none
  | .ringRefill _ _ => none
  | .postedWritePerform _ _ _ => none
  | .fenceActionsComplete _ _ _ => none
  | .translationDropAck _ _ _ => none
  | .waitRecheck _ _ _ => none
  | .hotPageProposal _ _ _ _ _ => none
  | .migrationFreeze _ _ => none
  | .migrationCopyComplete _ _ => none
  | .launchRecordSubmit _ _ _ _ => none
  | .taskRecordSubmit _ _ _ _ => none
  | .eqcfgWrite _ _ => none
  | .eqheadWrite _ _ => none
  | .registerWrite _ _ _ => none
  | .heldEventDelivery _ => none
  | .msixMessage _ => none
  | .create _ => none
  | .close _ => none
  | .warm _ _ => none
  | .attest _ _ => none
  | .checkpoint => none
  | .restore _ => none
  | .param _ _ _ => none
  | .power => none
  | .jobCheckpoint _ => none
  | .hostApertureAccess _ _ => none
  | .hbmArrayError _ _ _ _ _ => none
  | .hbmParityRetry _ _ _ _ _ _ _ _ _ => none
  | .laneSwap _ _ _ _ _ _ _ _ => none
  | .flitReceive _ _ => none
  | .linkRetrain _ _ => none
  | .meshLinkFailure _ _ _ => none
  | .sensorRead _ _ _ => none
  | .powerRemoval => none
  | .coldStart _ => none
  | .retentionEntryEnd _ _ _ => none
  | .returnTileMovesComplete _ => none

/-- The stop bit T (R54). -/
def stopBit (w : Nat) : Bool := fld w 31 1 == 1

/-- The operation the decoder reads from a row of the opcode table: a syllable is one 32-bit word, its lend byte zero
because a bundle without a header lends nothing (R55). -/
def decodeTableWord (nbits w : Nat) : Option Instr :=
  if nbits ≤ 32 ∧ w < 4294967296 then
    match decodeSyl w 0 with
    | .ok i => some i
    | .error _ => none
  else none

end Sys2Proof
end

