-- ==== Sys2Proof/Machine/State.lean ====
section
/-! DEFINITION. The state of one H12: every register, memory, queue, table and counter that the spec names, and the few fields of the
model's own (turn, agenda, cur, freeCtr, uid). All plain data. A `Map` lists what differs from its cold value; its reading functions
stand in Table.lean. -/

namespace Sys2Proof.Machine

/-- A finite map from numbers: the first entry of a key counts. -/
abbrev Map (α : Type) := List (Nat × α)

/-- Bytes by address, addresses strictly rising, no entry zero (an unlisted byte reads as zero; R198, log entry 4). -/
abbrev Memory := List Host.Cell

/-- An exact quotient n / d. -/
structure Quo where
  n : Int
  d : Nat := 1
deriving DecidableEq, Repr, Inhabited

/-- A floating datum of any format: a NaN (sig: its quiet bit is clear), an infinity, or a finite value with its sign (the sign of a zero counts). -/
inductive FVal where
  | nan (sig : Bool)
  | inf (neg : Bool)
  | num (neg : Bool) (mag : Quo)
deriving DecidableEq, Repr, Inhabited

/-- A register that an operation names. X56 to X63 are the queue ports (R123). -/
inductive Reg where
  | x (n : Nat) | f (n : Nat) | p (n : Nat) | l (n : Nat) | v (n : Nat) | a (n : Nat) | am (n : Nat)
deriving DecidableEq, Repr, Inhabited

/-- What lands in a register. -/
inductive Val where
  | w (v : Word)
  | b (v : Bool)
  /-- Lane predicate bits, those of `mask` written. -/
  | lm (v mask : LaneMask)
  /-- A row, of which the bits of `mask` are written. -/
  | row (v mask : Row)
  | am (c base : Word)
  /-- An MMA row (R107): per lane the exact block dots still to be added to the accumulator, one rounding each; zs: from zero. -/
  | macc (zs : Bool) (dots : List (List FVal))
  /-- An integer MMA row (R110): per lane the exact block sums. -/
  | iacc (zs : Bool) (sums : List (List Int))
deriving DecidableEq, Repr, Inhabited

/-- A fixed-latency result in flight (R71): it lands at the end of the unfrozen cycle in which `left` is 1. -/
structure Landing where
  dest : Reg
  left : Nat
  val : Val
  /-- NX, UF, OF, DZ, NV in bits 4 to 0, ORed into SST at landing (R130). -/
  flags : BitVec 5 := 0
  poison : Bool := false
  /-- A landing point has issued since (R76). -/
  lp : Bool := false
  /-- The queue entry reserved at issue (R123), for a push. -/
  ticket : Nat := 0
deriving DecidableEq, Repr, Inhabited

/-- A variable-latency result (R73): its registers are pending until it lands. `due` is the cycle at whose end it lands, none while its event is still to come. -/
structure Pending where
  dests : List Reg
  vals : List Val
  due : Option Nat
  tag : Nat
  flags : BitVec 5 := 0
  poison : Bool := false
  ticket : Nat := 0
deriving DecidableEq, Repr, Inhabited

/-- One entry of a queue port (R123). -/
structure QEntry where
  ticket : Nat
  landed : Bool
  val : Word
  /-- The strand that pushed it (R292). -/
  pusher : Nat := 4
deriving DecidableEq, Repr, Inhabited

/-- A restart record (R80, R265). -/
structure Restart where
  addr : Word := 0
  a : Map Word := []
  lc : Map Half := []
  fill : Nat := 0
  row : Word := 0
deriving DecidableEq, Repr, Inhabited

/-- A row-buffer line (R207): line address (bit 63 set for scratchpad), byte mask, data (byte i in bits 8i + 7 to 8i), row, and the physical line of a global address. -/
structure RowLine where
  line : Word
  phys : Nat
  mask : BitVec 64
  data : BitVec 512
  row : Word
  dup : Bool := false
  nc : Bool := false
  /-- Its bytes carry poison (R217). -/
  pois : Bool := false
deriving DecidableEq, Repr, Inhabited

/-- A strand's watch (R266). -/
structure Watch where
  line : Nat
  va : Word
  snap : List Byte
  entered : Bool
  triggered : Bool
deriving DecidableEq, Repr, Inhabited

/-- A FENCE or FENCE.D whose actions have not ended (R263, R264). `uid`: accesses with a smaller number precede it. -/
structure FenceMark where
  mask : BitVec 16
  scope : Nat
  dup : Bool
  uid : Nat
  due : Nat
  /-- Its dirty lines are written back: the accesses then at L2 have smaller numbers. -/
  wb : Option Nat := none
deriving DecidableEq, Repr, Inhabited

/-- The task a strand runs (R41), with its delivered keys and the fill position at its start (R288). -/
structure TaskRun where
  words : List Word
  /-- The record as submitted, for the exact record of a discard (R316). -/
  orig : List Word
  uid : Nat
  pool : Nat
  guarded : Bool
  overflow : Bool := false
  fill : Nat := 0
  /-- TDONE has issued; the task retires once its rows, accesses and commands are performed (R292, R315). -/
  retiring : Bool := false
  /-- Its dirty lines are written back at retirement: the accesses then at L2 have smaller numbers. -/
  wb : Option Nat := none
  /-- Its record's bypass count (R313). -/
  bypass : Nat := 0
deriving DecidableEq, Repr, Inhabited

/-- Why a strand is blocked (R33). -/
inductive Block where
  | queueEmpty (q : Nat) | queueFull (q : Nat) | pending (r : Reg) | engines (mask : Nat) | rowFull (need : Nat) | engineFull (e : Nat)
  | poolFull (pool : Nat) (head : Bool) | dup
deriving DecidableEq, Repr, Inhabited

/-- Why a strand is parked (R31, R333). -/
inductive Park where
  | watch | absent (handle tile : Nat) | join (id : Word) | task
deriving DecidableEq, Repr, Inhabited

/-- Strand states (R31); `recovering` is the time between a recovered cause and the end of its rewind (R368). -/
inductive StrandState where
  | inactive | ready | running | blocked (why : Block) | parked (why : Park) | atBarrier | recovering (code detail : Nat)
deriving DecidableEq, Repr, Inhabited

/-- A strand's registers before the trap or recovery that it took in cycle `at_`: a failure of its gang in that cycle prevails over it (R365). -/
structure CauseUndo where
  at_ : Nat
  spc : Word
  sst : Word
  scause : Word
  sepc : Word
  sinfo : Word
  trpc : Word
  recov : Nat
  lc : Map Half
  restart : Restart
  fresh : Bool
deriving DecidableEq, Repr, Inhabited

/-- An SRAM of R198 whose words can hold a latent error (R217). -/
inductive Sram where
  | row (strand : Nat) | l1 | active | shadow | fifo | shade | l2 | umbra | state
deriving DecidableEq, Repr, Inhabited

/-- A latent error: a word of an SRAM, by the number that each reader gives it, with one wrong bit or two (R217). -/
structure SramErr where
  sram : Sram
  word : Nat
  dbl : Bool
deriving DecidableEq, Repr, Inhabited

/-- A strand: its registers (R122) and the state the spec implies for it. -/
structure Strand where
  st : StrandState := .inactive
  x : Map Word := []
  f : Map Word := []
  p : BitVec 16 := 1
  l : Map LaneMask := []
  v : Map Row := []
  a : Map Word := []
  am : Map (Word × Word) := []
  ls : Map Word := []
  le : Map Word := []
  lc : Map Half := []
  spc : Word := 0
  sst : Word := 0
  /-- Cold value: ACCT 33, others 0 (R122). -/
  scfg : Word := 0x210
  scause : Word := 0
  sepc : Word := 0
  sinfo : Word := 0
  shv : Word := 0
  inflight : List Landing := []
  pend : List Pending := []
  restart : Restart := {}
  /-- The next group follows an irrevocable operation, or is the entry group (R80). -/
  fresh : Bool := false
  /-- The strand was rewound and its restart group has not issued again (R369). -/
  rewound : Bool := false
  recov : Nat := 0
  /-- MODEL'S OWN: restart points recorded, which tells segments apart (R371). -/
  seg : Nat := 0
  /-- Registers whose latest writer has variable latency (R76). -/
  vdest : List Reg := []
  xPois : List Nat := []
  fPois : List Nat := []
  vPois : List Nat := []
  rows : List RowLine := []
  rown : Word := 0
  watch : Option Watch := none
  /-- Writes performed at the strand's latest KINV (R257): the length of `past` then. -/
  kmem : Option Nat := none
  engCount : Map Nat := []
  engErr : Map Word := []
  task : Option TaskRun := none
  snap : Option (Map Word) := none
  /-- A CNTSNAP of this cycle, taken at its end (R354). -/
  snapReq : Bool := false
  cIssue : Word := 0
  cWait : Word := 0
  cTbr : Word := 0
  cRets : Word := 0
  cRewc : Word := 0
  cTrpc : Word := 0
  fences : List FenceMark := []
  /-- A recheck of its watch waits for its gauge (R333, R357). -/
  recheckDue : Bool := false
  /-- Selected only once every result has landed (R35, R79). -/
  landFirst : Bool := false
  /-- The first cycle in which a strand just placed, or a task just started on it, may issue (R440). -/
  startAt : Nat := 0
  /-- Groups issued of a drain stub during a pre-emption (R375). -/
  stub : Option Nat := none
  /-- In a pre-emption (R374): 0 not yet reached, 1 in a drain stub, 2 to be rewound, 3 stopped. -/
  pre : Nat := 0
  /-- The state reference whose copy or move a recovery waits for (R368 step 3). -/
  waitRef : Word := 0
  /-- An XLINV drop not yet acknowledged by every tower (R337): when the acknowledgements are in. -/
  xlinv : Option Nat := none
  /-- Duplicates of the strand's DUP writes not yet acknowledged (R264). -/
  dupOut : Nat := 0
  /-- An array error met since the group that issued the command ended its segment (R371): the bank. -/
  arrayErr : Option Nat := none
  undo : Option CauseUndo := none
deriving DecidableEq, Repr, Inhabited

/-- What a frozen core waits for (R36, R77, R253, R263, R337). -/
inductive Need where
  | tlb (job : Nat) (va : Word)
  | line (pa : Nat)
  /-- A read at the coherence point by a load of class c. -/
  | direct (pa len c : Nat)
  | konst (pa : Nat)
  | handle (idx : Nat)
  /-- Room for n entries in the store queue (R253). -/
  | room (n : Nat)
  /-- The strand's earlier accesses that a load of class c must follow; coh: at the coherence point (R281, R282). -/
  | order (c loc len : Nat) (coh : Bool)
  /-- The strand's accesses and its core's drained lines performed at device scope (R292). -/
  | release
  /-- A tile array for SFORK or SSNAP (R366). -/
  | alloc
  | fence
  | drop
  /-- The state instructions that the tower accepted before on the handle (R242, R342). -/
  | states (idx : Nat)
  /-- Cycles of a wide vector access (R256). -/
  | cycles (n : Nat)
deriving DecidableEq, Repr, Inhabited

/-- What the shade context found for a need: bytes, or the cause to raise at the group that needed the walk (R366). -/
structure Fill where
  need : Need
  bytes : List Byte := []
  cause : Option (Nat × Nat) := none
  poison : Bool := false
deriving DecidableEq, Repr, Inhabited

/-- A freeze: its needs, the cycle from whose end they may be met, and the first frozen cycle. -/
structure Freeze where
  needs : List Need
  due : Nat
  since : Nat := 0
deriving DecidableEq, Repr, Inhabited

/-- An entry of a first- or second-level translation cache (R336). `bits`: page size 16, 21 or 30. -/
structure Tlb where
  job : Nat
  bits : Nat
  vpn : Nat
  pfn : Nat
  w : Bool
  x : Bool
  dup : Bool
  pin : Bool
  nc : Bool
deriving DecidableEq, Repr, Inhabited

/-- A line of L1 (64 bytes) or L2 (128 bytes); bit i of `dirty`: byte i is not yet performed beyond this core (R204). -/
structure L1Line where
  data : List Byte
  dirty : BitVec 64 := 0
  /-- Bit j: its 64-bit word j carries poison (R217). -/
  poison : BitVec 16 := 0
  /-- L1: the bank that holds it (R204, R206). -/
  way : Nat := 0
deriving DecidableEq, Repr, Inhabited

inductive SqKind where
  | store | red | amo
deriving DecidableEq, Repr, Inhabited

/-- A direct access still to perform (R253, R261): a store of the store queue, a reduction or an atomic; or a write on its way from a tower's L2 to
its home. `strand`: 4 for lines written back from L1, 6 for firmware's
writes, 8 and the command's strand for those of the core's engines. -/
structure SqEntry where
  uid : Nat
  strand : Nat
  cls : Nat
  kind : SqKind
  job : Nat
  va : Word
  pa : Nat
  bytes : List Byte := []
  op : Aop := .add
  dbl : Bool := false
  operand : Word := 0
  comparand : Word := 0
  tag : Nat := 0
  due : Nat := 0
  dup : Bool := false
  nc : Bool := false
  /-- In the core's scratchpad; `pa` is the offset. -/
  scr : Bool := false
  /-- The cycle by whose end it moves on, if the order lets it (R52). -/
  latest : Nat := 0
  /-- The bytes carry poison (R217). -/
  pois : Bool := false
  /-- Its place among the entries into a queue of its tower, and the release of a migration in whose order it stands, 0 for none (R214). -/
  at_ : Nat := 0
  turn : Nat := 0
  /-- Of a line's request that goes out in several runs: all its bytes, and whether this run is the first (R355). -/
  group : BitVec 64 := 0
  lead : Bool := true
deriving DecidableEq, Repr, Inhabited

/-- A weight plane (R198, R224): element bits by k × NCOLS + n, format code, E8 scales by block × NCOLS + n. -/
structure Plane where
  elems : Map Half := []
  fmt : Nat := 0
  /-- Scales that differ from 127. -/
  scales : Map Nat := []
  resident : Bool := true
  flags : BitVec 4 := 0
  /-- Poison of the elements, and of the scales, which a WLD keeps (R224, R371). -/
  poison : Bool := false
  scalePois : Bool := false
deriving DecidableEq, Repr, Inhabited

/-- A tile in the weight FIFO: the elements decoded so far; `fail`: detail and address of the failing block (R225). -/
structure FifoTile where
  fmt : Nat
  elems : List Half
  blocks : Nat
  base : Word
  remaining : Nat
  fail : Option (Nat × Word) := none
  /-- A word of it was found uncorrectable as the tile was read (R217). -/
  pois : Bool := false
deriving DecidableEq, Repr, Inhabited

/-- A queued or running weight stream (R222). -/
structure Stream where
  fmt : Nat
  next : Word
  tiles : Nat
  strand : Nat
  job : Nat
  acq : Option Nat
  /-- Tiles of the whole stream. -/
  total : Nat := 0
  started : Bool := false
  due : Nat := 0
  /-- Accesses with a smaller number precede it (R292). -/
  uid : Nat := 0
deriving DecidableEq, Repr, Inhabited

/-- A request of an engine under a gauge (R357): units charged and cycles of transfer. -/
structure Request where
  units : Nat
  cycles : Nat
deriving DecidableEq, Repr, Inhabited

/-- A command of engine 1 to 5 (R221, R269). Queue 6 of a core holds the array reads of its FWDs (R238, R243), which are no commands; form 0
is FWD.READ, 1 FWD.DELTA, 2 FWD.OUTER, and `filled` the cycle from which the shadow plane holds the rounded state. An MRD names the size of its elements. -/
inductive CmdKind where
  | wld (tile : FifoTile)
  | wscl (addrs : List (Bool × Nat × Nat)) (bytes : Nat) (scr : Bool)
  | wswap
  | mrd (off size : Nat) (bytes : List Byte) (poison : Bool)
  | fwdRead (ref : Word) (plane : Plane) (c form slab : Nat)
  | fwdWrite (ref : Word) (c form slab : Nat) (filled : Option Nat)
  | opu (ref : Word) (c slab : Nat)
  /-- SSNAP, SROLL, SAVG or SFREE, by its number in the tower's state queue, and the cycles it takes. -/
  | state (op cycles : Nat)
  | cpy (desc : Word) (bfmt : Map Half)
  | push (desc rdesc : Word) (bfmt : Map Half) (remote : Bool)
deriving DecidableEq, Repr, Inhabited

structure Cmd where
  uid : Nat
  strand : Nat
  job : Nat
  kind : CmdKind
  started : Bool := false
  due : Nat := 0
  /-- Requests still to be admitted, those admitted, and the cycles left of the one in transfer (R357). -/
  reqs : List Request := []
  adm : List Request := []
  busy : Nat := 0
  tag : Nat := 0
  /-- The completion word, once known: from a peer, or of a failure (R275). -/
  status : Option Word := none
  /-- Elements of an MRD still to be written, or units of a transfer not yet chosen; none: all of them (R232, R272). -/
  left : Option (List Nat) := none
  /-- A transfer's descriptor, and its receiver's of this device, as the engine read them (R269, R274). -/
  desc : List Byte := []
  rdesc : List Byte := []
  /-- What it has moved (R276): elements chosen and not yet read, the number read, those of a block not yet whole, and bytes ready to be written. -/
  todo : List Nat := []
  got : Nat := 0
  codes : List (Nat × Nat) := []
  ready : List (Word × List Byte) := []
  /-- It moves no further, and a PUSH's key is registered (R274). -/
  moved : Bool := false
  keyed : Bool := false
  /-- The segment and the address of the group that issued it (R371). -/
  seg : Nat := 0
  pc : Word := 0
  /-- What a WSCL has read so far, and whether it is poisoned (R226). -/
  data : List Byte := []
  dataPois : Bool := false
deriving DecidableEq, Repr, Inhabited

/-- A staged task (R314). -/
structure Staged where
  words : List Word
  orig : List Word
  uid : Nat
  pool : Nat
  guarded : Bool
  stagedAt : Nat
  bypass : Nat := 0
deriving DecidableEq, Repr, Inhabited

/-- A core: one front end with its bound slab or slabs (R12, R14). -/
structure Core where
  gang : Option Nat := none
  run : Option Nat := none
  last : Nat := 3
  /-- Cycles in which the running strand issues nothing (R75), or a bubble (R34). -/
  gap : Nat := 0
  issued : Bool := false
  bubble : Bool := false
  frozen : Option Freeze := none
  fills : List Fill := []
  frz : Word := 0
  q : Map (List QEntry) := []
  bfmt : Map Half := []
  gtol : Word := 0
  /-- Scratchpad banks of the present split (R203). -/
  scr : Nat := 0
  near : Memory := []
  nearPois : List Nat := []
  /-- Latent SRAM errors of the near array (R217): word offset and whether two bits are wrong. -/
  nearErr : List (Nat × Bool) := []
  /-- Latent errors of the row buffer, L1, the planes, the FIFO and the shade context's store (R217, R367). -/
  errs : List SramErr := []
  /-- The shade context's private store of 64 KiB (R366): firmware's own bytes. -/
  shade : Memory := []
  l1 : Map L1Line := []
  tags : List (Word × Nat) := []
  sq : List SqEntry := []
  active : Plane := {}
  shadow : Plane := {}
  fifo : List FifoTile := []
  /-- FIFO bytes of tiles claimed by a WLD and not yet freed (R224). -/
  fifoHeld : Nat := 0
  streams : List Stream := []
  failed : Bool := false
  cmds : Map (List Cmd) := []
  /-- Cycles after this one in which a pass of an MMA still enters the array (R230). -/
  mmaLeft : Nat := 0
  /-- The MMA whose passes enter it: strand, segment, address of its group, bank of its rows (R371). -/
  mmaBy : Option (Nat × Nat × Word × Nat) := none
  staging : List Staged := []
  tlb1 : List Tlb := []
  strands : Map Strand := []
  /-- The gang's returning tile moves are not done (R246). -/
  held : Bool := false
deriving DecidableEq, Repr, Inhabited

/-- A line of a tower's Umbra cache (R198, R209): its valid and its dirty 32-byte sectors, and the job that wrote it last. The bytes stand in `mem`,
which is memory as the coherence point has it. -/
structure UmbraLine where
  valid : BitVec 4 := 0
  dirty : BitVec 4 := 0
  job : Nat := 64
deriving DecidableEq, Repr, Inhabited

/-- A step of a memory-port write queue (R262): a reduction that the queue has accepted. -/
structure RedStep where
  pa : Nat
  op : Aop
  dbl : Bool
  operand : Word
deriving DecidableEq, Repr, Inhabited

/-- What the model notes of the past of memory (R257): the bytes that a write replaced, or the move of a page by a migration. -/
inductive Past where
  | wrote (old : List Host.Cell)
  | moved (old new len : Nat)
deriving DecidableEq, Repr, Inhabited

/-- A tile of state SRAM or of a pager frame: element bits, row-major (R208); zero when empty. -/
structure Tile where
  elems : List Half := []
  poison : Bool := false
  /-- A binary32 tile, which takes both halves of its slot (R339). -/
  wide : Bool := false
deriving DecidableEq, Repr, Inhabited

/-- A launch record in a launch queue, with the function that submitted it. -/
structure LaunchRec where
  words : List Word
  job : Nat
  fn : Nat
  launch : Option Nat := none
deriving DecidableEq, Repr, Inhabited

/-- An entry of the pending-launch pool (R305). -/
structure PendEntry where
  live : Bool
  gen : Nat
  launch : Nat
deriving DecidableEq, Repr, Inhabited

/-- A task record in a pool queue, ring or discard slot. -/
structure TaskRec where
  words : List Word
  /-- As submitted. -/
  orig : List Word := []
  /-- With the versions of its keys once registered (R330). -/
  delivered : List Word
  registered : Bool
  uid : Nat
  bypass : Nat := 0
  /-- Its place among the entries into its pool's queue (R329). -/
  entered : Nat := 0
  /-- Tasks it waits for (R330). -/
  deps : List Nat := []
deriving DecidableEq, Repr, Inhabited

/-- A pool open on a tower (R308 to R311). -/
structure Pool where
  launch : Nat
  job : Nat
  guarded : Bool
  closed : Bool := false
  queue : List TaskRec := []
  /-- The spill ring: index of its head record, and its records; memory holds them at `ring` in the layout of R308. -/
  ringHead : Nat := 0
  ringq : List TaskRec := []
  ring : Word := 0
  rlog : Nat := 6
  byp : Nat := 8
  refillAt : Nat := 0
  finished : Bool := false
deriving DecidableEq, Repr, Inhabited

/-- An entry of the dependence table (R330): a key (identifier of a tile key, or a handle or arrival key) of a launch, its version, its writer and its readers. -/
structure DepEntry where
  launch : Nat
  id : Word
  version : Nat
  current : Bool
  writer : Option Nat
  readers : List Nat
deriving DecidableEq, Repr, Inhabited

structure Arrival where
  key : Word
  job : Nat
  registered : Bool
deriving DecidableEq, Repr, Inhabited

/-- A wait-table entry (R333). Kind 1 watch, 2 absent state, 3 join, 4 task wait. -/
structure WaitEntry where
  core : Nat
  strand : Nat
  kind : Nat
  key : Word
deriving DecidableEq, Repr, Inhabited

structure Migration where
  job : Nat
  va : Word
  bits : Nat
  old : Nat
  new : Nat
  frozen : Bool
  due : Nat
deriving DecidableEq, Repr, Inhabited

/-- A move of the state pager (R318, R439): requests not yet admitted, and the cycles left of the one admitted. -/
structure PagerMove where
  handle : Nat
  inward : Bool
  reqs : List Request
  busy : Nat := 0
  /-- The job whose fault or hint the move serves (R357). -/
  forJob : Nat := 0
deriving DecidableEq, Repr, Inhabited

/-- A state instruction that a tower has accepted (R342). -/
inductive StateKind where
  | fork (a : Word) (creation : Word)
  | snap (handle n : Nat) (arr : Nat)
  | roll (handle n : Nat)
  | avg (dst a b : Nat) (w c : Half)
  | free (handle : Nat)
  | move (handle : Nat) (dst : Word)
deriving DecidableEq, Repr, Inhabited

structure StateOp where
  uid : Nat
  core : Nat
  strand : Nat
  job : Nat
  kind : StateKind
  /-- Tag of the result that SFORK and SMOVE write. -/
  tag : Nat := 0
  /-- An SMOVE that runs: RES before it, its requests, the cycles left of the one admitted, and the value that Xd receives once it is known. -/
  started : Bool := false
  res : Nat := 0
  reqs : List Request := []
  busy : Nat := 0
  answer : Option Word := none
deriving DecidableEq, Repr, Inhabited

/-- The state of a bank of state SRAM (R218). -/
structure Bank where
  /-- 0 active, 1 entering, 2 retained, 3 leaving. -/
  mode : Nat := 0
  due : Nat := 0
  lastUse : Nat := 0
  waiting : Bool := false
deriving DecidableEq, Repr, Inhabited

/-- A tower (R18, R19) with the structures of R294, R322 and R350 that are its own. -/
structure Tower where
  caston : List (BitVec 16) := []
  lq : Map (List LaunchRec) := []
  pend : Map PendEntry := []
  pools : Map Pool := []
  dep : List DepEntry := []
  arrivals : List Arrival := []
  /-- Drain-stub entries: the launch and its entries as signed offsets (R332). -/
  stubs : List (Nat × List (Int × Int × Int)) := []
  waits : List WaitEntry := []
  tlb2 : List Tlb := []
  migr : List Migration := []
  /-- Atomics and reductions that wait for a migration, with their cores (R214). -/
  held : List (Nat × SqEntry) := []
  /-- Writes performed at this tower's L2 and not yet at their home, oldest first, with their cores (R204, R209, R279). -/
  out : List (Nat × SqEntry) := []
  /-- The memory port's write queue: pending reduction steps by line ÷ 128 (R262). Whatever reaches the line applies them first, so `mem` holds
  their effect already. -/
  wq : Map (List RedStep) := []
  umbra : Map UmbraLine := []
  /-- Latent errors of L2, the Umbra cache and state SRAM (R217). -/
  errs : List SramErr := []
  /-- Discard slots (R294, R316): by 4 × the core's number + strand, the pool and the exact record. -/
  discards : Map (Nat × TaskRec) := []
  /-- Proposals that wait for a migration entry (R338): user, job, virtual address, frame. -/
  proposals : List (Nat × Nat × Word × Word) := []
  /-- By sector (address ÷ 32), bursts under retry: the lane that failed last, its consecutive failed retries, and the retries made (R386). -/
  laneFails : Map (Nat × Nat × Nat) := []
  hot : List (Nat × Nat × Nat) := []
  hcache : List Nat := []
  hints : List (Nat × Nat) := []
  moves : List PagerMove := []
  /-- State instructions accepted and not performed, oldest first (R342). -/
  stateq : List StateOp := []
  faults : List (Nat × Nat) := []
  l2 : Map L1Line := []
  slots : Map Tile := []
  slotShare : Map Nat := []
  frames : Map Tile := []
  frameShare : Map Nat := []
  banks : Map Bank := []
  /-- Tower counters of R350 by number. -/
  cnt : Map Word := []
  /-- The tower counters, and below the gauges and range counters, as the cycle before left them: what a read returns (R351). -/
  cntRead : Map Word := []
  paramNext : Map Word := []
  requested : List Nat := []
  /-- The HBM4E logs, rings of 32 entries, and the places of their next entries (R388). -/
  arrayLog : List (List Word) := []
  busLog : List (List Word) := []
  arrayAt : Nat := 0
  busAt : Nat := 0
  /-- Spares used, by stack × 64 + pseudo-channel (R386); uncorrectable errors of the window, by stack × 16 + layer (R387); layers mapped out. -/
  spares : Map Nat := []
  layerErr : Map Nat := []
  layersOut : List Nat := []
  /-- The dispatcher: the front end served last and the first cycle of its next assignment (R313). -/
  lastServed : Nat := 0
  dispatchAt : Nat := 0
deriving DecidableEq, Repr, Inhabited

/-- A job (R46, R350). -/
structure Job where
  num : Nat
  latency : Bool
  fn : Nat
  part : List (BitVec 16)
  slice : Nat
  wbud : Nat
  dline : Nat
  gbud : List Nat
  root : Nat
  arenaBase : Nat
  arenaSize : Nat
  /-- Allocations of the arena: address and length (R339). -/
  arena : List (Nat × Nat) := []
  ckptBase : Word := 0
  ckptLen : Nat := 0
  dump : Word := 0
  dcnt : Nat := 0
  started : Bool := false
  sper : Nat := 0
  sperRead : Nat := 0
  sliceOn : Bool := false
  created : Nat := 0
  /-- GUSE by tower × 6 + gauge. -/
  guse : Map Nat := []
  guseRead : Map Nat := []
  halted : Bool := false
  /-- Placement stopped by a checkpoint (R380). -/
  stopped : Bool := false
  ckptGen : Nat := 1
  ckptSeq : Word := 0
deriving DecidableEq, Repr, Inhabited

/-- A launch (R43, R301): its record and table block, and what runs of it. -/
structure Launch where
  words : List Word
  table : List Byte
  job : Nat
  /-- Window queue it stands in, or none for a child. -/
  child : Option (Nat × Nat)
  parentTask : Option Nat := none
  depth : Nat
  limit : Nat
  tower : Nat
  placed : Nat := 0
  retired : Nat := 0
  failed : Bool := false
  done : Bool := false
  fn : Nat := 0
  order : Nat := 0
  /-- Range counters: next, rem, mn, k × w (R307). -/
  range : Map (Nat × Nat × Nat × Nat) := []
  rangeRead : Map (Nat × Nat × Nat × Nat) := []
  /-- The cycle in which a request to the counter is served at the earliest (R307). -/
  rangeBusy : Map Nat := []
  /-- Writes performed at the launch's first placement (R257). -/
  kmem : Option Nat := none
  /-- Its pool is finished (R311, R315). -/
  poolOver : Bool := false
deriving DecidableEq, Repr, Inhabited

inductive GangPhase where
  | running | preempting (reason : Nat) | saved | moving (due : Nat)
deriving DecidableEq, Repr, Inhabited

/-- A gang (R27, R37). -/
structure Gang where
  launch : Nat
  num : Nat
  tower : Nat
  job : Nat
  cores : List Nat
  ganged : Bool
  smask : BitVec 4
  tmask : BitVec 4
  phase : GangPhase := .running
  placedAt : Nat := 0
  arrived : List Nat := []
  /-- The cycle of the latest arrival at the barrier or EXIT (R38). -/
  lastAt : Nat := 0
  gadv : Word := 0
  wsum : Nat := 0
  /-- WSUM as the last cycle left it (R351), and whether it exceeds WBUD since a cycle already past in this slice (R359). -/
  wsumRead : Nat := 0
  exceeded : Bool := false
  /-- The strands as they stood at the save: what the save area does not hold of them comes back from here. -/
  hidden : List Strand := []
  staged : List (List Staged) := []
  streams : List (List Stream) := []
  savedAt : Nat := 0
  /-- The cores held before a return on other cores (R246). -/
  former : List Nat := []
  /-- Pre-empted so that this launch can be placed (R45, R48), with the gangs of it placed then. -/
  victimOf : Option (Nat × Nat) := none
  /-- The states whose tiles follow a returning gang, and the requests of those moves as a pager's (R246, R355). -/
  follows : List Nat := []
  /-- States with tiles in its former slabs that another move of the pager still has in hand: they follow when that ends (R246). -/
  late : List Nat := []
  /-- It is to be pre-empted, for this reason, once its tiles have followed (R48). -/
  stopAfter : Option Nat := none
  reqs : List Request := []
  busy : Nat := 0
deriving DecidableEq, Repr, Inhabited

/-- An entry of the state handle table (R339). -/
structure HEntry where
  v : Bool := false
  res : Nat := 0
  fmt16 : Bool := false
  twr : Nat := 0
  job : Nat := 0
  snap : BitVec 4 := 0
  keep : Bool := false
  gen : Nat := 0
  nt : Nat := 0
  tiles : Nat := 0
  snaps : Map Nat := []
  /-- Cycle of the latest use (R318), and whether a move brings it in (RES 2). -/
  used : Nat := 0
  inward : Bool := false
  /-- Copies on write that run: tile, the slot it copies, end (R242). -/
  cow : List (Nat × Nat × Nat) := []
  lost : Bool := false
deriving DecidableEq, Repr, Inhabited

/-- The registers of one host function (R396). -/
structure Fn where
  eqbase : Word := 0
  eqcfg : Half := 0
  eqhead : Half := 0
  eqtail : Half := 0
  eqdrop : Word := 0
  held : List (List Word) := []
  bound : Option Nat := none
  jsel : Nat := 0
  hflt : Word := 0
  seq : Half := 0
  msixLast : Option Nat := none
  msixDue : Bool := false
  /-- Read data of the latest BAR2 read (R398). -/
  readData : List Byte := []
deriving DecidableEq, Repr, Inhabited

/-- A flit as the sender keeps it (R404). -/
structure Flit where
  seq : Nat
  vl : Nat
  ty : Nat
  dst : Nat
  payload : FlitPayload
  replays : Nat := 0
  tag : Nat := 0
  core : Nat := 0
  /-- Strand and ordering class of a remote store or reduction (R279). -/
  who : Option (Nat × Nat) := none
deriving DecidableEq, Repr, Inhabited

/-- A Warath port (R402 to R406). -/
structure Port where
  up : Bool := false
  peer : Nat := 0
  txSeq : Nat := 0
  rxSeq : Nat := 4095
  unacked : List Flit := []
  queues : Map (List Flit) := []
  stopTx : BitVec 4 := 0
  stopRx : BitVec 4 := 0
  /-- Flits received and not yet performed, by lane, oldest first (R405). -/
  rxq : Map (List FlitPayload) := []
  nakOut : Bool := false
  retrained : Bool := false
  retrainDue : Option Nat := none
  halfRate : Bool := false
  /-- The device at the far end, as its control flits named it, and whether its number is another's as well, or this device's own (R406). -/
  ident : List Byte := []
  clash : Bool := false
deriving DecidableEq, Repr, Inhabited

/-- What a checkpoint image holds of a state (R380): its index, its entry, and the word and contents of every tile of its arrays in turn. -/
structure ImageState where
  idx : Nat
  entry : HEntry
  tiles : List (Word × Tile)
deriving DecidableEq, Repr, Inhabited

/-- What it holds of a tower. -/
structure ImageTower where
  t : Nat
  lq : Map (List LaunchRec)
  pend : Map PendEntry
  pools : Map Pool
  dep : List DepEntry
  arrivals : List Arrival
  stubs : List (Nat × List (Int × Int × Int))
  discards : Map (Nat × TaskRec)
deriving DecidableEq, Repr, Inhabited

/-- The contents of a checkpoint image (R380). -/
structure JobImage where
  launches : Map Launch
  gangs : Map Gang
  towers : List ImageTower
  states : List ImageState
deriving DecidableEq, Repr, Inhabited

/-- The checkpoint of one job that runs (R380): 0 gangs stopping, 1 image written, 2 commit record written; the status of R383, the image's
length and the sum of its words. -/
structure CkptRun where
  job : Nat
  step : Nat := 0
  status : Nat := 0
  len : Nat := 0
  sum : Word := 0
deriving DecidableEq, Repr, Inhabited

/-- The management mailbox (R399). -/
structure Mailbox where
  busy : Bool := false
  result : Nat := 0
  data : List Word := []
  /-- The command words last written. -/
  cmd : Map Word := []
deriving DecidableEq, Repr, Inhabited

/-- Whose turn it is within a cycle. -/
inductive Turn where
  | start | core (k : Nat) | ending
deriving DecidableEq, Repr, Inhabited

/-- The group a strand is about to issue. -/
structure GroupCtx where
  core : Nat := 0
  strand : Nat := 0
  /-- Byte address of its first syllable; of the syllable after it; the bundle of its last syllable and whether it ends at s3. -/
  start : Word := 0
  next : Word := 0
  bundle : Word := 0
  atS3 : Bool := false
  marked : Bool := false
  /-- The counter of free values as the group opened (R290). -/
  free : Nat := 0
  /-- Whether the store queue was empty as the group opened, and the entries of its 32 places that the group itself has posted (R253). -/
  idle : Bool := false
  own : Nat := 0
  /-- Positions of the first halves of mirror pairs (R70). -/
  mirror : List Nat := []
  /-- Filled in as the group issues: it is a landing point (R76); where a taken transfer goes; the strand gives up the slot (R34). -/
  lp : Bool := false
  taken : Option Word := none
  give : Bool := false
  /-- TM and TH as the group found them (R57), and whether the transfer is ERET's (R155). -/
  tm : Bool := false
  th : Bool := false
  eret : Bool := false
  /-- SYSWR writes of the group, made at the end of its issue cycle (R137). -/
  sysw : List (Nat × Word) := []
deriving DecidableEq, Repr, Inhabited

/-- What a tag of a remote operation answers to. -/
inductive RemoteUse where
  | fill (core : Nat) (need : Need)
  | amo (core : Nat) (e : SqEntry)
  | push (core uid : Nat)
  | move (core strand tag : Nat)
deriving DecidableEq, Repr, Inhabited

/-- A duplicate on its way to the partner: its number, the core and strand that wrote it and its class, or the job for which firmware wrote it, and the
command or arriving PUSH that it is part of, 0 for none (R201, R264, R274). -/
structure DupNote where
  uid : Nat
  who : Option (Nat × Nat) := none
  cls : Nat := 0
  job : Nat := 64
  cmd : Nat := 0
deriving DecidableEq, Repr, Inhabited

/-- A transfer from a peer: a PUSH, with its receiver descriptor as it was read, the format and number of the source elements once a data flit has
come, and the key once the arrival registration has; or a state by its destination (R274, R347, R403). -/
inductive InboundKind where
  | push (desc : List Byte) (src : Option (Nat × Nat)) (key : Option Word)
  | state (job tower : Nat) (fmt16 : Bool) (snap tiles : Nat)
deriving DecidableEq, Repr, Inhabited

/-- What has arrived of it. -/
structure Inbound where
  uid : Nat
  peer : Nat
  tag : Nat
  kind : InboundKind
  /-- Source codes of a PUSH by element, and bytes ready to be written, with their addresses. -/
  codes : List (Nat × Nat) := []
  ready : List (Word × List Byte) := []
  /-- Elements made ready so far; its descriptor has been checked; the completion word of its first failure. -/
  taken : Nat := 0
  begun : Bool := false
  status : Option Word := none
  /-- Tiles of a state, by number: kind, contents. -/
  tiles : Map (Nat × Tile) := []
deriving DecidableEq, Repr, Inhabited

/-- The whole machine. -/
structure State where
  /-- CYC (R350): cycles since the start ended. -/
  now : Nat := 0
  mem : Memory := []
  /-- Poisoned 32-byte sectors by address ÷ 32 (R217, R384). -/
  memPois : List Nat := []
  /-- MODEL'S OWN: the past of `mem`, newest first, for what an LDK may return (R257). -/
  past : List Past := []
  /-- The bytes kept for the partner device, by its addresses (R201, R293). -/
  dupMem : Memory := []
  /-- Writes to host memory that the host has not acknowledged: core, strand, class, and the cycle of the acknowledgement (R279). -/
  hostAcks : List (Nat × Nat × Nat × Nat) := []
  cores : Map Core := []
  towers : Map Tower := []
  jobs : Map Job := []
  launches : Map Launch := []
  gangs : Map Gang := []
  handles : Map HEntry := []
  fns : Map Fn := []
  ports : Map Port := []
  mailbox : Mailbox := {}
  start : Word := 0
  /-- What START still takes while a start runs, oldest first (R410, R411). -/
  startNext : List Word := []
  apbase : Word := 0
  fabric : Nat := 0
  /-- PARAM's fabric number, once it has set one (R400). -/
  fabricNext : Option Nat := none
  partner : Nat := 0xFF
  starts : Nat := 1
  cfg : ConfigRecord := default
  tempDeci : Int := 0
  tempAt : Nat × Nat := (0, 0)
  /-- An over-temperature reading stands: the cycle by which power goes (R393). -/
  tripDue : Option Nat := none
  powered : Bool := true
  meshDown : List (Nat × Nat) := []
  /-- SRAM errors since the last self-test, and a gang failed with reason 3 (R410 step 4). -/
  selfTestDue : Bool := false
  idleLimit : Nat := 65536
  remote : Map RemoteUse := []
  /-- Device checkpoint requests: jobs still to image (R380), and the one that runs. -/
  ckpt : List Nat := []
  ckptRun : Option CkptRun := none
  /-- Duplicates sent and not acknowledged, oldest first (R201, R264, R380). -/
  dups : List DupNote := []
  /-- PUSHes and states that arrive from peers (R274, R347, R403). -/
  inbound : List Inbound := []
  /-- MODEL'S OWN: inputs and timed internal events, with the cycle they act in. -/
  agenda : List (Nat × Instr) := []
  /-- MODEL'S OWN: whose turn it is. -/
  turn : Turn := .start
  /-- MODEL'S OWN: the group now issuing. -/
  cur : GroupCtx := {}
  /-- MODEL'S OWN: the checkpoint images written, by the bytes that memory holds of them (R379 gives no layout). -/
  images : List (List Byte × JobImage) := []
  /-- MODEL'S OWN: counter of free values. -/
  freeCtr : Nat := 0
  /-- MODEL'S OWN: counter of tickets, tags and identities. -/
  uid : Nat := 1
deriving DecidableEq, Repr, Inhabited

/-- Where the machine stops for good. -/
inductive Fault where
  /-- Raised by every step after the management controller removed power (R393). Safe: an unpowered part does nothing. -/
  | poweredOff
deriving DecidableEq, Repr, Inhabited

/-- Where the model has no meaning. -/
inductive Refusal where
  /-- Raised by an arm of exec for a row that the model does not give a meaning yet. Safe: nothing follows of it. -/
  | notModelled (mnemonic : String)
deriving DecidableEq, Repr, Inhabited

/-- A tower right after a cold start without defects (R324, R350): 0x4008 for each front end, HCAP 2 × 64 GB, HOTT 4,096, EWIN thresholds zero. -/
def Tower.cold : Tower :=
  { caston := List.replicate 16 0x4008, cnt := [(0x100, 0x2000000000), (0x108, 4096)] }

/-- The machine as its first cold start leaves it (R410, R411): START ready at step 6, first attempt, on a configuration record without
defects; nothing placed, every memory zero, CYC 0. -/
def State.reset : State :=
  { towers := (List.range 12).map fun t => (t, Tower.cold)
    start := 0x1600100000000000 }

end Sys2Proof.Machine
end

