-- ==== Sys2Proof/Machine/Table.lean ====
section
/-! DEFINITION. Finite maps and byte memories: reading, writing, and little-endian words (R6). -/

namespace Sys2Proof.Machine

/-- The entry of key k, if there is one. -/
def mfind {α : Type} : Map α → Nat → Option α
  | [], _ => none
  | (j, v) :: r, k => if j = k then some v else mfind r k

/-- The value of key k, d when the map does not list it. -/
def mget {α : Type} (m : Map α) (k : Nat) (d : α) : α := (mfind m k).getD d

/-- m with the value of key k replaced; a new key goes in front of the first greater one. -/
def mput {α : Type} : Map α → Nat → α → Map α
  | [], k, v => [(k, v)]
  | (j, w) :: r, k, v => if j = k then (k, v) :: r else if k < j then (k, v) :: (j, w) :: r else (j, w) :: mput r k v

/-- m without key k. -/
def mdel {α : Type} (m : Map α) (k : Nat) : Map α := m.filter fun e => e.1 != k

/-- The byte at address a; an unlisted one reads as zero. -/
def rdByte : Memory → Nat → Byte
  | [], _ => 0
  | (x, b) :: r, a => if x = a then b else rdByte r a

/-- The memory with byte b at address a, in canonical form. -/
def wrByte : Memory → Nat → Byte → Memory
  | [], a, b => if b = 0 then [] else [(a, b)]
  | (x, c) :: r, a, b =>
    if a < x then (if b = 0 then (x, c) :: r else (a, b) :: (x, c) :: r)
    else if x = a then (if b = 0 then r else (a, b) :: r)
    else (x, c) :: wrByte r a b

/-- Every address of the list is above lo, addresses strictly rise, no byte is zero. -/
def memAbove : Nat → Memory → Bool
  | _, [] => true
  | lo, (x, b) :: r => decide (lo ≤ x) && b != 0 && memAbove (x + 1) r

/-- The canonical form of a memory. -/
def Memory.wf (m : Memory) : Bool := memAbove 0 m

/-- n bytes from address a on. -/
def rdBytes (m : Memory) (a n : Nat) : List Byte := (List.range n).map fun i => rdByte m (a + i)

/-- The memory with the bytes bs from address a on. -/
def wrBytes : Memory → Nat → List Byte → Memory
  | m, _, [] => m
  | m, a, b :: bs => wrBytes (wrByte m a b) (a + 1) bs

/-- The little-endian number of a byte list (R6). -/
def ofLE : List Byte → Nat
  | [] => 0
  | b :: bs => b.toNat + 256 * ofLE bs

/-- n little-endian bytes of v. -/
def toLE : Nat → Nat → List Byte
  | 0, _ => []
  | n + 1, v => BitVec.ofNat 8 v :: toLE n (v / 256)

/-- The 64-bit word at address a. -/
def rdWord (m : Memory) (a : Nat) : Word := BitVec.ofNat 64 (ofLE (rdBytes m a 8))

/-- The memory with word w at address a. -/
def wrWord (m : Memory) (a : Nat) (w : Word) : Memory := wrBytes m a (toLE 8 w.toNat)

/-- The words of a byte list. -/
def wordsOf : Nat → List Byte → List Word
  | 0, _ => []
  | n + 1, bs => BitVec.ofNat 64 (ofLE (bs.take 8)) :: wordsOf n (bs.drop 8)

/-- The bytes of a list of words. -/
def bytesOf (ws : List Word) : List Byte := ws.flatMap fun w => toLE 8 w.toNat

/-- `bits(x, hi, lo)` of R9. -/
def bits (x : Word) (hi lo : Nat) : Nat := x.toNat / 2 ^ lo % 2 ^ (hi + 1 - lo)

/-- Bit i of x. -/
def bitOf (x : Word) (i : Nat) : Bool := x.toNat.testBit i

/-- x with bits hi to lo replaced by v. -/
def setBits (x : Word) (hi lo v : Nat) : Word :=
  BitVec.ofNat 64 (x.toNat - bits x hi lo * 2 ^ lo + v % 2 ^ (hi + 1 - lo) * 2 ^ lo)

/-- A number as a 64-bit word. -/
def w64 (n : Nat) : Word := BitVec.ofNat 64 n

/-- The n-bit value v as a two's complement integer. -/
def sInt (n v : Nat) : Int := if v % 2 ^ n < 2 ^ (n - 1) then ((v % 2 ^ n : Nat) : Int) else ((v % 2 ^ n : Nat) : Int) - ((2 ^ n : Nat) : Int)

/-- The 64-bit pattern of an integer. -/
def wInt (i : Int) : Word := BitVec.ofInt 64 i

/-- An unsigned division rounded up. -/
def cdiv (a b : Nat) : Nat := (a + b - 1) / b

/-- A counter one up, stopping at its largest value (R351). -/
def satInc (w : Word) : Word := if w = BitVec.allOnes 64 then w else w + 1

/-- Element i of a list replaced, the list lengthened with d where it is too short. -/
def lset {α : Type} (d : α) : List α → Nat → α → List α
  | [], 0, v => [v]
  | [], n + 1, v => d :: lset d [] n v
  | _ :: r, 0, v => v :: r
  | x :: r, n + 1, v => x :: lset d r n v

/-- The first n elements, filled up with d. -/
def padTo {α : Type} (d : α) (n : Nat) (l : List α) : List α := l.take n ++ List.replicate (n - l.length) d

/-- The elements of xs at which f answers some value, mapped. -/
def pick1 {α β : Type} (f : α → Option β) : List α → Option β
  | [] => none
  | x :: r => match f x with | some y => some y | none => pick1 f r

end Sys2Proof.Machine
end

