-- ==== Sys2Proof/Machine/Base.lean ====
section
/-! DEFINITION. Access to the parts of the state: cores, strands, towers, jobs, gangs; counters (R350, R351, R360); host events (R319,
R397); waking strands (R333). A core has the number 16 t + f. -/

namespace Sys2Proof.Machine

def State.core (s : State) (k : Nat) : Core := mget s.cores k {}
def State.setCore (s : State) (k : Nat) (c : Core) : State := { s with cores := mput s.cores k c }
def State.modCore (s : State) (k : Nat) (f : Core → Core) : State := s.setCore k (f (s.core k))
def Core.strand (c : Core) (i : Nat) : Strand := mget c.strands i {}
def Core.setStrand (c : Core) (i : Nat) (x : Strand) : Core := { c with strands := mput c.strands i x }
def State.strand (s : State) (k i : Nat) : Strand := (s.core k).strand i
def State.setStrand (s : State) (k i : Nat) (x : Strand) : State := s.setCore k ((s.core k).setStrand i x)
def State.modStrand (s : State) (k i : Nat) (f : Strand → Strand) : State := s.setStrand k i (f (s.strand k i))
def State.tower (s : State) (t : Nat) : Tower := mget s.towers t {}
def State.setTower (s : State) (t : Nat) (x : Tower) : State := { s with towers := mput s.towers t x }
def State.modTower (s : State) (t : Nat) (f : Tower → Tower) : State := s.setTower t (f (s.tower t))
def State.job? (s : State) (j : Nat) : Option Job := mfind s.jobs j
def State.setJob (s : State) (j : Nat) (x : Job) : State := { s with jobs := mput s.jobs j x }
def State.modJob (s : State) (j : Nat) (f : Job → Job) : State :=
  match s.job? j with | some x => s.setJob j (f x) | none => s
def State.launch? (s : State) (l : Nat) : Option Launch := mfind s.launches l
def State.modLaunch (s : State) (l : Nat) (f : Launch → Launch) : State :=
  match s.launch? l with | some x => { s with launches := mput s.launches l (f x) } | none => s
def State.gang? (s : State) (g : Nat) : Option Gang := mfind s.gangs g
def State.modGang (s : State) (g : Nat) (f : Gang → Gang) : State :=
  match s.gang? g with | some x => { s with gangs := mput s.gangs g (f x) } | none => s
def State.handle (s : State) (i : Nat) : HEntry := mget s.handles i {}
def State.setHandle (s : State) (i : Nat) (h : HEntry) : State := { s with handles := mput s.handles i h }
def State.modHandle (s : State) (i : Nat) (f : HEntry → HEntry) : State := s.setHandle i (f (s.handle i))
def State.fn (s : State) (n : Nat) : Fn := mget s.fns n {}
def State.setFn (s : State) (n : Nat) (x : Fn) : State := { s with fns := mput s.fns n x }
def State.port (s : State) (p : Nat) : Port := mget s.ports p {}
def State.setPort (s : State) (p : Nat) (x : Port) : State := { s with ports := mput s.ports p x }

/-- The tower of core k. -/
def towerOf (k : Nat) : Nat := k / 16

/-- The gang that holds core k, if one does. -/
def State.gangOf (s : State) (k : Nat) : Option Gang := (s.core k).gang.bind s.gang?

/-- The job whose gang holds core k; a free core belongs to no job, and number 64 names none. -/
def State.jobOf (s : State) (k : Nat) : Nat := match s.gangOf k with | some g => g.job | none => 64

/-- The launch whose gang holds core k. -/
def State.launchOf (s : State) (k : Nat) : Option Launch := (s.gangOf k).bind fun g => s.launch? g.launch

/-- The number of a gang core within its gang (R29). -/
def Gang.indexOf (g : Gang) (k : Nat) : Nat := g.cores.findIdx (· == k)

/-- The gang strand index of strand i of core k (R29). -/
def Gang.gsi (g : Gang) (k i : Nat) : Nat := g.indexOf k * 4 + i

/-- Core and strand of a gang strand index. -/
def Gang.ofGsi (g : Gang) (n : Nat) : Nat × Nat := (g.cores.getD (n / 4) 0, n % 4)

/-- The gang strand indices of the strands that are active (R38: not those that have executed EXIT). -/
def State.activeGsi (s : State) (g : Gang) : List Nat :=
  (List.range (4 * g.cores.length)).filter fun n => (s.strand (g.ofGsi n).1 (g.ofGsi n).2).st != .inactive

/-- A fresh ticket, tag or identity. -/
def State.fresh (s : State) : Nat × State := (s.uid, { s with uid := s.uid + 1 })

/-- The state with the free-value counter advanced. -/
def State.spend (s : State) : State := { s with freeCtr := s.freeCtr + 1 }

/-! ## Counters -/

/-- Tower counter n (R350). -/
def Tower.cntOf (t : Tower) (n : Nat) : Word := mget t.cnt n 0

/-- Tower counter n one up, saturating (R351). -/
def State.bump (s : State) (t n : Nat) : State :=
  s.modTower t fun x => { x with cnt := mput x.cnt n (satInc (x.cntOf n)) }

/-- Live jobs with a checkpoint area, ascending (R380). -/
def State.ckptJobs (s : State) : List Nat :=
  (s.jobs.filter fun e => e.2.ckptLen != 0 && !e.2.halted).map (·.1)

/-- Requests the checkpoint of R380 for every job that has an area. -/
def State.requestCkpt (s : State) : State := { s with ckpt := if s.ckpt.isEmpty then s.ckptJobs else s.ckpt }

/-- One error of kind e on tower t (R360): the total and the windowed count rise, and a count that reaches a nonzero threshold requests a
checkpoint, once per counter per window. -/
def State.bumpErr (s : State) (t e : Nat) : State :=
  let s := s.bump t (0x120 + e)
  let x := s.tower t
  let v := (x.cntOf (0x130 + e)).toNat
  let c := min (v / 65536 % 65536 + 1) 0xFFFF
  let th := v % 65536
  let s := s.setTower t { x with cnt := mput x.cnt (0x130 + e) (w64 (c * 65536 + th)) }
  let s := if e = 1 then { s with selfTestDue := true } else s
  if th ≠ 0 ∧ th ≤ c ∧ !x.requested.contains e then
    (s.modTower t fun x => { x with requested := e :: x.requested }).requestCkpt
  else s

/-! ## Gauges (R355 to R357) -/

def Job.guseOf (j : Job) (t g : Nat) : Nat := mget j.guse (t * 6 + g) 0

/-- Whether gauge g of the job admits a request on tower t. -/
def Job.admits (j : Job) (t g : Nat) : Bool :=
  let b := j.gbud.getD g 0xFFFFF
  b == 0xFFFFF || j.guseOf t g < b

/-- The job with a charge of units on gauge g (21 bits, R350). -/
def Job.charge (j : Job) (t g units : Nat) : Job :=
  { j with guse := mput j.guse (t * 6 + g) (min (j.guseOf t g + units) 0x1FFFFF) }

def State.admits (s : State) (job t g : Nat) : Bool := match s.job? job with | some j => j.admits t g | none => true
def State.charge (s : State) (job t g units : Nat) : State := s.modJob job fun j => j.charge t g units

/-! ## The coherence point (R280) -/

/-- A performed write triggers every entered watch of its lines, and wakes the strands parked on them (R266, R333). -/
def State.trigger (s : State) (lines : List Nat) : State :=
  s.cores.foldl (fun s e => (List.range 4).foldl (fun s i =>
    let x := s.strand e.1 i
    match x.watch with
    | some w =>
      if lines.contains w.line ∧ w.entered then
        let s := s.setStrand e.1 i { x with watch := some { w with triggered := true } }
        if x.st = .parked .watch then s.modStrand e.1 i fun x => { x with st := .ready, landFirst := true } else s
      else s
    | none => s) s) s

/-- Sectors that cells overwrite whole lose their poison. -/
def State.cleanSectors (s : State) (cells : List Host.Cell) : State :=
  { s with memPois := s.memPois.filter fun p => (cells.filter fun c => c.1 / 32 == p).length < 32 }

/-- The cells of consecutive bytes. -/
def cellsOf (a : Nat) : List Byte → List Host.Cell
  | [] => []
  | b :: bs => (a, b) :: cellsOf (a + 1) bs

/-- The lines of n bytes each that cells touch. -/
def linesOf (n : Nat) (cells : List Host.Cell) : List Nat := (cells.map fun c => c.1 / n).eraseDups

/-- Cells take their place in the coherence order (R280): memory has them, what they replace is noted, watches see them. -/
def State.putMem (s : State) (cells : List Host.Cell) : State :=
  let old := cells.map fun c => (c.1, rdByte s.mem c.1)
  (({ s with mem := cells.foldl (fun (m : Memory) (c : Host.Cell) => wrByte m c.1 c.2) s.mem, past := .wrote old :: s.past }).cleanSectors cells).trigger (linesOf 64 cells)

/-- Bytes that firmware or the host side writes at physical address a. -/
def State.poke (s : State) (a : Nat) (bs : List Byte) : State := s.putMem (cellsOf a bs)

/-! ## Host events -/

/-- Physical address of a host bus address (R200). -/
def hostPa (a : Nat) : Nat := 2 * 2 ^ 45 + a % 2 ^ 45

def Fn.en (f : Fn) : Bool := f.eqcfg.toNat.testBit 8
def Fn.log (f : Fn) : Nat := f.eqcfg.toNat % 32
def Fn.full (f : Fn) : Bool := (f.eqtail - f.eqhead).toNat == 2 ^ f.log

/-- Writes one event record into the function's queue (R397). -/
def State.pushEvent (s : State) (n : Nat) (r : List Word) : State :=
  let f := s.fn n
  let a := hostPa (f.eqbase.toNat + 64 * (f.eqtail.toNat % 2 ^ f.log))
  let s := s.poke a (bytesOf r)
  s.setFn n { f with eqtail := f.eqtail + 1, msixDue := f.msixDue || f.eqcfg.toNat.testBit 9 }

/-- Delivers up to m held events of function n, oldest first, while room exists (R397). -/
def State.deliverHeld (s : State) (n : Nat) : Nat → State
  | 0 => s
  | m + 1 =>
    let f := s.fn n
    match f.held with
    | r :: l => if f.en && !f.full then ((s.setFn n { f with held := l }).pushEvent n r).deliverHeld n m else s
    | [] => s

/-- An event for function n (R397): the held ones ahead of it, then written, held, or lost and counted. -/
def State.postRecord (s : State) (n : Nat) (r : List Word) : State :=
  let s := s.deliverHeld n (s.fn n).held.length
  let f := s.fn n
  if f.en ∧ ¬ f.full then s.pushEvent n r
  else if f.held.length < 64 then s.setFn n { f with held := f.held ++ [r] }
  else s.setFn n { f with eqdrop := satInc f.eqdrop }

/-- Posts an event of type ty (R319): job and tower in word 0 with the function's sequence number, HTAG in word 1, ws from word 2 on. -/
def State.postEvent (s : State) (n ty job t : Nat) (htag : Nat) (ws : List Word) : State :=
  let f := s.fn n
  let w0 := w64 (ty * 2 ^ 56 + job % 64 * 2 ^ 50 + t % 16 * 2 ^ 46 + f.seq.toNat)
  let s := s.setFn n { f with seq := f.seq + 1 }
  s.postRecord n (padTo 0 8 (w0 :: w64 htag :: ws))

/-- Posts an event to the function of a job. -/
def State.postJob (s : State) (ty job t htag : Nat) (ws : List Word) : State :=
  match s.job? job with | some j => s.postEvent j.fn ty job t htag ws | none => s

def Launch.htag (l : Launch) : Nat := (l.words.getD 7 0).toNat / 2 ^ 32

/-! ## Waiting and waking -/

/-- Takes a wait-table entry, or counts a park without one (R333). -/
def State.takeWait (s : State) (k i kind : Nat) (key : Word) : State × Bool :=
  let t := s.tower (towerOf k)
  let mine := t.waits.filter fun w => !(w.core == k && w.strand == i && w.kind == kind)
  if mine.length < 1024 then (s.setTower (towerOf k) { t with waits := mine ++ [⟨k, i, kind, key⟩] }, true)
  else (s.bump (towerOf k) 0x101, false)

/-- Frees the strand's wait-table entries of a kind. -/
def State.dropWait (s : State) (k i kind : Nat) : State :=
  s.modTower (towerOf k) fun t => { t with waits := t.waits.filter fun w => !(w.core == k && w.strand == i && w.kind == kind) }

/-- A parked strand becomes ready, its entry of that kind freed; it is selected once every result has landed (R35). -/
def State.wake (s : State) (k i kind : Nat) : State :=
  (s.dropWait k i kind).modStrand k i fun x => { x with st := .ready, landFirst := true }

/-- Whether the strand has a wait-table entry of a kind. -/
def State.hasWait (s : State) (k i kind : Nat) : Bool :=
  (s.tower (towerOf k)).waits.any fun w => w.core == k && w.strand == i && w.kind == kind

/-- Wakes every strand parked for state h with a wait-table entry; one without an entry is found by its recheck (R333). -/
def State.wakeAbsent (s : State) (h : Nat) : State :=
  s.cores.foldl (fun s e => (List.range 4).foldl (fun s i =>
    match (s.strand e.1 i).st with
    | .parked (.absent n _) => if n = h ∧ s.hasWait e.1 i 2 then s.wake e.1 i 2 else s
    | _ => s) s) s

/-- Wakes every strand parked for the reason p with a wait-table entry of a kind (R333). -/
def State.wakeAll (s : State) (p : Park) (kind : Nat) : State :=
  s.cores.foldl (fun s e => (List.range 4).foldl (fun s i =>
    if (s.strand e.1 i).st = .parked p ∧ s.hasWait e.1 i kind then s.wake e.1 i kind else s) s) s

end Sys2Proof.Machine
end

