-- ==== Sys2Proof/Machine/Mem.lean ====
section
/-! DEFINITION. Physical and virtual memory: regions (R200), page tables (R334, R335), the translation caches (R336), performing a write at its
coherence point with its effect on the L1 and L2 copies and on watches (R204, R209, R266, R280, R281), the scratchpad (R199, R205),
and the links' transmit side (R402 to R404). -/

namespace Sys2Proof.Machine

/-! ## Physical addresses (R200) -/

def region (pa : Nat) : Nat := pa / 2 ^ 45 % 8
def homeTower (pa : Nat) : Nat := pa / 2 ^ 37 % 16
def peerOf (pa : Nat) : Nat := pa / 2 ^ 41 % 16

/-- Mesh hops between two towers (R18). -/
def hops (a b : Nat) : Nat := (max (a / 4) (b / 4) - min (a / 4) (b / 4)) + (max (a % 4) (b % 4) - min (a % 4) (b % 4))

/-- The towers that traffic from a to b passes after a: along a's row to b's column, then along that column (R18, R407). -/
def route (a b : Nat) : List Nat :=
  let line (p q : Nat) : List Nat := if p ≤ q then (List.range (q - p)).map (p + 1 + ·) else (List.range (p - q)).map fun i => p - 1 - i
  (line (a % 4) (b % 4)).map (fun c => a / 4 * 4 + c) ++ (line (a / 4) (b / 4)).map fun r => r * 4 + b % 4

/-- The stack and the pseudo-channel that hold an address of region 0 (R202): 256-byte granules alternate, then rotate. -/
def stackOf (pa : Nat) : Nat := pa / 256 % 2
def channelOf (pa : Nat) : Nat := pa / 512 % 64

/-- An address of the part of HBM4E that a layer map-out took away (R387). -/
def State.lostAddr (s : State) (pa : Nat) : Bool :=
  region pa == 0 && decide (((s.tower (homeTower pa)).cntOf 0x100).toNat ≤ pa % 2 ^ 37)

/-- Whether any of n bytes from pa is poisoned (R217, R384, R387). -/
def State.poisoned (s : State) (pa n : Nat) : Bool :=
  (List.range (n / 32 + 2)).any fun i =>
    (pa / 32 + i) * 32 < pa + n && (s.memPois.contains (pa / 32 + i) || s.lostAddr ((pa / 32 + i) * 32))

/-- n bytes of memory at the coherence point, and whether they carry poison. -/
def State.physRead (s : State) (pa n : Nat) : List Byte × Bool := (rdBytes s.mem pa n, s.poisoned pa n)

/-- A line's bytes with the cells that fall into it put in place; base is its first address. -/
def patch (base : Nat) (data : List Byte) (cells : List Host.Cell) : List Byte :=
  cells.foldl (fun d c => if base ≤ c.1 ∧ c.1 < base + d.length then d.set (c.1 - base) c.2 else d) data

/-- The byte mask of cells within the 64-byte line ln. -/
def maskOf (ln : Nat) (cells : List Host.Cell) : BitVec 64 :=
  cells.foldl (fun m c => if c.1 / 64 = ln then m ||| (1 <<< (c.1 % 64)) else m) 0

/-- The runs of masked bytes of a line: offset and length. -/
def maskRuns (m : BitVec 64) : List (Nat × Nat) :=
  (List.range 64).foldl (fun l i =>
    if !m.getLsbD i then l
    else match l with
      | (o, n) :: r => if o + n = i then (o, n + 1) :: r else (i, 1) :: (o, n) :: r
      | [] => [(i, 1)]) []

/-- The lines of `size` bytes that n bytes at pa touch. -/
def linesAt (size pa n : Nat) : List Nat := ((List.range (n / size + 2)).map (pa / size + ·)).filter fun l => l * size < pa + n

/-- Counts an access from tower t to the page frame of pa for the hot-page tracker (R213). -/
def State.hotCount (s : State) (t pa : Nat) : State :=
  if region pa = 0 ∧ homeTower pa ≠ t then
    s.modTower (homeTower pa) fun x =>
      let n := (x.hot.find? fun h => h.1 == pa / 65536 && h.2.1 == t).map (·.2.2) |>.getD 0
      { x with hot := (pa / 65536, t, n + 1) :: x.hot.filter fun h => !(h.1 == pa / 65536 && h.2.1 == t) }
  else s

/-- The sectors that n bytes at pa touch become poisoned (R217, R384). -/
def State.poisonBytes (s : State) (pa n : Nat) : State :=
  let ss := linesAt 32 pa n
  { s with memPois := ss ++ s.memPois.filter fun p => !ss.contains p }

/-! ## Latent SRAM errors (R217) -/

/-- A read of words of core k's SRAMs: single-bit errors are corrected and counted; true where a word has two wrong bits. -/
def State.coreErrs (s : State) (k : Nat) (f : SramErr → Bool) : State × Bool :=
  let hit := (s.core k).errs.filter f
  if hit.isEmpty then (s, false)
  else
    ((hit.foldl (fun s e => if e.dbl then s else s.bumpErr (towerOf k) 0) s).modCore k fun c => { c with errs := c.errs.filter fun e => !f e }, hit.any (·.dbl))

/-- The same for the SRAMs of tower t. -/
def State.towerErrs (s : State) (t : Nat) (f : SramErr → Bool) : State × Bool :=
  let hit := (s.tower t).errs.filter f
  if hit.isEmpty then (s, false)
  else
    ((hit.foldl (fun s e => if e.dbl then s else s.bumpErr t 0) s).modTower t fun x => { x with errs := x.errs.filter fun e => !f e }, hit.any (·.dbl))

/-- An error of an SRAM whose words stand for the 8-byte words of physical memory, within n bytes at pa. -/
def SramErr.at (e : SramErr) (r : Sram) (pa n : Nat) : Bool := decide (e.sram = r) && decide (e.word * 8 < pa + n) && decide (pa < e.word * 8 + 8)

/-- The 64-bit words of the line of `size` bytes at `base` that n bytes at pa touch, or with `whole` cover. -/
def lineWords (whole : Bool) (base size pa n : Nat) : BitVec 16 :=
  (List.range (size / 8)).foldl (fun m j =>
    let a := base + 8 * j
    if (if whole then decide (pa ≤ a) && decide (a + 8 ≤ pa + n) else decide (pa < a + 8) && decide (a < pa + n)) then m ||| (1 <<< j) else m) 0

/-- A copy of the line of `size` bytes at `base` after a write of the bytes bs at pa: words written whole lose their poison, and with `pois` every
word written has it (R217). -/
def L1Line.patched (l : L1Line) (base size pa : Nat) (bs : List Byte) (pois : Bool) : L1Line :=
  { l with data := patch base l.data (cellsOf pa bs)
           poison := (l.poison &&& ~~~ lineWords true base size pa bs.length) ||| (if pois then lineWords false base size pa bs.length else 0) }

/-- Whether n bytes at pa of a copy of the line at `base` carry poison. -/
def L1Line.poisoned (l : L1Line) (base size pa n : Nat) : Bool := l.poison &&& lineWords false base size pa n != 0

/-- The words of the line of `size` bytes at `base` that carry poison in memory. -/
def State.poisonMask (s : State) (base size : Nat) : BitVec 16 :=
  (List.range (size / 8)).foldl (fun m j => if s.poisoned (base + 8 * j) 8 then m ||| (1 <<< j) else m) 0

/-- A read of the copy of line ln in core k's L1: latent errors of its words are corrected and counted, or poison them (R217). -/
def State.l1Checked (s : State) (k ln : Nat) (l : L1Line) : State × L1Line :=
  let f := fun (e : SramErr) => e.at .l1 (ln * 64) 64
  let bad := ((s.core k).errs.filter fun e => f e && e.dbl).foldl (fun (m : BitVec 16) e => m ||| (1 <<< (e.word % 8))) 0
  ((s.coreErrs k f).1, { l with poison := l.poison ||| bad })

/-- A read of n bytes at pa of the home Umbra cache of tower h: single-bit errors are corrected and counted, double ones poison their words for every
reader; true where one does (R217). -/
def State.umbraErrs (s : State) (h pa n : Nat) : State × Bool :=
  let f := fun (e : SramErr) => e.at .umbra pa n
  let bad := ((s.tower h).errs.filter fun e => f e && e.dbl).map (·.word * 8)
  (bad.foldl (fun s a => s.poisonBytes a 8) (s.towerErrs h f).1, !bad.isEmpty)

/-! ## The Umbra cache and the memory port's write queue (R209, R262, R294, R355) -/

/-- The sectors of the 128-byte line ln that n bytes at pa touch, or with `whole` cover. -/
def sectorsOf (whole : Bool) (ln pa n : Nat) : BitVec 4 :=
  (List.range 4).foldl (fun m i =>
    let a := ln * 128 + 32 * i
    if (if whole then decide (pa ≤ a) && decide (a + 32 ≤ pa + n) else decide (pa < a + 32) && decide (a < pa + n)) then m ||| (1 <<< i) else m) 0

def sectorCount (m : BitVec 4) : Nat := ((List.range 4).filter fun i => m.getLsbD i).length

/-- Bytes that HBM4E has to deliver for an access of n bytes at pa: the sectors that the Umbra cache lacks, those that a write covers whole excepted. -/
def State.umbraMiss (s : State) (pa n : Nat) (write : Bool) : Nat :=
  ((linesAt 128 pa n).map fun ln =>
    let u := mget (s.tower (homeTower pa)).umbra ln {}
    32 * sectorCount (sectorsOf false ln pa n &&& ~~~ u.valid &&& ~~~ (if write then sectorsOf true ln pa n else 0))).sum

/-- The lines of tower h's Umbra cache that may be replaced: clean ones, and those whose write to HBM4E the gauge of their job admits (R357). -/
def State.umbraOld (s : State) (h : Nat) : Map UmbraLine := (s.tower h).umbra.filter fun e => e.2.dirty == 0 || s.admits e.2.job h 0

/-- Whether an access of n bytes at pa may reach the Umbra cache of its home for a job: the gauge admits what HBM4E moves, and a line can be replaced
where the cache is full (R209, R357). -/
def State.umbraMay (s : State) (job pa n : Nat) (write : Bool) : Bool :=
  let h := homeTower pa
  region pa != 0 || ((s.umbraMiss pa n write == 0 || s.admits job h 0)
    && (decide ((s.tower h).umbra.length < 12582912) || !(s.umbraOld h).isEmpty || (linesAt 128 pa n).all fun ln => (mfind (s.tower h).umbra ln).isSome))

/-- Makes way for a line of tower h's Umbra cache: a line may be replaced, whose dirty sectors are written to HBM4E (R209). -/
def State.umbraEvict (s : State) (h : Nat) : State :=
  let l := s.umbraOld h
  let e := Config.pick s.freeCtr (l.length + 1) % (l.length + 1)
  match l[if 12582912 ≤ (s.tower h).umbra.length then e % l.length else e]? with
  | none => s.spend
  | some (ln, u) =>
    let s := (s.modTower h fun t => { t with umbra := mdel t.umbra ln }).spend
    if u.dirty = 0 then s else s.charge u.job h 0 (cdiv (32 * sectorCount u.dirty) 64)

/-- An access of n bytes at pa reaches the Umbra cache of its home for a job: what HBM4E moves is charged to gauge 0 (R355), and the pending
reduction steps of its lines are applied (R262). -/
def State.umbraUse (s : State) (job pa n : Nat) (write : Bool) : State :=
  if region pa ≠ 0 then s
  else
    let h := homeTower pa
    let b := s.umbraMiss pa n write
    let s := if b = 0 then s else s.charge job h 0 (cdiv b 64)
    (linesAt 128 pa n).foldl (fun s ln =>
      let m := sectorsOf false ln pa n
      let s := if (mfind (s.tower h).umbra ln).isSome then s else s.umbraEvict h
      s.modTower h fun t =>
        let u := mget t.umbra ln {}
        { t with umbra := mput t.umbra ln { valid := u.valid ||| m, dirty := if write then u.dirty ||| m else u.dirty, job := if write then job else u.job }
                 wq := mdel t.wq ln }) s

/-- Whether a reduction folds into a pending step: an integer one of the same word, operation and size (R262). -/
def RedStep.folds (a b : RedStep) : Bool :=
  a.pa == b.pa && decide (a.op = b.op) && a.dbl == b.dbl && (match a.op with | .fadd => false | .fmin => false | .fmax => false | _ => true)

/-- Whether the write queue of pa's home takes a write, or a reduction step, now (R262, R294). -/
def State.wqRoom (s : State) (pa : Nat) (r : Option RedStep) : Bool :=
  let q := (s.tower (homeTower pa)).wq
  match mfind q (pa / 128) with
  | some l => (match r with | some x => l.any (x.folds ·) || decide (l.length < 32) | none => true)
  | none => decide (q.length < 512)

/-- A reduction step joins the pending ones of its line; its effect stands in memory. -/
def State.wqNote (s : State) (l : List RedStep) (r : RedStep) : State :=
  s.modTower (homeTower r.pa) fun t => { t with wq := mput t.wq (r.pa / 128) (if l.any (r.folds ·) then l else l ++ [r]) }

/-! ## A tower's L2 and the way home (R204, R209, R279, R280) -/

/-- L1 after a write of its own core at L2: its copy is updated and clean there (R204). -/
def Core.l1Patch (c : Core) (pa : Nat) (bs : List Byte) (pois : Bool) : Core :=
  { c with l1 := (linesAt 64 pa bs.length).foldl (fun m ln =>
      match mfind m ln with
      | none => m
      | some l => mput m ln { l.patched (ln * 64) 64 pa bs pois with dirty := l.dirty &&& ~~~ maskOf ln (cellsOf pa bs) }) c.l1 }

/-- L2 after a write performed there. -/
def Tower.l2Patch (t : Tower) (pa : Nat) (bs : List Byte) (pois : Bool) : Tower :=
  { t with l2 := (linesAt 128 pa bs.length).foldl (fun m ln =>
      match mfind m ln with
      | none => m
      | some l => mput m ln (l.patched (ln * 128) 128 pa bs pois)) t.l2 }

/-- A store of core k is performed at its tower's L2 and is on its way home, which it reaches at a free moment; the number it bears tells it apart. -/
def State.toOut (s : State) (k : Nat) (e : SqEntry) : State :=
  let e := { e with latest := s.now + Config.extra s.freeCtr, at_ := s.uid }
  (({ s with uid := s.uid + 1 }).modTower (towerOf k) fun t => { t.l2Patch e.pa e.bytes e.pois with out := t.out ++ [(k, e)] }).spend

/-- The dirty bytes of line ln of core k's L1, as writes of its job, with the poison of their words. -/
def State.dirtyEntries (s : State) (k ln : Nat) (l : L1Line) : List SqEntry :=
  (maskRuns l.dirty).zipIdx.map fun r =>
    { group := l.dirty, lead := r.2 == 0, uid := s.uid + r.2, strand := 4, cls := 0, kind := .store, job := s.jobOf k, va := 0, pa := ln * 64 + r.1.1
      bytes := (l.data.drop r.1.1).take r.1.2, pois := l.poisoned 0 64 r.1.1 r.1.2 }

/-- Line ln leaves core k's L1; its dirty bytes go to L2 (R204). -/
def State.dropLine (s : State) (k ln : Nat) : State :=
  match mfind (s.core k).l1 ln with
  | none => s
  | some l =>
    let s := s.modCore k fun c => { c with l1 := mdel c.l1 ln }
    if l.dirty = 0 then s
    else
      let (s, l) := s.l1Checked k ln l
      let es := s.dirtyEntries k ln l
      es.foldl (fun s e => s.toOut k e) { s with uid := s.uid + es.length }

/-- A write at the L2 of core k's tower invalidates the copies of its other cores (R204); where one of them is dirty the writer's own copy is
dropped as well. -/
def State.dropOthers (s : State) (k ln : Nat) : State :=
  let mine := s.cores.filter fun (e : Nat × Core) => e.1 != k && towerOf e.1 == towerOf k && (mfind e.2.l1 ln).isSome
  let s := mine.foldl (fun s e => s.dropLine e.1 ln) s
  if mine.any fun e => (mfind e.2.l1 ln).any fun l => l.dirty != 0 then s.dropLine k ln else s

/-- A store of core k is performed at its tower's L2 (R204, R279). -/
def State.performL2 (s : State) (k : Nat) (e : SqEntry) : State :=
  (((linesAt 64 e.pa e.bytes.length).foldl (fun s ln => s.dropOthers k ln) s).modCore k fun c => c.l1Patch e.pa e.bytes e.pois).toOut k e

/-- Writes back line ln of core k's L1: its dirty bytes are performed at L2 (R204). -/
def State.writeBackLine (s : State) (k ln : Nat) : State :=
  match mfind (s.core k).l1 ln with
  | none => s
  | some l =>
    if l.dirty = 0 then s
    else
      let (s, l) := s.l1Checked k ln l
      let es := s.dirtyEntries k ln l
      es.foldl (fun s e => s.performL2 k e) { s with uid := s.uid + es.length }

/-- Writes back every dirty line of core k's L1 (R39, R49, R263). -/
def State.writeBack (s : State) (k : Nat) : State := (s.core k).l1.foldl (fun s e => s.writeBackLine k e.1) s

/-- Whether core k's L1 holds a dirty line. -/
def Core.dirty (c : Core) : Bool := c.l1.any fun e => e.2.dirty != 0

/-- The copies of the lines of cells that tower t holds are invalidated. -/
def State.dropTower (s : State) (t : Nat) (cells : List Host.Cell) : State :=
  let s := (s.cores.filter fun (e : Nat × Core) => towerOf e.1 == t).foldl (fun s e => (linesOf 64 cells).foldl (fun s ln => s.dropLine e.1 ln) s) s
  s.modTower t fun x => { x with l2 := x.l2.filter fun e => !(linesOf 128 cells).contains e.1 }

/-- A write of consecutive cells by tower t performs at its coherence point (R209, R280), for a job, and so at every narrower scope: the copies of its
home tower are invalidated, but for a write that comes through that tower's own L2, which has it (R279, R281). -/
def State.performHome (s : State) (t job : Nat) (cells : List Host.Cell) (pois l2 : Bool := false) : State :=
  match cells with
  | [] => s
  | (a, _) :: _ =>
    let s :=
      if region a ≠ 0 then s.putMem cells
      else
        let s := if l2 && homeTower a == t then s else s.dropTower (homeTower a) cells
        ((s.putMem cells).umbraUse job a cells.length true).hotCount t a
    if pois then s.poisonBytes a cells.length else s

/-- Bytes an access covers, and its place: scratchpad offsets apart from physical addresses. -/
def aopBytes (dbl : Bool) : Nat := if dbl then 8 else 4
def SqEntry.len (e : SqEntry) : Nat := match e.kind with | .store => e.bytes.length | _ => aopBytes e.dbl
def scrLoc (off : Nat) : Nat := 2 ^ 63 + off
def SqEntry.loc (e : SqEntry) : Nat := if e.scr then scrLoc e.pa else e.pa
def SqEntry.overlaps (e : SqEntry) (loc n : Nat) : Bool := decide (e.loc < loc + n) && decide (loc < e.loc + e.len)

/-- Whether write a on its way home must reach it before write e behind it (R280, R282). -/
def outOrder (a e : Nat × SqEntry) : Bool :=
  a.2.overlaps e.2.loc e.2.len
    || (a.1 == e.1 && a.2.strand == e.2.strand && decide (a.2.strand < 4)
        && ((a.2.cls == e.2.cls && a.2.cls != 0) || a.2.cls == 15 || e.2.cls == 15))

/-- Whether a migration of its home tower holds back writes to this address (R214, R338). -/
def State.migrating (s : State) (pa : Nat) : Bool :=
  region pa == 0 && (s.tower (homeTower pa)).migr.any fun m => m.frozen && m.old / 2 ^ m.bits == pa / 2 ^ m.bits

/-- Whether no access that tower t queued earlier is left of those that a migration released with entry e (R214 step 5). -/
def State.turnFree (s : State) (t : Nat) (e : SqEntry) : Bool :=
  e.turn == 0 || !(((s.tower t).out ++ (s.tower t).held).any fun a => a.2.turn == e.turn && decide (a.2.at_ < e.at_))

/-- Whether the order of writes and a migration let entry e of tower t's way home go. -/
def State.outFree (s : State) (t : Nat) (e : Nat × SqEntry) : Bool :=
  !s.migrating e.2.pa && s.turnFree t e.2 && ((s.tower t).out.takeWhile fun a => a.2.uid != e.2.uid).all fun a => !outOrder a e

/-! ## Page tables (R334, R335) -/

/-- The lowest address bit that a table of the given level translates. -/
def levelShift : Nat → Nat
  | 0 => 16 | 1 => 21 | 2 => 30 | _ => 39

/-- Bits that index a table of the given level. -/
def levelBits : Nat → Nat
  | 0 => 5 | 1 => 9 | 2 => 9 | _ => 18

/-- A region-0 address names a tower of the device, with bits 44 to 41 zero; region 1 and 2 addresses are free (R200). -/
def frameOk (pa : Nat) : Bool :=
  (region pa == 0 && pa / 2 ^ 37 % 256 < 12) || region pa == 1 || region pa == 2

/-- Whether a valid entry met at the given level is malformed (R335). -/
def entryBad (lvl : Nat) (w : Word) : Bool :=
  let addr := bits w 47 8 * 256
  let leaf := bitOf w 62
  bits w 56 48 != 0 || bits w 7 0 != 0 || (leaf && lvl == 3) || (!leaf && lvl == 0)
    || (!leaf && (bits w 61 57 != 0 || region addr != 0 || !frameOk addr || (2 ≤ lvl && addr % 4096 != 0)))
    || (leaf && (addr % 2 ^ levelShift lvl != 0 || !frameOk addr))

/-- The mapping a leaf entry gives. -/
def leafOf (job lvl va : Nat) (w : Word) : Tlb :=
  let b := levelShift lvl
  { job := job, bits := b, vpn := va / 2 ^ b, pfn := bits w 47 8 * 256 / 2 ^ b
    w := bitOf w 61, x := bitOf w 60, dup := bitOf w 59, pin := bitOf w 58, nc := bitOf w 57 }

/-- The walk from a table of the given level: the mapping, or cause and detail. -/
def walkFrom (m : Memory) (job va : Nat) : Nat → Nat → Except (Nat × Nat) Tlb
  | lvl, tb =>
    let w := rdWord m (tb + 8 * (va / 2 ^ levelShift lvl % 2 ^ levelBits lvl))
    if !bitOf w 63 then .error (0x13, 1)
    else if entryBad lvl w then .error (0x13, 2)
    else if bitOf w 62 then .ok (leafOf job lvl va w)
    else match lvl with
      | 0 => .error (0x13, 2)
      | n + 1 => walkFrom m job va n (bits w 47 8 * 256)

/-- The addresses of the entries a walk reads (R367). -/
def walkReads (m : Memory) (va : Nat) : Nat → Nat → List Nat
  | lvl, tb =>
    let a := tb + 8 * (va / 2 ^ levelShift lvl % 2 ^ levelBits lvl)
    let w := rdWord m a
    if !bitOf w 63 || entryBad lvl w || bitOf w 62 then [a]
    else match lvl with
      | 0 => [a]
      | n + 1 => a :: walkReads m va n (bits w 47 8 * 256)

/-- The walk of a job's tables for a global virtual address. -/
def State.walk (s : State) (job : Nat) (va : Nat) : Except (Nat × Nat) Tlb :=
  match s.job? job with
  | some j => walkFrom s.mem job va 3 j.root
  | none => .error (0x13, 1)

def Tlb.hits (e : Tlb) (job va : Nat) : Bool := e.job == job && e.vpn == va / 2 ^ e.bits
def Tlb.pa (e : Tlb) (va : Nat) : Nat := e.pfn * 2 ^ e.bits + va % 2 ^ e.bits

/-- A translation at a core: a mapping of its caches, a need, or the fault that its walk found. -/
inductive XRes where
  | ok (e : Tlb) | need (n : Need) | bad (code detail : Nat)
deriving DecidableEq, Repr

def Core.fill? (c : Core) (n : Need) : Option Fill := c.fills.find? fun f => decide (f.need = n)

/-- The translation of va at core k for a job (R336). Where the shade context has walked for it and the mapping has left the caches since, the walk
counts as made again (R337). -/
def State.xlate (s : State) (k job va : Nat) : XRes :=
  let c := s.core k
  match (c.tlb1.find? fun e => e.hits job va), (s.tower (towerOf k)).tlb2.find? fun e => e.hits job va with
  | some e, _ => .ok e
  | none, some e => .ok e
  | none, none =>
    let n := Need.tlb job (w64 (va / 65536 * 65536))
    match c.fill? n with
    | some f => match f.cause with
      | some (a, b) => .bad a b
      | none => match s.walk job va with | .ok e => .ok e | .error (a, b) => .bad a b
    | none => .need n

/-- Adds a mapping to the caches of core k and its tower; a full cache loses an entry of its choice (R336). -/
def State.addTlb (s : State) (k : Nat) (e : Tlb) : State :=
  let cut (n : Nat) (l : List Tlb) := if l.length < n then l else l.eraseIdx (Config.pick s.freeCtr n % n)
  let s := s.modCore k fun c => { c with tlb1 := cut 64 c.tlb1 ++ [e] }
  (s.modTower (towerOf k) fun t => { t with tlb2 := cut 8192 t.tlb2 ++ [e] }).spend

/-- Drops every cached translation that f selects, on the whole device (R214, R337). -/
def State.dropTlb (s : State) (f : Tlb → Bool) : State :=
  { s with
    cores := s.cores.map fun e => (e.1, { e.2 with tlb1 := e.2.tlb1.filter fun x => !f x })
    towers := s.towers.map fun e => (e.1, { e.2 with tlb2 := e.2.tlb2.filter fun x => !f x }) }

/-! ## Links: the transmit side -/

/-- The lowest-numbered port that is up to the peer (R403). -/
def State.portTo (s : State) (peer : Nat) : Option Nat :=
  (List.range 16).find? fun p => (s.port p).up && (s.port p).peer == peer

/-- Sends what the lane stops and the limit of 2,048 unacknowledged flits let through (R404, R405). -/
def Port.pump (p : Port) : Nat → Port
  | 0 => p
  | n + 1 =>
    match (List.range 4).find? fun v => !p.stopTx.getLsbD v && !(mget p.queues v []).isEmpty with
    | none => p
    | some v =>
      if p.unacked.length < 2048 ∧ p.retrainDue = none then
        match mget p.queues v [] with
        | [] => p
        | f :: r => Port.pump { p with queues := mput p.queues v r, unacked := p.unacked ++ [{ f with seq := p.txSeq }], txSeq := (p.txSeq + 1) % 4096 } n
      else p

/-- Queues a flit for a peer on lane vl (R402, R403); false when no port is up to it. -/
def State.sendFlit (s : State) (peer vl ty : Nat) (pl : FlitPayload) (tag core : Nat) (who : Option (Nat × Nat) := none) : State × Bool :=
  match s.portTo peer with
  | none => (s, false)
  | some p =>
    let x := s.port p
    let f : Flit := { seq := 0, vl := vl, ty := ty, dst := peer, payload := pl, tag := tag, core := core, who := who }
    (s.setPort p (Port.pump { x with queues := mput x.queues vl (mget x.queues vl [] ++ [f]) } 1), true)

/-- The pieces of at most 128 bytes of n bytes, as flits carry them: offset and length (R402). -/
def flitPieces (n : Nat) : List (Nat × Nat) := (List.range (cdiv n 128)).map fun j => (128 * j, min 128 (n - 128 * j))

/-- The duplicate of a write to a DUP page goes to the partner (R201, R355 gauge 3); without a partner none is sent. The writer is strand i of
core k, or the firmware of tower t; `cls` and `cmd` are the access's class and command, `first` says that it opens its request. -/
def State.duplicate (s : State) (t : Nat) (who : Option (Nat × Nat)) (job pa : Nat) (bs : List Byte) (cls cmd : Nat := 0) (first : Bool := true) : State :=
  if s.partner = 0xFF then s
  else
    (flitPieces bs.length).foldl (fun s p =>
      match s.sendFlit s.partner 2 5 (.dupWrite (pa + p.1) ((bs.drop p.1).take p.2)) s.uid (16 * t) with
      | (s, true) =>
        let s := { s with dups := s.dups ++ [{ uid := s.uid, who := who, cls := cls, job := job, cmd := cmd }], uid := s.uid + 1 }
        match who with | some w => s.modStrand w.1 w.2 fun x => { x with dupOut := x.dupOut + 1 } | none => s
      | (s, false) => s) (if first then s.charge job t 3 (cdiv bs.length 64) else s)

/-- A store to a peer's memory leaves on lane 0, for a job of tower t (R355 gauge 4, R403); `core`, `who` and `tag` tell whose it is. -/
def State.sendStore (s : State) (t job pa : Nat) (bs : List Byte) (pois : Bool) (core : Nat) (who : Option (Nat × Nat)) (first : Bool := true) (tag : Nat := 0) : State :=
  (flitPieces bs.length).foldl (fun s p =>
    (s.sendFlit (peerOf pa) 0 1 (.store (pa % 2 ^ 41 + p.1) ((bs.drop p.1).take p.2) pois) tag core who).1) (if first then s.charge job t 4 (cdiv bs.length 64) else s)

/-- Whether every flit of the stores with a tag is acknowledged. -/
def State.storesAcked (s : State) (tag : Nat) : Bool :=
  !(s.ports.any fun p => (p.2.unacked ++ p.2.queues.flatMap (·.2)).any fun x => x.ty == 1 && x.tag == tag)

/-! ## Reaching home -/

/-- The strand whose duplicates a write's are counted with: its own, or that of the command for engine writes (R264). -/
def SqEntry.dupOwner (e : SqEntry) : Option Nat := if e.strand < 4 then some e.strand else if 8 ≤ e.strand then some (e.strand - 8) else none

/-- Whether accesses of strand i to peers or host memory, of the classes that f selects, are not acknowledged. -/
def State.unacked (s : State) (k i : Nat) (f : Nat → Bool) : Bool :=
  (s.hostAcks.any fun a => a.1 == k && a.2.1 == i && f a.2.2.1)
    || (s.ports.any fun p => (p.2.unacked ++ p.2.queues.flatMap (·.2)).any fun x => x.core == k && x.who.any fun w => w.1 == i && f w.2)
    || s.remote.any fun e => match e.2 with | .amo k' a => k' == k && a.strand == i && f a.cls | _ => false

/-- The accesses of core k that are not performed at L2: those of its store queue, those held for a migration, and the atomics that a peer has not
answered. -/
def State.waiting (s : State) (k : Nat) : List SqEntry :=
  (s.core k).sq ++ ((s.tower (towerOf k)).held.filter fun e => e.1 == k).map (·.2)
    ++ s.remote.filterMap fun e => match e.2 with | .amo k' a => if k' = k then some a else none | _ => none

/-- Whether duplicates of strand i's writes of class c are not acknowledged. -/
def State.dupWaits (s : State) (k i c : Nat) : Bool := s.dups.any fun d => decide (d.who = some (k, i)) && d.cls == c

/-- What HBM4E delivers for the whole request of which entry e is a run: its sectors that the request does not write whole (R355). -/
def State.groupUse (s : State) (e : SqEntry) : State :=
  let base := e.pa / 64 * 64
  (List.range 2).foldl (fun s j =>
    let m := e.group.toNat / 2 ^ (32 * j) % 2 ^ 32
    if m = 0 ∨ m = 2 ^ 32 - 1 then s else s.umbraUse e.job (base + 32 * j) 32 false) s

/-- A write of tower t's way home reaches it (R279), or its port where it is a peer's; on a DUP page its duplicate goes out (R201). -/
def State.sendHome (s : State) (t : Nat) (e : Nat × SqEntry) : State :=
  let s := s.modTower t fun x => { x with out := x.out.filter fun a => a.2.uid != e.2.uid }
  if region e.2.pa = 1 then s.sendStore t e.2.job e.2.pa e.2.bytes e.2.pois e.1 (e.2.dupOwner.map fun _ => (e.2.strand, e.2.cls)) e.2.lead e.2.tag
  else
    let s := (s.groupUse e.2).performHome t e.2.job (cellsOf e.2.pa e.2.bytes) e.2.pois (e.2.strand != 6)
    if e.2.dup then s.duplicate t (e.2.dupOwner.map fun i => (e.1, i)) e.2.job e.2.pa e.2.bytes e.2.cls e.2.tag e.2.lead else s

/-- Whether a direct store of region 0 that reaches its home, where system scope is reached with it, comes after the strand's earlier ones of its class at
that scope too: those to peers and the host, and, where it is on no DUP page itself, those on DUP pages (R279, R282). -/
def State.sysOrder (s : State) (k : Nat) (e : SqEntry) : Bool :=
  decide (4 ≤ e.strand) || e.cls == 0 || (!(s.unacked k e.strand (· == e.cls)) && (e.dup || !s.dupWaits k e.strand e.cls))

/-- Whether it may go now: order, migration, room in the home's write queue, and the gauges of what it moves (R294, R355, R357). -/
def State.outMay (s : State) (t : Nat) (e : Nat × SqEntry) : Bool :=
  s.outFree t e
    && (if region e.2.pa = 1 then !e.2.lead || s.admits e.2.job t 4
        else s.sysOrder e.1 e.2 && s.wqRoom e.2.pa none && s.umbraMay e.2.job e.2.pa e.2.bytes.length true
          && (!e.2.dup || !e.2.lead || s.partner == 0xFF || s.admits e.2.job t 3))

/-- The writes of tower t's way home up to the last that f selects go home at once, as far as they may. -/
def State.pushHome (s : State) (t : Nat) (f : Nat × SqEntry → Bool) : State :=
  let l := (s.tower t).out
  match (l.filter f).getLast? with
  | none => s
  | some z => (l.takeWhile (fun a => a.2.uid != z.2.uid) ++ [z]).foldl (fun s e => if s.outMay t e then s.sendHome t e else s) s

/-- Every copy of the line that holds pa, on the whole device, is written back and invalidated (R261). -/
def State.recall (s : State) (pa : Nat) : State :=
  let ln := pa / 128
  let s := s.cores.foldl (fun s e => (s.dropLine e.1 (2 * ln)).dropLine e.1 (2 * ln + 1)) s
  let s := (List.range 12).foldl (fun s t => s.pushHome t fun e => e.2.overlaps (ln * 128) 128) s
  { s with towers := s.towers.map fun e => (e.1, { e.2 with l2 := e.2.l2.filter fun l => l.1 != ln }) }

/-- Whether no write to n bytes at pa is left in a dirty L1 line or on its way home. -/
def State.recalled (s : State) (pa n : Nat) : Bool :=
  !(s.towers.any fun t => t.2.out.any fun e => e.2.overlaps pa n) && !(s.cores.any fun c => (linesAt 64 pa n).any fun ln => (mfind c.2.l1 ln).any fun l => l.dirty != 0)

/-- An acquire of device scope or wider by core k: its L1 and its tower's L2 keep no line homed in another tower, dirty ones written back (R263,
R281 item 4). -/
def State.acquire (s : State) (k : Nat) : State :=
  let t := towerOf k
  let far (ln : Nat) : Bool := homeTower (ln * 64) != t
  let s := ((s.core k).l1.filter fun e => far e.1).foldl (fun s e => s.writeBackLine k e.1) s
  let s := s.modCore k fun c => { c with l1 := c.l1.filter fun e => !far e.1 }
  s.modTower t fun x => { x with l2 := x.l2.filter fun e => homeTower (e.1 * 128) == t }

/-- Core k and its tower keep no copy of the lines that n bytes at pa touch (a load at the coherence point; R281 items 5 and 6). -/
def State.dropCopies (s : State) (k pa n : Nat) : State :=
  let s := (linesAt 64 pa n).foldl (fun s l => s.dropLine k l) s
  s.modTower (towerOf k) fun x => { x with l2 := x.l2.filter fun e => !(linesAt 128 pa n).contains e.1 }

/-- The line of n bytes at pa as an L2 of tower t that has no copy of it fetches it: from home, with the tower's own writes still on their way. -/
def State.towerLine (s : State) (t pa n : Nat) : L1Line :=
  ((s.tower t).out.filter fun e => e.2.overlaps pa n).foldl (fun l e => l.patched pa n e.2.pa e.2.bytes e.2.pois) { data := rdBytes s.mem pa n, poison := s.poisonMask pa n }

/-- A read of n bytes at pa by tower t for a job that its L2 does not serve: what it moves and counts (R213, R355). -/
def State.homeUse (s : State) (t job pa n : Nat) : State := (s.umbraUse job pa n false).hotCount t pa

/-- The same with the words that the home's Umbra cache holds: whether one of them is uncorrectable (R217). -/
def State.homeFetch (s : State) (t job pa n : Nat) : State × Bool :=
  if region pa ≠ 0 then (s, false) else (s.homeUse t job pa n).umbraErrs (homeTower pa) pa n

/-- The same for an engine, which finds in its tower's L2 the lines that L2 holds. -/
def State.readUse (s : State) (t job pa n : Nat) : State × Bool :=
  if region pa ≠ 0 then (s, false)
  else (linesAt 128 pa n).foldl (fun acc ln =>
    if (mfind (s.tower t).l2 ln).isSome then acc else let (s, b) := acc.1.homeFetch t job (ln * 128) 128; (s, acc.2 || b)) (s, false)

/-! ## Virtual accesses of engines and firmware -/

/-- The physical address and mapping of a global virtual address, with the fault of its walk; a peer that no port reaches is the address fault (R404). -/
def State.vaddr (s : State) (job va : Nat) (write : Bool) : Except (Nat × Nat) (Nat × Tlb) :=
  if 2 ^ 57 ≤ va then .error (0x10, 1)
  else match s.walk job va with
    | .error e => .error e
    | .ok t =>
      if region (t.pa va) = 1 ∧ (s.portTo (peerOf (t.pa va))).isNone then .error (0x10, 1)
      else if write && !t.w then .error (0x14, 1) else .ok (t.pa va, t)

/-- The pieces of n bytes from va that lie in one 64 KiB page each: address and length. -/
def pieces : Nat → Nat → Nat → List (Nat × Nat)
  | 0, _, _ => []
  | fuel + 1, va, n =>
    if n = 0 then [] else
    let c := min n (65536 - va % 65536)
    (va, c) :: pieces fuel (va + c) (n - c)

/-- The address of the first operation syllable of the bundle at a (R57): past a header in s0, where the bundle can be read. -/
def State.firstOf (s : State) (k : Nat) (a : Word) : Word :=
  match s.vaddr (s.jobOf k) a.toNat false with
  | .ok (pa, _) => if a.toNat % 16 = 0 ∧ region pa = 0 ∧ (rdByte s.mem (pa + 3)).toNat / 8 % 16 = 15 then a + 4 else a
  | .error _ => a

/-- A read of n bytes at a virtual address of a job: bytes and poison, or the first fault and its address. -/
def State.vread (s : State) (job va n : Nat) : Except (Nat × Nat × Nat) (List Byte × Bool) :=
  (pieces (n / 65536 + 2) va n).foldl (fun acc p =>
    match acc with
    | .error e => .error e
    | .ok (bs, po) =>
      match s.vaddr job p.1 false with
      | .error (c, d) => .error (c, d, p.1)
      | .ok (pa, _) =>
        let now := if region pa = 1 then (List.range p.2).map fun j => Config.peerByte s.freeCtr (pa + j) else rdBytes s.mem pa p.2
        .ok (bs ++ now, po || s.poisoned pa p.2)) (.ok ([], false))

/-- What a read of n bytes at a virtual address of a job by an engine of tower t moves and counts, and whether a word is uncorrectable. -/
def State.vused (s : State) (t job va n : Nat) : State × Bool :=
  (pieces (n / 65536 + 2) va n).foldl (fun acc p => match acc.1.vaddr job p.1 false with
    | .ok (pa, _) => let (s, b) := acc.1.readUse t job pa p.2; (s, acc.2 || b)
    | .error _ => acc) (s, false)

/-- A read of n bytes at a virtual address of a job, past L1 and L2, by tower t: what it moves and counts, and whether a word is uncorrectable. -/
def State.vfetch (s : State) (t job va n : Nat) : State × Bool :=
  (pieces (n / 65536 + 2) va n).foldl (fun acc p => match acc.1.vaddr job p.1 false with
    | .ok (pa, _) => let (s, b) := acc.1.homeFetch t job pa p.2; (s, acc.2 || b)
    | .error _ => acc) (s, false)

/-- Whether its gauge admits what HBM4E has to deliver for it (R357). -/
def State.vmay (s : State) (job va n : Nat) : Bool :=
  (pieces (n / 65536 + 2) va n).all fun p => match s.vaddr job p.1 false with | .ok (pa, _) => s.umbraMay job pa p.2 false | .error _ => true

/-- A write by an engine of core k for strand i (`who`), or by firmware of tower t, at a virtual address: performed piece by piece; the first fault
stops it with what was written already. An engine's writes are performed at L2 and go home; `tag` is its command. Firmware writes at home, or
waits for a migration or a gauge on the tower's way home (R214, R357); a write to a peer waits there for its gauge. -/
def State.vwrite (s : State) (t : Nat) (who : Option (Nat × Nat)) (job va : Nat) (bs : List Byte) (tag : Nat := 0) : State × Option (Nat × Nat × Nat) :=
  let r := (pieces (bs.length / 65536 + 2) va bs.length).foldl (fun (acc : State × Option (Nat × Nat × Nat) × List Byte) p =>
    match acc with
    | (s, some e, r) => (s, some e, r)
    | (s, none, r) =>
      match s.vaddr job p.1 true with
      | .error (c, d) => (s, some (c, d, p.1), r)
      | .ok (pa, e) =>
        let bs := r.take p.2
        let w : SqEntry := { uid := s.uid, strand := match who with | some x => 8 + x.2 | none => 6, cls := 0, kind := .store, job := job, va := w64 p.1, pa := pa
                             bytes := bs, dup := e.dup, nc := e.nc, tag := tag }
        let s := { s with uid := s.uid + 1 }
        let core := (who.map (·.1)).getD (16 * t)
        let s :=
          if region pa = 1 then
            if s.admits job t 4 then s.sendStore t job pa bs false core (who.map fun x => (8 + x.2, 0)) true tag else s.toOut core w
          else if region pa ≠ 0 then
            let s := s.performHome t job (cellsOf pa bs)
            let w := (who.map fun x => (x.1, 8 + x.2)).getD (16 * t, 6)
            { s with hostAcks := s.hostAcks ++ [(w.1, w.2, 0, s.now + Config.extra s.freeCtr)] }.spend
          else match who with
            | some x => s.performL2 x.1 w
            | none =>
              if s.migrating pa || !s.umbraMay job pa bs.length true || (e.dup && s.partner != 0xFF && !s.admits job t 3) then s.toOut (16 * t) w
              else
                let s := s.performHome t job (cellsOf pa bs)
                if e.dup then s.duplicate t none job pa bs 0 tag else s
        (s, none, r.drop p.2)) (s, none, bs)
  (r.1, r.2.1)

/-! ## Scratchpad (R199, R205) -/

/-- Scratchpad bytes of the present launch: S. -/
def Core.scrSize (c : Core) : Nat := c.scr * 32768

/-- Reads n scratchpad bytes: a latent single-bit error is corrected and counted, a double one poisons its word (R217). -/
def State.scrRead (s : State) (k off n : Nat) : State × List Byte × Bool :=
  let c := s.core k
  let mine := fun (w : Nat) => decide (w * 8 < off + n) && decide (off < w * 8 + 8)
  let hit := c.nearErr.filter fun e => mine e.1
  let s := if hit.isEmpty then s else
    (hit.foldl (fun s e => if e.2 then s else s.bumpErr (towerOf k) 0) s).modCore k fun c =>
      { c with nearErr := c.nearErr.filter fun e => !mine e.1
               nearPois := (hit.filter (·.2)).map (·.1) ++ c.nearPois }
  let c := s.core k
  (s, rdBytes c.near off n, c.nearPois.any mine)

/-- Writes scratchpad bytes; whole words written lose their poison. -/
def Core.scrWrite (c : Core) (off : Nat) (bs : List Byte) : Core :=
  { c with near := wrBytes c.near off bs
           nearPois := c.nearPois.filter fun w => !(decide (off ≤ w * 8) && decide (w * 8 + 8 ≤ off + bs.length)) }

/-- Marks the scratchpad words of n bytes as poisoned. -/
def Core.scrPoison (c : Core) (off n : Nat) : Core :=
  { c with nearPois := ((List.range (n / 8 + 2)).map (off / 8 + ·) |>.filter fun w => w * 8 < off + n) ++ c.nearPois }

/-- Data address spaces (R199). -/
inductive Space where
  | glob | scr | none
deriving DecidableEq, Repr

def spaceOf (a : Word) : Space :=
  if bits a 63 57 = 0 then .glob else if bits a 63 57 = 64 then .scr else .none

/-- The scratchpad offset of n bytes at address a, none where the scratchpad range fault is raised (R199, R212). -/
def Core.scrOff (c : Core) (a : Word) (n : Nat) : Option Nat :=
  if bits a 56 20 = 0 ∧ bits a 19 0 + n ≤ c.scrSize then some (bits a 19 0) else none

end Sys2Proof.Machine
end

