-- ==== Sys2Proof/Machine/Flags.lean ====
section
/-! DEFINITION. The sticky flags of SST (R97, R116, R130): their bits, and the flags of each kind of result. -/

namespace Sys2Proof.Machine

def flagNV : BitVec 5 := 1
def flagDZ : BitVec 5 := 2
def flagOF : BitVec 5 := 4
def flagUF : BitVec 5 := 8
def flagNX : BitVec 5 := 16

/-- The flag when the condition holds, none otherwise. -/
def flagIf (b : Bool) (f : BitVec 5) : BitVec 5 := if b then f else 0

/-- SST with flags ORed in (R130). -/
def sstFlags (sst : Word) (f : BitVec 5) : Word := sst ||| f.zeroExtend 64

/-- SST as a SYSWR of w leaves it: bits 4 to 0 only (R130). -/
def sstWrite (sst w : Word) : Word := setBits sst 4 0 (bits w 4 0)

/-- The flags of an IEEE result that was rounded (R97): inexact; overflow; underflow when it is tiny after rounding and inexact. -/
def roundFlags (inexact overflow tiny : Bool) : BitVec 5 :=
  flagIf (inexact || overflow) flagNX ||| flagIf overflow flagOF ||| flagIf (tiny && inexact) flagUF

/-- A signalling operand raises invalid (R97). -/
def sigFlag : FVal → BitVec 5
  | .nan true => flagNV
  | _ => 0

/-- The flags of a rational result (R116), by where its exact magnitude lies: beyond the largest finite one, below the smallest, or between. -/
def ratFlags (exact beyond below : Bool) : BitVec 5 :=
  if exact then 0 else flagNX ||| flagIf beyond flagOF ||| flagIf below flagUF

end Sys2Proof.Machine
end

