-- ==== Sys2Proof/Machine/Formats.lean ====
section
/-! DEFINITION. Exact quotients, rounding, and the number formats of R96 to R105 and R437: binary8, binary16, binary32, binary64, the
integer formats and E8. Arithmetic is exact on `FVal` and rounded once. -/

namespace Sys2Proof.Machine

/-! ## Exact quotients -/

def Quo.ofInt (i : Int) : Quo := ⟨i, 1⟩
def Quo.neg (a : Quo) : Quo := ⟨-a.n, a.d⟩
def Quo.mul (a b : Quo) : Quo := ⟨a.n * b.n, a.d * b.d⟩
/-- The sum, over the larger denominator where one divides the other. -/
def Quo.add (a b : Quo) : Quo :=
  if a.d = b.d then ⟨a.n + b.n, a.d⟩
  else if b.d % a.d = 0 then ⟨a.n * ((b.d / a.d : Nat) : Int) + b.n, b.d⟩
  else if a.d % b.d = 0 then ⟨a.n + b.n * ((a.d / b.d : Nat) : Int), a.d⟩
  else ⟨a.n * b.d + b.n * a.d, a.d * b.d⟩
def Quo.abs (a : Quo) : Quo := ⟨a.n.natAbs, a.d⟩
def Quo.lt (a b : Quo) : Bool := decide (a.n * b.d < b.n * a.d)
def Quo.le (a b : Quo) : Bool := decide (a.n * b.d ≤ b.n * a.d)
def Quo.eq (a b : Quo) : Bool := decide (a.n * b.d = b.n * a.d)
def Quo.isZero (a : Quo) : Bool := decide (a.n = 0)
def Quo.isNeg (a : Quo) : Bool := decide (a.n < 0)
/-- The quotient of a by b; the sign goes to the numerator. -/
def Quo.div (a b : Quo) : Quo := if b.n < 0 then ⟨-(a.n * b.d), a.d * b.n.natAbs⟩ else ⟨a.n * b.d, a.d * b.n.natAbs⟩
/-- 2^e. -/
def pow2 (e : Int) : Quo := if 0 ≤ e then ⟨((2 ^ e.toNat : Nat) : Int), 1⟩ else ⟨1, 2 ^ (-e).toNat⟩
/-- The same value in lowest terms. -/
def Quo.norm (a : Quo) : Quo := let g := Nat.gcd a.n.natAbs a.d; if g = 0 then a else ⟨a.n / (g : Int), a.d / g⟩

/-! ## Rounding -/

/-- IEEE rounding modes (R98). -/
inductive Rnd where
  | rne | tz | dn | up
deriving DecidableEq, Repr

def rndOf : Nat → Rnd
  | 1 => .tz | 2 => .dn | 3 => .up | _ => .rne

/-- Whether a magnitude lo + rem (0 < rem < 1 in units of d) rounds up: `neg` its sign, `odd` whether lo's code is odd. -/
def roundsUp (r : Rnd) (neg odd : Bool) (rem d : Nat) : Bool :=
  match r with
  | .rne => decide (d < 2 * rem) || (2 * rem == d && odd)
  | .tz => false
  | .dn => neg && rem != 0
  | .up => !neg && rem != 0

/-- The exponent of the greatest power of two not above a positive quotient. -/
def quoLog2 (q : Quo) : Int :=
  let e : Int := (Nat.log2 q.n.natAbs : Int) - (Nat.log2 q.d : Int)
  if (pow2 e).le q.abs then e else e - 1

/-- The code of a magnitude in a format with t trailing bits and least normal exponent emin, the top binade's spacing continued without
limit; and whether the rounding was inexact. A tie goes to the even code (R104). -/
def roundCode (t : Nat) (emin : Int) (r : Rnd) (neg : Bool) (q : Quo) : Nat × Bool :=
  if q.n.natAbs = 0 then (0, false) else
  let e := max (quoLog2 q) emin
  let x := q.abs.div (pow2 (e - t))
  let k := x.n.natAbs / x.d
  let rem := x.n.natAbs % x.d
  let code := (e - emin).toNat * 2 ^ t + k
  (if roundsUp r neg (code % 2 == 1) rem x.d then code + 1 else code, rem != 0)

/-- The magnitude of a code in such a format. -/
def codeMag (t : Nat) (emin : Int) (c : Nat) : Quo :=
  if c / 2 ^ t = 0 then (Quo.ofInt (c % 2 ^ t : Nat)).mul (pow2 (emin - t))
  else (Quo.ofInt (2 ^ t + c % 2 ^ t : Nat)).mul (pow2 (emin - t + (c / 2 ^ t - 1 : Nat)))

/-- The nearest integer of a quotient under a rounding mode, and whether it was inexact. -/
def roundInt (r : Rnd) (q : Quo) : Int × Bool :=
  let a := q.n.natAbs / q.d
  let rem := q.n.natAbs % q.d
  let m := if roundsUp r q.isNeg (a % 2 == 1) rem q.d then a + 1 else a
  (if q.isNeg then -(m : Int) else m, rem != 0)

/-! ## Formats -/

/-- An IEEE format: trailing bits, least normal exponent, total bits. -/
structure Ieee where
  t : Nat
  emin : Int
  bits : Nat
deriving DecidableEq, Repr

def ieee16 : Ieee := ⟨10, -14, 16⟩
def ieee32 : Ieee := ⟨23, -126, 32⟩
def ieee64 : Ieee := ⟨52, -1022, 64⟩
def ieeeOf (dbl : Bool) : Ieee := if dbl then ieee64 else ieee32

def Ieee.sign (f : Ieee) : Nat := 2 ^ (f.bits - 1)
/-- The code of infinity. -/
def Ieee.inf (f : Ieee) : Nat := 2 ^ (f.bits - 1) - 2 ^ f.t
/-- The canonical quiet NaN (R97). -/
def Ieee.qnan (f : Ieee) : Nat := f.inf + 2 ^ (f.t - 1)

def Ieee.decode (f : Ieee) (b : Nat) : FVal :=
  let neg := decide (f.sign ≤ b % 2 ^ f.bits)
  let c := b % f.sign
  if f.inf < c then .nan (c % 2 ^ f.t < 2 ^ (f.t - 1))
  else if c = f.inf then .inf neg
  else .num neg (codeMag f.t f.emin c)

/-- A finite value rounded into an IEEE format: code, inexact, overflow, tiny after rounding. Overflow gives the infinity or the largest
finite value by the mode. -/
def Ieee.round (f : Ieee) (r : Rnd) (neg : Bool) (q : Quo) : Nat × Bool × Bool × Bool :=
  let (c, ix) := roundCode f.t f.emin r neg q
  let s := if neg then f.sign else 0
  let tiny := q.n.natAbs != 0 && decide ((roundCode f.t (f.emin - 2000) r neg q).1 < 2000 * 2 ^ f.t + 2 ^ f.t)
  if f.inf ≤ c then
    let toInf := match r with | .rne => true | .tz => false | .dn => neg | .up => !neg
    (s + (if toInf then f.inf else f.inf - 1), true, true, false)
  else (s + c, ix, false, tiny)

/-- A datum in an IEEE format rounded by a mode, with its flags; a NaN is canonical (R97). -/
def Ieee.encode (f : Ieee) (r : Rnd) : FVal → Nat × BitVec 5
  | .nan _ => (f.qnan, 0)
  | .inf neg => ((if neg then f.sign else 0) + f.inf, 0)
  | .num neg q =>
    let (c, ix, ov, tiny) := f.round r neg q
    (c, roundFlags ix ov tiny)

/-- R437: into binary16, binary32 or binary64 by RNE with a saturation choice. -/
def Ieee.convert (f : Ieee) (sat : Bool) (v : FVal) : Nat :=
  let big (neg : Bool) := (if neg then f.sign else 0) + (if sat then f.inf - 1 else f.inf)
  match v with
  | .nan _ => f.qnan
  | .inf neg => big neg
  | .num neg q => if (f.round .rne neg q).2.2.1 then big neg else (f.round .rne neg q).1

/-- A binary8 format (R101, R102). -/
structure Bin8 where
  p : Nat
  signed : Bool
  infs : Bool
deriving DecidableEq, Repr

def bin8Of (c : Nat) : Bin8 := ⟨c / 4 + 1, c % 4 < 2, c % 2 == 0⟩
def Bin8.t (f : Bin8) : Nat := f.p - 1
def Bin8.emin (f : Bin8) : Int := 1 - ((2 ^ ((if f.signed then 7 else 8) - f.p) : Nat) : Int)
def Bin8.nan (f : Bin8) : Nat := if f.signed then 0x80 else 0xFF
/-- The magnitude code of infinity, one above the largest finite one where the format has infinities. -/
def Bin8.infCode (f : Bin8) : Nat := if f.signed then 0x7F else 0xFE
def Bin8.maxCode (f : Bin8) : Nat := if f.infs then f.infCode - 1 else f.infCode

def Bin8.decode (f : Bin8) (b : Nat) : FVal :=
  if b % 256 = f.nan then .nan false
  else
    let neg := f.signed && decide (128 ≤ b % 256)
    let c := if f.signed then b % 128 else b % 256
    if f.infs && c == f.infCode then .inf neg else .num neg (codeMag f.t f.emin c)

/-- R104. -/
def Bin8.convert (f : Bin8) (sat : Bool) (v : FVal) : Nat :=
  let signed (neg : Bool) (c : Nat) := if neg then c + 128 else c
  let big (neg : Bool) :=
    if sat then signed neg f.maxCode else if f.infs then signed neg f.infCode else f.nan
  match v with
  | .nan _ => f.nan
  | .inf neg => if !f.signed && neg then (if sat then 0 else f.nan) else big neg
  | .num neg q =>
    let y := (roundCode f.t f.emin .rne false q).1
    if !f.signed && neg then (if y = 0 then 0 else if sat then 0 else f.nan)
    else if f.maxCode < y then big neg
    else if y = 0 then 0 else signed neg y

/-- An integer as a datum. -/
def fvalOfInt (i : Int) : FVal := .num (decide (i < 0)) (Quo.ofInt i.natAbs)

/-- The signed quotient of a finite datum. -/
def FVal.quo : FVal → Quo
  | .num neg q => if neg then q.neg else q
  | _ => ⟨0, 1⟩

/-- Width in bits of an integer format code and whether it is signed (R96). -/
def intFmt (c : Nat) : Nat × Bool := ([8, 16, 32].getD ((c - 36) / 2) 8, c % 2 == 0)

/-- The range of an integer format. -/
def intRange (n : Nat) (signed : Bool) : Int × Int :=
  if signed then (-((2 ^ (n - 1) : Nat) : Int), ((2 ^ (n - 1) : Nat) : Int) - 1) else (0, ((2 ^ n : Nat) : Int) - 1)

def clamp (lo hi i : Int) : Int := if i < lo then lo else if hi < i then hi else i

/-- The n-bit pattern of an integer. -/
def patOf (n : Nat) (i : Int) : Nat := (i % ((2 ^ n : Nat) : Int)).toNat

/-- R105: into an integer format by RNE, saturating; NaN converts to 0. -/
def toIntFmt (n : Nat) (signed : Bool) (v : FVal) : Nat :=
  let (lo, hi) := intRange n signed
  match v with
  | .nan _ => 0
  | .inf neg => patOf n (if neg then lo else hi)
  | .num _ _ => patOf n (clamp lo hi (roundInt .rne v.quo).1)

/-- R105: into E8, the largest power of two not above the magnitude. -/
def toE8 (v : FVal) : Nat :=
  match v with
  | .nan _ => 255
  | .inf _ => 254
  | .num _ q => if q.isZero then 0 else (clamp 0 254 (quoLog2 q + 127)).toNat

/-- Width in bits of an element format (R96). -/
def fmtBits (c : Nat) : Nat := if c < 28 then 8 else if c = 32 ∨ c = 38 ∨ c = 39 then 16 else if c = 33 ∨ c = 40 ∨ c = 41 then 32 else if c = 34 then 64 else 8

def fmtBytes (c : Nat) : Nat := fmtBits c / 8

/-- An element format code that is not reserved (R96). -/
def fmtOk (c : Nat) : Bool := c < 28 || (32 ≤ c && c ≤ 34) || (36 ≤ c && c ≤ 42)

def isFloatFmt (c : Nat) : Bool := c < 28 || c == 32 || c == 33 || c == 34

/-- The value of an element (R96 to R102). -/
def decodeFmt (c b : Nat) : FVal :=
  if c < 28 then (bin8Of c).decode b
  else if c = 32 then ieee16.decode b
  else if c = 33 then ieee32.decode b
  else if c = 34 then ieee64.decode b
  else if c = 42 then (if b % 256 = 255 then .nan false else .num false (pow2 ((b % 256 : Nat) - 127)))
  else let (n, sg) := intFmt c; fvalOfInt (if sg then sInt n b else (b % 2 ^ n : Nat))

/-- The conversion of a value into an element format outside class 4 (R104, R105, R437). -/
def convertFmt (c : Nat) (sat : Bool) (v : FVal) : Nat :=
  if c < 28 then (bin8Of c).convert sat v
  else if c = 32 then ieee16.convert sat v
  else if c = 33 then ieee32.convert sat v
  else if c = 34 then ieee64.convert sat v
  else if c = 42 then toE8 v
  else let (n, sg) := intFmt c; toIntFmt n sg v

/-- Element bits from one format into another; equal formats copy the bits (R254, R272). -/
def moveFmt (src dst : Nat) (sat : Bool) (b : Nat) : Nat := if src = dst then b else convertFmt dst sat (decodeFmt src b)

/-- Whether an element is a NaN or infinity code of a floating format (R224). -/
def isSpecial (c b : Nat) : Bool :=
  isFloatFmt c && (match decodeFmt c b with | .num _ _ => false | _ => true)

/-! ## Exact arithmetic on data -/

/-- A finite datum of a signed quotient; an exact zero takes the sign given. -/
def fvalOf (q : Quo) (zeroNeg : Bool) : FVal := if q.isZero then .num zeroNeg ⟨0, 1⟩ else .num q.isNeg q.abs

def FVal.isNan : FVal → Bool | .nan _ => true | _ => false
def FVal.isZero : FVal → Bool | .num _ q => q.isZero | _ => false
def FVal.isInf : FVal → Bool | .inf _ => true | _ => false
def FVal.sign : FVal → Bool | .num n _ => n | .inf n => n | .nan _ => false
def FVal.neg : FVal → FVal | .num n q => .num (!n) q | .inf n => .inf (!n) | .nan s => .nan s

/-- The exact sum, invalid when it is ∞ − ∞; the sign of an exact zero sum of unlike zeros or of opposites is that of the mode. -/
def FVal.add (r : Rnd) (a b : FVal) : FVal × BitVec 5 :=
  match a, b with
  | .nan _, _ => (.nan false, 0)
  | _, .nan _ => (.nan false, 0)
  | .inf x, .inf y => if x = y then (.inf x, 0) else (.nan false, flagNV)
  | .inf x, .num _ _ => (.inf x, 0)
  | .num _ _, .inf y => (.inf y, 0)
  | .num x p, .num y q =>
    let z := if x = y ∧ p.isZero ∧ q.isZero then x else decide (r = .dn)
    (fvalOf ((FVal.num x p).quo.add (FVal.num y q).quo) z, 0)

/-- The exact product, invalid when it is ∞ × 0. -/
def FVal.mul (a b : FVal) : FVal × BitVec 5 :=
  match a, b with
  | .nan _, _ => (.nan false, 0)
  | _, .nan _ => (.nan false, 0)
  | .inf x, .inf y => (.inf (x != y), 0)
  | .inf x, .num y q => if q.isZero then (.nan false, flagNV) else (.inf (x != y), 0)
  | .num x p, .inf y => if p.isZero then (.nan false, flagNV) else (.inf (x != y), 0)
  | .num x p, .num y q => (.num (x != y) (p.mul q), 0)

/-- The exact fused a × b + c. DESIGN CHOICE (log entry 88): ∞ × 0 is invalid whatever the addend, a quiet NaN included. -/
def FVal.fma (r : Rnd) (a b c : FVal) : FVal × BitVec 5 :=
  let (p, f) := a.mul b
  let (z, g) := p.add r c
  (z, f ||| g)

/-- The exact quotient: divide-by-zero for a nonzero finite value over zero, invalid for 0/0 and ∞/∞. -/
def FVal.div (a b : FVal) : FVal × BitVec 5 :=
  match a, b with
  | .nan _, _ => (.nan false, 0)
  | _, .nan _ => (.nan false, 0)
  | .inf _, .inf _ => (.nan false, flagNV)
  | .inf x, .num y _ => (.inf (x != y), 0)
  | .num x _, .inf y => (.num (x != y) ⟨0, 1⟩, 0)
  | .num x p, .num y q =>
    if q.isZero then (if p.isZero then (.nan false, flagNV) else (.inf (x != y), flagDZ))
    else (.num (x != y) (p.div q), 0)

/-- Order of two data that are not NaN; zeros of either sign are equal. -/
def FVal.lt : FVal → FVal → Bool
  | .inf x, .inf y => x && !y
  | .inf x, .num _ _ => x
  | .num _ _, .inf y => !y
  | .num x p, .num y q => (FVal.num x p).quo.lt (FVal.num y q).quo
  | _, _ => false

def FVal.eqv : FVal → FVal → Bool
  | .inf x, .inf y => x == y
  | .num x p, .num y q => (FVal.num x p).quo.eq (FVal.num y q).quo
  | _, _ => false

/-- The lesser of two bit patterns of one format under R160's order: −0 below +0, a NaN loses to a number, two NaNs give the canonical one. -/
def minMax (f : Ieee) (big : Bool) (a b : Nat) : Nat :=
  let x := f.decode a
  let y := f.decode b
  if x.isNan then (if y.isNan then f.qnan else b % 2 ^ f.bits)
  else if y.isNan then a % 2 ^ f.bits
  else
    let less := x.lt y || (x.eqv y && x.sign && !y.sign)
    if less != big then a % 2 ^ f.bits else b % 2 ^ f.bits

/-! ## Rounded binary32 arithmetic of the vector, matrix and state paths (R97: RNE, no flag) -/

/-- RNE into binary32 (or the format f). -/
def rne (f : Ieee) (v : FVal) : Nat := (f.encode .rne v).1
def addF (f : Ieee) (a b : Nat) : Nat := rne f ((f.decode a).add .rne (f.decode b)).1
def subF (f : Ieee) (a b : Nat) : Nat := rne f ((f.decode a).add .rne (f.decode b).neg).1
def mulF (f : Ieee) (a b : Nat) : Nat := rne f ((f.decode a).mul (f.decode b)).1
def fmaF (f : Ieee) (a b c : Nat) : Nat := rne f ((f.decode a).fma .rne (f.decode b) (f.decode c)).1

end Sys2Proof.Machine
end

