-- ==== Sys2Proof/Machine/Rational.lean ====
section
/-! DEFINITION. FS64 words and rational mode (R112 to R118, R165 to R168): reading an operand, the neighbours of a value in a set of
fractions by the Stern-Brocot walk that the continued fraction takes, the choice by mode, flags and latency; square roots. -/

namespace Sys2Proof.Machine

/-- Rational rounding modes (R98). -/
inductive RatRnd where
  | med | val | dn | up | tz
deriving DecidableEq, Repr

def ratRndOf : Nat → RatRnd
  | 0 => .med | 1 => .val | 2 => .dn | 3 => .up | _ => .tz

/-- Bit length: 0 for 0. -/
def bitLen (n : Nat) : Nat := if n = 0 then 0 else Nat.log2 n + 1

/-- The fields of an FS64 word (R112): sign, B, N, D. -/
def fsFields (w : Word) : Bool × Nat × Nat × Nat :=
  let b := bits w 62 57
  (bitOf w 63, b, bits w 56 0 / 2 ^ (57 - b), bits w 56 0 % 2 ^ (57 - b))

/-- The word of (−1)^s × n / d, in lowest terms and representable (R113). -/
def fsWord (s : Bool) (n d : Nat) : Word :=
  let b := if n = 0 then 1 else bitLen n
  w64 ((if s then 2 ^ 63 else 0) + b * 2 ^ 57 + n * 2 ^ (57 - b) + d)

def fsZero : Word := 0x0200000000000001
def fsNaN : Word := 0x0200000000000000
def fsInf (neg : Bool) : Word := if neg then 0x8300000000000000 else 0x0300000000000000

/-- The value of an FS64 operand, and whether reading it sets invalid (R114). -/
def fsRead (w : Word) : FVal × BitVec 5 :=
  let (s, b, n, d) := fsFields w
  if b = 0 ∨ 57 ≤ b then (.nan false, flagNV)
  else if d = 0 then (if n = 0 then .nan false else .inf s, 0)
  else if n = 0 then (.num false ⟨0, 1⟩, 0)
  else (.num s (Quo.norm ⟨n, d⟩), 0)

/-- The representable set of R115. -/
def fsRep (n d : Nat) : Bool := decide (bitLen n + bitLen d ≤ 57)

/-- A positive real given by a quotient or by the root of one. -/
inductive Tgt where
  | rat (q : Quo) | root (q : Quo)
deriving DecidableEq, Repr

/-- n / d ≤ x. -/
def Tgt.ge (x : Tgt) (n d : Nat) : Bool :=
  match x with
  | .rat q => decide (n * q.d ≤ q.n.natAbs * d)
  | .root q => decide (n * n * q.d ≤ q.n.natAbs * d * d)

/-- n / d ≥ x. -/
def Tgt.le (x : Tgt) (n d : Nat) : Bool :=
  match x with
  | .rat q => decide (q.n.natAbs * d ≤ n * q.d)
  | .root q => decide (q.n.natAbs * d * d ≤ n * n * q.d)

/-- The greatest k below 2^i + acc that satisfies a downward-closed p, found bit by bit. -/
def maxK (p : Nat → Bool) : Nat → Nat → Nat
  | 0, acc => acc
  | i + 1, acc => maxK p i (if p (acc + 2 ^ i) then acc + 2 ^ i else acc)

/-- Neighbours lo = ln / ld and hi = hn / hd of a value, and q, the partial quotients examined (R117). -/
structure Near where
  ln : Nat
  ld : Nat
  hn : Nat
  hd : Nat
  q : Nat
deriving DecidableEq, Repr

/-- The walk: each turn reads one partial quotient, and ends at the first convergent that leaves the set. -/
def nearWalk (rep : Nat → Nat → Bool) (x : Tgt) : Nat → Bool → Near → Near
  | 0, _, s => s
  | fuel + 1, true, s =>
    let a := maxK (fun k => x.ge (s.ln + k * s.hn) (s.ld + k * s.hd)) 60 0
    let r := maxK (fun k => decide (k ≤ a) && rep (s.ln + k * s.hn) (s.ld + k * s.hd)) 60 0
    let t : Near := { s with ln := s.ln + r * s.hn, ld := s.ld + r * s.hd, q := s.q + 1 }
    if r < a then t else nearWalk rep x fuel false t
  | fuel + 1, false, s =>
    let a := maxK (fun k => x.le (s.hn + k * s.ln) (s.hd + k * s.ld)) 60 0
    let r := maxK (fun k => decide (k ≤ a) && rep (s.hn + k * s.ln) (s.hd + k * s.ld)) 60 0
    let t : Near := { s with hn := s.hn + r * s.ln, hd := s.hd + r * s.ld, q := s.q + 1 }
    if r < a then t else nearWalk rep x fuel true t

/-- The neighbours of x in the set (R115). -/
def nearest (rep : Nat → Nat → Bool) (x : Tgt) : Near := nearWalk rep x 200 true ⟨0, 1, 1, 0, 0⟩

/-- Whether the mode takes the upper neighbour of a magnitude x of sign neg (R115). DESIGN CHOICE (log entry 89): a MED tie between neighbours of equal
denominators goes to the smaller magnitude. -/
def takesHi (r : RatRnd) (neg : Bool) (x : Tgt) (s : Near) : Bool :=
  match r with
  | .dn => neg
  | .up => !neg
  | .tz => false
  | .med =>
    let n := s.ln + s.hn
    let d := s.ld + s.hd
    if x.le n d && x.ge n d then s.hd != 0 && decide (s.hd < s.ld) else !x.le n d
  | .val =>
    if s.hd = 0 then false
    else
      let n := s.ln * s.hd + s.hn * s.ld
      let d := 2 * s.ld * s.hd
      if x.le n d && x.ge n d then decide (s.hd < s.ld) else !x.le n d

/-- The latency of a rational operation (R117): 6 when exact, else by the partial quotients examined. -/
def ratLatency (exact : Bool) (q : Nat) : Nat := if exact then 6 else 6 + 3 * min 24 (1 + cdiv (max q 2) 4)

/-- A magnitude rounded onto a set of fractions: word, flags and latency (R115 to R117, R168). -/
def roundFs (rep : Nat → Nat → Bool) (r : RatRnd) (neg : Bool) (x : Tgt) : Word × BitVec 5 × Nat :=
  let exact : Option (Nat × Nat) := match x with
    | .rat q => let q := q.norm; if rep q.n.natAbs q.d then some (q.n.natAbs, q.d) else none
    | .root q =>
      let q := q.norm
      let n := maxK (fun k => decide (k * k ≤ q.n.natAbs)) 64 0
      let d := maxK (fun k => decide (k * k ≤ q.d)) 64 0
      if n * n = q.n.natAbs ∧ d * d = q.d ∧ rep n d then some (n, d) else none
  match exact with
  | some (n, d) => (if n = 0 then fsZero else fsWord neg n d, 0, 6)
  | none =>
    let s := nearest rep x
    let (n, d) := if takesHi r neg x s then (s.hn, s.hd) else (s.ln, s.ld)
    let w := if d = 0 then fsInf neg else if n = 0 then fsZero else fsWord neg n d
    (w, ratFlags false (x.ge (2 ^ 56 - 1) 1) (!x.ge 1 (2 ^ 56 - 1)), ratLatency false s.q)

/-- A datum as an FS64 word. -/
def fsOf (rep : Nat → Nat → Bool) (r : RatRnd) (v : FVal) : Word × BitVec 5 × Nat :=
  match v with
  | .nan _ => (fsNaN, 0, 6)
  | .inf neg => (fsInf neg, 0, 6)
  | .num neg q => if q.isZero then (fsZero, 0, 6) else roundFs rep r neg (.rat q)

/-- The restricted set of FRND (R168). -/
def frndSet (m : Word) : Nat → Nat → Bool :=
  if m.toNat = 0 ∨ 2 ^ 56 - 1 ≤ m.toNat then fsRep else fun n d => fsRep n d && decide (d ≤ m.toNat)

/-- Whether a word is canonical (R113). -/
def fsCanon (w : Word) : Bool := (fsOf fsRep .tz (fsRead w).1).1 == w

/-- The square root of a positive quotient, with a sticky half when it is not exact: enough bits to round it right into any IEEE format. -/
def quoSqrt (q : Quo) : Quo :=
  let m : Int := 70 - quoLog2 q / 2
  let x := q.mul (pow2 (2 * m))
  let v := x.n.natAbs / x.d
  let r := maxK (fun k => decide (k * k ≤ v)) 72 0
  let exact := r * r == v && x.n.natAbs % x.d == 0
  (Quo.ofInt (if exact then 2 * r else 2 * r + 1 : Nat)).mul (pow2 (-m - 1))

end Sys2Proof.Machine
end

