-- ==== Sys2Proof/Machine/Ops.lean ====
section
/-! DEFINITION. Named operations over registers: reading them at issue, results in flight and their landing (R71 to R76, R123, R130), the
queue ports, giving up the issue slot (R34), taking a trap (R133), returning from one (R171), recovering (R368), rewinding (R80) and the
end-of-body decision of the loops (R155). -/

namespace Sys2Proof.Machine

/-! ## Registers of a strand -/

def Strand.getX (x : Strand) (n : Nat) : Word := if n = 0 then 0 else mget x.x n 0
def Strand.setX (x : Strand) (n : Nat) (v : Word) : Strand := if n = 0 ∨ 56 ≤ n then x else { x with x := mput x.x n v }
def Strand.getF (x : Strand) (n : Nat) : Word := mget x.f n 0
def Strand.setF (x : Strand) (n : Nat) (v : Word) : Strand := { x with f := mput x.f n v }
def Strand.getP (x : Strand) (n : Nat) : Bool := n == 0 || x.p.getLsbD n
def Strand.setP (x : Strand) (n : Nat) (v : Bool) : Strand :=
  if n = 0 then x else { x with p := if v then x.p ||| (1 <<< n) else x.p &&& ~~~ ((1 : BitVec 16) <<< n) }
def Strand.getL (x : Strand) (n : Nat) : LaneMask := if n = 0 then BitVec.allOnes 512 else mget x.l n 0
def Strand.setL (x : Strand) (n : Nat) (v : LaneMask) : Strand := if n = 0 then x else { x with l := mput x.l n v }
def Strand.getV (x : Strand) (n : Nat) : Row := mget x.v n 0
def Strand.setV (x : Strand) (n : Nat) (v : Row) : Strand := { x with v := mput x.v n v }
def Strand.getA (x : Strand) (n : Nat) : Word := mget x.a n 0
def Strand.setA (x : Strand) (n : Nat) (v : Word) : Strand := { x with a := mput x.a n v }
def Strand.getAM (x : Strand) (n : Nat) : Word × Word := mget x.am n (0, 0)
def Strand.setAM (x : Strand) (n : Nat) (v : Word × Word) : Strand := { x with am := mput x.am n v }
def Strand.getLS (x : Strand) (n : Nat) : Word := mget x.ls n 0
def Strand.getLE (x : Strand) (n : Nat) : Word := mget x.le n 0
def Strand.getLC (x : Strand) (n : Nat) : Half := mget x.lc n 0
def Strand.setLC (x : Strand) (n : Nat) (v : Half) : Strand := { x with lc := mput x.lc n v }

/-! ## Fields of SST and SCFG (R130, R131) -/

def Strand.tm (x : Strand) : Bool := bitOf x.sst 31
def Strand.th (x : Strand) : Bool := bitOf x.sst 30
def Strand.setTM (x : Strand) (b : Bool) : Strand := { x with sst := setBits x.sst 31 31 b.toNat }
def Strand.setTH (x : Strand) (b : Bool) : Strand := { x with sst := setBits x.sst 30 30 b.toNat }
def Strand.rat (x : Strand) : Bool := bitOf x.scfg 15
def Strand.rrm (x : Strand) : RatRnd := ratRndOf (bits x.scfg 14 12)
def Strand.irm (x : Strand) : Rnd := rndOf (bits x.scfg 11 10)
def Strand.acct (x : Strand) : Nat := bits x.scfg 9 4
def Strand.ganged (x : Strand) : Bool := bitOf x.scfg 63
def Strand.ncols (x : Strand) : Nat := bits x.scfg 59 48
def Strand.rowb (x : Strand) : Nat := bits x.scfg 47 36

/-! ## Poison bits (R370) -/

def Strand.poisonedReg (x : Strand) : Reg → Bool
  | .x n => x.xPois.contains n
  | .f n => x.fPois.contains n
  | .v n => x.vPois.contains n
  | _ => false

def markPois (l : List Nat) (n : Nat) (b : Bool) : List Nat := if b then n :: l.filter (· != n) else l.filter (· != n)

def Strand.setPois (x : Strand) (r : Reg) (b : Bool) : Strand :=
  match r with
  | .x n => if n = 0 then x else { x with xPois := markPois x.xPois n b }
  | .f n => { x with fPois := markPois x.fPois n b }
  | .v n => { x with vPois := markPois x.vPois n b }
  | _ => x

/-! ## Lanes -/

/-- Lane i of a row, w bits wide. -/
def laneOf (w : Nat) (v : Row) (i : Nat) : Nat := v.toNat / 2 ^ (w * i) % 2 ^ w

/-- A row of n lanes of w bits. -/
def rowOf (w n : Nat) (f : Nat → Nat) : Row :=
  BitVec.ofNat 8192 ((List.range n).foldr (fun i acc => f i % 2 ^ w + acc * 2 ^ w) 0)

/-- Lane predicate of n lanes. -/
def lanesOf (n : Nat) (f : Nat → Bool) : LaneMask :=
  BitVec.ofNat 512 ((List.range n).foldr (fun i acc => (f i).toNat + acc * 2) 0)

/-- The row bits of the lanes that a lane predicate names. -/
def maskRow (w n : Nat) (g : LaneMask) : Row := rowOf w n fun i => if g.getLsbD i then 2 ^ w - 1 else 0

/-- The bits of `mask` from b, the others from a. -/
def mergeRow (a b mask : Row) : Row := (a &&& ~~~ mask) ||| (b &&& mask)

/-! ## Landing -/

/-- One lane of an accumulating MMA row (R107, R108): each block's dot that is not a zero is added with one RNE into binary32. -/
def accLane (acc : Nat) (dots : List FVal) : Nat :=
  dots.foldl (fun a d => if d.isZero then a else rne ieee32 ((ieee32.decode a).add .rne d).1) acc

/-- One lane of an integer MMA row (R110): saturated to I32S once per block. -/
def iaccLane (acc : Nat) (sums : List Int) : Nat :=
  patOf 32 (sums.foldl (fun a d => clamp (-2147483648) 2147483647 (a + d)) (sInt 32 acc))

/-- A landed value as the new bits and mask of its row. -/
def Val.onRow (v : Val) (old : Row) : Row :=
  match v with
  | .row nv m => mergeRow old nv m
  | .macc zs dots =>
    let n := dots.length
    mergeRow old (rowOf 32 n fun i => accLane (if zs then 0 else laneOf 32 old i) (dots.getD i [])) (maskRow 32 n (BitVec.allOnes 512))
  | .iacc zs sums =>
    let n := sums.length
    mergeRow old (rowOf 32 n fun i => iaccLane (if zs then 0 else laneOf 32 old i) (sums.getD i [])) (maskRow 32 n (BitVec.allOnes 512))
  | _ => old

/-- Whether the value adds to what its register holds, and so keeps the register's poison (R229, R371). -/
def Val.adds : Val → Bool
  | .macc zs _ => !zs
  | .iacc zs _ => !zs
  | _ => false

/-- The strand with a value in a register; queue ports are the core's (R123). -/
def Strand.write (x : Strand) (r : Reg) (v : Val) : Strand :=
  match r, v with
  | .x n, .w w => x.setX n w
  | .f n, .w w => x.setF n w
  | .a n, .w w => x.setA n w
  | .p n, .b b => x.setP n b
  | .l n, .lm w m => x.setL n ((x.getL n &&& ~~~ m) ||| (w &&& m))
  | .am n, .am c b => x.setAM n (c, b)
  | .v n, v => x.setV n (v.onRow (x.getV n))
  | _, _ => x

/-- Whether the register is a queue port. -/
def Reg.isPort : Reg → Bool
  | .x n => 56 ≤ n
  | _ => false

/-- Whether writes to the register are discarded (X0, P0, L0). -/
def Reg.isNull : Reg → Bool
  | .x n => n == 0
  | .p n => n == 0
  | .l n => n == 0
  | _ => false

/-- The reserved entry of a queue port is filled (R123). -/
def Core.fillPort (c : Core) (q ticket : Nat) (v : Word) : Core :=
  { c with q := mput c.q q ((mget c.q q []).map fun e => if e.ticket = ticket then { e with landed := true, val := v } else e) }

/-- A value lands in a register of strand i of core k (R71, R123, R130, R370). -/
def State.landVal (s : State) (k i : Nat) (r : Reg) (v : Val) (ticket : Nat) (flags : BitVec 5) (pois : Bool) : State :=
  match r, v with
  | .x n, .w w =>
    if 56 ≤ n then (s.modCore k fun c => c.fillPort (n - 56) ticket w).modStrand k i fun x => { x with sst := sstFlags x.sst flags }
    else s.modStrand k i fun x => { (x.write r v).setPois r pois with sst := sstFlags x.sst flags }
  | _, .row w m => if m = 0 then s else s.modStrand k i fun x => (x.write r (.row w m)).setPois r pois
  | _, _ => s.modStrand k i fun x => { (x.write r v).setPois r (pois || (v.adds && x.poisonedReg r)) with sst := sstFlags x.sst flags }

/-- A fixed-latency result lands. -/
def State.land (s : State) (k i : Nat) (l : Landing) : State := s.landVal k i l.dest l.val l.ticket l.flags l.poison

/-- A variable-latency result lands in each of its registers. -/
def State.landPend (s : State) (k i : Nat) (p : Pending) : State :=
  ((p.dests.zip p.vals).zipIdx).foldl (fun s e => s.landVal k i e.1.1 e.1.2 (p.ticket + e.2) p.flags p.poison) s

/-- Every fixed-latency result of the strand lands, in the order of its time (R79, R374). -/
def State.landAll (s : State) (k i : Nat) : State :=
  let x := s.strand k i
  let s := s.setStrand k i { x with inflight := [] }
  (x.inflight.mergeSort fun a b => a.left ≤ b.left).foldl (fun s l => s.land k i l) s

/-- Every variable-latency result whose value is known lands too. -/
def State.landPends (s : State) (k i : Nat) : State :=
  let x := s.strand k i
  let s := s.setStrand k i { x with pend := x.pend.filter (·.due.isNone) }
  (x.pend.filter (·.due.isSome)).foldl (fun s p => s.landPend k i p) s

/-! ## Reading at issue -/

/-- A number that tells registers apart. -/
def Reg.code : Reg → Nat
  | .x n => n | .f n => 64 + n | .p n => 96 + n | .l n => 112 + n | .v n => 128 + n | .a n => 192 + n | .am n => 208 + n

/-- The strand as its operands read it: a result in flight that crosses a landing point may show or not (R76). -/
def State.view (s : State) (k i : Nat) (r : Reg) : Strand :=
  let x := s.strand k i
  let hits := x.inflight.filter fun l => decide (l.dest = r) && (l.lp || s.cur.lp)
  if hits.isEmpty then x
  else if Config.oldOrNew s.freeCtr r.code then hits.foldl (fun x l => x.write l.dest l.val) x else x

/-- The entries of queue port q. -/
def Core.port (c : Core) (q : Nat) : List QEntry := mget c.q q []

/-- Reads X register n: a queue port gives its head entry. -/
def State.readX (s : State) (k i n : Nat) : Word :=
  if 56 ≤ n then (((s.core k).port (n - 56)).head?.map (·.val)).getD 0 else (s.view k i (.x n)).getX n

/-- Takes the head entry of the queue port that n names, if it names one (R123). -/
def State.popX (s : State) (k n : Nat) : State :=
  if 56 ≤ n then s.modCore k fun c => { c with q := mput c.q (n - 56) ((c.port (n - 56)).drop 1) } else s

def State.readF (s : State) (k i n : Nat) : Word := (s.view k i (.f n)).getF n
def State.readP (s : State) (k i n : Nat) : Bool := (s.view k i (.p n)).getP n
def State.readL (s : State) (k i n : Nat) : LaneMask := (s.view k i (.l n)).getL n
def State.readV (s : State) (k i n : Nat) : Row := (s.view k i (.v n)).getV n
def State.readA (s : State) (k i n : Nat) : Word := (s.view k i (.a n)).getA n
def State.readAM (s : State) (k i n : Nat) : Word × Word := (s.view k i (.am n)).getAM n

/-! ## Results -/

/-- Reserves the tail entry of the port that a result of strand i goes to (R123): the ticket. -/
def State.reserve (s : State) (k i : Nat) (r : Reg) : Nat × State :=
  match r with
  | .x n =>
    if 56 ≤ n then (s.uid, ({ s with uid := s.uid + 1 }).modCore k fun c => { c with q := mput c.q (n - 56) (c.port (n - 56) ++ [QEntry.mk s.uid false 0 i]) })
    else (0, s)
  | _ => (0, s)

/-- A fixed-latency result of the issuing group: it lands at the end of the l-th cycle counted from this one (R71). -/
def State.result (s : State) (k i : Nat) (r : Reg) (l : Nat) (v : Val) (flags : BitVec 5 := 0) (pois : Bool := false) : State :=
  let (t, s) := s.reserve k i r
  s.modStrand k i fun x => { x with
    inflight := x.inflight ++ [{ dest := r, left := l, val := v, flags := flags, poison := pois, ticket := t }]
    vdest := x.vdest.filter (· != r) }

/-- A variable-latency result: pending from now, landing at the end of the cycle `due`, or when its event says (R73, R438). -/
def State.resultVar (s : State) (k i : Nat) (r : Reg) (v : Val) (due : Option Nat) (tag : Nat := 0) (flags : BitVec 5 := 0) (pois : Bool := false) : State :=
  let (t, s) := s.reserve k i r
  s.modStrand k i fun x => { x with
    pend := x.pend ++ [{ dests := [r], vals := [v], due := due, tag := tag, flags := flags, poison := pois, ticket := t }]
    vdest := r :: x.vdest.filter (· != r) }

/-- The cycle at whose end a variable-latency result of nominal latency l lands (R438: the figure and a free amount). -/
def State.dueIn (s : State) (l : Nat) : Nat := s.now + l - 1 + Config.extra s.freeCtr

/-- The cycle at whose end a result of a latency that the spec fixes lands. -/
def State.dueAt (s : State) (l : Nat) : Nat := s.now + l - 1

/-! ## The issue slot, traps and recovery -/

/-- Strand i gives up the issue slot of core k; `gap` cycles without issue follow (R34). -/
def State.giveUp (s : State) (k i gap : Nat) : State :=
  s.modCore k fun c => { c with run := none, last := i, gap := gap, bubble := gap == 0 }

/-- Schedules an event for the end of this cycle. -/
def State.sched (s : State) (e : Instr) : State := { s with agenda := s.agenda ++ [(s.now, e)] }

/-- The gang that holds core k fails at strand i (R372); with SCAUSE, SEPC and SINFO as given for event 7. -/
def State.failAt (s : State) (k i reason : Nat) : State :=
  match (s.core k).gang with
  | some g => (s.sched (.gangFailure g (match s.gang? g with | some x => x.gsi k i | none => 0) reason)).giveUp k i 0
  | none => s

/-- SCAUSE of R132. -/
def causeWord (code detail syl : Nat) : Word := w64 (code % 256 * 65536 + detail % 256 * 256 + syl % 8)

/-- The registers that receive a cause (R133 steps 2 and 3, R368 step 2). -/
def Strand.noteCause (x : Strand) (code detail syl : Nat) (pc sinfo : Word) : Strand :=
  { x with sepc := pc, scause := causeWord code detail syl, sinfo := sinfo }

/-- What a failure of the gang in this cycle gives back (R365). -/
def Strand.undoAt (x : Strand) (now : Nat) : CauseUndo :=
  { at_ := now, spc := x.spc, sst := x.sst, scause := x.scause, sepc := x.sepc, sinfo := x.sinfo, trpc := x.cTrpc, recov := x.recov, lc := x.lc
    restart := x.restart, fresh := x.fresh }

/-- A value as SPC holds it (R129): bits 63 to 57 and 1 to 0 read as zero. -/
def spcWord (a : Word) : Word := a &&& 0x1FFFFFFFFFFFFFC

/-- Where SPC goes on for address a (R129): the first syllable of the group there. -/
def State.spcAt (s : State) (k : Nat) (a : Word) : Word := s.firstOf k (spcWord a)

/-- Taking a trap (R133, R79): SEPC, SCAUSE, SINFO, TH, then SPC from SHV. Results in flight land before the handler's first group,
because the strand is not selected before (R34); while TH stands the cause is not taken and the gang fails, with reason 1 (R372). -/
def State.takeTrap (s : State) (k i code detail syl : Nat) (pc sinfo : Word) : State :=
  let x := s.strand k i
  if x.th then s.failAt k i 1
  else
    (s.setStrand k i { (x.noteCause code detail syl pc sinfo).setTH true with
        spc := s.spcAt k (x.shv &&& 0xFFFFFFFFFFFFFFF0), st := .ready, landFirst := true, cTrpc := x.cTrpc + 1, undo := some (x.undoAt s.now) }).giveUp k i 0

/-- The restart record of a group (R80, R265). -/
def Strand.record (x : Strand) (addr : Word) : Strand :=
  { x with restart := { addr := addr, a := x.a, lc := x.lc, fill := x.rows.length, row := x.rown }, recov := 0, seg := x.seg + 1 }

/-- The group after an irrevocable operation counts as a restart point also where a rewind comes before it has issued, since no rewind repeats that
operation (R81, R245). MODEL'S CHOICE, log entry 109. -/
def Strand.sealed (x : Strand) : Strand := if x.fresh && !x.rewound then { x.record x.spc with fresh := false } else x

/-- Whether a cause is recovered instead of taken (R362). -/
def recovered (code : Nat) : Bool := code == 0x03 || code == 0x08 || code == 0x15

/-- A recovered cause (R368 steps 1 to 3, R369): registers as for a trap, TH and SPC as they are; the rewind follows in its event. -/
def State.takeRecovery (s : State) (k i code detail syl : Nat) (pc sinfo : Word) : State :=
  let x := { (s.strand k i).noteCause code detail syl pc (if code = 0x03 then 0 else sinfo) with waitRef := sinfo }
  let x := if code = 0x15 ∧ detail = 2 then { x with arrayErr := none } else x
  let s := if code = 0x15 then s.bumpErr (towerOf k) 1 else s
  if x.th then s.failAt k i 1
  else
  let x := x.sealed
  if 2 ≤ x.recov then s.failAt k i 2
  else (s.setStrand k i { x with st := .recovering code detail, recov := x.recov + 1, undo := some ((s.strand k i).undoAt s.now) }).giveUp k i 0

/-- A cause met by a strand (R362): taken or recovered. -/
def State.takeCause (s : State) (k i code detail syl : Nat) (pc sinfo : Word) : State :=
  if recovered code then s.takeRecovery k i code detail syl pc sinfo else s.takeTrap k i code detail syl pc sinfo

/-- The return from a handler (R133, R171): TH is cleared and SPC loaded from SEPC. -/
def Strand.ret (x : Strand) : Strand := { x.setTH false with spc := x.sepc }

/-- A rewind to the restart point (R80, R287): every result has landed; pointers, loop counts and the fill position return. -/
def Strand.rewind (x : Strand) : Strand :=
  { x with spc := x.restart.addr, a := x.restart.a, lc := x.restart.lc, rows := x.rows.take x.restart.fill
           fresh := false, rewound := true, stub := none }

/-! ## Loops -/

/-- The decision of R155 at bundle e for levels n − 1 to 0: the strand with its counts, and the back-edge if one is taken. -/
def Strand.bodyEnd (x : Strand) (e : Word) : Nat → Strand × Option Word
  | 0 => (x, none)
  | k + 1 =>
    if x.getLC k ≠ 0 ∧ x.getLE k = e then
      let x := x.setLC k (x.getLC k - 1)
      if x.getLC k ≠ 0 then (x, some (x.getLS k)) else x.bodyEnd e k
    else x.bodyEnd e k

/-- `exit(k)` of R156: where control goes. -/
def Strand.exitLoop (x : Strand) (k : Nat) : Strand × Word :=
  let x := x.setLC k 0
  match x.bodyEnd (x.getLE k) k with
  | (x, some t) => (x, t)
  | (x, none) => (x, x.getLE k + 16)

/-! ## Engine completions (R296) -/

def Strand.engineCount (x : Strand) (e : Nat) : Nat := mget x.engCount e 0
def Strand.engineError (x : Strand) (e : Nat) : Word := mget x.engErr e 0

/-- A command of the strand goes to engine e. -/
def Strand.issueTo (x : Strand) (e : Nat) : Strand :=
  { x with engErr := if x.engineCount e = 0 then mput x.engErr e 0 else x.engErr
           engCount := mput x.engCount e (x.engineCount e + 1) }

/-- A command of the strand completes on engine e with the completion word w (R275, R296). -/
def Strand.completes (x : Strand) (e : Nat) (w : Word) : Strand :=
  { x with engErr := if x.engineError e = 0 ∧ bits w 63 56 ≠ 0 then mput x.engErr e w else x.engErr
           engCount := mput x.engCount e (x.engineCount e - 1) }

def State.complete (s : State) (k i e : Nat) (w : Word) : State := s.modStrand k i fun x => x.completes e w

/-- A completion word (R275, R296). -/
def completion (status : Nat) (addr : Word) : Word := w64 (status * 2 ^ 56 + bits addr 55 0)

/-- The discard that follows a weight-stream fault (R225): the streams behind the failed one post status 8, and the FIFO keeps only what
precedes the failure. -/
def State.dropStreams (s : State) (k : Nat) : State :=
  let s := (s.core k).streams.foldl (fun s t => s.complete k t.strand 0 (completion 8 0)) s
  s.modCore k fun c => { c with streams := [], failed := false, fifo := c.fifo.takeWhile fun t => t.fail.isNone }

/-! ## Registers by number (R136) -/

/-- What a SYSRD of register n returns; SPC is the address of the group that reads. -/
def State.sysRead (s : State) (k i n : Nat) : Word :=
  let x := s.strand k i
  let c := s.core k
  if n = 0 then s.cur.start
  else if n = 1 then x.sst
  else if n = 2 then x.scfg
  else if n = 3 then x.scause
  else if n = 4 then x.sepc
  else if n = 5 then x.sinfo
  else if n = 6 then x.shv
  else if 0x10 ≤ n ∧ n < 0x14 then x.getLS (n - 0x10)
  else if 0x14 ≤ n ∧ n < 0x18 then x.getLE (n - 0x14)
  else if 0x18 ≤ n ∧ n < 0x1C then (x.getLC (n - 0x18)).zeroExtend 64
  else if 0x30 ≤ n ∧ n < 0x40 then s.readA k i (n - 0x30)
  else if 0x40 ≤ n ∧ n < 0x50 then (s.readAM k i (n - 0x40)).1
  else if 0x50 ≤ n ∧ n < 0x60 then (s.readAM k i (n - 0x50)).2
  else if 0x100 ≤ n ∧ n < 0x120 then (mget c.bfmt (n - 0x100) 0).zeroExtend 64
  else if n = 0x120 then c.gtol
  else 0

/-- SCFG after a write of w: bits 15 to 4, a field keeping its value where the code is reserved (R98, R131). -/
def scfgWrite (old w : Word) : Word :=
  let a := setBits old 15 15 (bits w 15 15)
  let a := if bits w 14 12 ≤ 4 then setBits a 14 12 (bits w 14 12) else a
  let a := setBits a 11 10 (bits w 11 10)
  if acctCode (bits w 9 4) then setBits a 9 4 (bits w 9 4) else a

/-- A BFMT register after a write of w: reserved bits read as zero, and a reserved format code leaves FMT as it is (R8, R96, R134). -/
def bfmtWrite (old w : Half) : Half :=
  (w &&& 0xFFFF0080) ||| (if fmtOk (w.toNat % 64) then w &&& 0x3F else old &&& 0x3F)

/-- The effect of a SYSWR of w to register n; read-only registers ignore it (R128 to R136). -/
def State.sysWrite (s : State) (k i n : Nat) (w : Word) : State :=
  if n = 1 then s.modStrand k i fun x => { x with sst := sstWrite x.sst w }
  else if n = 2 then s.modStrand k i fun x => { x with scfg := scfgWrite x.scfg w }
  else if n = 3 then s.modStrand k i fun x => { x with scause := w &&& 0xFFFF07 }
  else if n = 4 then s.modStrand k i fun x => { x with sepc := w &&& 0x1FFFFFFFFFFFFFC }
  else if n = 5 then s.modStrand k i fun x => { x with sinfo := w }
  else if n = 6 then s.modStrand k i fun x => { x with shv := w &&& 0xFFFFFFFFFFFFFFF0 }
  else if 0x10 ≤ n ∧ n < 0x14 then s.modStrand k i fun x => { x with ls := mput x.ls (n - 0x10) w }
  else if 0x14 ≤ n ∧ n < 0x18 then s.modStrand k i fun x => { x with le := mput x.le (n - 0x14) w }
  else if 0x18 ≤ n ∧ n < 0x1C then s.modStrand k i fun x => x.setLC (n - 0x18) (w.setWidth 32)
  else if 0x100 ≤ n ∧ n < 0x120 then
    s.modCore k fun c => { c with bfmt := mput c.bfmt (n - 0x100) (bfmtWrite (mget c.bfmt (n - 0x100) 0) (w.setWidth 32)) }
  else if n = 0x120 then s.modCore k fun c => { c with gtol := w &&& 0xFFFFFFFF }
  else s

end Sys2Proof.Machine
end

