-- ==== Sys2Proof/Machine/Issue.lean ====
section
/-! DEFINITION. How a group issues (R57 to R64, R71 to R84, R364): what an operation uses, the checks of a group in their order, and the
issue itself, whole or not at all. A meaning of an encoded operation is the issue of the group that holds it alone. -/

namespace Sys2Proof.Machine

/-- Kinds of R60. -/
inductive PortKind where
  | scalar | vector | extended | memory
deriving DecidableEq, Repr

def PortKind.ports : PortKind → Nat
  | .scalar => 2 | .vector => 3 | .extended => 1 | .memory => 2

/-- Why an operation keeps its group from issuing. -/
inductive Stop where
  | cause (code detail : Nat) (sinfo : Word)
  | block (b : Block)
  | park (p : Park)
  | freeze (n : List Need)
deriving DecidableEq, Repr

/-- What an operation uses: kind, registers read (one entry an operand), fixed-latency destinations with latency, variable-latency destinations. -/
structure Info where
  kind : PortKind
  reads : List Reg := []
  writes : List (Reg × Nat) := []
  pends : List Reg := []
  /-- The scalar guard; a lane-guarded operation always issues (R63). -/
  guard : Option Nat := none
  c3 : Bool := false
  /-- Irrevocable (R81). -/
  irr : Bool := false
  /-- Able to block (R33, R76), or YIELD, GBAR, TRAP, EXIT. -/
  blocky : Bool := false
  /-- Order within the group: 0 counter reads, 1 ROW, 2 operations, 3 effects at the end of the issue cycle, 4 EXIT and TDONE. -/
  phase : Nat := 2
  /-- May form a mirror pair (R70). -/
  mir : Bool := false
  isRow : Bool := false
  /-- Its destination is also one of its reads, in one field (CAS, R69). -/
  rmw : Bool := false
  /-- Registers whose poison the operation passes on instead of consuming it (R370, R371). -/
  carries : List Reg := []
  /-- Detail of the illegal-encoding trap that the operation meets alone (R84), if any. -/
  bad : Option Nat := none
  /-- Checks that need the named registers alone: their causes outrank a block on another operand (R364). -/
  early : List (List Reg × (State → Option Stop)) := []

/-- The stop among a check's answers. -/
def stopOf {α : Type} : Except Stop α → Option Stop
  | .error e => some e
  | .ok _ => none

/-- The effect of an operation of the strand that `cur` names. -/
abbrev Op := State → Except Stop State

/-- An operation of a group. -/
structure GOp where
  info : Info
  op : Op

/-- All registers an operation writes. -/
def Info.dests (n : Info) : List Reg := n.writes.map (·.1) ++ n.pends

/-- The queue ports an operation names, one entry an operand. -/
def Info.portNames (n : Info) : List Reg := (n.reads ++ if n.rmw then [] else n.dests).filter (·.isPort)

/-! ## Checks of R84 over the operations of a group -/

/-- Detail 6 at each operation that finds no free port of its kind (R60). -/
def portsBad (ns : List Info) : List (Nat × Nat) :=
  ns.zipIdx.filterMap fun e =>
    if e.1.kind.ports ≤ ((ns.take e.2).filter fun m => decide (m.kind = e.1.kind)).length then some (e.2, 6) else none

/-- A register exempt from R61. -/
def exempt : Reg → Bool
  | .x 0 => true
  | .p 0 => true
  | _ => false

def meets (a b : List Reg) : Bool := a.any fun r => !exempt r && !r.isPort && b.contains r

/-- Whether two operations of a group conflict (R61). -/
def conflicts (a b : Info) : Bool :=
  meets a.dests (b.reads ++ b.dests) || meets b.dests a.reads || a.portNames.any fun r => b.portNames.contains r

/-- Detail 7 at the later operation of each conflicting pair, or at one operation that names a port twice (R61, R123). -/
def conflictsBad (ns : List Info) : List (Nat × Nat) :=
  ns.zipIdx.filterMap fun e =>
    if (ns.take e.2).any (fun m => conflicts m e.1) || e.1.portNames.length != e.1.portNames.eraseDups.length then some (e.2, 7) else none

/-- Detail 9 at the second half of a mirror pair whose first half stands at p, or at p when the group ends there (R70, R84). -/
def mirrorBad (ns : List Info) (p : Nat) : Option (Nat × Nat) :=
  match ns[p]?, ns[p + 1]? with
  | some a, some b =>
    if !a.mir || !b.mir || (ns.take p).any (fun m => decide (m.kind = a.kind)) || a.dests == b.dests then some (p + 1, 9) else none
  | some _, none => some (p, 9)
  | none, _ => none

/-- The encoding checks of a group: pairs of position and detail. -/
def encBad (cur : GroupCtx) (ns : List Info) : List (Nat × Nat) :=
  (ns.zipIdx.filterMap fun e => e.1.bad.map fun d => (e.2, d))
    ++ portsBad ns ++ conflictsBad ns
    ++ (ns.zipIdx.filterMap fun e => if e.1.c3 && (!cur.atS3 || (ns.take e.2).any (·.c3)) then some (e.2, 8) else none)
    ++ (ns.zipIdx.filterMap fun e => if e.1.isRow && !cur.marked then some (e.2, 13) else none)
    ++ cur.mirror.filterMap (mirrorBad ns)

/-- The lowest of a list of pairs, by the first and then the second number. -/
def lowest : List (Nat × Nat) → Option (Nat × Nat)
  | [] => none
  | e :: r => match lowest r with
    | none => some e
    | some f => if f.1 < e.1 ∨ (f.1 = e.1 ∧ f.2 < e.2) then some f else some e

/-! ## Stops of one operation -/

/-- Rank of a cause (R364). -/
def rankOf (code : Nat) : Nat :=
  if code = 0x01 then 1 else if code = 0x02 then 2 else if code = 0x06 ∨ code = 0x07 then 3
  else if code = 0x10 ∨ code = 0x11 ∨ code = 0x12 then 5 else if code = 0x13 ∨ code = 0x14 then 6
  else if code = 0x0B then 7 else if code = 0x03 then 8 else if code = 0x15 ∨ code = 0x08 then 9 else 4

/-- Place of a cause in its rank's row (R364). -/
def rowPlace (code : Nat) : Nat := if code = 0x07 ∨ code = 0x15 then 0 else code

/-- Whether a register is pending (R73). -/
def Strand.isPending (x : Strand) (r : Reg) : Bool := x.pend.any fun p => p.dests.contains r

/-- The stops of an operation that a false guard does not suppress: a pending register as a destination (R63, R73), and an array error met since an
earlier segment (R371). -/
def pendingStops (x : Strand) (n : Info) : List Stop :=
  (if n.dests.any fun r => !r.isPort && !r.isNull && x.isPending r then [.cause 0x02 2 0] else [])
    ++ (match x.arrayErr with | some b => [.cause 0x15 2 (w64 b)] | none => [])

/-- The schedule conditions of R73 and R74 that an operation meets whose guard is true. -/
def schedStops (x : Strand) (n : Info) : List Stop :=
  pendingStops x n
    ++ (if n.writes.any fun w => !w.1.isPort && !w.1.isNull && w.2 != 0 && x.inflight.any fun l => decide (l.dest = w.1) && l.left == w.2
        then [.cause 0x02 1 0] else [])

/-- A head entry that can be popped (R123): it has landed, and what its pusher accessed before the push has performed at core scope (R292). -/
def State.canPop (s : State) (k q : Nat) : Bool :=
  match ((s.core k).port q).head? with
  | some e => e.landed && !(s.waiting k).any fun a => a.strand == e.pusher && decide (a.uid < e.ticket)
  | none => false

/-- The block that a register met as an operand makes (R33). -/
def State.regBlock (s : State) (k : Nat) (x : Strand) (r : Reg) : Option Block :=
  match r with
  | .x m => if 56 ≤ m then (if s.canPop k (m - 56) then none else some (.queueEmpty (m - 56)))
            else if m != 0 && x.isPending r then some (.pending r) else none
  | _ => if x.isPending r then some (.pending r) else none

/-- The block that an operation's operands or queue destinations meet (R33). -/
def State.operandBlock (s : State) (k : Nat) (x : Strand) (n : Info) : Option Block :=
  pick1 (s.regBlock k x) n.reads
  <|> pick1 (fun r =>
    match r with
    | .x m => if 56 ≤ m && 16 ≤ ((s.core k).port (m - 56)).length then some (.queueFull (m - 56)) else none
    | _ => none) n.dests

/-- Whether the guard of an operation is true (R63). -/
def State.guardOk (s : State) (n : Info) : Bool := match n.guard with | some p => s.readP s.cur.core s.cur.strand p | none => true

/-- The queue ports among the registers read give up their heads (R123). -/
def State.popReads (s : State) (k : Nat) (l : List Reg) : State := l.foldl (fun t r => match r with | .x m => t.popX k m | _ => t) s

/-- Whether a poisoned register is read and not passed on (R370, R371). -/
def Strand.poisonRead (x : Strand) (n : Info) : Bool := n.reads.any fun r => x.poisonedReg r && !n.carries.contains r

/-- Whether a group with this operation makes the next group a restart point (R80, R81). -/
def Info.seals (n : Info) : Bool := n.irr || !n.portNames.isEmpty

/-- What a blocked operation meets all the same: the checks of the operands that it has, and all of them where a full queue alone blocks it (R364). -/
def earlyStops (s : State) (x : Strand) (n : Info) : List Stop :=
  n.early.filterMap fun e =>
    if e.1.any fun r => (s.regBlock s.cur.core x r).isSome then none
    else match e.2 s with
      | some (Stop.block _) => none
      | some (Stop.park _) => none
      | o => o

/-- The checks of a whole operation, as an early one (R364). -/
def GOp.whole (g : GOp) : Info := { g.info with early := g.info.early ++ [(g.info.reads, fun s => stopOf (g.op s))] }

/-- A variable-latency result of x, one of those after the first n, that would land together with a result in flight (R74). -/
def lateCollision (now : Nat) (x : Strand) (n : Nat) : Bool :=
  (x.pend.drop n).any fun p => p.dests.any fun r => !r.isPort && !r.isNull && x.inflight.any fun l => decide (l.dest = r) && p.due == some (now + l.left - 1)

/-- Runs one operation after those before it: the state with its effect, or the state as it was and what it meets. -/
def runOp (s : State) (g : GOp) : State × List Stop :=
  let x := s.strand s.cur.core s.cur.strand
  if !s.guardOk g.info then (s, pendingStops x g.info)
  else
    let st := schedStops x g.info ++ (if x.poisonRead g.info then [.cause 0x15 1 0] else [])
    match s.operandBlock s.cur.core x g.info with
    | some b => (s, st ++ earlyStops s x g.whole ++ [.block b])
    | none =>
      match g.op s with
      | .error e => (s, st ++ [e])
      | .ok t =>
        if lateCollision s.now (t.strand s.cur.core s.cur.strand) x.pend.length then (s, st ++ [.cause 0x02 1 0])
        else (t.popReads s.cur.core g.info.reads, st)

/-- Runs the operations at the given positions in turn. -/
def runOps (s : State) : List (Nat × GOp) → State × List (Nat × Stop)
  | [] => (s, [])
  | (p, g) :: r =>
    let (s1, a) := runOp s g
    let (s2, b) := runOps s1 r
    (s2, a.map (fun e => (p, e)) ++ b)

/-- The operations of a group in the order of their phases. EXIT and TDONE end the strand after the others; of an EXIT and a GBAR, or an EXIT and a TDONE,
in one group the later in this order leaves the strand in its state. MODEL'S CHOICE, log entry 112. -/
def phased (ops : List GOp) : List (Nat × GOp) :=
  let l := ops.zipIdx.map fun e => (e.2, e.1)
  (l.filter (·.2.info.phase == 0)) ++ (l.filter (·.2.info.phase == 1)) ++ (l.filter (·.2.info.phase == 2)) ++ (l.filter (·.2.info.phase == 3))
    ++ (l.filter fun e => 4 ≤ e.2.info.phase)

/-- The cause that prevails (R364): position, code, detail and SINFO. -/
def topCause : List (Nat × Stop) → Option (Nat × Nat × Nat × Word)
  | [] => none
  | (p, .cause c d w) :: r =>
    match topCause r with
    | none => some (p, c, d, w)
    | some (p', c', d', w') =>
      let key (p c d : Nat) := ((rankOf c * 16 + p) * 256 + rowPlace c) * 256 + d
      if key p' c' d' < key p c d then some (p', c', d', w') else some (p, c, d, w)
  | _ :: r => topCause r

/-- Every need that keeps the group from issuing now. -/
def needsOf (l : List (Nat × Stop)) : List Need := l.flatMap fun e => match e.2 with | .freeze n => n | _ => []

/-! ## Blocking, parking, freezing -/

/-- The strand blocks at its group (R33, R34). -/
def State.blockOn (s : State) (k i : Nat) (b : Block) : State :=
  (s.modStrand k i fun x => { x with st := .blocked b, landFirst := true }).giveUp k i 0

/-- The strand parks at its group, taking a wait-table entry (R33, R236, R267, R306, R333). -/
def State.parkOn (s : State) (k i : Nat) (p : Park) : State :=
  let s := (s.modStrand k i fun x => { x with st := .parked p, landFirst := true }).giveUp k i 0
  match p with
  | .watch => if (s.strand k i).watch.any (·.entered) then s else s.bump (towerOf k) 0x101
  | .absent h _ =>
    let s := (s.takeWait k i 2 (w64 h)).1.bump (towerOf k) 0x105
    s.modTower (s.handle h).twr fun t => { t with faults := t.faults ++ [(h, k)] }
  | .join id => (s.takeWait k i 3 id).1
  | .task => (s.takeWait k i 4 (w64 i)).1

/-- The core freezes at the running strand's group (R36, R77). -/
def State.freezeOn (s : State) (k : Nat) (n : List Need) : State :=
  (s.modCore k fun c => { c with frozen := some { needs := n.eraseDups, due := s.now + Config.extra s.freeCtr, since := s.now } }).spend

/-- The entry of a software trap (R170): the end-of-body decision that its group would have taken, SINFO the group after it, and the next
group a restart point, because TRAP is irrevocable (R81). -/
def State.takeSoftTrap (s : State) (k i d p : Nat) (c3 : Bool) : State :=
  let x := s.strand k i
  let (y, b) := if s.cur.atS3 && !c3 then x.bodyEnd s.cur.bundle 4 else (x, none)
  let nxt := s.spcAt k (b.getD s.cur.next)
  if x.th then s.takeTrap k i 0x06 d p s.cur.start nxt
  else ((s.setStrand k i { y with fresh := true }).takeTrap k i 0x06 d p s.cur.start nxt).modStrand k i fun z => { z with undo := some (x.undoAt s.now) }

/-- A strand that a cause, a block, a park or a freeze keeps at its group. -/
def State.holdGroup (s : State) (k i : Nat) (c3 : Bool) (stops : List (Nat × Stop)) : State :=
  if !(needsOf stops).isEmpty then s.freezeOn k (needsOf stops)
  else
    let s := s.modCore k fun c => { c with fills := [] }
    match topCause stops with
    | some (p, c, d, w) =>
      let s := if c = 0x0B ∧ !s.cur.th then s.dropStreams k else s
      if c = 0x06 then (s.takeSoftTrap k i d p c3).spend else (s.takeCause k i c d p s.cur.start w).spend
    | none =>
      match stops with
      | (_, .block b) :: _ => s.blockOn k i b
      | (_, .park p) :: _ => s.parkOn k i p
      | _ => s

/-! ## Issue -/

/-- Whether the group is a landing point (R76). -/
def landingPoint (x : Strand) (cur : GroupCtx) (ns : List Info) : Bool :=
  cur.marked || x.fresh || x.rewound || ns.any fun n => n.blocky || !n.portNames.isEmpty || n.reads.any fun r => x.vdest.contains r

/-- The restart record of a group that is a restart point and was not come back to by a rewind (R80). -/
def Strand.noted (x : Strand) (cur : GroupCtx) : Strand := if (x.fresh || cur.marked) && !x.rewound then x.record cur.start else x

/-- The marks that the results in flight bear when their group is a landing point (R76). -/
def Strand.crossed (x : Strand) (lp : Bool) : Strand :=
  { x with fresh := false, rewound := false, inflight := x.inflight.map fun l => { l with lp := l.lp || lp } }

/-- The state in which the operations of a group run: restart record, landing point, and the marks of earlier results in flight (R76, R80). -/
def State.openGroup (s : State) (ns : List Info) : State :=
  let x := s.strand s.cur.core s.cur.strand
  let lp := landingPoint x s.cur ns
  { s.setStrand s.cur.core s.cur.strand ((x.noted s.cur).crossed lp) with
    cur := { s.cur with
      lp := lp, taken := none, give := false, tm := x.tm, th := x.th, eret := false, sysw := [], free := s.freeCtr
      idle := (s.core s.cur.core).sq.isEmpty, own := 0 } }

/-- Where the strand goes on after its group: a taken transfer with its gap, the decision at the end of a body, or the next syllable (R75, R155). An
ERET is no branch: its group takes the decision, and SEPC prevails over a back-edge. A LOOP or LOOPI at the end of another level's body: with a count of
0 it is a taken transfer and no decision is taken, else the decision reads the registers that it has just written. MODEL'S CHOICE, log entry 111. -/
def State.advance (s : State) : State :=
  let k := s.cur.core
  let i := s.cur.strand
  match s.cur.taken with
  | some t =>
    (s.modStrand k i fun x => { (if s.cur.eret && s.cur.atS3 then (x.bodyEnd s.cur.bundle 4).1 else x) with spc := s.spcAt k t }).modCore k fun c =>
      { c with gap := 1 }
  | none =>
    if s.cur.atS3 then
      s.modStrand k i fun x =>
        let (y, b) := x.bodyEnd s.cur.bundle 4
        { y with spc := s.spcAt k (b.getD s.cur.next) }
    else s.modStrand k i fun x => { x with spc := s.spcAt k s.cur.next }

/-- The end of an issue: counters, the restart point after an irrevocable operation, and giving up the slot (R34, R80, R350). -/
def State.closeGroup (s : State) (irr : Bool) : State :=
  let k := s.cur.core
  let i := s.cur.strand
  let s := s.cur.sysw.foldl (fun s e => s.sysWrite k i e.1 e.2) s
  let s := s.modStrand k i fun x => { x with cIssue := x.cIssue + 1, fresh := irr }
  let s := s.modCore k fun c => { c with issued := true, fills := [] }
  let s := if s.cur.give then
      (s.modStrand k i fun x => { x with st := if x.st = .running then .ready else x.st, landFirst := true }).giveUp k i 1
    else s
  s.spend

/-- What a step answers. -/
abbrev Out := Host.Outcome State Fault Refusal

/-- The group issues whole, or is held. `enc`: conditions that its words meet before any operation is known. -/
def issueGroup (enc : List (Nat × Nat)) (ops : List GOp) (s : State) : Host.Outcome State Fault Refusal :=
  let k := s.cur.core
  let i := s.cur.strand
  let ns := ops.map (·.info)
  match lowest (enc ++ encBad s.cur ns) with
  | some (p, d) => .next ((s.takeCause k i 0x01 d p s.cur.start 0).spend)
  | none =>
    let o := s.openGroup ns
    let (t, stops) := runOps o (phased ops)
    if stops.isEmpty then
      .next ((t.advance).closeGroup (ops.any fun g => g.info.seals && o.guardOk g.info))
    else .next (s.holdGroup k i (ns.any (·.c3)) stops)

/-- The meaning of one operation: the issue of the group that holds it alone. -/
def issue1 (n : Info) (op : Op) (s : State) : Host.Outcome State Fault Refusal := issueGroup [] [⟨n, op⟩] s

end Sys2Proof.Machine
end

