-- ==== Sys2Proof/Machine/Posted.lean ====
section
/-! DEFINITION. Direct stores, reductions and atomics: the operation of R259, and performing an entry of the store queue at its coherence point
(R253, R261, R262, R282, R214); the row buffer (R207, R253, R288). -/

namespace Sys2Proof.Machine

/-- The new value of a w-bit word under an atomic operation (R259); none: CAS whose comparand differs writes nothing. -/
def aopNew (op : Aop) (w old x cmp : Nat) : Option Nat :=
  let f := if w = 64 then ieee64 else ieee32
  let o := sInt w old
  let y := sInt w x
  match op with
  | .add => some ((old + x) % 2 ^ w)
  | .and => some (old &&& x)
  | .or => some (old ||| x)
  | .xor => some (old ^^^ x)
  | .min => some (if y < o then x else old)
  | .max => some (if o < y then x else old)
  | .minu => some (min old x)
  | .maxu => some (max old x)
  | .swap => some x
  | .cas => if old = cmp then some x else none
  | .fadd => some (addF f old x)
  | .fmin => some (minMax f false old x)
  | .fmax => some (minMax f true old x)

/-- Gives a variable-latency result its value and the cycle it lands in. -/
def State.resolve (s : State) (k i tag : Nat) (v : Word) (due : Nat) (pois : Bool) : State :=
  s.modStrand k i fun x => { x with pend := x.pend.map fun p =>
    if p.tag = tag ∧ p.due.isNone then { p with vals := p.dests.map fun _ => .w v, due := some due, poison := p.poison || pois } else p }

/-- An atomic or reduction by tower t performs at its home in one step: every copy of the line is recalled, what the line's pending steps leave is
read, and the new value written (R261, R289, R291); a reduction is a step of its line (R262). The value read, whether it carries poison, and the
value written. -/
def State.homeAtomic (s : State) (t job pa : Nat) (op : Aop) (dbl : Bool) (x cmp : Word) (red : Bool) : State × Word × Bool × Option Nat :=
  let n := aopBytes dbl
  let h := homeTower pa
  let s := s.recall pa
  let steps := mget (s.tower h).wq (pa / 128) []
  let s := ((s.umbraUse job pa n false).umbraErrs h pa n).1
  let (bs, po) := s.physRead pa n
  let old := ofLE bs
  let new := aopNew op (8 * n) old (x.toNat % 2 ^ (8 * n)) (cmp.toNat % 2 ^ (8 * n))
  let s := match new with
    | some v => s.performHome t job (cellsOf pa (toLE n v)) po
    | none => s.hotCount t pa
  (if red then s.wqNote steps { pa := pa, op := op, dbl := dbl, operand := x } else s, w64 old, po, new)

/-- An atomic or reduction performs on the scratchpad: the old value and its poison (R261). -/
def State.scrAtomic (s : State) (k off : Nat) (op : Aop) (dbl : Bool) (x cmp : Word) : State × Nat × Bool :=
  let n := aopBytes dbl
  let (s, bs, po) := s.scrRead k off n
  let old := ofLE bs
  match aopNew op (8 * n) old (x.toNat % 2 ^ (8 * n)) (cmp.toNat % 2 ^ (8 * n)) with
  | some v => (s.modCore k fun c => if po then (c.scrWrite off (toLE n v)).scrPoison off n else c.scrWrite off (toLE n v), old, po)
  | none => (s, old, po)

/-- The reduction step of an access (R262). -/
def SqEntry.step (e : SqEntry) : RedStep := { pa := e.pa, op := e.op, dbl := e.dbl, operand := e.operand }

/-- An access to the scratchpad performs in the near array (R253, R261). -/
def State.performScr (s : State) (k : Nat) (e : SqEntry) : State :=
  match e.kind with
  | .store => s.modCore k fun c => if e.pois then (c.scrWrite e.pa e.bytes).scrPoison e.pa e.bytes.length else c.scrWrite e.pa e.bytes
  | .red => (s.scrAtomic k e.pa e.op e.dbl e.operand e.comparand).1
  | .amo =>
    let (s, old, po) := s.scrAtomic k e.pa e.op e.dbl e.operand e.comparand
    s.resolve k e.strand e.tag (w64 old) (max s.now e.due) po

/-- An access to a peer's memory is carried over Warath (R261, R355 gauge 4: stores). -/
def State.performPeer (s : State) (k : Nat) (e : SqEntry) : State :=
  let who := some (e.strand, e.cls)
  match e.kind with
  | .store => s.sendStore (towerOf k) e.job e.pa e.bytes e.pois k who e.lead
  | .red => (s.sendFlit (peerOf e.pa) 0 3 (.atomic (e.pa % 2 ^ 41) (aopCode e.op) e.dbl e.operand e.comparand 0 false) 0 k who).1
  | .amo =>
    let tag := s.uid
    (({ s with uid := s.uid + 1, remote := mput s.remote tag (.amo k e) }).sendFlit (peerOf e.pa) 0 3
      (.atomic (e.pa % 2 ^ 41) (aopCode e.op) e.dbl e.operand e.comparand tag true) tag k who).1

/-- An atomic or reduction on this device's memory performs (R261), and its duplicate goes out (R201). -/
def State.performAtom (s : State) (k : Nat) (e : SqEntry) : State :=
  let t := towerOf k
  let (s, old, po, new) := s.homeAtomic t e.job e.pa e.op e.dbl e.operand e.comparand (decide (e.kind = .red))
  let s := match e.dup, new with
    | true, some v => s.duplicate t (some (k, e.strand)) e.job e.pa (toLE (aopBytes e.dbl) v) e.cls
    | _, _ => s
  if e.kind = .amo then s.resolve k e.strand e.tag old (max s.now e.due) po else s

/-- When the host acknowledges an access of strand i and class c that it accepts now: no earlier than those of that class before it (R279, R282). -/
def State.hostAckAt (s : State) (k i c : Nat) : Nat :=
  (s.hostAcks.filter fun a => a.1 == k && a.2.1 == i && a.2.2.1 == c).foldl (fun m a => max m a.2.2.2) (s.now + Config.extra s.freeCtr)

/-- A direct access of core k leaves the store queue (R253, R261): a scratchpad access performs; a store performs at L2, or is accepted by a port;
an atomic or reduction performs at its home, or is held while its page migrates (R214). -/
def State.performEntry (s : State) (k : Nat) (e : SqEntry) : State :=
  let t := towerOf k
  if e.scr then s.performScr k e
  else if region e.pa = 1 then s.performPeer k e
  else if region e.pa = 2 then
    ({ s.performHome t e.job (cellsOf e.pa e.bytes) e.pois with hostAcks := s.hostAcks ++ [(k, e.strand, e.cls, s.hostAckAt k e.strand e.cls)] }).spend
  else match e.kind with
  | .store => s.performL2 k e
  | _ =>
    if s.migrating e.pa then ({ s with uid := s.uid + 1 }).modTower t fun x => { x with held := x.held ++ [(k, { e with at_ := s.uid })] }
    else s.performAtom k e

/-- Whether an earlier entry of the same strand must perform before this one: the same class, the same location, or a fence between them (R282, R283). -/
def SqEntry.after (x : Strand) (e a : SqEntry) : Bool :=
  a.strand == e.strand && decide (a.uid < e.uid) &&
    (a.cls == e.cls || a.cls == 15 || e.cls == 15 || a.overlaps e.loc e.len
      || x.fences.any fun f => decide (a.uid < f.uid) && decide (f.uid ≤ e.uid) && (f.dup || (f.mask.getLsbD a.cls && f.mask.getLsbD e.cls)))

/-- Whether a write on the way home must reach it before entry e of core k performs: e, or it, is of class 15; or e performs at its home or at a port,
and so at device scope, and it is of e's class or location (R279, R282). -/
def SqEntry.behind (k : Nat) (e : SqEntry) (a : Nat × SqEntry) : Bool :=
  a.1 == k && a.2.strand == e.strand
    && (a.2.cls == 15 || e.cls == 15 || ((decide (e.kind ≠ .store) || region e.pa != 0) && !e.scr && (a.2.cls == e.cls || a.2.overlaps e.loc e.len)))

/-- Whether an access to a peer or the host comes, at system scope, after the strand's earlier stores of its class: acknowledgements from another
destination, and of duplicates, are in (R279, R282). -/
def State.portOrder (s : State) (k : Nat) (e : SqEntry) : Bool :=
  let mine (x : Flit) : Bool := x.core == k && decide (x.who = some (e.strand, e.cls))
  (region e.pa == 2 || !(s.hostAcks.any fun a => a.1 == k && a.2.1 == e.strand && a.2.2.1 == e.cls))
    && !(s.ports.any fun p => (p.2.unacked ++ p.2.queues.flatMap (·.2)).any fun x => mine x && !(region e.pa == 1 && x.dst == peerOf e.pa))
    && !s.dupWaits k e.strand e.cls

/-- Whether the place where entry e performs takes it now: room in the write queue, and the gauges (R262, R294, R357). -/
def State.accepts (s : State) (k : Nat) (e : SqEntry) : Bool :=
  if e.scr then true
  else if region e.pa ≠ 0 then s.portOrder k e && (region e.pa == 2 || (match e.kind with | .store => !e.lead || s.admits e.job (towerOf k) 4 | _ => true))
  else match e.kind with
    | .store => true
    | _ => (decide (e.kind = SqKind.amo) || s.wqRoom e.pa (some e.step)) && s.umbraMay e.job e.pa e.len false && s.sysOrder k e
        && (!e.dup || s.partner == 0xFF || s.admits e.job (towerOf k) 3)

/-- Whether entry e of core k's store queue may perform now. -/
def State.mayPerform (s : State) (k : Nat) (e : SqEntry) : Bool :=
  let x := s.strand k e.strand
  !((s.waiting k).any fun a => e.after x a)
    && !(x.fences.any fun f => decide (f.uid ≤ e.uid) && (f.dup || f.mask.getLsbD e.cls))
    && !((s.tower (towerOf k)).out.any fun a => e.behind k a)
    && s.accepts k e

/-- An atomic or reduction that performs at a home on this device: every copy of its line is called in first (R261). -/
def State.atHome (s : State) (e : SqEntry) : Bool := !e.scr && decide (e.kind ≠ .store) && region e.pa == 0 && !s.migrating e.pa

/-- Takes an entry out of the store queue and performs it; an atomic or reduction stays until no copy of its word, and no write on its way home, is
left (R261, R281 item 6). -/
def State.performOne (s : State) (k : Nat) (e : SqEntry) : State :=
  let s := if s.atHome e then s.recall e.pa else s
  if s.atHome e && !s.recalled e.pa e.len then s
  else (s.modCore k fun c => { c with sq := c.sq.filter fun a => a.uid != e.uid }).performEntry k e

/-- An atomic or reduction that tower t holds performs, where it may, once the migration of its page is over. -/
def State.heldGo (s : State) (t : Nat) (e : Nat × SqEntry) : State :=
  if s.migrating e.2.pa || !s.turnFree t e.2 || !s.accepts e.1 e.2 then s
  else
    let s := s.recall e.2.pa
    if s.recalled e.2.pa e.2.len then (s.modTower t fun x => { x with held := x.held.filter fun a => a.2.uid != e.2.uid }).performAtom e.1 e.2 else s

/-- Those that tower t holds perform in their order (R214 step 5). -/
def State.heldTick (s : State) (t : Nat) : State := (s.tower t).held.foldl (fun s e => s.heldGo t e) s

/-- The accesses to n bytes at pa that tower t holds, atomics and reductions (true) and writes on their way home, in the order in which it queued them. -/
def State.waitedFor (s : State) (t pa n : Nat) : List (Bool × Nat × SqEntry) :=
  let mine (e : Nat × SqEntry) : Bool := decide (pa ≤ e.2.pa) && decide (e.2.pa < pa + n)
  let l := (((s.tower t).held.filter mine).map fun e => (true, e)) ++ (((s.tower t).out.filter mine).map fun e => (false, e))
  l.mergeSort fun a b => decide (a.2.2.at_ ≤ b.2.2.at_)

/-- The accesses to n bytes at pa that waited for a migration are reissued: each tower's go in the order in which it queued them, as far as they may at
once (R214 step 5). -/
def State.reissue (s : State) (pa n : Nat) : State :=
  let mine (e : Nat × SqEntry) : Bool := decide (pa ≤ e.2.pa) && decide (e.2.pa < pa + n)
  let mark (l : List (Nat × SqEntry)) : List (Nat × SqEntry) := l.map fun e => if mine e then (e.1, { e.2 with turn := s.uid }) else e
  let s := { s with uid := s.uid + 1, towers := s.towers.map fun (e : Nat × Tower) => (e.1, { e.2 with held := mark e.2.held, out := mark e.2.out }) }
  (List.range 12).foldl (fun s t =>
    (s.waitedFor t pa n).foldl (fun s w => if w.1 then s.heldGo t w.2 else if s.outMay t w.2 then s.sendHome t w.2 else s) s) s

/-- The entries that f selects, and those that must perform before them. -/
def neededFor (x : Strand) (f : SqEntry → Bool) : List SqEntry → List SqEntry
  | [] => []
  | a :: r =>
    let m := neededFor x f r
    if f a || m.any (fun e => e.after x a) then a :: m else m

/-- Performs, in program order, the queued accesses of strand i that f selects and those before them, as far as they may perform. -/
def State.flush (s : State) (k i : Nat) (f : SqEntry → Bool) : State :=
  (neededFor (s.strand k i) f ((s.core k).sq.filter fun e => e.strand == i)).foldl (fun s e => if s.mayPerform k e then s.performOne k e else s) s

/-- Every queued access of the strand performs that may. -/
def State.flushAll (s : State) (k i : Nat) : State := s.flush k i fun _ => true

/-- Entries that take a place of the 32 (R253). -/
def Core.sqLen (c : Core) : Nat := (c.sq.filter fun e => decide (e.kind ≠ .amo)).length

/-- Whether n more accesses of a group find room, `own` of whose accesses are in already and at whose begin the queue was empty or not. More than 32 in
all need the queue to themselves, and no fence in their way: the first then perform as the last come in. -/
def Core.sqTakes (c : Core) (x : Strand) (idle : Bool) (own n : Nat) : Bool :=
  if own + n ≤ 32 then decide (c.sqLen + n ≤ 32) else idle && x.fences.isEmpty

/-- The same for the group that issues. -/
def State.sqRoom (s : State) (k i n : Nat) : Bool := (s.core k).sqTakes (s.strand k i) s.cur.idle s.cur.own n

/-- Puts a direct access into the store queue, from which it performs at a free moment (R282, R52). -/
def State.post (s : State) (k : Nat) (e : SqEntry) : State :=
  let s := match (s.core k).sq.find? fun z => decide (z.kind ≠ SqKind.amo) with
    | some z => if e.kind ≠ SqKind.amo ∧ 32 ≤ (s.core k).sqLen then s.performOne k z else s
    | none => s
  let e := { e with uid := s.uid, latest := s.now + Config.extra s.freeCtr }
  (({ s with uid := s.uid + 1, cur := { s.cur with own := s.cur.own + if e.kind = SqKind.amo then 0 else 1 } }).modCore k fun c =>
    { c with sq := c.sq ++ [e] }).spend

/-! ## What a load follows (R281, R282) -/

/-- An access that a load of class c at a location must follow: one to the location, one of class 15, an atomic of the class, or any if c is 15. -/
def SqEntry.before (a : SqEntry) (i c loc n : Nat) : Bool :=
  a.strand == i && (c == 15 || a.cls == 15 || a.overlaps loc n || (decide (a.kind = .amo) && a.cls == c))

/-- A write on its way home that it must follow: the strand's own if one of the two has class 15, and with `coh`, where the load reads at the
coherence point, the tower's to the location. -/
def outBefore (a : Nat × SqEntry) (k i c loc n : Nat) (coh : Bool) : Bool :=
  (a.1 == k && a.2.strand == i && (c == 15 || a.2.cls == 15)) || (coh && a.2.overlaps loc n)

/-- Whether every access that the load must follow has performed. -/
def State.loadClear (s : State) (k i c loc n : Nat) (coh : Bool) : Bool :=
  !((s.waiting k).any fun a => a.before i c loc n) && !((s.tower (towerOf k)).out.any fun a => outBefore a k i c loc n coh)

/-- Performs those that it must follow, as far as they may. -/
def State.loadPush (s : State) (k i c loc n : Nat) (coh : Bool) : State :=
  let s := s.flush k i fun a => a.before i c loc n
  s.pushHome (towerOf k) fun a => outBefore a k i c loc n coh

/-- A release at device scope by strand i (R292): its direct accesses, and the dirty lines of its core, go home as far as they may. -/
def State.release (s : State) (k i : Nat) : State :=
  ((s.flushAll k i).writeBack k).pushHome (towerOf k) fun e => e.1 == k && (e.2.strand == i || e.2.strand == 4)

/-- Whether they have got there. -/
def State.released (s : State) (k i : Nat) : Bool :=
  !((s.waiting k).any fun a => a.strand == i) && !(s.core k).dirty
    && !((s.tower (towerOf k)).out.any fun e => e.1 == k && (e.2.strand == i || e.2.strand == 4))

/-! ## Scopes (R279, R292) -/

/-- Whether every direct access of strand i with a number below u is performed at scope sc. -/
def State.scopeClear (s : State) (k i u sc : Nat) : Bool :=
  !((s.waiting k).any fun a => a.strand == i && decide (a.uid < u))
    && (decide (sc < 4) || !((s.tower (towerOf k)).out.any fun e => e.1 == k && e.2.strand == i && decide (e.2.uid < u)))
    && (decide (sc < 5) || (!(s.unacked k i fun _ => true) && (s.strand k i).dupOut == 0))

/-- Performs them at that scope, as far as they may. -/
def State.scopePush (s : State) (k i u sc : Nat) : State :=
  let s := s.flush k i fun a => decide (a.uid < u)
  if sc < 4 then s else s.pushHome (towerOf k) fun e => e.1 == k && e.2.strand == i && decide (e.2.uid < u)

/-! ## Row buffer -/

/-- A row line's byte i. -/
def RowLine.byte (l : RowLine) (i : Nat) : Byte := BitVec.ofNat 8 (l.data.toNat / 2 ^ (8 * i))

/-- A byte stored into a line. -/
def RowLine.put (l : RowLine) (i : Nat) (b : Byte) : RowLine :=
  { l with mask := l.mask ||| (1 <<< i)
           data := (l.data &&& ~~~ ((0xFF : BitVec 512) <<< (8 * i))) ||| ((b.zeroExtend 512) <<< (8 * i)) }

/-- Line number of scratchpad offsets within the row buffer. -/
def scrLine (off : Nat) : Nat := 2 ^ 63 + off / 64

/-- Index of the line that a store to line `phys` merges into (R207): line addresses are told apart as physical ones, so that the store a load
takes up is the youngest under any name of the line. -/
def Strand.mergeIdx (x : Strand) (phys : Nat) : Option Nat :=
  let n := x.rows.length
  ((List.range n).find? fun j =>
    match x.rows[j]? with
    | some l => decide (l.phys = phys ∧ l.row = x.rown ∧ x.restart.fill ≤ j)
    | none => false)

/-- A class-0 store of bytes within one line (R207): merged or in a new line; a guarded task's store without room is dropped and counted (R288). A line
that a store through a DUP page joins is duplicated whole (R201; log entry 106). -/
def Strand.rowStore (x : Strand) (line : Word) (phys off : Nat) (bs : List Byte) (dup nc : Bool) : Strand :=
  let fill (l : RowLine) : RowLine := bs.zipIdx.foldl (fun l b => l.put (off + b.2) b.1) { l with dup := l.dup || dup, nc := l.nc || nc }
  let full : Bool := match x.task with | some t => t.guarded && t.overflow | none => false
  if full then x
  else match x.mergeIdx phys with
  | some j => { x with rows := x.rows.modify j fill }
  | none =>
    if x.rows.length < 256 then
      { x with rows := x.rows ++ [fill { line := line, phys := phys, mask := 0, data := 0, row := x.rown }] }
    else match x.task with
      | some t => { x with task := some { t with overflow := true } }
      | none => x

/-- The strand runs a guarded task (R288). -/
def Strand.guarded (x : Strand) : Bool := match x.task with | some t => t.guarded | none => false

/-- The youngest buffered store to byte i of line phys (R207, R253). -/
def Strand.forward (x : Strand) (phys i : Nat) : Option Byte :=
  (x.rows.filter fun l => l.phys == phys && l.mask.getLsbD i).getLast?.map (·.byte i)

/-- Whether that store's line carries poison. -/
def Strand.forwardPois (x : Strand) (phys i : Nat) : Bool := (x.rows.filter fun l => l.phys == phys && l.mask.getLsbD i).getLast?.any (·.pois)

/-- A read of the lines of strand i's row buffer that f selects: a latent error is corrected and counted, or poisons its line (R217). -/
def State.rowErrs (s : State) (k i : Nat) (f : RowLine → Bool) : State :=
  ((s.strand k i).rows.zipIdx.filter fun e => f e.1).foldl (fun s e =>
    let (s, bad) := s.coreErrs k fun r => decide (r.sram = .row i) && r.word / 8 == e.2
    if bad then s.modStrand k i fun x => { x with rows := x.rows.modify e.2 fun l => { l with pois := true } } else s) s

end Sys2Proof.Machine
end

