-- ==== Sys2Proof/Machine/Operands.lean ====
section
/-! DEFINITION. Operand forms: the pointer forms and their updates (R250, R251), the parts of an access with their checks (R199, R201, R211,
R212, R253), reading and storing bytes by ordering class (R253, R281), and the scalar operand forms of R65. -/

namespace Sys2Proof.Machine

/-! ## Pointers -/

/-- The low k bits of x reversed. -/
def brevK (k x : Nat) : Nat := (List.range k).foldl (fun acc i => acc * 2 + (x / 2 ^ i % 2)) 0

/-- `step(p)` of R250 under a descriptor. -/
def stepPtr (am : Word × Word) (p : Word) : Word :=
  let c := am.1
  let base := am.2
  let st := wInt (sInt 32 (bits c 31 0))
  let len := bits c 55 32
  if bits c 63 62 = 0 ∨ (bits c 63 62 = 1 ∧ len = 0) then p + st
  else if bits c 63 62 = 1 then
    base + wInt (((p - base).toInt + sInt 32 (bits c 31 0)) % (len : Int))
  else
    let k := bits c 36 32
    let z := Nat.log2 st.toNat
    let o := p - base
    let i := o.toNat / 2 ^ z % 2 ^ k
    let i' := brevK k ((brevK k i + 1) % 2 ^ k)
    base + w64 (o.toNat - i * 2 ^ z + i' * 2 ^ z)

/-- The access address of a MEM form (R251): u the scaling unit. -/
def memAddr (u : Upd) (p : Word) (f : Int) (unit : Nat) : Word :=
  match u with
  | .none => p + wInt (f * unit)
  | _ => p

/-- The pointer after the access, where the form updates it (R251). -/
def memNext (u : Upd) (am : Word × Word) (p : Word) (f : Int) (unit : Nat) : Option Word :=
  match u with
  | .none => none
  | .post => some (stepPtr am p)
  | .add => some (p + wInt (f * unit))

/-- Registers a MEM form reads for its address, and the pointer it writes. -/
def memReads (p : Nat) (u : Upd) : List Reg := match u with | .post => [.a p, .am p] | _ => [.a p]
def memWrites (p : Nat) (u : Upd) : List (Reg × Nat) := match u with | .none => [] | _ => [(.a p, 1)]

/-- A post-update takes no offset (R251): otherwise detail 2. -/
def updBad (u : Upd) (f : Int) : Option Nat := if u = .post ∧ f ≠ 0 then some 2 else none

/-- The pointer update lands at the end of the issue cycle (R72, R251). -/
def State.updatePtr (s : State) (k i p : Nat) (n : Option Word) : State :=
  match n with | some v => s.result k i (.a p) 1 (.w v) | none => s

/-! ## Accesses -/

/-- One part of an access within a 64-byte line. -/
structure Part where
  scr : Bool
  /-- Physical address or scratchpad offset. -/
  pa : Nat
  va : Word
  len : Nat
  dup : Bool := false
  nc : Bool := false
deriving DecidableEq, Repr

/-- Physical line number of a part, with scratchpad lines apart. -/
def Part.line (p : Part) : Nat := if p.scr then scrLine p.pa else p.pa / 64

/-- Line address as the row buffer keeps it. -/
def Part.lineAddr (p : Part) : Word := p.va &&& 0xFFFFFFFFFFFFFFC0

/-- The pieces of n bytes at address a within 64-byte lines: address and length. -/
def linePieces : Nat → Word → Nat → List (Word × Nat)
  | 0, _, _ => []
  | fuel + 1, a, n =>
    if n = 0 then [] else
    let c := min n (64 - a.toNat % 64)
    (a, c) :: linePieces fuel (a + w64 c) (n - c)

/-- A page of a peer that no port reaches (R404). -/
def State.unreached (s : State) (pa : Nat) : Bool := region pa == 1 && (s.portTo (peerOf pa)).isNone

/-- What the translations of a global access's pieces meet, in the order of R364: an address outside the space, a walk still to be made, a peer that no
port reaches, the fault of a walk. -/
def State.globStop (s : State) (k job : Nat) (l : List (Word × Nat)) : Option Stop :=
  let xs := l.map fun p => (p.1, s.xlate k job p.1.toNat)
  let needs := xs.filterMap fun x => match x.2 with | .need n => some n | _ => none
  match l.find? fun p => bits p.1 63 57 != 0 with
  | some p => some (.cause 0x10 1 p.1)
  | none =>
    if !needs.isEmpty then some (.freeze needs)
    else match xs.find? fun x => match x.2 with | .ok e => s.unreached (e.pa x.1.toNat) | _ => false with
    | some x => some (.cause 0x10 1 x.1)
    | none => pick1 (fun x : Word × XRes => match x.2 with | .bad c d => some (Stop.cause c d x.1) | _ => none) xs

/-- Translates the pieces of a global access; their permission is checked once all of them are translated (R364). -/
def State.globParts (s : State) (k job : Nat) (l : List (Word × Nat)) : Except Stop (List (Part × Tlb)) :=
  match s.globStop k job l with
  | some e => .error e
  | none => .ok (l.filterMap fun p => match s.xlate k job p.1.toNat with
      | .ok e => some ({ scr := false, pa := e.pa p.1.toNat, va := p.1, len := p.2, dup := e.dup, nc := e.nc }, e)
      | _ => none)

/-- The attributes that R212 compares. -/
def Tlb.attrs (e : Tlb) : Bool × Bool × Bool × Bool × Bool := (e.w, e.x, e.dup, e.pin, e.nc)

/-- Whether the pages of an access's pieces differ in them. -/
def mixedPages (ps : List (Part × Tlb)) : Bool := match ps with | [] => false | p :: r => r.any fun q => q.2.attrs != p.2.attrs

/-- The permission of translated pieces (R253): the first that a write finds without W. -/
def denied (write : Bool) (ps : List (Part × Tlb)) : Option Stop :=
  if write then (ps.find? fun p => !p.2.w).map fun p => .cause 0x14 1 p.1.va else none

/-- The parts of an access of n bytes at address a, all checked before any performs (R199, R212). -/
def State.parts (s : State) (k : Nat) (a : Word) (n : Nat) (write : Bool) : Except Stop (List Part) :=
  match spaceOf a with
  | .none => .error (.cause 0x10 1 a)
  | .scr =>
    match (s.core k).scrOff a n with
    | none => .error (.cause 0x11 1 a)
    | some off => .ok ((linePieces (n / 64 + 2) a n).map fun p => { scr := true, pa := off + (p.1 - a).toNat, va := p.1, len := p.2 })
  | .glob =>
    match s.globParts k (s.jobOf k) (linePieces (n / 64 + 2) a n) with
    | .error e => .error e
    | .ok ps =>
      if mixedPages ps then .error (.cause 0x12 1 a)
      else match denied write ps with
        | some e => .error e
        | none => .ok (ps.map (·.1))

/-- Whether a FENCE, a FENCE.D or an XLINV of the strand holds back a load of class c (R263, R264, R337). -/
def Strand.heldBack (x : Strand) (c : Nat) : List Need :=
  (if x.xlinv.isSome then [.drop] else []) ++ (if x.fences.any fun f => f.dup || f.mask.getLsbD c then [.fence] else [])

/-- n bytes of L1's line ln on core k, from offset o on, with their poison; a latent double error poisons its word of a dirty line and has a clean one
fetched again (R217, R370). -/
def State.l1Read (s : State) (k ln : Nat) (l : L1Line) (got : Bool) (o n : Nat) : Except Stop (State × List Byte × Bool) :=
  let (s, z) := s.l1Checked k ln l
  if z.dirty == 0 && (z.poison != l.poison || (z.poisoned 0 64 o n && !got)) then .error (.freeze [.line ln])
  else .ok (s.modCore k fun c => { c with l1 := mput c.l1 ln z }, (z.data.drop o).take n, z.poisoned 0 64 o n)

/-- The bytes of tower t's L2 at pa, or of what it would fetch (R209). -/
def State.l2Read (s : State) (t pa n : Nat) : List Byte × Bool :=
  match mfind (s.tower t).l2 (pa / 128) with
  | some l => ((l.data.drop (pa % 128)).take n, l.poisoned 0 128 (pa % 128) n)
  | none => let l := s.towerLine t (pa / 128 * 128) 128; ((l.data.drop (pa % 128)).take n, l.poisoned 0 128 (pa % 128) n)

/-- The place of a part, as accesses are told apart. -/
def Part.loc (p : Part) : Nat := if p.scr then scrLoc p.pa else p.pa

/-- Memory's bytes for one part, as a load of class c sees them (R253, R281): scratchpad, L1, or the coherence point; after the strand's own accesses
that the load must follow. -/
def State.readPart (s : State) (k i c : Nat) (p : Part) : Except Stop (State × List Byte × Bool) :=
  let coh := !p.scr && (c == 15 || p.nc || region p.pa != 0)
  let s := if coh then s.dropCopies k p.pa p.len else s
  let s := s.loadPush k i c p.loc p.len coh
  if !s.loadClear k i c p.loc p.len coh then .error (.freeze [.order c p.loc p.len coh])
  else if p.scr then .ok (s.scrRead k p.pa p.len)
  else if coh then
    match (s.core k).fill? (.direct p.pa p.len c) with
    | some f => if region p.pa = 1 then .ok (s, f.bytes, f.poison) else .ok (s, rdBytes s.mem p.pa p.len, f.poison || s.poisoned p.pa p.len)
    | none => .error (.freeze [.direct p.pa p.len c])
  else
    let ln := p.pa / 64
    let got := ((s.core k).fill? (.line ln)).isSome
    match mfind (s.core k).l1 ln with
    | some l => s.l1Read k ln l got (p.pa % 64) p.len
    | none => if got then (match s.l2Read (towerOf k) p.pa p.len with | (bs, po) => .ok (s, bs, po)) else .error (.freeze [.line ln])

/-- A load of the parts with the strand's own buffered stores in front (R207, R253, R281 item 1). -/
def State.readParts (s : State) (k i c : Nat) : List Part → Except Stop (State × List Byte × Bool)
  | [] => .ok (s, [], false)
  | p :: r =>
    match s.readPart k i c p with
    | .error (.freeze n) =>
      match s.readParts k i c r with
      | .error (.freeze m) => .error (.freeze (n ++ m))
      | _ => .error (.freeze n)
    | .error e => .error e
    | .ok (s, bs, po) =>
      let s := s.rowErrs k i fun l => l.phys == p.line
      let x := s.strand k i
      let po := po || (List.range p.len).any fun j => x.forwardPois p.line ((p.pa + j) % 64)
      let bs := bs.zipIdx.map fun e => (x.forward p.line ((p.pa + e.2) % 64)).getD e.1
      match s.readParts k i c r with
      | .error e => .error e
      | .ok (s, bs', po') => .ok (s, bs ++ bs', po || po')

/-- A load of n bytes by the strand that issues: little-endian bytes and poison. -/
def State.loadBytes (s : State) (k i c : Nat) (a : Word) (n : Nat) : Except Stop (State × List Byte × Bool) :=
  match s.parts k a n false with
  | .error e => .error e
  | .ok ps =>
    let h := (s.strand k i).heldBack c
    if h.isEmpty then s.readParts k i c ps else .error (.freeze h)

/-- Whether every part of a load is in scratchpad: the load has latency 5, else 7 (R72). -/
def loadLatency (a : Word) : Nat := if spaceOf a = .scr then 5 else 7

/-- New row-buffer lines that class-0 stores to these parts take (R207); parts that a guard leaves out take none, of a VST neither (R256). MODEL'S
CHOICE, log entry 110. -/
def Strand.newLines (x : Strand) (ps : List Part) : Nat := ((ps.map Part.line).eraseDups.filter fun a => (x.mergeIdx a).isNone).length

/-- The parts of a class-0 store go into the row buffer (R207, R253). -/
def Strand.rowStores (x : Strand) : List Part → List Byte → Strand
  | [], _ => x
  | p :: r, bs => (x.rowStore p.lineAddr p.line (p.pa % 64) (bs.take p.len) p.dup p.nc).rowStores r (bs.drop p.len)

/-- A class-0 store of a guarded task that lacks a free line is dropped whole, and so is every later one (R288). -/
def Strand.rowOrDrop (x : Strand) (ps : List Part) (bs : List Byte) : Strand :=
  if x.rows.length + x.newLines ps ≤ 256 then x.rowStores ps bs
  else { x with task := x.task.map fun t => { t with overflow := true } }

/-- Stores bytes to the parts of a class-0 store. -/
def State.storeRows (s : State) (k i : Nat) (ps : List Part) (bs : List Byte) : State := s.modStrand k i fun x => x.rowOrDrop ps bs

/-- Posts the parts of a direct store to the store queue (R253). -/
def State.storeDirect (s : State) (k i c : Nat) : List Part → List Byte → State
  | [], _ => s
  | p :: r, bs =>
    (s.post k { uid := 0, strand := i, cls := c, kind := .store, job := s.jobOf k, va := p.va, pa := p.pa, bytes := bs.take p.len, dup := p.dup, nc := p.nc
                scr := p.scr }).storeDirect k i c r (bs.drop p.len)

/-- A store of bytes at address a by ordering class (R253). -/
def State.storeBytes (s : State) (k i c : Nat) (a : Word) (bs : List Byte) : Except Stop State :=
  match s.parts k a bs.length true with
  | .error e => .error e
  | .ok ps =>
    let x := s.strand k i
    if x.xlinv.isSome then .error (.freeze [.drop])
    else if c = 0 then
      if 256 < x.rows.length + x.newLines ps ∧ !x.guarded then .error (.block (.rowFull (x.newLines ps)))
      else .ok (s.storeRows k i ps bs)
    else if !s.sqRoom k i ps.length then .error (.freeze [.room (s.cur.own + ps.length)])
    else .ok (s.storeDirect k i c ps bs)

/-! ## Scalar operand forms -/

/-- Result of an operation on two X operands (R65 RRR). -/
def infoRRR (g d a b l : Nat) : Info :=
  { kind := .scalar, reads := [.p g, .x a, .x b], writes := [(.x d, l)], guard := some g, mir := true }

/-- Result of an operation on one X operand. -/
def infoRR (g d a l : Nat) : Info :=
  { kind := .scalar, reads := [.p g, .x a], writes := [(.x d, l)], guard := some g, mir := true }

/-- The operation that writes Xd := f Xa Xb with latency l. -/
def opRRR (d a b l : Nat) (f : Word → Word → Word) : Op := fun s =>
  let k := s.cur.core
  let i := s.cur.strand
  .ok (s.result k i (.x d) l (.w (f (s.readX k i a) (s.readX k i b))))

/-- The operation that writes Xd := f Xa with latency l. -/
def opRR (d a l : Nat) (f : Word → Word) : Op := fun s =>
  let k := s.cur.core
  let i := s.cur.strand
  .ok (s.result k i (.x d) l (.w (f (s.readX k i a))))

/-- The operation that writes a predicate pair: P[2k] := c, P[2k + 1] := not c (R149). -/
def writePair (s : State) (k i pr l : Nat) (c : Bool) (flags : BitVec 5) : State :=
  (s.result k i (.p (2 * pr)) l (.b c) flags).result k i (.p (2 * pr + 1)) l (.b (!c))

end Sys2Proof.Machine
end

