-- ==== Sys2Proof/Machine/Float.lean ====
section
/-! DEFINITION. The floating scalar operations, IEEE and rational: class 4 (R159 to R168). -/

namespace Sys2Proof.Machine

/-- The strand that issues. -/
def State.me (s : State) : Strand := s.strand s.cur.core s.cur.strand

/-- Detail 12 unless every F register number is below 32. -/
def badF (l : List Nat) : Option Nat := if l.all fun n => decide (n < 32) then none else some 12

/-- An F operand of a precision, with the flag that reading it raises. -/
def State.ieeeIn (s : State) (dbl : Bool) (n : Nat) : FVal × BitVec 5 :=
  let v := (ieeeOf dbl).decode (s.readF s.cur.core s.cur.strand n).toNat
  (v, sigFlag v)

/-- An F operand of rational mode. -/
def State.ratIn (s : State) (n : Nat) : FVal × BitVec 5 := fsRead (s.readF s.cur.core s.cur.strand n)

/-- Writes Fd at a fixed latency, or pending when no fixed one is given. -/
def State.outF (s : State) (d : Nat) (fixed : Bool) (l : Nat) (v : Word) (fl : BitVec 5) : State :=
  let k := s.cur.core
  let i := s.cur.strand
  if fixed then s.result k i (.f d) l (.w v) fl else s.resultVar k i (.f d) (.w v) (some (s.dueAt l)) 0 fl

/-- What a floating operation uses: in rational mode it moves to XF and marks its destination pending (R60, R165). -/
def infoF (g d : Nat) (reads : List Nat) (xf : Bool) (l : Nat) : Info :=
  { kind := if xf then .extended else .scalar, reads := .p g :: reads.map Reg.f, writes := if xf then [] else [(.f d, l)]
    pends := if xf then [.f d] else [], guard := some g, mir := !xf, bad := badF (d :: reads) }

/-- An arithmetic operation (R159, R165): exact on the operands, rounded once by IRM or RRM. `f` gets the mode that fixes the sign of a zero. -/
def gopArith (g d : Nat) (reads : List Nat) (dbl : Bool) (f : Rnd → List FVal → FVal × BitVec 5) (s : State) : GOp :=
  let rat := s.me.rat
  ⟨infoF g d reads rat 4, fun s =>
    if rat then
      let xs := reads.map s.ratIn
      let r := f .rne (xs.map (·.1))
      let o := fsOf fsRep s.me.rrm r.1
      .ok (s.outF d false o.2.2 o.1 (xs.foldl (fun a x => a ||| x.2) (r.2 ||| o.2.1)))
    else
      let xs := reads.map (s.ieeeIn dbl)
      let r := f s.me.irm (xs.map (·.1))
      let o := (ieeeOf dbl).encode s.me.irm r.1
      .ok (s.outF d true 4 (w64 o.1) (xs.foldl (fun a x => a ||| x.2) (r.2 ||| o.2)))⟩

def at2 (f : FVal → FVal → FVal × BitVec 5) : List FVal → FVal × BitVec 5
  | [a, b] => f a b
  | _ => (.nan false, 0)

def at3 (f : FVal → FVal → FVal → FVal × BitVec 5) : List FVal → FVal × BitVec 5
  | [a, b, c] => f a b c
  | _ => (.nan false, 0)

def gopFadd (g d a b : Nat) (dbl : Bool) (s : State) : GOp := gopArith g d [a, b] dbl (fun r => at2 fun x y => x.add r y) s
def gopFsub (g d a b : Nat) (dbl : Bool) (s : State) : GOp := gopArith g d [a, b] dbl (fun r => at2 fun x y => x.add r y.neg) s
def gopFmul (g d a b : Nat) (dbl : Bool) (s : State) : GOp := gopArith g d [a, b] dbl (fun _ => at2 fun x y => x.mul y) s
/-- In rational mode a NaN operand gives NaN with no flag, infinity times zero or not (R116). -/
def gopFfma (g d a b : Nat) (dbl : Bool) (s : State) : GOp :=
  gopArith g d [a, b, d] dbl (fun r => at3 fun x y z => if s.me.rat && z.isNan then (.nan false, 0) else FVal.fma r x y z) s

/-- Whether a datum shortens a division or a root (R164): zero, infinite or NaN. -/
def FVal.special (v : FVal) : Bool := v.isZero || v.isInf || v.isNan

def gopFdiv (g d a b : Nat) (dbl : Bool) (s : State) : GOp :=
  let rat := s.me.rat
  ⟨infoF g d [a, b] true 0, fun s =>
    if rat then
      let x := s.ratIn a
      let y := s.ratIn b
      let r := x.1.div y.1
      let o := fsOf fsRep s.me.rrm r.1
      .ok (s.outF d false o.2.2 o.1 (x.2 ||| y.2 ||| r.2 ||| o.2.1))
    else
      let x := s.ieeeIn dbl a
      let y := s.ieeeIn dbl b
      let r := x.1.div y.1
      let o := (ieeeOf dbl).encode s.me.irm r.1
      .ok (s.outF d false (if x.1.special || y.1.special then 6 else if dbl then 22 else 12) (w64 o.1) (x.2 ||| y.2 ||| r.2 ||| o.2))⟩

def gopFsqrt (g d a : Nat) (dbl : Bool) (s : State) : GOp :=
  let rat := s.me.rat
  ⟨infoF g d [a] true 0, fun s =>
    let x := if rat then s.ratIn a else s.ieeeIn dbl a
    let pos : Option Quo := match x.1 with | .num false q => if q.isZero then none else some q | _ => none
    let bad := match x.1 with | .num true q => !q.isZero | .inf true => true | _ => false
    let fl := x.2 ||| flagIf bad flagNV
    if rat then
      match pos with
      | some q =>
        let o := roundFs fsRep s.me.rrm false (.root q)
        .ok (s.outF d false o.2.2 o.1 (fl ||| o.2.1))
      | none => .ok (s.outF d false 6 (if bad then fsNaN else (fsOf fsRep .tz x.1).1) fl)
    else
      match pos with
      | some q =>
        let o := (ieeeOf dbl).encode s.me.irm (.num false (quoSqrt q))
        .ok (s.outF d false (if dbl then 22 else 12) (w64 o.1) (fl ||| o.2))
      | none => .ok (s.outF d false 6 (w64 ((ieeeOf dbl).encode .rne (if bad then .nan false else x.1)).1) fl)⟩

/-- FMIN and FMAX (R160, R165). -/
def gopMinMax (g d a b : Nat) (dbl big : Bool) (s : State) : GOp :=
  let rat := s.me.rat
  ⟨infoF g d [a, b] rat 4, fun s =>
    if rat then
      let x := s.ratIn a
      let y := s.ratIn b
      let v := if x.1.isNan then y.1 else if y.1.isNan then x.1 else if x.1.lt y.1 != big then x.1 else y.1
      .ok (s.outF d false 6 (fsOf fsRep .tz v).1 (x.2 ||| y.2))
    else
      let x := s.ieeeIn dbl a
      let y := s.ieeeIn dbl b
      let r := minMax (ieeeOf dbl) big (s.readF s.cur.core s.cur.strand a).toNat (s.readF s.cur.core s.cur.strand b).toNat
      .ok (s.outF d true 4 (w64 r) (x.2 ||| y.2))⟩

def gopFmin (g d a b : Nat) (dbl : Bool) (s : State) : GOp := gopMinMax g d a b dbl false s
def gopFmax (g d a b : Nat) (dbl : Bool) (s : State) : GOp := gopMinMax g d a b dbl true s

/-- The sign operations on a word (R161): `neg` inverts, else clears. -/
def signOp (rat dbl neg : Bool) (w : Word) : Word :=
  if rat then
    match (fsRead w).1 with
    | .nan _ => fsNaN
    | .num _ q => if q.isZero then fsZero else if neg then w ^^^ 0x8000000000000000 else w &&& 0x7FFFFFFFFFFFFFFF
    | .inf _ => if neg then w ^^^ 0x8000000000000000 else w &&& 0x7FFFFFFFFFFFFFFF
  else
    let f := ieeeOf dbl
    let n := w.toNat % 2 ^ f.bits
    if (f.decode n).isNan then w64 f.qnan
    else if neg then w64 (if n < f.sign then n + f.sign else n - f.sign) else w64 (n % f.sign)

def gopSign (g d a : Nat) (dbl neg : Bool) (s : State) : GOp :=
  let rat := s.me.rat
  let n := infoF g d [a] false 1
  ⟨{ n with mir := !rat }, fun s => .ok (s.outF d true 1 (signOp rat dbl neg (s.readF s.cur.core s.cur.strand a)) 0)⟩

def gopFabs (g d a : Nat) (dbl : Bool) (s : State) : GOp := gopSign g d a dbl false s
def gopFneg (g d a : Nat) (dbl : Bool) (s : State) : GOp := gopSign g d a dbl true s

/-- R161: the copy of bits. -/
def gopFmov (g d a : Nat) (dbl : Bool) (s : State) : GOp :=
  let rat := s.me.rat
  let n := infoF g d [a] false 1
  ⟨{ n with mir := !rat }, fun s =>
    let w := s.readF s.cur.core s.cur.strand a
    .ok (s.outF d true 1 (if rat || dbl then w else w &&& 0xFFFFFFFF) 0)⟩

/-- The class mask of R162. -/
def classMask (rat dbl : Bool) (w : Word) : Nat :=
  if rat then
    let odd := decide (1 ≤ bits w 62 57) && decide (bits w 62 57 ≤ 56) && !fsCanon w
    (match (fsRead w).1 with
      | .nan _ => 512
      | .inf n => if n then 1 else 128
      | .num n q => if q.isZero then 16 else if n then 2 else 64) + (if odd then 1024 else 0)
  else
    let f := ieeeOf dbl
    let n := w.toNat % 2 ^ f.bits
    match f.decode n with
    | .nan sig => if sig then 256 else 512
    | .inf neg => if neg then 1 else 128
    | .num neg q =>
      if q.isZero then (if neg then 8 else 16)
      else if n % f.sign < 2 ^ f.t then (if neg then 4 else 32)
      else if neg then 2 else 64

/-- What an operation from F registers to an X register uses. -/
def infoFX (g d a : Nat) (mir : Bool) : Info :=
  { kind := .scalar, reads := [.p g, .f a], writes := [(.x d, 1)], guard := some g, mir := mir, bad := badF [a] }

def gopFclass (g d a : Nat) (dbl : Bool) (s : State) : GOp :=
  let rat := s.me.rat
  ⟨infoFX g d a !rat, fun s =>
    .ok (s.result s.cur.core s.cur.strand (.x d) 1 (.w (w64 (classMask rat dbl (s.readF s.cur.core s.cur.strand a)))))⟩

/-- The FS64 fields as stored (R166). -/
def fsNum (w : Word) : Word :=
  let (sg, b, n, _) := fsFields w
  if b = 0 ∨ 57 ≤ b then 0 else if sg then wInt (-(n : Int)) else w64 n

def fsDen (w : Word) : Word :=
  let (_, b, _, d) := fsFields w
  if b = 0 ∨ 57 ≤ b then 0 else w64 d

def gopFnum (g d a : Nat) (_dbl : Bool) (s : State) : GOp :=
  ⟨infoFX g d a !s.me.rat, fun s => .ok (s.result s.cur.core s.cur.strand (.x d) 1 (.w (fsNum (s.readF s.cur.core s.cur.strand a))))⟩

def gopFden (g d a : Nat) (_dbl : Bool) (s : State) : GOp :=
  ⟨infoFX g d a !s.me.rat, fun s => .ok (s.result s.cur.core s.cur.strand (.x d) 1 (.w (fsDen (s.readF s.cur.core s.cur.strand a))))⟩

/-- R167: the quotient of two signed integers as FS64. -/
def gopFmake (g d a b : Nat) (_dbl : Bool) : GOp :=
  ⟨{ kind := .extended, reads := [.p g, .x a, .x b], pends := [.f d], guard := some g, bad := badF [d] }, fun s =>
    let x := fvalOfInt (s.readX s.cur.core s.cur.strand a).toInt
    let y := fvalOfInt (s.readX s.cur.core s.cur.strand b).toInt
    let r := x.div y
    let o := fsOf fsRep s.me.rrm r.1
    .ok (s.outF d false o.2.2 o.1 (r.2 ||| o.2.1))⟩

/-- R168: onto a set of bounded denominators. -/
def gopFrnd (g d a b : Nat) (_dbl : Bool) : GOp :=
  ⟨{ kind := .extended, reads := [.p g, .f a, .x b], pends := [.f d], guard := some g, bad := badF [d, a] }, fun s =>
    let x := s.ratIn a
    let o := fsOf (frndSet (s.readX s.cur.core s.cur.strand b)) s.me.rrm x.1
    .ok (s.outF d false o.2.2 o.1 (x.2 ||| o.2.1))⟩

/-! ## FCVT (R163) -/

/-- Width and signedness of an integer type code of FCVT. -/
def cvtInt (t : Nat) : Nat × Bool := (if t < 4 then 32 else 64, t % 2 == 0)
def cvtIsInt (t : Nat) : Bool := decide (2 ≤ t) && decide (t ≤ 5)

/-- The source value of a conversion and the flag that reading it raises. A signalling NaN of binary32 or binary64 raises invalid for an FS64
destination too: the spec does not say which of R97 and R116 holds there, and this is the model's choice (log entry 90). -/
def cvtIn (t : Nat) (w : Word) : FVal × BitVec 5 :=
  if t = 6 then fsRead w
  else if cvtIsInt t then
    let (n, sg) := cvtInt t
    (fvalOfInt (if sg then sInt n w.toNat else (w.toNat % 2 ^ n : Nat)), 0)
  else
    let v := (ieeeOf (t == 1)).decode w.toNat
    (v, sigFlag v)

/-- A value into an integer type: saturated, extended to 64 bits; out of range and NaN set invalid and not inexact. -/
def cvtToInt (t : Nat) (r : Rnd) (v : FVal) : Word × BitVec 5 :=
  let (n, sg) := cvtInt t
  let (lo, hi) := intRange n sg
  match v with
  | .nan _ => (0, flagNV)
  | .inf neg => (wInt (if neg then lo else hi), flagNV)
  | .num _ _ =>
    let (i, ix) := roundInt r v.quo
    if i < lo then (wInt lo, flagNV) else if hi < i then (wInt hi, flagNV) else (wInt i, flagIf ix flagNX)

/-- A conversion outside FS64 destinations. -/
def cvtOut (t : Nat) (r : Rnd) (v : FVal) : Word × BitVec 5 :=
  if cvtIsInt t then cvtToInt t r v else let o := (ieeeOf (t == 1)).encode r v; (w64 o.1, o.2)

/-- Whether an FCVT register number and its types are legal (R163, R66). -/
def cvtBad (d a src dst : Nat) : Option Nat :=
  if 7 ≤ src ∨ 7 ≤ dst ∨ src = dst then some 1
  else if (!cvtIsInt dst && decide (32 ≤ d)) || (!cvtIsInt src && decide (32 ≤ a)) then some 12 else none

def gopFcvt (g d a src dst : Nat) (s : State) : GOp :=
  let rs : Reg := if cvtIsInt src then .x a else .f a
  let rd : Reg := if cvtIsInt dst then .x d else .f d
  let xf := src == 6 || dst == 6
  ⟨{ kind := if xf then .extended else .scalar, reads := [.p g, rs], writes := if xf then [] else [(rd, 4)]
     pends := if xf then [rd] else [], guard := some g, mir := !xf && !s.me.rat, bad := cvtBad d a src dst }, fun s =>
    let k := s.cur.core
    let i := s.cur.strand
    let x := cvtIn src (if cvtIsInt src then s.readX k i a else s.readF k i a)
    if dst = 6 then
      let o := fsOf fsRep s.me.rrm x.1
      .ok (s.resultVar k i rd (.w o.1) (some (s.dueAt o.2.2)) 0 (x.2 ||| o.2.1))
    else
      let o := cvtOut dst s.me.irm x.1
      let fl := x.2 ||| o.2
      if xf then .ok (s.resultVar k i rd (.w o.1) (some (s.dueAt 6)) 0 fl) else .ok (s.result k i rd 4 (.w o.1) fl)⟩

/-! ## Meanings -/

/-- R159. Floating add, rounded by IRM or by RRM in rational mode. -/
def execFadd (g d a b : Nat) (dbl : Bool) (s : State) : Out := issueGroup [] [gopFadd g d a b dbl s] s

/-- R159. Floating subtract. -/
def execFsub (g d a b : Nat) (dbl : Bool) (s : State) : Out := issueGroup [] [gopFsub g d a b dbl s] s

/-- R159. Floating multiply. -/
def execFmul (g d a b : Nat) (dbl : Bool) (s : State) : Out := issueGroup [] [gopFmul g d a b dbl s] s

/-- R159. Fused multiply-add into Fd with one rounding. -/
def execFfma (g d a b : Nat) (dbl : Bool) (s : State) : Out := issueGroup [] [gopFfma g d a b dbl s] s

/-- R164. Floating divide on XF with variable latency. -/
def execFdiv (g d a b : Nat) (dbl : Bool) (s : State) : Out := issueGroup [] [gopFdiv g d a b dbl s] s

/-- R164. Floating square root on XF with variable latency. -/
def execFsqrt (g d a : Nat) (dbl : Bool) (s : State) : Out := issueGroup [] [gopFsqrt g d a dbl s] s

/-- R160. Returns the smaller floating operand. -/
def execFmin (g d a b : Nat) (dbl : Bool) (s : State) : Out := issueGroup [] [gopFmin g d a b dbl s] s

/-- R160. Returns the larger floating operand. -/
def execFmax (g d a b : Nat) (dbl : Bool) (s : State) : Out := issueGroup [] [gopFmax g d a b dbl s] s

/-- R161. Clears the sign of Fa. -/
def execFabs (g d a : Nat) (dbl : Bool) (s : State) : Out := issueGroup [] [gopFabs g d a dbl s] s

/-- R161. Inverts the sign of Fa. -/
def execFneg (g d a : Nat) (dbl : Bool) (s : State) : Out := issueGroup [] [gopFneg g d a dbl s] s

/-- R161. Copies Fa to Fd unchanged. -/
def execFmov (g d a : Nat) (dbl : Bool) (s : State) : Out := issueGroup [] [gopFmov g d a dbl s] s

/-- R162. Writes the class mask of Fa to Xd. -/
def execFclass (g d a : Nat) (dbl : Bool) (s : State) : Out := issueGroup [] [gopFclass g d a dbl s] s

/-- R166. Writes the signed FS64 numerator of Fa to Xd. -/
def execFnum (g d a : Nat) (dbl : Bool) (s : State) : Out := issueGroup [] [gopFnum g d a dbl s] s

/-- R166. Writes the FS64 denominator of Fa to Xd. -/
def execFden (g d a : Nat) (dbl : Bool) (s : State) : Out := issueGroup [] [gopFden g d a dbl s] s

/-- R167. Writes the FS64 value of Xa ÷ Xb, rounded by RRM. -/
def execFmake (g d a b : Nat) (dbl : Bool) (s : State) : Out := issueGroup [] [gopFmake g d a b dbl] s

/-- R168. Rounds Fa onto fractions with denominators at most Xb. -/
def execFrnd (g d a b : Nat) (dbl : Bool) (s : State) : Out := issueGroup [] [gopFrnd g d a b dbl] s

/-- R163. Converts between floating, integer and FS64 types. -/
def execFcvt (g d a src dst : Nat) (s : State) : Out := issueGroup [] [gopFcvt g d a src dst s] s

end Sys2Proof.Machine
end

