-- ==== Sys2Proof/Machine/System.lean ====
section
/-! DEFINITION. The system operations of class 5 (R169 to R174, R337, R249), the counter reads (R350 to R354) and the tag table (R326, R327). -/

namespace Sys2Proof.Machine

/-! ## Pointers (R249) -/

def badA (l : List Nat) : Option Nat := if l.all fun n => decide (n < 16) then none else some 12

def gopAadd (g d a b : Nat) : GOp :=
  ⟨{ kind := .memory, reads := [.p g, .a a, .x b], writes := [(.a d, 1)], guard := some g, bad := badA [d, a] },
   fun s =>
    let k := s.cur.core
    let i := s.cur.strand
    .ok (s.result k i (.a d) 1 (.w (s.readA k i a + s.readX k i b)))⟩

def gopAset (g d a : Nat) : GOp :=
  ⟨{ kind := .memory, reads := [.p g, .x a], writes := [(.a d, 1)], guard := some g, bad := badA [d] },
   fun s => .ok (s.result s.cur.core s.cur.strand (.a d) 1 (.w (s.readX s.cur.core s.cur.strand a)))⟩

/-- A control word that AMSET accepts (R127, R249). -/
def amOk (c : Word) : Bool :=
  bits c 63 62 != 3 && bits c 61 56 == 0 &&
    (bits c 63 62 != 2 || (bits c 55 37 == 0 && decide (1 ≤ bits c 36 32) && decide (bits c 36 32 ≤ 24)
      && (List.range 21).any fun z => bits c 31 0 == 2 ^ z))

def gopAmset (g d a b : Nat) : GOp :=
  ⟨{ kind := .memory, reads := [.p g, .x a, .x b], writes := [(.am d, 1)], guard := some g, bad := badA [d]
     early := [([.p g, .x a], fun s => let c := s.readX s.cur.core s.cur.strand a; if amOk c then none else some (.cause 0x0C 1 c))] },
   fun s =>
    let k := s.cur.core
    let i := s.cur.strand
    let c := s.readX k i a
    if amOk c then .ok (s.result k i (.am d) 1 (.am c (s.readX k i b))) else .error (.cause 0x0C 1 c)⟩

/-! ## Registers by number -/

/-- The A and AM registers that a SYSRD touches (R61). -/
def sysTouch (n : Nat) : List Reg :=
  if 0x30 ≤ n ∧ n < 0x40 then [.a (n - 0x30)] else if 0x40 ≤ n ∧ n < 0x60 then [.am (n % 16)] else []

/-- The register as it stands when the group issues, whatever the group's other operations do to it (R61). -/
def gopSysrd (g d n : Nat) : GOp :=
  ⟨{ kind := .scalar, reads := [.p g] ++ sysTouch n, writes := [(.x d, 2)], guard := some g, phase := 0, bad := if sysNumber n then none else some 1 },
   fun s => .ok (s.result s.cur.core s.cur.strand (.x d) 2 (.w (s.sysRead s.cur.core s.cur.strand n)))⟩

/-- The write is noted, and made at the end of the issue cycle (R137). -/
def gopSyswr (g d n : Nat) : GOp :=
  ⟨{ kind := .scalar, reads := [.p g, .x d], guard := some g, irr := true, bad := if sysNumber n then none else some 1 },
   fun s => .ok { s with cur := { s.cur with sysw := s.cur.sysw ++ [(n, s.readX s.cur.core s.cur.strand d)] } }⟩

/-! ## Traps and returns -/

/-- R170: the cause is taken when the group is held (Issue.lean fills in SINFO). -/
def gopTrap (g n : Nat) : GOp :=
  ⟨{ kind := .scalar, reads := [.p g], guard := some g, irr := true, blocky := true }, fun _ => .error (.cause 0x06 n 0)⟩

/-- R171: the return of R133, with the timing of a taken branch. -/
def gopEret (g : Nat) : GOp :=
  ⟨{ kind := .scalar, reads := [.p g], guard := some g }, fun s =>
    if s.cur.th then
      let t := s.modStrand s.cur.core s.cur.strand fun x => x.setTH false
      .ok { t with cur := { t.cur with taken := some s.me.sepc, eret := true } }
    else .error (.cause 0x07 1 0)⟩

/-- R172. -/
def gopCmpt (g f a b : Nat) : GOp :=
  let regs : List Reg := if f = 0 then [.x a, .x b] else if f = 1 then [.f a, .f b] else [.v a, .v b]
  ⟨{ kind := .scalar, reads := .p g :: regs, guard := some g, bad := if 3 ≤ f then some 1 else if f = 1 then badF [a, b] else none }, fun s =>
    let k := s.cur.core
    let i := s.cur.strand
    let same : Bool :=
      if f = 0 then s.readX k i a == s.readX k i b
      else if f = 1 then s.readF k i a == s.readF k i b
      else (s.readV k i a).toNat % 2 ^ (8 * s.me.rowb) == (s.readV k i b).toNat % 2 ^ (8 * s.me.rowb)
    if same then .ok s else .error (.cause 0x08 f (w64 (a + b * 256)))⟩

def gopNop (g : Nat) : GOp := ⟨{ kind := .scalar, reads := [.p g], guard := some g }, fun s => .ok s⟩

/-- The strand disarms its watch and frees the watch's entry (R267, R333). -/
def State.disarm (s : State) (k i : Nat) : State := (s.dropWait k i 1).modStrand k i fun x => { x with watch := none }

/-- R39, R174: the current row is sealed, and the strand is inactive. -/
def gopExit (g : Nat) : GOp :=
  ⟨{ kind := .scalar, reads := [.p g], guard := some g, irr := true, blocky := true, phase := 4 }, fun s =>
    if s.cur.tm then .error (.cause 0x07 2 0)
    else
      let t := (s.disarm s.cur.core s.cur.strand).modStrand s.cur.core s.cur.strand fun x => { x with st := .inactive, rown := x.rown + 1 }
      let t := match (t.core t.cur.core).gang with | some n => t.modGang n fun g => { g with lastAt := t.now } | none => t
      .ok { t with cur := { t.cur with give := true } }⟩

/-! ## Counters (R350) -/

/-- The words of a range counter: next above rem. -/
def rangeWord (r : Map (Nat × Nat × Nat × Nat)) (c : Nat) : Word :=
  let e := mget r c (0, 0, 0, 0)
  w64 (e.1 % 2 ^ 32 * 2 ^ 32 + e.2.1 % 2 ^ 32)

/-- A counter of the strand's tower and job, by number; `live` takes it as it stands now, else as the last cycle left it (R351). -/
def State.towerCnt (s : State) (live : Bool) (t : Nat) (job : Nat) (n : Nat) : Word :=
  let x := s.tower t
  let j := s.job? job
  let jf (f : Job → Nat) : Word := match j with | some y => w64 (f y) | none => 0
  if 0x110 ≤ n ∧ n < 0x116 then jf fun y => y.gbud.getD (n - 0x110) 0xFFFFF
  else if 0x118 ≤ n ∧ n < 0x11E then jf fun y => mget (if live then y.guse else y.guseRead) (t * 6 + (n - 0x118)) 0
  else if n = 0x200 then jf fun y => if y.latency then 0 else y.dline
  else if n = 0x201 then jf fun y => if y.latency then 0 else y.dcnt
  else if n = 0x202 then jf fun y => if y.latency then y.slice else 0
  else if n = 0x203 then jf fun y => if y.latency then y.wbud else 0
  else if n = 0x205 then jf fun y => if y.latency then (if live then y.sper else y.sperRead) else 0
  else mget (if live then x.cnt else x.cntRead) n 0

/-- Counter n as strand i of core k reads it (R350, R351). -/
def State.counter (s : State) (live : Bool) (k i n : Nat) : Word :=
  let x := s.strand k i
  if n = 0 then w64 s.now
  else if n = 1 then x.cIssue
  else if n = 2 then x.cWait
  else if n = 3 then (s.core k).frz
  else if n = 4 then x.cTbr
  else if n = 5 then x.cRets
  else if n = 6 then x.cRewc
  else if n = 7 then x.cTrpc
  else if n = 8 then x.rown
  else if n = 9 then (match s.gangOf k with | some g => g.gadv | none => 0)
  else if 0x10 ≤ n ∧ n < 0x20 then
    (match s.launchOf k with | some l => rangeWord (if live then l.range else l.rangeRead) (n - 0x10) | none => 0)
  else if n = 0x204 then
    (match s.gangOf k, s.job? (s.jobOf k) with | some g, some j => if j.latency then w64 (if live then g.wsum else g.wsumRead) else 0 | _, _ => 0)
  else if n = 0xFFF then (if x.snap.isSome then 1 else 0)
  else s.towerCnt live (towerOf k) (s.jobOf k) n

/-- The numbers a snapshot holds (R354). -/
def snapNumbers : List Nat := (List.range 0x206).filter cntDirect

/-- The snapshot that a CNTSNAP of this cycle takes, when the cycle has ended (R354). -/
def State.takeSnap (s : State) (k i : Nat) : State :=
  s.modStrand k i fun x => { x with snapReq := false, snap := some (snapNumbers.map fun n => (n, s.counter true k i n)) }

/-- What CNTRD reads (R353). -/
def State.cntRead (s : State) (k i n : Nat) : Word :=
  if n ≠ 0xFFF ∧ 0x800 ≤ n then (match (s.strand k i).snap with | some m => mget m (n - 0x800) 0 | none => 0)
  else s.counter false k i n

def gopCntrd (g d n : Nat) : GOp :=
  ⟨{ kind := .scalar, reads := [.p g], writes := [(.x d, 2)], guard := some g, phase := 0, bad := if cntNumber n then none else some 1 },
   fun s => .ok (s.result s.cur.core s.cur.strand (.x d) 2 (.w (s.cntRead s.cur.core s.cur.strand n)))⟩

def gopCntrdc (g d n : Nat) : GOp :=
  ⟨{ kind := .scalar, reads := [.p g], writes := [(.x d, 2), (.x (d + 1), 2)], guard := some g, phase := 0
     bad := if !cntNumber n then some 1 else if d % 2 = 1 ∨ 54 < d then some 12 else none },
   fun s =>
    let k := s.cur.core
    let i := s.cur.strand
    .ok ((s.result k i (.x d) 2 (.w (s.cntRead k i n))).result k i (.x (d + 1)) 2 (.w (s.cntRead k i 0)))⟩

def gopCntsnap (g : Nat) : GOp :=
  ⟨{ kind := .scalar, reads := [.p g], guard := some g, phase := 3 },
   fun s => .ok (s.modStrand s.cur.core s.cur.strand fun x => { x with snapReq := true })⟩

/-! ## Translation caches (R337) -/

/-- Earlier direct accesses perform at device scope, as before one of class 15; the entries are dropped everywhere, and the strand waits for the
towers' acknowledgement. -/
def gopXlinv (g a b : Nat) : GOp :=
  ⟨{ kind := .scalar, reads := [.p g, .x a, .x b], guard := some g, irr := true, phase := 3
     early := [([.p g, .x b], fun s => let w := s.readX s.cur.core s.cur.strand b; if 1 < w.toNat then some (.cause 0x0F 8 w) else none)] }, fun s =>
    let k := s.cur.core
    let i := s.cur.strand
    let va := s.readX k i a
    let w := s.readX k i b
    if 1 < w.toNat then .error (.cause 0x0F 8 w)
    else if s.me.xlinv.isSome then .error (.freeze [.drop])
    else
      let j := s.jobOf k
      let t := s.loadPush k i 15 0 0 false
      if !t.loadClear k i 15 0 0 false then .error (.freeze [.order 15 0 0 false])
      else
        let t := t.dropTlb fun e => e.job == j && (w == 1 || e.vpn == va.toNat / 2 ^ e.bits)
        .ok ((t.modStrand k i fun x => { x with xlinv := some (s.now + Config.extra s.freeCtr) }).spend)⟩

/-! ## Scratchpad tag table (R327) -/

/-- The slot of a key. -/
def Core.tagSlot (c : Core) (key : Word) : Option Nat := (c.tags.find? fun e => e.1 == key).map (·.2)

def gopTlook (g d a : Nat) : GOp :=
  ⟨{ kind := .memory, reads := [.p g, .x a], writes := [(.x d, 2)], guard := some g }, fun s =>
    let k := s.cur.core
    let i := s.cur.strand
    let v : Word := match (s.core k).tagSlot (s.readX k i a) with | some n => w64 n | none => 0x8000000000000000
    .ok (s.result k i (.x d) 2 (.w v))⟩

def gopTset (g a b : Nat) : GOp :=
  ⟨{ kind := .memory, reads := [.p g, .x a, .x b], guard := some g, irr := true, phase := 3
     early := [([.p g, .x b], fun s => let w := s.readX s.cur.core s.cur.strand b
                  if (s.core s.cur.core).scrSize / 4096 ≤ w.toNat ∨ 256 ≤ w.toNat then some (.cause 0x0F 1 w) else none),
               ([.p g, .x a], fun s => let key := s.readX s.cur.core s.cur.strand a
                  if key = 0 then some (.cause 0x0F 1 (Config.lostValue s.freeCtr))
                  else if ((s.core s.cur.core).tagSlot key).isNone ∧ 256 ≤ (s.core s.cur.core).tags.length then some (.cause 0x0F 2 key) else none)] }, fun s =>
    let k := s.cur.core
    let i := s.cur.strand
    let key := s.readX k i a
    let w := s.readX k i b
    let c := s.core k
    if key = 0 ∨ c.scrSize / 4096 ≤ w.toNat ∨ 256 ≤ w.toNat then .error (.cause 0x0F 1 w)
    else if (c.tagSlot key).isNone ∧ 256 ≤ c.tags.length then .error (.cause 0x0F 2 key)
    else .ok (s.setCore k { c with tags := (c.tags.filter fun e => e.1 != key && e.2 != w.toNat) ++ [(key, w.toNat)] })⟩

def gopTclr (g a : Nat) : GOp :=
  ⟨{ kind := .memory, reads := [.p g, .x a], guard := some g, irr := true, phase := 3 }, fun s =>
    let key := s.readX s.cur.core s.cur.strand a
    .ok (s.modCore s.cur.core fun c => { c with tags := c.tags.filter fun e => e.1 != key })⟩

def gopTinv (g : Nat) : GOp :=
  ⟨{ kind := .memory, reads := [.p g], guard := some g, irr := true, phase := 3 },
   fun s => .ok (s.modCore s.cur.core fun c => { c with tags := [] })⟩

/-! ## Meanings -/

/-- R249. Writes Aa + Xb to Ad. -/
def execAadd (g d a b : Nat) (s : State) : Out := issueGroup [] [gopAadd g d a b] s

/-- R249. Writes Xa to Ad. -/
def execAset (g d a : Nat) (s : State) : Out := issueGroup [] [gopAset g d a] s

/-- R249. Writes the control and base words of AMd after checking the control word. -/
def execAmset (g d a b : Nat) (s : State) : Out := issueGroup [] [gopAmset g d a b] s

/-- R169. Reads a strand or core register by number. -/
def execSysrd (g d n : Nat) (s : State) : Out := issueGroup [] [gopSysrd g d n] s

/-- R169. Writes a strand or core register by number at the end of its issue cycle. -/
def execSyswr (g d n : Nat) (s : State) : Out := issueGroup [] [gopSyswr g d n] s

/-- R170. Takes the software trap with the given code. -/
def execTrap (g n : Nat) (s : State) : Out := issueGroup [] [gopTrap g n] s

/-- R171. Returns from a handler to SEPC and clears TH. -/
def execEret (g : Nat) (s : State) : Out := issueGroup [] [gopEret g] s

/-- R172. Compares two registers and raises the mirror cause on a difference. -/
def execCmpt (g f a b : Nat) (s : State) : Out := issueGroup [] [gopCmpt g f a b] s

/-- R173. Does nothing. -/
def execNop (g : Nat) (s : State) : Out := issueGroup [] [gopNop g] s

/-- R174. Ends the strand and seals its current row. -/
def execExit (g : Nat) (s : State) : Out := issueGroup [] [gopExit g] s

/-- R353. Reads a counter or snapshot value into Xd. -/
def execCntrd (g d n : Nat) (s : State) : Out := issueGroup [] [gopCntrd g d n] s

/-- R353. Reads a counter and CYC into a register pair. -/
def execCntrdc (g d n : Nat) (s : State) : Out := issueGroup [] [gopCntrdc g d n] s

/-- R354. Copies the readable counters into the strand's snapshot. -/
def execCntsnap (g : Nat) (s : State) : Out := issueGroup [] [gopCntsnap g] s

/-- R337. Drops translation-cache entries of the job across the device. -/
def execXlinv (g a b : Nat) (s : State) : Out := issueGroup [] [gopXlinv g a b] s

/-- R327. Writes the slot of the tag entry matching Xa. -/
def execTlook (g d a : Nat) (s : State) : Out := issueGroup [] [gopTlook g d a] s

/-- R327. Makes a tag entry valid for key Xa with slot Xb. -/
def execTset (g a b : Nat) (s : State) : Out := issueGroup [] [gopTset g a b] s

/-- R327. Invalidates the tag entry for key Xa. -/
def execTclr (g a : Nat) (s : State) : Out := issueGroup [] [gopTclr g a] s

/-- R327. Invalidates every tag entry. -/
def execTinv (g : Nat) (s : State) : Out := issueGroup [] [gopTinv g] s

end Sys2Proof.Machine
end

