-- ==== Sys2Proof/Machine/Access.lean ====
section
/-! DEFINITION. Scalar loads and stores, the constant path, atomics and reductions, fences, ROW and the watch (R252, R253, R257 to R267). -/

namespace Sys2Proof.Machine

/-- The pointer value, access address and next pointer of a MEM form as the issuing strand sees them (R251). -/
def State.memForm (s : State) (p : Nat) (u : Upd) (f : Int) (unit : Nat) : Word × Option Word :=
  let a := s.readA s.cur.core s.cur.strand p
  (memAddr u a f unit, memNext u (s.readAM s.cur.core s.cur.strand p) a f unit)

/-- The latency of a load at the address that the strand's pointer gives now (R72). -/
def State.loadLat (s : State) (p : Nat) (u : Upd) (f : Int) (unit : Nat) : Nat := loadLatency (s.memForm p u f unit).1

/-! ## Loads -/

/-- A load of n bytes into register r (R252). -/
def gopLoad (g oc p n : Nat) (r : Reg) (u : Upd) (f : Int) (bad : Option Nat) (s : State) : GOp :=
  ⟨{ kind := .memory, reads := .p g :: memReads p u, writes := (r, s.loadLat p u f n) :: memWrites p u, guard := some g, mir := true
     bad := bad <|> updBad u f },
   fun s =>
    let k := s.cur.core
    let i := s.cur.strand
    let (a, nx) := s.memForm p u f n
    match s.loadBytes k i oc a n with
    | .error e => .error e
    | .ok (s, bs, po) => .ok ((s.result k i r (loadLatency a) (.w (w64 (ofLE bs))) 0 po).updatePtr k i p nx)⟩

def gopLdB (g oc p d : Nat) (u : Upd) (f : Int) (s : State) : GOp := gopLoad g oc p 1 (.x d) u f none s
def gopLdH (g oc p d : Nat) (u : Upd) (f : Int) (s : State) : GOp := gopLoad g oc p 2 (.x d) u f none s
def gopLdW (g oc p d : Nat) (u : Upd) (f : Int) (s : State) : GOp := gopLoad g oc p 4 (.x d) u f none s
def gopLdD (g oc p d : Nat) (u : Upd) (f : Int) (s : State) : GOp := gopLoad g oc p 8 (.x d) u f none s
def gopLdf (g oc p : Nat) (dbl : Bool) (d : Nat) (u : Upd) (f : Int) (s : State) : GOp :=
  gopLoad g oc p (if dbl then 8 else 4) (.f d) u f (badF [d]) s

/-! ## Stores -/

/-- A store of the low n bytes of a register (R252, R253). -/
def gopStore (g oc p n : Nat) (r : Reg) (u : Upd) (f : Int) (bad : Option Nat) : GOp :=
  ⟨{ kind := .memory, reads := .p g :: r :: memReads p u, writes := memWrites p u, guard := some g, irr := oc != 0, blocky := oc == 0
     bad := bad <|> updBad u f, early := [(.p g :: memReads p u, fun s => stopOf (s.parts s.cur.core (s.memForm p u f n).1 n true))] },
   fun s =>
    let k := s.cur.core
    let i := s.cur.strand
    let (a, nx) := s.memForm p u f n
    let v := match r with | .x d => s.readX k i d | .f d => s.readF k i d | _ => 0
    match s.storeBytes k i oc a (toLE n v.toNat) with
    | .error e => .error e
    | .ok s => .ok (s.updatePtr k i p nx)⟩

def gopStB (g oc p d : Nat) (u : Upd) (f : Int) : GOp := gopStore g oc p 1 (.x d) u f none
def gopStH (g oc p d : Nat) (u : Upd) (f : Int) : GOp := gopStore g oc p 2 (.x d) u f none
def gopStW (g oc p d : Nat) (u : Upd) (f : Int) : GOp := gopStore g oc p 4 (.x d) u f none
def gopStD (g oc p d : Nat) (u : Upd) (f : Int) : GOp := gopStore g oc p 8 (.x d) u f none
def gopStf (g oc p : Nat) (dbl : Bool) (d : Nat) (u : Upd) (f : Int) : GOp :=
  gopStore g oc p (if dbl then 8 else 4) (.f d) u f (badF [d])

/-! ## The constant path (R257, R258) -/

/-- The writes performed at the strand's begin point: its latest KINV, or the first placement of its launch. -/
def State.beginAt (s : State) (k i : Nat) : Nat :=
  match (s.strand k i).kmem with
  | some m => m
  | none => match s.launchOf k with | some l => l.kmem.getD 0 | none => 0

/-- The byte at address a before the writes of a list, newest first, if one of them replaced it; a migration moves what stood at its old frame. -/
def backByte : List Past → Nat → Option Byte
  | [], _ => none
  | .wrote old :: r, a => backByte r a <|> (old.find? fun c => c.1 == a).map (·.2)
  | .moved o n l :: r, a => backByte r (if n ≤ a ∧ a < n + l then o + (a - n) else a)

/-- n bytes at pa as they stood before the latest w writes. -/
def State.backBytes (s : State) (w pa n : Nat) : List Byte :=
  (List.range n).map fun j => (backByte (s.past.take w) (pa + j)).getD (rdByte s.mem (pa + j))

/-- A value that the doubleword at pa held between the begin point and now, at a moment that the spec leaves open (R257); the halves of a mirror pair
choose the same (R290). -/
def State.constBytes (s : State) (k i pa : Nat) : List Byte :=
  let n := s.past.length - s.beginAt k i
  s.backBytes (if n = 0 then 0 else Config.pick s.cur.free (n + 1) % (n + 1)) pa 8

/-- The mapping of one global access of n bytes that stays within a page, or the stop it meets. -/
def State.mapped (s : State) (k : Nat) (a : Word) (write : Bool) : Except Stop Tlb :=
  if bits a 63 57 ≠ 0 then .error (.cause 0x10 1 a)
  else match s.xlate k (s.jobOf k) a.toNat with
    | .need n => .error (.freeze [n])
    | .bad c d => .error (.cause c d a)
    | .ok e => if write && !e.w then .error (.cause 0x14 1 a) else .ok e

/-- The same for an access of its own, which a peer that no port reaches does not take (R404). -/
def State.reached (s : State) (k : Nat) (a : Word) : Except Stop Tlb :=
  match s.mapped k a false with
  | .error e => .error e
  | .ok e => if s.unreached (e.pa a.toNat) then .error (.cause 0x10 1 a) else .ok e

def gopLdk (g p d : Nat) (u : Upd) (f : Int) : GOp :=
  ⟨{ kind := .memory, reads := .p g :: memReads p u, writes := (.x d, 7) :: memWrites p u, guard := some g, mir := true, bad := updBad u f },
   fun s =>
    let k := s.cur.core
    let i := s.cur.strand
    let (a, nx) := s.memForm p u f 8
    if spaceOf a = .scr then .error (.cause 0x0C 4 a)
    else if spaceOf a = .none then .error (.cause 0x10 1 a)
    else if a.toNat % 8 ≠ 0 then .error (.cause 0x12 1 a)
    else match s.reached k a with
      | .error e => .error e
      | .ok e =>
        let pa := e.pa a.toNat
        let done (bs : List Byte) (po : Bool) : State := (s.result k i (.x d) 7 (.w (w64 (ofLE bs))) 0 po).updatePtr k i p nx
        let h := (s.strand k i).heldBack 16
        if !h.isEmpty then .error (.freeze h)
        else match (s.core k).fill? (.konst pa) with
          | some fl => if region pa = 1 then .ok (done fl.bytes fl.poison) else .ok (done (s.constBytes k i pa) (s.poisoned pa 8))
          | none =>
            if region pa = 1 ∨ Config.pick s.cur.free 2 % 2 = 1 then .error (.freeze [.konst pa])
            else .ok (done (s.constBytes k i pa) (s.poisoned pa 8))⟩

/-- R258: the begin point moves to what a class-15 load would see now, which is what is then performed at home of the strand's accesses, its core's
drained lines and its tower's writes. -/
def gopKinv (g : Nat) : GOp :=
  ⟨{ kind := .memory, reads := [.p g], guard := some g, irr := true }, fun s =>
    let k := s.cur.core
    let i := s.cur.strand
    let t := (s.release k i).pushHome (towerOf k) fun _ => true
    if t.released k i && (t.tower (towerOf k)).out.isEmpty then .ok (t.modStrand k i fun x => { x with kmem := some t.past.length })
    else .error (.freeze [.release])⟩

/-! ## Atomics and reductions (R259 to R261) -/

/-- The nominal latency of an AMO on a physical address (R438). -/
def amoLatency (t pa : Nat) : Nat := if region pa = 0 then 60 + 24 * hops t (homeTower pa) else 60

/-- What an atomic's address meets before its translation and permission (R211, R253, R364): a region-2 page, then the address and its
alignment. -/
def State.atomStop (s : State) (k : Nat) (a : Word) (n : Nat) : Option Stop :=
  let odd : Option Stop := if a.toNat % n ≠ 0 then some (.cause 0x12 1 a) else none
  match spaceOf a with
  | .none => some (.cause 0x10 1 a)
  | .scr => if ((s.core k).scrOff a n).isNone then some (.cause 0x11 1 a) else odd
  | .glob =>
    match s.mapped k a false with
    | .error (.freeze m) => some (.freeze m)
    | .ok e => if region (e.pa a.toNat) = 2 then some (.cause 0x0C 3 a) else if s.unreached (e.pa a.toNat) then some (.cause 0x10 1 a) else odd
    | .error _ => odd

/-- The checks of an atomic's address, then its one part (R211, R253, R261). -/
def State.atomPart (s : State) (k i : Nat) (a : Word) (n : Nat) : Except Stop Part :=
  match s.atomStop k a n with
  | some e => .error e
  | none =>
    match s.parts k a n true with
    | .error e => .error e
    | .ok [] => .error (.cause 0x10 1 a)
    | .ok (p :: _) => if (s.strand k i).xlinv.isSome then .error (.freeze [.drop]) else .ok p

/-- What an atomic's address meets, whatever its data (R364). -/
def atomEarly (p : Nat) (dbl : Bool) (s : State) : Option Stop :=
  stopOf (s.atomPart s.cur.core s.cur.strand (s.readA s.cur.core s.cur.strand p) (aopBytes dbl))

def gopAmo (g oc p d q : Nat) (op : Aop) (dbl : Bool) : GOp :=
  ⟨{ kind := .memory, reads := [.p g, .a p, .x q] ++ (if op = .cas then [.x d] else []), pends := [.x d], guard := some g, irr := true
     rmw := op = .cas, bad := if oc = 0 then some 10 else none, early := [([.p g, .a p], atomEarly p dbl)] },
   fun s =>
    let k := s.cur.core
    let i := s.cur.strand
    let a := s.readA k i p
    let x := s.readX k i q
    let c := if op = .cas then s.readX k i d else 0
    match s.atomPart k i a (aopBytes dbl) with
    | .error e => .error e
    | .ok pt =>
      let tag := s.uid
      let s := ({ s with uid := s.uid + 1 }).resultVar k i (.x d) (.w 0) none tag
      let due := s.dueIn (if pt.scr then 8 else amoLatency (towerOf k) pt.pa)
      .ok (s.spend.post k { uid := 0, strand := i, cls := oc, kind := .amo, job := s.jobOf k, va := a, pa := pt.pa, op := op, dbl := dbl,
                            operand := x, comparand := c, tag := tag, due := due, dup := pt.dup, nc := pt.nc, scr := pt.scr })⟩

def gopRed (g oc p q : Nat) (op : Aop) (dbl : Bool) : GOp :=
  ⟨{ kind := .memory, reads := [.p g, .a p, .x q], guard := some g, irr := true
     bad := if op = .swap ∨ op = .cas then some 1 else if oc = 0 then some 10 else none, early := [([.p g, .a p], atomEarly p dbl)] },
   fun s =>
    let k := s.cur.core
    let i := s.cur.strand
    let a := s.readA k i p
    let x := s.readX k i q
    match s.atomPart k i a (aopBytes dbl) with
    | .error e => .error e
    | .ok pt =>
      if !s.sqRoom k i 1 then .error (.freeze [.room (s.cur.own + 1)])
      else .ok (s.post k { uid := 0, strand := i, cls := oc, kind := .red, job := s.jobOf k, va := a, pa := pt.pa, op := op, dbl := dbl,
                           operand := x, dup := pt.dup, nc := pt.nc, scr := pt.scr })⟩

/-! ## Fences and rows (R263 to R265) -/

/-- Notes a fence: the accesses issued so far precede it. -/
def State.fenceMark (s : State) (k i mask scope : Nat) (dup : Bool) : State :=
  let m : FenceMark := { mask := BitVec.ofNat 16 mask, scope := scope, dup := dup, uid := s.uid, due := s.now + Config.extra s.freeCtr }
  (({ s with uid := s.uid + 1 }).modStrand k i fun x => { x with fences := x.fences ++ [m] }).spend

/-- R263. The access on the other memory port of its own group stands before the FENCE, on whichever port the FENCE is. MODEL'S
CHOICE, log entry 110. -/
def gopFence (g m sc : Nat) : GOp :=
  ⟨{ kind := .memory, reads := [.p g], guard := some g, phase := 3, bad := if 6 ≤ sc then some 1 else if m = 0 then some 12 else none },
   fun s => .ok (if sc = 0 then s else s.fenceMark s.cur.core s.cur.strand m sc false)⟩

def gopFenceD (g : Nat) : GOp :=
  ⟨{ kind := .memory, reads := [.p g], guard := some g, phase := 3 }, fun s => .ok (s.fenceMark s.cur.core s.cur.strand 0xFFFF 5 true)⟩

/-- R265: the row closes, unless this ROW is repeated after a rewind and closed it before. -/
def gopRow (g : Nat) : GOp :=
  ⟨{ kind := .memory, reads := [.p g], guard := some g, phase := 1, isRow := true }, fun s =>
    .ok (s.modStrand s.cur.core s.cur.strand fun x => if x.rown = x.restart.row then { x with rown := x.rown + 1 } else x)⟩

/-! ## The watch (R266, R267) -/

/-- Arms the strand's watch on a line; the wait-table entry is taken in the armed state where one is free. -/
def State.arm (s : State) (k i : Nat) (line : Nat) (va : Word) (snap : List Byte) : State :=
  let s := s.disarm k i
  let free := decide ((s.tower (towerOf k)).waits.length < 1024)
  let s := if free then (s.takeWait k i 1 (w64 line)).1 else s
  s.modStrand k i fun x => { x with watch := some { line := line, va := va, snap := snap, entered := free, triggered := false } }

def gopWatch (g p : Nat) (u : Upd) (f : Int) : GOp :=
  ⟨{ kind := .memory, reads := .p g :: memReads p u, writes := memWrites p u, guard := some g, bad := updBad u f },
   fun s =>
    let k := s.cur.core
    let i := s.cur.strand
    let (a, nx) := s.memForm p u f 64
    if spaceOf a = .scr then .error (.cause 0x0C 4 a)
    else if spaceOf a = .none then .error (.cause 0x10 1 a)
    else match s.reached k a with
      | .error e => .error e
      | .ok e =>
        let pa := e.pa a.toNat / 64 * 64
        let h := (s.strand k i).heldBack 0
        if !h.isEmpty then .error (.freeze h)
        else if region pa = 1 then
          match (s.core k).fill? (.direct pa 64 0) with
          | some fl => .ok ((s.arm k i (pa / 64) a fl.bytes).updatePtr k i p nx)
          | none => .error (.freeze [.direct pa 64 0])
        else if s.umbraMay (s.jobOf k) pa 64 false then
          .ok ((((s.homeFetch (towerOf k) (s.jobOf k) pa 64).1).arm k i (pa / 64) a (rdBytes s.mem pa 64)).updatePtr k i p nx)
        else match (s.core k).fill? (.direct pa 64 0) with
          | some _ => .ok ((s.arm k i (pa / 64) a (rdBytes s.mem pa 64)).updatePtr k i p nx)
          | none => .error (.freeze [.direct pa 64 0])⟩

def gopWaitw (g : Nat) : GOp :=
  ⟨{ kind := .memory, reads := [.p g], guard := some g, blocky := true }, fun s =>
    let k := s.cur.core
    let i := s.cur.strand
    match s.me.watch with
    | none => .ok s
    | some w =>
      let go := (s.disarm k i).dropCopies k (w.line * 64) 64
      if w.triggered then .ok go
      else if w.entered then .error (.park .watch)
      else if region (w.line * 64) = 1 then
        match (s.core k).fill? (.direct (w.line * 64) 64 0) with
        | none => .error (.freeze [.direct (w.line * 64) 64 0])
        | some fl => if fl.bytes ≠ w.snap then .ok go else .error (.park .watch)
      else match (s.core k).fill? (.direct (w.line * 64) 64 0) with
        | none => .error (.freeze [.direct (w.line * 64) 64 0])
        | some _ => if rdBytes s.mem (w.line * 64) 64 ≠ w.snap then .ok go else .error (.park .watch)⟩

/-! ## Meanings -/

/-- R252. Loads one byte zero-extended. -/
def execLdB (g oc p d : Nat) (u : Upd) (f : Int) (s : State) : Out := issueGroup [] [gopLdB g oc p d u f s] s

/-- R252. Loads two bytes zero-extended. -/
def execLdH (g oc p d : Nat) (u : Upd) (f : Int) (s : State) : Out := issueGroup [] [gopLdH g oc p d u f s] s

/-- R252. Loads four bytes zero-extended. -/
def execLdW (g oc p d : Nat) (u : Upd) (f : Int) (s : State) : Out := issueGroup [] [gopLdW g oc p d u f s] s

/-- R252. Loads eight bytes. -/
def execLdD (g oc p d : Nat) (u : Upd) (f : Int) (s : State) : Out := issueGroup [] [gopLdD g oc p d u f s] s

/-- R252. Loads 4 or 8 bytes into an F register. -/
def execLdf (g oc p : Nat) (dbl : Bool) (d : Nat) (u : Upd) (f : Int) (s : State) : Out := issueGroup [] [gopLdf g oc p dbl d u f s] s

/-- R253. Stores one byte via the row buffer or store queue by class. -/
def execStB (g oc p d : Nat) (u : Upd) (f : Int) (s : State) : Out := issueGroup [] [gopStB g oc p d u f] s

/-- R253. Stores two bytes. -/
def execStH (g oc p d : Nat) (u : Upd) (f : Int) (s : State) : Out := issueGroup [] [gopStH g oc p d u f] s

/-- R253. Stores four bytes. -/
def execStW (g oc p d : Nat) (u : Upd) (f : Int) (s : State) : Out := issueGroup [] [gopStW g oc p d u f] s

/-- R253. Stores eight bytes. -/
def execStD (g oc p d : Nat) (u : Upd) (f : Int) (s : State) : Out := issueGroup [] [gopStD g oc p d u f] s

/-- R252. Stores 4 or 8 bytes of an F register. -/
def execStf (g oc p : Nat) (dbl : Bool) (d : Nat) (u : Upd) (f : Int) (s : State) : Out := issueGroup [] [gopStf g oc p dbl d u f] s

/-- R257. Loads a doubleword through the constant path. -/
def execLdk (g p d : Nat) (u : Upd) (f : Int) (s : State) : Out := issueGroup [] [gopLdk g p d u f] s

/-- R258. Moves the strand's constant-path begin point. -/
def execKinv (g : Nat) (s : State) : Out := issueGroup [] [gopKinv g] s

/-- R259. Performs an atomic read-modify-write and returns the old value. -/
def execAmo (g oc p d q : Nat) (op : Aop) (dbl : Bool) (s : State) : Out := issueGroup [] [gopAmo g oc p d q op dbl] s

/-- R260. Posts an atomic reduction without returning a value. -/
def execRed (g oc p q : Nat) (op : Aop) (dbl : Bool) (s : State) : Out := issueGroup [] [gopRed g oc p q op dbl] s

/-- R263. Orders the named classes' accesses at a scope. -/
def execFence (g m sc : Nat) (s : State) : Out := issueGroup [] [gopFence g m sc] s

/-- R264. Waits for the partner's acknowledgement of earlier DUP writes. -/
def execFenceD (g : Nat) (s : State) : Out := issueGroup [] [gopFenceD g] s

/-- R265. Seals the strand's current row. -/
def execRow (g : Nat) (s : State) : Out := issueGroup [] [gopRow g] s

/-- R266. Arms the strand's watch on a line and snapshots it. -/
def execWatch (g p : Nat) (u : Upd) (f : Int) (s : State) : Out := issueGroup [] [gopWatch g p u f] s

/-- R267. Parks until the armed watch triggers. -/
def execWaitw (g : Nat) (s : State) : Out := issueGroup [] [gopWaitw g] s

end Sys2Proof.Machine
end

