-- ==== Sys2Proof/Machine/Control.lean ====
section
/-! DEFINITION. Branches, calls and zero-overhead loops: class 3 (R152 to R157). -/

namespace Sys2Proof.Machine

/-- What a class-3 operation uses. -/
def infoC3 (g : Nat) (reads : List Reg) (writes : List (Reg × Nat)) : Info :=
  { kind := .scalar, reads := .p g :: reads, writes := writes, guard := some g, c3 := true }

/-- The check of a target (R144): bits 3 to 0 of a register target, and bits 63 to 57. -/
def targetStop (t : Word) : Option Stop :=
  if bits t 3 0 ≠ 0 then some (.cause 0x05 1 t) else if bits t 63 57 ≠ 0 then some (.cause 0x05 2 t) else none

/-- The transfer goes to t; TBR or RETS counts it (R75, R152, R350). Where a group holds an ERET as well, the transfer prevails. MODEL'S CHOICE, log
entry 113. -/
def State.goTo (s : State) (t : Word) (ret : Bool) : State :=
  let s := s.modStrand s.cur.core s.cur.strand fun x =>
    if ret then { x with cRets := x.cRets + 1 } else { x with cTbr := x.cTbr + 1 }
  { s with cur := { s.cur with taken := some t, eret := false } }

/-- A branch to t, with the link before it where there is one: a trapping branch writes none. -/
def branchTo (t : Word) (ret : Bool) (link : Option Nat) : Op := fun s =>
  match targetStop t with
  | some e => .error e
  | none =>
    let s := match link with
      | some d => s.result s.cur.core s.cur.strand (.x d) 1 (.w (s.cur.bundle + 16))
      | none => s
    .ok (s.goTo t ret)

/-- The target that an offset of bundles names (R65). -/
def State.bundleOff (s : State) (off : Int) : Word := s.cur.bundle + wInt (16 * off)

def gopBr (g : Nat) (off : Int) : GOp := ⟨infoC3 g [] [], fun s => branchTo (s.bundleOff off) false none s⟩
def gopCall (g d : Nat) (off : Int) : GOp := ⟨infoC3 g [] [(.x d, 1)], fun s => branchTo (s.bundleOff off) false (some d) s⟩
def gopBrx (g a : Nat) : GOp := ⟨infoC3 g [.x a] [], fun s => branchTo (s.readX s.cur.core s.cur.strand a) false none s⟩
def gopRet (g a : Nat) : GOp := ⟨infoC3 g [.x a] [], fun s => branchTo (s.readX s.cur.core s.cur.strand a) true none s⟩

/-- `exit(lvl)` of R156, with the timing of a taken branch. -/
def State.leaveLoop (s : State) (lvl : Nat) : State :=
  let (y, t) := (s.strand s.cur.core s.cur.strand).exitLoop lvl
  let s := s.setStrand s.cur.core s.cur.strand y
  { s with cur := { s.cur with taken := some t, eret := false } }

/-- LOOP and LOOPI (R154): the three registers of the level; a count of 0 leaves at once. -/
def State.startLoop (s : State) (lvl : Nat) (n : Nat) (e : Nat) : State :=
  let ls := s.firstOf s.cur.core (s.cur.bundle + 16)
  let s := s.modStrand s.cur.core s.cur.strand fun x =>
    { x with ls := mput x.ls lvl ls, le := mput x.le lvl (s.cur.bundle + w64 (16 * e)), lc := mput x.lc lvl (BitVec.ofNat 32 n) }
  if n = 0 then s.leaveLoop lvl else s

def infoLoop (reads : List Reg) (e : Nat) : Info :=
  { kind := .scalar, reads := .p 0 :: reads, guard := some 0, c3 := true, bad := if e = 0 then some 12 else none }

def gopLoop (lvl c e : Nat) : GOp :=
  ⟨infoLoop [.x c] e, fun s =>
    let n := (s.readX s.cur.core s.cur.strand c).toNat
    if 2 ^ 32 ≤ n then .error (.cause 0x04 1 (w64 n)) else .ok (s.startLoop lvl n e)⟩

def gopLoopi (lvl n e : Nat) : GOp := ⟨infoLoop [] e, fun s => .ok (s.startLoop lvl n e)⟩
def gopLbrk (g lvl : Nat) : GOp := ⟨infoC3 g [] [], fun s => .ok (s.leaveLoop lvl)⟩

/-! ## Meanings -/

/-- R152. Branches to a bundle-relative target. -/
def execBr (g : Nat) (off : Int) (s : State) : Out := issueGroup [] [gopBr g off] s

/-- R152. Branches to a bundle-relative target and writes the return address to Xd. -/
def execCall (g d : Nat) (off : Int) (s : State) : Out := issueGroup [] [gopCall g d off] s

/-- R152. Branches to the address in Xa. -/
def execBrx (g a : Nat) (s : State) : Out := issueGroup [] [gopBrx g a] s

/-- R152. Returns to the address in Xa, counted as a return. -/
def execRet (g a : Nat) (s : State) : Out := issueGroup [] [gopRet g a] s

/-- R154. Starts a zero-overhead loop with the count in Xc. -/
def execLoop (lvl c e : Nat) (s : State) : Out := issueGroup [] [gopLoop lvl c e] s

/-- R154. Starts a zero-overhead loop with an immediate count. -/
def execLoopi (lvl n e : Nat) (s : State) : Out := issueGroup [] [gopLoopi lvl n e] s

/-- R156. Exits loop level lvl, clearing its count. -/
def execLbrk (g lvl : Nat) (s : State) : Out := issueGroup [] [gopLbrk g lvl] s

end Sys2Proof.Machine
end

