-- ==== Sys2Proof/Machine/Signing.lean ====
section
/-! DEFINITION. Signing and attestation (R408, R409): SHA-384, ECDSA on the P-384 curve, and the configuration record by its layout. -/

namespace Sys2Proof.Machine

/-! ## SHA-384 -/

/-- The round constants: the first 64 bits of the fractional parts of the cube roots of the first 80 primes. -/
def sha512K1 : List Word :=
  [0x428a2f98d728ae22, 0x7137449123ef65cd, 0xb5c0fbcfec4d3b2f, 0xe9b5dba58189dbbc, 0x3956c25bf348b538,
   0x59f111f1b605d019, 0x923f82a4af194f9b, 0xab1c5ed5da6d8118, 0xd807aa98a3030242, 0x12835b0145706fbe,
   0x243185be4ee4b28c, 0x550c7dc3d5ffb4e2, 0x72be5d74f27b896f, 0x80deb1fe3b1696b1, 0x9bdc06a725c71235,
   0xc19bf174cf692694, 0xe49b69c19ef14ad2, 0xefbe4786384f25e3, 0x0fc19dc68b8cd5b5, 0x240ca1cc77ac9c65]
def sha512K2 : List Word :=
  [0x2de92c6f592b0275, 0x4a7484aa6ea6e483, 0x5cb0a9dcbd41fbd4, 0x76f988da831153b5, 0x983e5152ee66dfab,
   0xa831c66d2db43210, 0xb00327c898fb213f, 0xbf597fc7beef0ee4, 0xc6e00bf33da88fc2, 0xd5a79147930aa725,
   0x06ca6351e003826f, 0x142929670a0e6e70, 0x27b70a8546d22ffc, 0x2e1b21385c26c926, 0x4d2c6dfc5ac42aed,
   0x53380d139d95b3df, 0x650a73548baf63de, 0x766a0abb3c77b2a8, 0x81c2c92e47edaee6, 0x92722c851482353b]
def sha512K3 : List Word :=
  [0xa2bfe8a14cf10364, 0xa81a664bbc423001, 0xc24b8b70d0f89791, 0xc76c51a30654be30, 0xd192e819d6ef5218,
   0xd69906245565a910, 0xf40e35855771202a, 0x106aa07032bbd1b8, 0x19a4c116b8d2d0c8, 0x1e376c085141ab53,
   0x2748774cdf8eeb99, 0x34b0bcb5e19b48a8, 0x391c0cb3c5c95a63, 0x4ed8aa4ae3418acb, 0x5b9cca4f7763e373,
   0x682e6ff3d6b2b8a3, 0x748f82ee5defb2fc, 0x78a5636f43172f60, 0x84c87814a1f0ab72, 0x8cc702081a6439ec]
def sha512K4 : List Word :=
  [0x90befffa23631e28, 0xa4506cebde82bde9, 0xbef9a3f7b2c67915, 0xc67178f2e372532b, 0xca273eceea26619c,
   0xd186b8c721c0c207, 0xeada7dd6cde0eb1e, 0xf57d4f7fee6ed178, 0x06f067aa72176fba, 0x0a637dc5a2c898a6,
   0x113f9804bef90dae, 0x1b710b35131c471b, 0x28db77f523047d84, 0x32caab7b40c72493, 0x3c9ebe0a15c9bebc,
   0x431d67c49c100d4c, 0x4cc5d4becb3e42b6, 0x597f299cfc657e2a, 0x5fcb6fab3ad6faec, 0x6c44198c4a475817]

/-- SHA-384's first state: the first 64 bits of the fractional parts of the square roots of the ninth to sixteenth primes. -/
def sha384Init : List Word :=
  [0xcbbb9d5dc1059ed8, 0x629a292a367cd507, 0x9159015a3070dd17, 0x152fecd8f70e5939,
   0x67332667ffc00b31, 0x8eb44a8768581511, 0xdb0c2e0d64f98fa7, 0x47b5481dbefa4fa4]

def ror64 (x : Word) (n : Nat) : Word := (x >>> n) ||| (x <<< (64 - n))

/-- The message schedule of a block, newest word first: m more words behind 16. -/
def shaSchedule : Nat → List Word → List Word
  | 0, r => r
  | m + 1, r =>
    let x := r.getD 14 0
    let y := r.getD 1 0
    shaSchedule m ((r.getD 15 0 + (ror64 x 1 ^^^ ror64 x 8 ^^^ (x >>> 7)) + r.getD 6 0 + (ror64 y 19 ^^^ ror64 y 61 ^^^ (y >>> 6))) :: r)

/-- One round, with the sum of its constant and its word. -/
def shaRound (st : List Word) (kw : Word) : List Word :=
  match st with
  | [a, b, c, d, e, f, g, h] =>
    let t1 := h + (ror64 e 14 ^^^ ror64 e 18 ^^^ ror64 e 41) + ((e &&& f) ^^^ (~~~e &&& g)) + kw
    let t2 := (ror64 a 28 ^^^ ror64 a 34 ^^^ ror64 a 39) + ((a &&& b) ^^^ (a &&& c) ^^^ (b &&& c))
    [t1 + t2, a, b, c, d + t1, e, f, g]
  | _ => st

/-- A block of 16 words. -/
def shaBlock (st ws : List Word) : List Word :=
  let kw := ((sha512K1 ++ sha512K2 ++ sha512K3 ++ sha512K4).zip (shaSchedule 64 ws.reverse).reverse).map fun e => e.1 + e.2
  (st.zip (kw.foldl shaRound st)).map fun e => e.1 + e.2

/-- A big-endian number. -/
def ofBE (bs : List Byte) : Nat := bs.foldl (fun n b => 256 * n + b.toNat) 0
def toBE (n v : Nat) : List Byte := (toLE n v).reverse

/-- The blocks of 128 bytes of a message, m of them. -/
def shaBlocks : Nat → List Byte → List Word → List Word
  | 0, _, st => st
  | m + 1, bs, st => shaBlocks m (bs.drop 128) (shaBlock st ((List.range 16).map fun j => w64 (ofBE ((bs.drop (8 * j)).take 8))))

/-- The SHA-384 digest of bytes. -/
def sha384 (bs : List Byte) : List Byte :=
  let n := bs.length
  let m := bs ++ [0x80] ++ List.replicate ((239 - n % 128) % 128) 0 ++ toBE 16 (8 * n)
  ((shaBlocks (m.length / 128) m sha384Init).flatMap fun w => toBE 8 w.toNat).take 48

/-! ## ECDSA on P-384 -/

/-- The field, the order of the base point, and the base point. -/
def p384 : Nat := 2 ^ 384 - 2 ^ 128 - 2 ^ 96 + 2 ^ 32 - 1
def n384 : Nat := 0xffffffffffffffffffffffffffffffffffffffffffffffffc7634d81f4372ddf581a0db248b0a77aecec196accc52973
def base384 : Option (Nat × Nat) :=
  some (0xaa87ca22be8b05378eb1c71ef320ad746e1d3b628ba79b9859f741e082542a385502f25dbf55296c3a545e3872760ab7,
        0x3617de4a96262c6f5d9e98bf9292dc29f8f41dbd289a147ce9da3113b5f0b8c00a60b1ce1d7e819d7a431d7c90ea0e5f)
def b384 : Nat := 0xb3312fa7e23ee7e4988e056be3f82d19181d9c6efe8141120314088f5013875ac656398d8a2ed19d2a85c8edd3ec2aef

/-- a to the power e modulo m; e below 2 to the fuel. -/
def powMod (m : Nat) : Nat → Nat → Nat → Nat
  | 0, _, _ => 1
  | fuel + 1, a, e => let r := powMod m fuel (a * a % m) (e / 2); if e % 2 = 1 then r * a % m else r

def invMod (m a : Nat) : Nat := powMod m 384 (a % m) (m - 2)

/-- The sum of two points of the curve; none is the point at infinity. -/
def ecAdd : Option (Nat × Nat) → Option (Nat × Nat) → Option (Nat × Nat)
  | none, q => q
  | some p, none => some p
  | some (x, y), some (u, v) =>
    if x = u ∧ (y + v) % p384 = 0 then none
    else
      let l := (if x = u then (3 * x * x + (p384 - 3)) * invMod p384 (2 * y) else (v + p384 - y) * invMod p384 (u + p384 - x)) % p384
      let z := (l * l + 2 * p384 - x - u) % p384
      some (z, (l * (x + p384 - z) + p384 - y) % p384)

/-- The k-fold of a point; k below 2 to the fuel. -/
def ecMul : Nat → Nat → Option (Nat × Nat) → Option (Nat × Nat)
  | 0, _, _ => none
  | fuel + 1, k, p => let r := ecMul fuel (k / 2) (ecAdd p p); if k % 2 = 1 then ecAdd r p else r

/-- Whether a signature, r then s, of a message verifies under an uncompressed public key of 97 bytes; numbers stand with their most significant byte
first, as the standard of the curve has them (log entry 119). -/
def ecdsaOk (key msg sig : List Byte) : Bool :=
  let r := ofBE (sig.take 48)
  let s := ofBE ((sig.drop 48).take 48)
  let x := ofBE ((key.drop 1).take 48)
  let y := ofBE ((key.drop 49).take 48)
  decide (0 < r) && decide (r < n384) && decide (0 < s) && decide (s < n384)
    && key.length == 97 && key.head? == some 4 && decide (x < p384) && decide (y < p384) && (y * y + 3 * x) % p384 == (x * x * x + b384) % p384
    && (let w := invMod n384 s
        let z := ofBE (sha384 msg)
        match ecAdd (ecMul 384 (z * w % n384) base384) (ecMul 384 (r * w % n384) (some (x, y))) with
        | some q => q.1 % n384 == r
        | none => false)

end Sys2Proof.Machine

namespace Sys2Proof

/-! ## The configuration record (R408) -/

/-- n bytes of the record from offset o on. -/
def ConfigRecord.bytes (c : ConfigRecord) (o n : Nat) : List Byte := (c.record.drop o).take n
def ConfigRecord.num (c : ConfigRecord) (o n : Nat) : Nat := Machine.ofLE (c.bytes o n)

def ConfigRecord.version (c : ConfigRecord) : Nat := c.num 0x008 4
def ConfigRecord.model (c : ConfigRecord) : Nat := c.num 0x00C 4
def ConfigRecord.serial (c : ConfigRecord) : List Byte := c.bytes 0x010 16
def ConfigRecord.identityKey (c : ConfigRecord) : List Byte := c.bytes 0x020 97
/-- The defective halves of tower t: bit h stands for Hh. -/
def ConfigRecord.defects (c : ConfigRecord) (t : Nat) : BitVec 40 := BitVec.ofNat 40 (c.num (0x088 + 5 * t) 5)
def ConfigRecord.gmask (c : ConfigRecord) : List Byte := c.bytes 0x0C4 12
/-- The HBM4E layers of stack st of tower t that were mapped out at test. -/
def ConfigRecord.layersOut (c : ConfigRecord) (t st : Nat) : BitVec 16 := BitVec.ofNat 16 (c.num (0x0D0 + 2 * (2 * t + st)) 2)
def ConfigRecord.pagerMiB (c : ConfigRecord) : Nat := c.num 0x100 8
def ConfigRecord.fabric (c : ConfigRecord) : Nat := c.num 0x108 8 % 16
def ConfigRecord.signature (c : ConfigRecord) : List Byte := c.bytes 0x110 96

/-- Step 1 of a start (R410): the root key is the one whose digest the boot ROM holds, and with it the firmware's signature verifies. -/
def ConfigRecord.fwSigOk (c : ConfigRecord) : Bool := Machine.ecdsaOk c.rootKey c.firmware c.fwSig && Machine.sha384 c.rootKey == Config.rootDigest

/-- Step 2: the record is of this layout, its signature verifies, and its identity key equals the derived one. -/
def ConfigRecord.recordOk (c : ConfigRecord) : Bool :=
  c.num 0x000 8 == 0x4C4D483132435246 && c.version == 1 && decide (c.model ≤ 1) && c.record.length == 0x170
    && Machine.ecdsaOk c.rootKey (c.bytes 0 0x110) c.signature && c.identityKey == Config.identityKey

end Sys2Proof
end

