-- ==== Sys2Proof/Machine/Scalar.lean ====
section
/-! DEFINITION. The integer, immediate, compare and predicate operations: classes 0, 1 and 2 (R145 to R151). -/

namespace Sys2Proof.Machine

/-! ## Shared forms -/

/-- The low 64 bits of an integer result of two signed operands. -/
def signed2 (f : Int → Int → Int) (a b : Word) : Word := wInt (f a.toInt b.toInt)

/-- Result of an operation on one X operand and an immediate (R147). -/
def gopImm (g d a l : Nat) (f : Word → Word) : GOp := ⟨infoRR g d a l, opRR d a l f⟩

/-- An operation on two X operands. -/
def gopTwo (g d a b l : Nat) (f : Word → Word → Word) : GOp := ⟨infoRRR g d a b l, opRRR d a b l f⟩

/-- An operation that writes a constant to Xd. -/
def gopConst (g d : Nat) (v : Word) : GOp :=
  ⟨{ kind := .scalar, reads := [.p g], writes := [(.x d, 1)], guard := some g, mir := true },
   fun s => .ok (s.result s.cur.core s.cur.strand (.x d) 1 (.w v))⟩

/-- The unsigned or signed quotient and remainder of R146. -/
def divMod (sgn : Bool) (a b : Word) : Word × Word :=
  if b = 0 then (BitVec.allOnes 64, a)
  else if sgn then (wInt (Int.tdiv a.toInt b.toInt), wInt (Int.tmod a.toInt b.toInt))
  else (w64 (a.toNat / b.toNat), w64 (a.toNat % b.toNat))

/-- The bit length of |q| that the latency of a division counts (R146): 0 when the divisor is zero. -/
def quotLen (sgn : Bool) (a b : Word) : Nat :=
  if b = 0 then 0 else bitLen (if sgn then (Int.tdiv a.toInt b.toInt).natAbs else a.toNat / b.toNat)

/-- A division of the extended unit (R146). -/
def gopDivide (g d a b : Nat) (sgn rem : Bool) : GOp :=
  ⟨{ kind := .extended, reads := [.p g, .x a, .x b], pends := [.x d], guard := some g },
   fun s =>
    let k := s.cur.core
    let i := s.cur.strand
    let p := s.readX k i a
    let q := s.readX k i b
    let r := divMod sgn p q
    .ok (s.resultVar k i (.x d) (.w (if rem then r.2 else r.1)) (some (s.dueAt (6 + cdiv (quotLen sgn p q) 2))))⟩

/-! ## Class 0 -/

def gopAdd (g d a b : Nat) : GOp := gopTwo g d a b 1 fun x y => x + y
def gopSub (g d a b : Nat) : GOp := gopTwo g d a b 1 fun x y => x - y
def gopAnd (g d a b : Nat) : GOp := gopTwo g d a b 1 fun x y => x &&& y
def gopOr (g d a b : Nat) : GOp := gopTwo g d a b 1 fun x y => x ||| y
def gopXor (g d a b : Nat) : GOp := gopTwo g d a b 1 fun x y => x ^^^ y
def gopAndn (g d a b : Nat) : GOp := gopTwo g d a b 1 fun x y => x &&& ~~~ y
def gopShl (g d a b : Nat) : GOp := gopTwo g d a b 1 fun x y => x <<< (y.toNat % 64)
def gopShr (g d a b : Nat) : GOp := gopTwo g d a b 1 fun x y => x >>> (y.toNat % 64)
def gopSra (g d a b : Nat) : GOp := gopTwo g d a b 1 fun x y => x.sshiftRight (y.toNat % 64)
def gopRot (g d a b : Nat) : GOp := gopTwo g d a b 1 fun x y => x.rotateLeft (y.toNat % 64)
def gopMul (g d a b : Nat) : GOp := gopTwo g d a b 3 fun x y => x * y
def gopMulh (g d a b : Nat) : GOp := gopTwo g d a b 3 fun x y => wInt (x.toInt * y.toInt / 2 ^ 64)
def gopMulhu (g d a b : Nat) : GOp := gopTwo g d a b 3 fun x y => w64 (x.toNat * y.toNat / 2 ^ 64)
def gopMin (g d a b : Nat) : GOp := gopTwo g d a b 1 fun x y => signed2 min x y
def gopMax (g d a b : Nat) : GOp := gopTwo g d a b 1 fun x y => signed2 max x y
def gopMinu (g d a b : Nat) : GOp := gopTwo g d a b 1 fun x y => w64 (min x.toNat y.toNat)
def gopMaxu (g d a b : Nat) : GOp := gopTwo g d a b 1 fun x y => w64 (max x.toNat y.toNat)

/-- R145: the lend byte names the selecting predicate, which counts as a read. -/
def gopSel (g d a b k : Nat) : GOp :=
  let n := infoRRR g d a b 1
  ⟨{ n with reads := n.reads ++ [.p k] },
   fun s =>
    let c := s.cur.core
    let i := s.cur.strand
    let x := s.readX c i a
    let y := s.readX c i b
    .ok (s.result c i (.x d) 1 (.w (if s.readP c i k then x else y)))⟩

/-- Leading zero bits of a word. -/
def clz64 (x : Word) : Nat := 64 - bitLen x.toNat
/-- Trailing zero bits of a word. -/
def ctz64 (x : Word) : Nat := ((List.range 64).find? fun i => x.getLsbD i).getD 64
/-- Set bits of a word. -/
def popc64 (x : Word) : Nat := ((List.range 64).filter fun i => x.getLsbD i).length

def gopClz (g d a : Nat) : GOp := gopImm g d a 1 fun x => w64 (clz64 x)
def gopCtz (g d a : Nat) : GOp := gopImm g d a 1 fun x => w64 (ctz64 x)
def gopPopc (g d a : Nat) : GOp := gopImm g d a 1 fun x => w64 (popc64 x)
def gopBrev (g d a : Nat) : GOp := gopImm g d a 1 fun x => w64 (brevK 64 x.toNat)
/-- The field holds the width minus one (R67). -/
def gopSext (g d a w : Nat) : GOp := gopImm g d a 1 fun x => wInt (sInt (w + 1) x.toNat)
def gopZext (g d a w : Nat) : GOp := gopImm g d a 1 fun x => w64 (x.toNat % 2 ^ (w + 1))
def gopDiv (g d a b : Nat) : GOp := gopDivide g d a b true false
def gopDivu (g d a b : Nat) : GOp := gopDivide g d a b false false
def gopRem (g d a b : Nat) : GOp := gopDivide g d a b true true
def gopRemu (g d a b : Nat) : GOp := gopDivide g d a b false true

/-! ## Class 1 -/

def gopAddi (g d a : Nat) (i : Int) : GOp := gopImm g d a 1 fun x => x + wInt i
def gopAndi (g d a : Nat) (i : Int) : GOp := gopImm g d a 1 fun x => x &&& wInt i
def gopOri (g d a : Nat) (i : Int) : GOp := gopImm g d a 1 fun x => x ||| wInt i
def gopXori (g d a : Nat) (i : Int) : GOp := gopImm g d a 1 fun x => x ^^^ wInt i
def gopShli (g d a n : Nat) : GOp := gopImm g d a 1 fun x => x <<< (n % 64)
def gopShri (g d a n : Nat) : GOp := gopImm g d a 1 fun x => x >>> (n % 64)
def gopSrai (g d a n : Nat) : GOp := gopImm g d a 1 fun x => x.sshiftRight (n % 64)
def gopMuli (g d a : Nat) (i : Int) : GOp := gopImm g d a 3 fun x => x * wInt i
def gopMovi (g d : Nat) (i : Int) : GOp := gopConst g d (wInt i)
def gopMovw (g d data h : Nat) : GOp := gopConst g d (w64 (data % 65536 * 2 ^ (16 * h)))
def gopMini (g d a : Nat) (i : Int) : GOp := gopImm g d a 1 fun x => signed2 min x (wInt i)
def gopMaxi (g d a : Nat) (i : Int) : GOp := gopImm g d a 1 fun x => signed2 max x (wInt i)

/-! ## Class 2 -/

/-- The condition of two integers of n bits (R149, R185). -/
def condInt (n : Nat) (cc : Cond) (a b : Nat) : Bool :=
  match cc with
  | .eq => a == b
  | .ne => a != b
  | .lt => decide (sInt n a < sInt n b)
  | .ge => decide (sInt n b ≤ sInt n a)
  | .le => decide (sInt n a ≤ sInt n b)
  | .gt => decide (sInt n b < sInt n a)
  | .ltu => decide (a < b)
  | .geu => decide (b ≤ a)
  | .leu => decide (a ≤ b)
  | .gtu => decide (b < a)
  | .bs => a &&& b != 0
  | .bc => a &&& b == 0
  | .un => false
  | .or => false

/-- The condition of two floating data (R151, R185): unordered ones satisfy UN and NE only. -/
def condFloat (cc : Cond) (a b : FVal) : Bool :=
  let un := a.isNan || b.isNan
  match cc with
  | .eq => !un && a.eqv b
  | .ne => un || !a.eqv b
  | .lt => !un && a.lt b
  | .ge => !un && !a.lt b
  | .le => !un && !b.lt a
  | .gt => !un && b.lt a
  | .un => un
  | .or => !un
  | _ => false

/-- LT, GE, LE and GT signal on any NaN (R151). -/
def condOrdering : Cond → Bool
  | .lt => true | .ge => true | .le => true | .gt => true
  | _ => false

/-- What a compare uses: the pair it writes (R149, R67). -/
def infoPair (g k l : Nat) (reads : List Reg) (bad : Option Nat) : Info :=
  { kind := .scalar, reads := .p g :: reads, writes := [(.p (2 * k), l), (.p (2 * k + 1), l)], guard := some g, mir := true, bad := bad }

def gopCmp (g : Nat) (cc : Cond) (k a b : Nat) : GOp :=
  ⟨infoPair g k 1 [.x a, .x b] (if cc.forInt then none else some 11),
   fun s =>
    let c := s.cur.core
    let i := s.cur.strand
    .ok (writePair s c i k 1 (condInt 64 cc (s.readX c i a).toNat (s.readX c i b).toNat) 0)⟩

def gopCmpi (g : Nat) (cc : Cond) (k a : Nat) (v : Int) : GOp :=
  ⟨infoPair g k 1 [.x a] (if cc.forInt then none else some 11),
   fun s =>
    let c := s.cur.core
    let i := s.cur.strand
    .ok (writePair s c i k 1 (condInt 64 cc (s.readX c i a).toNat (wInt v).toNat) 0)⟩

/-- A predicate of two predicates (R150). -/
def gopPred (g d : Nat) (reads : List Reg) (f : (Nat → Bool) → Bool) : GOp :=
  ⟨{ kind := .scalar, reads := .p g :: reads, writes := [(.p d, 1)], guard := some g, mir := true },
   fun s => .ok (s.result s.cur.core s.cur.strand (.p d) 1 (.b (f fun n => s.readP s.cur.core s.cur.strand n)))⟩

def gopPand (g d a b : Nat) : GOp := gopPred g d [.p a, .p b] fun p => p a && p b
def gopPor (g d a b : Nat) : GOp := gopPred g d [.p a, .p b] fun p => p a || p b
def gopPxor (g d a b : Nat) : GOp := gopPred g d [.p a, .p b] fun p => p a != p b
def gopPandn (g d a b : Nat) : GOp := gopPred g d [.p a, .p b] fun p => p a && !p b
def gopPnot (g d a : Nat) : GOp := gopPred g d [.p a] fun p => !p a
def gopPmov (g d a : Nat) : GOp := gopPred g d [.p a] fun p => p a

/-- R151: binary64 values in IEEE mode, the values of R114 in rational mode; the latency by the mode (R72). -/
def gopFcmp (g : Nat) (cc : Cond) (k a b : Nat) (s : State) : GOp :=
  let rat := (s.strand s.cur.core s.cur.strand).rat
  let l := if rat then 4 else 2
  ⟨infoPair g k l [.f a, .f b] (if !cc.forFloat then some 11 else if a < 32 ∧ b < 32 then none else some 12),
   fun s =>
    let c := s.cur.core
    let i := s.cur.strand
    let rd (n : Nat) : FVal × BitVec 5 :=
      if rat then fsRead (s.readF c i n) else let v := ieee64.decode (s.readF c i n).toNat; (v, sigFlag v)
    let x := rd a
    let y := rd b
    let fl := x.2 ||| y.2 ||| flagIf (condOrdering cc && (x.1.isNan || y.1.isNan)) flagNV
    .ok (writePair s c i k l (condFloat cc x.1 y.1) fl)⟩

/-! ## Meanings -/

/-- R145. Writes Xa + Xb to Xd, modulo 2^64. -/
def execAdd (g d a b : Nat) (s : State) : Out := issueGroup [] [gopAdd g d a b] s

/-- R145. Writes Xa − Xb to Xd. -/
def execSub (g d a b : Nat) (s : State) : Out := issueGroup [] [gopSub g d a b] s

/-- R145. Writes bitwise Xa AND Xb to Xd. -/
def execAnd (g d a b : Nat) (s : State) : Out := issueGroup [] [gopAnd g d a b] s

/-- R145. Writes bitwise Xa OR Xb to Xd. -/
def execOr (g d a b : Nat) (s : State) : Out := issueGroup [] [gopOr g d a b] s

/-- R145. Writes bitwise Xa XOR Xb to Xd. -/
def execXor (g d a b : Nat) (s : State) : Out := issueGroup [] [gopXor g d a b] s

/-- R145. Writes Xa AND NOT Xb to Xd. -/
def execAndn (g d a b : Nat) (s : State) : Out := issueGroup [] [gopAndn g d a b] s

/-- R145. Shifts Xa left by bits 5:0 of Xb. -/
def execShl (g d a b : Nat) (s : State) : Out := issueGroup [] [gopShl g d a b] s

/-- R145. Shifts Xa right logically by bits 5:0 of Xb. -/
def execShr (g d a b : Nat) (s : State) : Out := issueGroup [] [gopShr g d a b] s

/-- R145. Shifts Xa right arithmetically by bits 5:0 of Xb. -/
def execSra (g d a b : Nat) (s : State) : Out := issueGroup [] [gopSra g d a b] s

/-- R145. Rotates Xa left by bits 5:0 of Xb. -/
def execRot (g d a b : Nat) (s : State) : Out := issueGroup [] [gopRot g d a b] s

/-- R145. Writes the low 64 bits of Xa × Xb, latency 3. -/
def execMul (g d a b : Nat) (s : State) : Out := issueGroup [] [gopMul g d a b] s

/-- R145. Writes bits 127:64 of the signed product. -/
def execMulh (g d a b : Nat) (s : State) : Out := issueGroup [] [gopMulh g d a b] s

/-- R145. Writes bits 127:64 of the unsigned product. -/
def execMulhu (g d a b : Nat) (s : State) : Out := issueGroup [] [gopMulhu g d a b] s

/-- R145. Writes the signed minimum of Xa and Xb. -/
def execMin (g d a b : Nat) (s : State) : Out := issueGroup [] [gopMin g d a b] s

/-- R145. Writes the signed maximum of Xa and Xb. -/
def execMax (g d a b : Nat) (s : State) : Out := issueGroup [] [gopMax g d a b] s

/-- R145. Writes the unsigned minimum of Xa and Xb. -/
def execMinu (g d a b : Nat) (s : State) : Out := issueGroup [] [gopMinu g d a b] s

/-- R145. Writes the unsigned maximum of Xa and Xb. -/
def execMaxu (g d a b : Nat) (s : State) : Out := issueGroup [] [gopMaxu g d a b] s

/-- R145. Writes Xa if the lend-byte predicate is true, else Xb. -/
def execSel (g d a b k : Nat) (s : State) : Out := issueGroup [] [gopSel g d a b k] s

/-- R145. Counts the leading zero bits of Xa. -/
def execClz (g d a : Nat) (s : State) : Out := issueGroup [] [gopClz g d a] s

/-- R145. Counts the trailing zero bits of Xa. -/
def execCtz (g d a : Nat) (s : State) : Out := issueGroup [] [gopCtz g d a] s

/-- R145. Counts the set bits of Xa. -/
def execPopc (g d a : Nat) (s : State) : Out := issueGroup [] [gopPopc g d a] s

/-- R145. Reverses the bit order of Xa. -/
def execBrev (g d a : Nat) (s : State) : Out := issueGroup [] [gopBrev g d a] s

/-- R145. Sign-extends the low w bits of Xa. -/
def execSext (g d a w : Nat) (s : State) : Out := issueGroup [] [gopSext g d a w] s

/-- R145. Zero-extends the low w bits of Xa. -/
def execZext (g d a w : Nat) (s : State) : Out := issueGroup [] [gopZext g d a w] s

/-- R146. Signed division on XF with variable latency; Xd pending. -/
def execDiv (g d a b : Nat) (s : State) : Out := issueGroup [] [gopDiv g d a b] s

/-- R146. Unsigned division on XF with variable latency. -/
def execDivu (g d a b : Nat) (s : State) : Out := issueGroup [] [gopDivu g d a b] s

/-- R146. Signed remainder on XF with variable latency. -/
def execRem (g d a b : Nat) (s : State) : Out := issueGroup [] [gopRem g d a b] s

/-- R146. Unsigned remainder on XF with variable latency. -/
def execRemu (g d a b : Nat) (s : State) : Out := issueGroup [] [gopRemu g d a b] s

/-- R147. Writes Xa plus a sign-extended immediate. -/
def execAddi (g d a : Nat) (i : Int) (s : State) : Out := issueGroup [] [gopAddi g d a i] s

/-- R147. Writes Xa AND the sign-extended immediate. -/
def execAndi (g d a : Nat) (i : Int) (s : State) : Out := issueGroup [] [gopAndi g d a i] s

/-- R147. Writes Xa OR the sign-extended immediate. -/
def execOri (g d a : Nat) (i : Int) (s : State) : Out := issueGroup [] [gopOri g d a i] s

/-- R147. Writes Xa XOR the sign-extended immediate. -/
def execXori (g d a : Nat) (i : Int) (s : State) : Out := issueGroup [] [gopXori g d a i] s

/-- R147. Shifts Xa left by an immediate amount. -/
def execShli (g d a q : Nat) (s : State) : Out := issueGroup [] [gopShli g d a q] s

/-- R147. Shifts Xa right logically by an immediate amount. -/
def execShri (g d a q : Nat) (s : State) : Out := issueGroup [] [gopShri g d a q] s

/-- R147. Shifts Xa right arithmetically by an immediate amount. -/
def execSrai (g d a q : Nat) (s : State) : Out := issueGroup [] [gopSrai g d a q] s

/-- R147. Writes the low 64 bits of Xa times the immediate. -/
def execMuli (g d a : Nat) (i : Int) (s : State) : Out := issueGroup [] [gopMuli g d a i] s

/-- R148. Writes a sign-extended 21-bit immediate to Xd. -/
def execMovi (g d : Nat) (i : Int) (s : State) : Out := issueGroup [] [gopMovi g d i] s

/-- R148. Writes a 16-bit value into one halfword of Xd, zeroing the others. -/
def execMovw (g d data h : Nat) (s : State) : Out := issueGroup [] [gopMovw g d data h] s

/-- R147. Writes the signed minimum of Xa and the immediate. -/
def execMini (g d a : Nat) (i : Int) (s : State) : Out := issueGroup [] [gopMini g d a i] s

/-- R147. Writes the signed maximum of Xa and the immediate. -/
def execMaxi (g d a : Nat) (i : Int) (s : State) : Out := issueGroup [] [gopMaxi g d a i] s

/-- R149. Compares Xa with Xb and writes a predicate pair. -/
def execCmp (g : Nat) (cc : Cond) (k a b : Nat) (s : State) : Out := issueGroup [] [gopCmp g cc k a b] s

/-- R149. Compares Xa with an immediate and writes a predicate pair. -/
def execCmpi (g : Nat) (cc : Cond) (k a : Nat) (i : Int) (s : State) : Out := issueGroup [] [gopCmpi g cc k a i] s

/-- R150. Writes Pa AND Pb to Pd. -/
def execPand (g d a b : Nat) (s : State) : Out := issueGroup [] [gopPand g d a b] s

/-- R150. Writes Pa OR Pb to Pd. -/
def execPor (g d a b : Nat) (s : State) : Out := issueGroup [] [gopPor g d a b] s

/-- R150. Writes Pa XOR Pb to Pd. -/
def execPxor (g d a b : Nat) (s : State) : Out := issueGroup [] [gopPxor g d a b] s

/-- R150. Writes Pa AND NOT Pb to Pd. -/
def execPandn (g d a b : Nat) (s : State) : Out := issueGroup [] [gopPandn g d a b] s

/-- R150. Writes NOT Pa to Pd. -/
def execPnot (g d a : Nat) (s : State) : Out := issueGroup [] [gopPnot g d a] s

/-- R150. Copies Pa to Pd. -/
def execPmov (g d a : Nat) (s : State) : Out := issueGroup [] [gopPmov g d a] s

/-- R151. Compares two F registers and writes a predicate pair, setting invalid as stated. -/
def execFcmp (g : Nat) (cc : Cond) (k a b : Nat) (s : State) : Out := issueGroup [] [gopFcmp g cc k a b s] s

end Sys2Proof.Machine
end

