-- ==== Sys2Proof/Machine/SpecialFn.lean ====
section
/-! DEFINITION. The special functions of class 12 (R195): special values, and for every other input the exact value enclosed between two
numbers of growing precision until both ends round alike. Fixed-point intervals: the integers lo and hi stand for lo / 2^p and hi / 2^p. -/

namespace Sys2Proof.Machine

/-- An interval of fixed-point numbers. -/
structure Iv where
  lo : Int
  hi : Int
deriving DecidableEq, Repr

/-- i / 2^p rounded down, and up. -/
def shrDn (p : Nat) (i : Int) : Int := i / ((2 ^ p : Nat) : Int)
def shrUp (p : Nat) (i : Int) : Int := -((-i) / ((2 ^ p : Nat) : Int))
/-- The interval of an exact quotient. -/
def Iv.ofQuo (p : Nat) (q : Quo) : Iv :=
  let n := q.n * ((2 ^ p : Nat) : Int)
  ⟨n / (q.d : Int), -((-n) / (q.d : Int))⟩
def Iv.ofNat (p n : Nat) : Iv := ⟨((n * 2 ^ p : Nat) : Int), ((n * 2 ^ p : Nat) : Int)⟩
def Iv.add (a b : Iv) : Iv := ⟨a.lo + b.lo, a.hi + b.hi⟩
def Iv.neg (a : Iv) : Iv := ⟨-a.hi, -a.lo⟩
def Iv.sub (a b : Iv) : Iv := a.add b.neg
def Iv.mul (p : Nat) (a b : Iv) : Iv :=
  let w := a.lo * b.lo
  let x := a.lo * b.hi
  let y := a.hi * b.lo
  let z := a.hi * b.hi
  ⟨shrDn p (min (min w x) (min y z)), shrUp p (max (max w x) (max y z))⟩
def Iv.divNat (a : Iv) (n : Nat) : Iv := ⟨a.lo / (n : Int), -((-a.hi) / (n : Int))⟩
def Iv.mulNat (a : Iv) (n : Nat) : Iv := ⟨a.lo * n, a.hi * n⟩
/-- The reciprocal of a positive interval. -/
def Iv.inv (p : Nat) (a : Iv) : Iv :=
  let one : Int := ((2 ^ (2 * p) : Nat) : Int)
  ⟨one / a.hi, -((-one) / a.lo)⟩
/-- Widened by n units on both sides. -/
def Iv.widen (a : Iv) (n : Nat) : Iv := ⟨a.lo - n, a.hi + n⟩
/-- The interval with 2^k fewer units, outward. -/
def Iv.scale (a : Iv) (k : Nat) : Iv := ⟨shrDn k a.lo, shrUp k a.hi⟩

/-- Σ of t · (r / 1) (r / 2) … as far as n terms: term i + 1 is term i times r over f i. -/
def ivSeries (p : Nat) (r : Iv) (f : Nat → Nat) : Nat → Nat → Iv → Iv → Iv
  | 0, _, _, acc => acc
  | n + 1, i, t, acc => ivSeries p r f n (i + 1) (((t.mul p r)).divNat (f i)) (acc.add t)

/-- e^x for |x| below 2^8, at precision p: e^(x / 2^16) by its series, then 16 squarings. -/
def ivExp (p : Nat) (x : Quo) : Iv :=
  let g := p + 64
  let r := Iv.ofQuo g ⟨x.n, x.d * 2 ^ 16⟩
  let s := (ivSeries g r (fun i => i + 1) (g / 8 + 4) 0 (Iv.ofNat g 1) ⟨0, 0⟩).widen 2
  ((List.range 16).foldl (fun a _ => a.mul g a) s).scale 64

/-- Σ z^(2i + 1) / (2i + 1) for i below n: `t` is z^(2i + 1), `z2` is ± z². -/
def ivAtan (p : Nat) (z2 : Iv) : Nat → Nat → Iv → Iv → Iv
  | 0, _, _, acc => acc
  | n + 1, i, t, acc => ivAtan p z2 n (i + 1) (t.mul p z2) (acc.add (t.divNat (2 * i + 1)))

/-- atanh z for |z| at most 1 / 3. -/
def ivAtanh (p : Nat) (z : Quo) : Iv :=
  let t := Iv.ofQuo p z
  (ivAtan p (t.mul p t) (p / 3 + 4) 0 t ⟨0, 0⟩).widen 2

/-- ln x of a positive quotient. -/
def ivLn (p : Nat) (x : Quo) : Iv :=
  let g := p + 64
  let k := quoLog2 x
  let m := x.mul (pow2 (-k))
  let up := decide (4 * m.d < 3 * m.n)
  let m := if up then m.mul ⟨1, 2⟩ else m
  let k := if up then k + 1 else k
  let z : Quo := ⟨m.n - m.d, (m.n + m.d).natAbs⟩
  let a := (ivAtanh g z).mulNat 2
  let l2 := (ivAtanh g ⟨1, 3⟩).mulNat 2
  let kl := if 0 ≤ k then l2.mulNat k.toNat else (l2.mulNat (-k).toNat).neg
  (a.add kl).scale 64

/-- π = 16 atan (1 / 5) − 4 atan (1 / 239). -/
def ivPi (p : Nat) : Iv :=
  let g := p + 16
  let at1 (n : Nat) : Iv :=
    let t := Iv.ofQuo g ⟨1, n⟩
    (ivAtan g (t.mul g t).neg (g / 4 + 4) 0 t ⟨0, 0⟩).widen 2
  (((at1 5).mulNat 16).sub ((at1 239).mulNat 4)).scale 16

/-- sin r (odd) or cos r of a small interval. -/
def ivSinCos (p : Nat) (odd : Bool) (r : Iv) : Iv :=
  let r2 := (r.mul p r).neg
  let f := fun i => if odd then (2 * i + 2) * (2 * i + 3) else (2 * i + 1) * (2 * i + 2)
  (ivSeries p r2 f (p / 8 + 8) 0 (if odd then r else Iv.ofNat p 1) ⟨0, 0⟩).widen 2

/-- sin x, or cos x, with the argument reduced by a multiple of π / 2 that is exact for every binary32 input. -/
def ivTrig (p : Nat) (cosine : Bool) (x : Quo) : Iv :=
  let g := p + 200
  let h := ivPi g
  let n2 : Int := 2 * x.n * ((2 ^ g : Nat) : Int)
  let k : Int := (2 * n2 + h.lo * x.d) / (2 * h.lo * x.d)
  let r := (Iv.ofQuo g x).sub (let y := h.divNat 2; if 0 ≤ k then y.mulNat k.toNat else (y.mulNat (-k).toNat).neg)
  let q := (k + if cosine then 1 else 0) % 4
  let v := ivSinCos g (q % 2 == 0) r
  (if q = 2 ∨ q = 3 then v.neg else v).scale 200

/-- erf x for 0 < x < 6: (2 / √π) Σ (−1)^n x^(2n + 1) / (n! (2n + 1)). -/
def ivErfSum (p : Nat) (x2 : Iv) : Nat → Nat → Iv → Iv → Iv
  | 0, _, _, acc => acc
  | n + 1, i, t, acc => ivErfSum p x2 n (i + 1) ((t.mul p x2).divNat (i + 1)) (acc.add (t.divNat (2 * i + 1)))

def ivErf (p : Nat) (x : Quo) : Iv :=
  let g := p + 128
  let t := Iv.ofQuo g x
  let s := (ivErfSum g (t.mul g t).neg (g + 200) 0 t ⟨0, 0⟩).widen 4
  let pi := ivPi g
  let root : Iv := ⟨((Nat.sqrt (pi.lo.toNat * 2 ^ g) : Nat) : Int), ((Nat.sqrt (pi.hi.toNat * 2 ^ g) + 1 : Nat) : Int)⟩
  (((s.mul g (root.inv g)).mulNat 2)).scale 128

/-- One of an interval's ends as a datum of the given sign. -/
def ivEnd (p : Nat) (neg : Bool) (i : Int) : FVal := .num (neg != decide (i < 0)) ⟨i.natAbs, 2 ^ p⟩

/-- Rounds an enclosure into a format by RNE, at each precision of a list, until its ends agree. -/
def settle (f : Ieee) (neg : Bool) (e : Nat → Iv) (fall : Nat) : List Nat → Nat
  | [] => fall
  | p :: r =>
    let v := e p
    let a := rne f (ivEnd p neg v.lo)
    let b := rne f (ivEnd p neg v.hi)
    if a = b then a else settle f neg e fall r

def precisions : List Nat := [320, 640, 1280, 2560, 5120]

/-- An enclosure of a value just below 1. -/
def nearOne (p : Nat) : Iv := ⟨((2 ^ p - 2 ^ (p - 50) : Nat) : Int), ((2 ^ p : Nat) : Int)⟩

/-- A magnitude is at least n. -/
def atLeast (q : Quo) (n : Nat) : Bool := decide ((n * q.d : Nat) ≤ q.n)

/-- The enclosure of function `op` at a finite nonzero magnitude q of sign neg, with the sign to give its ends. -/
def enclose (op : Nat) (neg : Bool) (q : Quo) : Bool × (Nat → Iv) :=
  let x : Quo := if neg then q.neg else q
  match op with
  | 0 => if atLeast q 200 then (false, fun p => if neg then ⟨0, 1⟩ else ⟨((2 ^ (p + 200) : Nat) : Int), ((2 ^ (p + 201) : Nat) : Int)⟩)
         else (false, fun p => ivExp p x)
  | 1 => (false, fun p => ivLn p q)
  | 4 => if atLeast q 64 then (neg, nearOne)
         else (neg, fun p =>
           let e := ivExp (p + 8) (q.mul ⟨2, 1⟩)
           ((e.sub (Iv.ofNat (p + 8) 1)).mul (p + 8) ((e.add (Iv.ofNat (p + 8) 1)).inv (p + 8))).scale 8)
  | 5 => if atLeast q 200 then (false, if neg then fun _ => ⟨0, 1⟩ else nearOne)
         else (false, fun p => ((ivExp (p + 8) x.neg).add (Iv.ofNat (p + 8) 1)).inv (p + 8) |>.scale 8)
  | 6 => (neg, fun p => ivTrig p false q)
  | 7 => (false, fun p => ivTrig p true q)
  | _ => if atLeast q 6 then (neg, nearOne) else (neg, fun p => ivErf p q)

/-- A special function of R195 on one lane. -/
def specialFn (op : Nat) (f : Ieee) (b : Nat) : Nat :=
  let one := rne f (.num false ⟨1, 1⟩)
  let v := f.decode b
  let sgn (n : Bool) : Nat := if n then f.sign else 0
  match v with
  | .nan _ => f.qnan
  | .inf n =>
    match op with
    | 0 => if n then 0 else f.inf
    | 1 => if n then f.qnan else f.inf
    | 2 => sgn n
    | 3 => if n then f.qnan else 0
    | 4 => sgn n + one
    | 5 => if n then 0 else one
    | 6 => f.qnan
    | 7 => f.qnan
    | _ => sgn n + one
  | .num n q =>
    if q.isZero then
      match op with
      | 0 => one
      | 1 => f.sign + f.inf
      | 2 => sgn n + f.inf
      | 3 => sgn n + f.inf
      | 4 => sgn n
      | 5 => rne f (.num false ⟨1, 2⟩)
      | 6 => sgn n
      | 7 => one
      | _ => sgn n
    else if op = 2 then rne f (.num n ((Quo.ofInt 1).div q))
    else if op = 3 then (if n then f.qnan else rne f (.num false (quoSqrt ((Quo.ofInt 1).div q))))
    else if op = 1 ∧ n then f.qnan
    else if op = 1 ∧ q.eq ⟨1, 1⟩ then 0
    else
      let (s, e) := enclose op n q
      settle f s e (Config.undecided op b) precisions

end Sys2Proof.Machine
end

