-- ==== Sys2Proof/Machine/Vector.lean ====
section
/-! DEFINITION. The vector operations of classes 9 to 11 and the special functions of class 12 (R176 to R197). -/

namespace Sys2Proof.Machine

/-! ## Element type and frame (R176, R177) -/

/-- The element type and lane count in force: lane width, whether it is integer, lanes. -/
structure Ety where
  w : Nat
  int : Bool
  n : Nat
deriving DecidableEq, Repr

def Strand.ety (x : Strand) : Ety :=
  let w := if x.acct = 33 ∨ x.acct = 40 then 32 else 16
  { w := w, int := x.acct == 38 || x.acct == 40, n := x.rowb * 8 / w }

def Ety.ieee (t : Ety) : Ieee := if t.w = 32 then ieee32 else ieee16

/-- The lanes of row register r, w bits each, n of them, as the issuing strand reads them. -/
def State.lanes (s : State) (w n r : Nat) : List Nat :=
  let v := s.readV s.cur.core s.cur.strand r
  (List.range n).map (laneOf w v)

/-- A row of the values of a list. -/
def packRow (w : Nat) (l : List Nat) : Row := BitVec.ofNat 8192 (l.foldr (fun v acc => v % 2 ^ w + acc * 2 ^ w) 0)

/-- The issuing strand's lane guard. -/
def State.laneGuard (s : State) (g : Nat) : LaneMask := s.readL s.cur.core s.cur.strand g

/-- What a row operation uses: sources, lane guard, destination row. -/
def infoV (g d l : Nat) (reads : List Reg) (bad : Option Nat) : Info :=
  { kind := .vector, reads := .l g :: reads, writes := [(.v d, l)], mir := true, bad := bad }

/-- Writes the guarded lanes of Vd (R177). -/
def State.outV (s : State) (g d l w : Nat) (vals : List Nat) : State :=
  s.result s.cur.core s.cur.strand (.v d) l (.row (packRow w vals) (maskRow w vals.length (s.laneGuard g)))

/-- A lanewise operation on rows: f takes the lanes at one index. -/
def gopLanes (g d l : Nat) (rows : List Nat) (f : Ety → List Nat → Nat) : GOp :=
  ⟨infoV g d l (rows.map Reg.v) none, fun s =>
    let t := s.me.ety
    let src := rows.map fun r => s.readV s.cur.core s.cur.strand r
    .ok (s.outV g d l t.w ((List.range t.n).map fun i => f t (src.map fun v => laneOf t.w v i)))⟩

def on1 (f : Nat → Nat) : List Nat → Nat | [a] => f a | _ => 0
def on2 (f : Nat → Nat → Nat) : List Nat → Nat | [a, b] => f a b | _ => 0
def on3 (f : Nat → Nat → Nat → Nat) : List Nat → Nat | [a, b, c] => f a b c | _ => 0

/-! ## Class 9 -/

def laneAdd (t : Ety) (a b : Nat) : Nat := if t.int then (a + b) % 2 ^ t.w else addF t.ieee a b
def laneSub (t : Ety) (a b : Nat) : Nat := if t.int then patOf t.w ((a : Int) - b) else subF t.ieee a b
def laneMul (t : Ety) (a b : Nat) : Nat := if t.int then (a * b) % 2 ^ t.w else mulF t.ieee a b
def laneFma (t : Ety) (a b d : Nat) : Nat := if t.int then (a * b + d) % 2 ^ t.w else fmaF t.ieee a b d
def laneMin (t : Ety) (a b : Nat) : Nat := if t.int then (if sInt t.w b < sInt t.w a then b else a) else minMax t.ieee false a b
def laneMax (t : Ety) (a b : Nat) : Nat := if t.int then (if sInt t.w a < sInt t.w b then b else a) else minMax t.ieee true a b
def laneAbs (t : Ety) (a : Nat) : Nat :=
  if t.int then patOf t.w (sInt t.w a).natAbs
  else if (t.ieee.decode a).isNan then t.ieee.qnan else a % t.ieee.sign
def laneNeg (t : Ety) (a : Nat) : Nat :=
  if t.int then patOf t.w (-(a : Int))
  else if (t.ieee.decode a).isNan then t.ieee.qnan else (a + t.ieee.sign) % 2 ^ t.w

def gopVadd (g d a b : Nat) : GOp := gopLanes g d 2 [a, b] fun t => on2 (laneAdd t)
def gopVsub (g d a b : Nat) : GOp := gopLanes g d 2 [a, b] fun t => on2 (laneSub t)
def gopVmul (g d a b : Nat) : GOp := gopLanes g d 4 [a, b] fun t => on2 (laneMul t)
def gopVfma (g d a b : Nat) : GOp := gopLanes g d 4 [a, b, d] fun t => on3 (laneFma t)
def gopVmin (g d a b : Nat) : GOp := gopLanes g d 2 [a, b] fun t => on2 (laneMin t)
def gopVmax (g d a b : Nat) : GOp := gopLanes g d 2 [a, b] fun t => on2 (laneMax t)
def gopVabs (g d a : Nat) : GOp := gopLanes g d 2 [a] fun t => on1 (laneAbs t)
def gopVneg (g d a : Nat) : GOp := gopLanes g d 2 [a] fun t => on1 (laneNeg t)
def gopVand (g d a b : Nat) : GOp := gopLanes g d 2 [a, b] fun _ => on2 fun x y => x &&& y
def gopVor (g d a b : Nat) : GOp := gopLanes g d 2 [a, b] fun _ => on2 fun x y => x ||| y
def gopVxor (g d a b : Nat) : GOp := gopLanes g d 2 [a, b] fun _ => on2 fun x y => x ^^^ y
def gopVnot (g d a : Nat) : GOp := gopLanes g d 2 [a] fun t => on1 fun x => 2 ^ t.w - 1 - x

/-- The three shifts on a lane's bits (R182). -/
def laneShl (w a n : Nat) : Nat := a * 2 ^ (n % w) % 2 ^ w
def laneShr (w a n : Nat) : Nat := a / 2 ^ (n % w)
def laneSra (w a n : Nat) : Nat := patOf w (sInt w a / ((2 ^ (n % w) : Nat) : Int))

def gopVshl (g d a b : Nat) : GOp := gopLanes g d 2 [a, b] fun t => on2 (laneShl t.w)
def gopVshr (g d a b : Nat) : GOp := gopLanes g d 2 [a, b] fun t => on2 (laneShr t.w)
def gopVsra (g d a b : Nat) : GOp := gopLanes g d 2 [a, b] fun t => on2 (laneSra t.w)

/-- R186: the selecting lane predicate is a read. -/
def gopVsel (g d a b k : Nat) : GOp :=
  ⟨infoV g d 2 [.v a, .v b, .l k] none, fun s =>
    let t := s.me.ety
    let p := s.readL s.cur.core s.cur.strand k
    let x := s.readV s.cur.core s.cur.strand a
    let y := s.readV s.cur.core s.cur.strand b
    .ok (s.outV g d 2 t.w ((List.range t.n).map fun i => laneOf t.w (if p.getLsbD i then x else y) i))⟩

/-- The integer of byte j of a 32-bit lane. -/
def dotByte (u : Bool) (v j : Nat) : Int := if u then ((v / 2 ^ (8 * j) % 256 : Nat) : Int) else sInt 8 (v / 2 ^ (8 * j))

/-- R192: 32-bit lanes whatever the element type. -/
def gopVdot4 (g d a b : Nat) (au bu : Bool) : GOp :=
  ⟨infoV g d 4 [.v a, .v b, .v d] none, fun s =>
    let n := s.me.rowb / 4
    let x := s.readV s.cur.core s.cur.strand a
    let y := s.readV s.cur.core s.cur.strand b
    let z := s.readV s.cur.core s.cur.strand d
    let lane (i : Nat) : Nat :=
      let sum := ([0, 1, 2, 3].map fun j => dotByte au (laneOf 32 x i) j * dotByte bu (laneOf 32 y i) j).foldl (· + ·) (sInt 32 (laneOf 32 z i))
      patOf 32 (clamp (-2147483648) 2147483647 sum)
    .ok (s.outV g d 4 32 ((List.range n).map lane))⟩

/-- The total order of VCMX on lanes (R194). -/
def laneLess (t : Ety) (a b : Nat) : Bool :=
  if t.int then decide (sInt t.w a < sInt t.w b)
  else
    let x := t.ieee.decode a
    let y := t.ieee.decode b
    if x.isNan then false else if y.isNan then true
    else x.lt y || (x.eqv y && x.sign && !y.sign)

/-- R194: one stage of a sorting network. -/
def gopVcmx (g d a b : Nat) : GOp :=
  ⟨infoV g d 3 [.v a, .v b] none, fun s =>
    let t := s.me.ety
    let x := s.readV s.cur.core s.cur.strand a
    let y := s.readV s.cur.core s.cur.strand b
    let lane (i : Nat) : Nat :=
      let c := laneOf t.w y i
      let j := c % 1024
      let u := laneOf t.w x i
      let v := laneOf t.w x j
      if t.n ≤ j then u
      else if c / 2 ^ (t.w - 1) % 2 = 1 then (if laneLess t u v then v else u) else (if laneLess t v u then v else u)
    .ok (s.outV g d 3 t.w ((List.range t.n).map lane))⟩

/-! ## Class 10 -/

/-- The condition of two lanes (R185). -/
def laneCond (t : Ety) (cc : Cond) (a b : Nat) : Bool :=
  if t.int then condInt t.w cc a b else condFloat cc (t.ieee.decode a) (t.ieee.decode b)

def gopVcmp (g : Nat) (cc : Cond) (k a b : Nat) (s : State) : GOp :=
  let t := s.me.ety
  let ok := if t.int then cc.forInt else cc.forFloat
  ⟨{ kind := .vector, reads := [.l g, .v a, .v b], writes := [(.l (2 * k), 2), (.l (2 * k + 1), 2)], mir := true
     bad := if ok then none else some 11 }, fun s =>
    let c := s.cur.core
    let i := s.cur.strand
    let x := s.readV c i a
    let y := s.readV c i b
    let m := s.laneGuard g
    let hi : LaneMask := lanesOf 512 fun j => decide (t.n ≤ j)
    let wr : LaneMask := (m &&& ~~~ hi) ||| hi
    let yes := lanesOf t.n fun j => laneCond t cc (laneOf t.w x j) (laneOf t.w y j)
    let no := lanesOf t.n fun j => !laneCond t cc (laneOf t.w x j) (laneOf t.w y j)
    .ok ((s.result c i (.l (2 * k)) 2 (.lm yes wr)).result c i (.l (2 * k + 1)) 2 (.lm no wr))⟩

def gopVshuf (g d a b : Nat) : GOp :=
  ⟨infoV g d 3 [.v a, .v b] none, fun s =>
    let t := s.me.ety
    let x := s.readV s.cur.core s.cur.strand a
    let y := s.readV s.cur.core s.cur.strand b
    let lane (i : Nat) : Nat := let j := laneOf t.w y i % 1024; if t.n ≤ j then 0 else laneOf t.w x j
    .ok (s.outV g d 3 t.w ((List.range t.n).map lane))⟩

def gopVrot (g d a n : Nat) : GOp :=
  ⟨infoV g d 3 [.v a] none, fun s =>
    let t := s.me.ety
    let x := s.readV s.cur.core s.cur.strand a
    .ok (s.outV g d 3 t.w ((List.range t.n).map fun i => laneOf t.w x ((i + n) % t.n)))⟩

/-- Element e of a row, w bits, as a format reads it. -/
def convLane (src dst : Nat) (sat : Bool) (v : Row) (e : Nat) : Nat := convertFmt dst sat (decodeFmt src (laneOf (fmtBits src) v e))

/-- A lane guard as conversions apply it (R190): a bit governs two elements of one byte. -/
def convGuard (w n : Nat) (g : LaneMask) : Row :=
  rowOf w n fun i => if g.getLsbD (if w = 8 then i / 2 else i) then 2 ^ w - 1 else 0

/-- Writes the guarded destination elements of a conversion. -/
def State.outConv (s : State) (g d w : Nat) (vals : List Nat) : State :=
  s.result s.cur.core s.cur.strand (.v d) 3 (.row (packRow w vals) (convGuard w vals.length (s.laneGuard g)))

/-- R189. -/
def gopVcvt (g d a src dst : Nat) (sat : Bool) : GOp :=
  ⟨infoV g d 3 [.v a] (if vcvtFmt src && vcvtFmt dst then none else some 1), fun s =>
    let n := s.me.rowb / max (fmtBytes src) (fmtBytes dst)
    let x := s.readV s.cur.core s.cur.strand a
    .ok (s.outConv g d (fmtBits dst) ((List.range n).map (convLane src dst sat x)))⟩

/-- Source and destination codes of a VPACK mode; VUNPK goes the other way (R191). -/
def packFmts (mode : Nat) : Nat × Nat := if mode = 0 then (33, 32) else if mode = 1 then (40, 38) else if mode = 2 then (38, 36) else (38, 37)

def gopVpack (g d a b mode : Nat) (sat : Bool) : GOp :=
  ⟨infoV g d 3 [.v a, .v b] (if mode ≠ 0 ∧ sat then some 2 else none), fun s =>
    let (src, dst) := packFmts mode
    let n := s.me.rowb / fmtBytes dst
    let x := s.readV s.cur.core s.cur.strand a
    let y := s.readV s.cur.core s.cur.strand b
    .ok (s.outConv g d (fmtBits dst) ((List.range n).map fun e =>
      if e < n / 2 then convLane src dst sat x e else convLane src dst sat y (e - n / 2)))⟩

def gopVunpk (g d a mode : Nat) (hi : Bool) : GOp :=
  ⟨infoV g d 3 [.v a] none, fun s =>
    let (dst, src) := packFmts mode
    let n := s.me.rowb / fmtBytes dst
    let x := s.readV s.cur.core s.cur.strand a
    .ok (s.outConv g d (fmtBits dst) ((List.range n).map fun e => convLane src dst false x ((if hi then n else 0) + e)))⟩

/-- One level of the pairwise tree (R193). -/
def pairUp {α : Type} (op : α → α → α) : List α → List α
  | a :: b :: r => op a b :: pairUp op r
  | l => l

/-- The tree over the lanes, at most 512 of them. -/
def reduceTree {α : Type} (op : α → α → α) : Nat → List α → List α
  | 0, l => l
  | n + 1, l => if l.length ≤ 1 then l else reduceTree op n (pairUp op l)

/-- Writes lane 0 of Vd alone. -/
def State.outLane0 (s : State) (d w v : Nat) : State :=
  s.result s.cur.core s.cur.strand (.v d) 8 (.row (packRow w [v]) (maskRow w 1 (BitVec.allOnes 512)))

def gopVreds (g d a : Nat) : GOp :=
  ⟨infoV g d 8 [.v a] none, fun s =>
    let t := s.me.ety
    let m := s.laneGuard g
    let x := s.readV s.cur.core s.cur.strand a
    let lane (i : Nat) : Nat := if m.getLsbD i then laneOf t.w x i else 0
    let v : Nat :=
      if t.int then
        let sum := (List.range t.n).foldl (fun acc i => acc + sInt t.w (lane i)) 0
        let (lo, hi) := intRange t.w true
        patOf t.w (clamp lo hi sum)
      else (reduceTree (addF t.ieee) 9 ((List.range t.n).map lane)).headD 0
    .ok (s.outLane0 d t.w v)⟩

def gopVredm (g d a : Nat) (mn : Bool) : GOp :=
  ⟨infoV g d 8 [.v a] none, fun s =>
    let t := s.me.ety
    let m := s.laneGuard g
    let x := s.readV s.cur.core s.cur.strand a
    let z : Nat := if t.int then patOf t.w (if mn then (intRange t.w true).2 else (intRange t.w true).1)
      else if mn then t.ieee.inf else t.ieee.sign + t.ieee.inf
    let l := (List.range t.n).map fun i => if m.getLsbD i then laneOf t.w x i else z
    .ok (s.outLane0 d t.w ((reduceTree (fun a b => if mn then laneMin t a b else laneMax t a b) 9 l).headD z))⟩

/-- The encoding of an integer in a lane (R183, R184). -/
def laneOfInt (t : Ety) (i : Int) : Nat := if t.int then patOf t.w i else rne t.ieee (fvalOfInt i)

def gopVidx (g d : Nat) : GOp :=
  ⟨infoV g d 2 [] none, fun s =>
    let t := s.me.ety
    .ok (s.outV g d 2 t.w ((List.range t.n).map fun (i : Nat) => laneOfInt t i))⟩

/-! ## Class 11 -/

def gopVbcast (g d a : Nat) : GOp :=
  ⟨infoV g d 2 [.x a] none, fun s =>
    let t := s.me.ety
    let v := (s.readX s.cur.core s.cur.strand a).toNat
    .ok (s.outV g d 2 t.w (List.replicate t.n (v % 2 ^ t.w)))⟩

/-- R188: the X register is written in every case; a poisoned row passes its poison on (R370). -/
def gopVext (g d a idx : Nat) : GOp :=
  ⟨{ kind := .vector, reads := [.l g, .v a], writes := [(.x d, 2)], mir := true, carries := [.v a] }, fun s =>
    let t := s.me.ety
    let x := s.readV s.cur.core s.cur.strand a
    let v := laneOf t.w x idx
    let r : Word := if idx < t.n ∧ (s.laneGuard g).getLsbD idx then (if t.int then wInt (sInt t.w v) else w64 v) else 0
    .ok (s.result s.cur.core s.cur.strand (.x d) 2 (.w r) 0 (s.me.poisonedReg (.v a)))⟩

def gopVins (g d a idx : Nat) : GOp :=
  ⟨infoV g d 2 [.x a] none, fun s =>
    let t := s.me.ety
    let v := (s.readX s.cur.core s.cur.strand a).toNat % 2 ^ t.w
    let m : LaneMask := lanesOf 512 fun i => i == idx && decide (i < t.n) && (s.laneGuard g).getLsbD i
    .ok (s.result s.cur.core s.cur.strand (.v d) 2 (.row (rowOf t.w t.n fun _ => v) (maskRow t.w t.n m)))⟩

def gopVshli (g d a n : Nat) : GOp := gopLanes g d 2 [a] fun t => on1 fun x => laneShl t.w x n
def gopVshri (g d a n : Nat) : GOp := gopLanes g d 2 [a] fun t => on1 fun x => laneShr t.w x n
def gopVsrai (g d a n : Nat) : GOp := gopLanes g d 2 [a] fun t => on1 fun x => laneSra t.w x n

def gopVaddi (g d a : Nat) (v : Int) : GOp :=
  gopLanes g d 2 [a] fun t => on1 fun x =>
    if t.int then patOf t.w ((x : Int) + v) else rne t.ieee ((t.ieee.decode x).add .rne (fvalOfInt v)).1

def gopVmovi (g d : Nat) (v : Int) : GOp :=
  ⟨infoV g d 2 [] none, fun s =>
    let t := s.me.ety
    .ok (s.outV g d 2 t.w (List.replicate t.n (laneOfInt t v)))⟩

/-! ## Class 12 -/

/-- A special function on every lane (R195); it has no integer form. -/
def gopSpecial (g d a op : Nat) (s : State) : GOp :=
  ⟨{ kind := .extended, reads := [.l g, .v a], writes := [(.v d, 12)], bad := if s.me.ety.int then some 1 else none }, fun s =>
    let t := s.me.ety
    let x := s.readV s.cur.core s.cur.strand a
    .ok (s.outV g d 12 t.w ((List.range t.n).map fun i => specialFn op t.ieee (laneOf t.w x i)))⟩

def gopVexp (g d a : Nat) (s : State) : GOp := gopSpecial g d a 0 s
def gopVlog (g d a : Nat) (s : State) : GOp := gopSpecial g d a 1 s
def gopVrcp (g d a : Nat) (s : State) : GOp := gopSpecial g d a 2 s
def gopVrsq (g d a : Nat) (s : State) : GOp := gopSpecial g d a 3 s
def gopVtanh (g d a : Nat) (s : State) : GOp := gopSpecial g d a 4 s
def gopVsig (g d a : Nat) (s : State) : GOp := gopSpecial g d a 5 s
def gopVsin (g d a : Nat) (s : State) : GOp := gopSpecial g d a 6 s
def gopVcos (g d a : Nat) (s : State) : GOp := gopSpecial g d a 7 s
def gopVerf (g d a : Nat) (s : State) : GOp := gopSpecial g d a 8 s

/-! ## Meanings -/

/-- R181. Lanewise add. -/
def execVadd (g d a b : Nat) (s : State) : Out := issueGroup [] [gopVadd g d a b] s

/-- R181. Lanewise subtract. -/
def execVsub (g d a b : Nat) (s : State) : Out := issueGroup [] [gopVsub g d a b] s

/-- R181. Lanewise multiply. -/
def execVmul (g d a b : Nat) (s : State) : Out := issueGroup [] [gopVmul g d a b] s

/-- R181. Lanewise fused multiply-add into Vd. -/
def execVfma (g d a b : Nat) (s : State) : Out := issueGroup [] [gopVfma g d a b] s

/-- R181. Lanewise minimum. -/
def execVmin (g d a b : Nat) (s : State) : Out := issueGroup [] [gopVmin g d a b] s

/-- R181. Lanewise maximum. -/
def execVmax (g d a b : Nat) (s : State) : Out := issueGroup [] [gopVmax g d a b] s

/-- R181. Lanewise absolute value. -/
def execVabs (g d a : Nat) (s : State) : Out := issueGroup [] [gopVabs g d a] s

/-- R181. Lanewise negation. -/
def execVneg (g d a : Nat) (s : State) : Out := issueGroup [] [gopVneg g d a] s

/-- R182. Lanewise bitwise AND. -/
def execVand (g d a b : Nat) (s : State) : Out := issueGroup [] [gopVand g d a b] s

/-- R182. Lanewise bitwise OR. -/
def execVor (g d a b : Nat) (s : State) : Out := issueGroup [] [gopVor g d a b] s

/-- R182. Lanewise bitwise XOR. -/
def execVxor (g d a b : Nat) (s : State) : Out := issueGroup [] [gopVxor g d a b] s

/-- R182. Lanewise bitwise NOT. -/
def execVnot (g d a : Nat) (s : State) : Out := issueGroup [] [gopVnot g d a] s

/-- R182. Lanewise left shift by lane amounts. -/
def execVshl (g d a b : Nat) (s : State) : Out := issueGroup [] [gopVshl g d a b] s

/-- R182. Lanewise logical right shift. -/
def execVshr (g d a b : Nat) (s : State) : Out := issueGroup [] [gopVshr g d a b] s

/-- R182. Lanewise arithmetic right shift. -/
def execVsra (g d a b : Nat) (s : State) : Out := issueGroup [] [gopVsra g d a b] s

/-- R186. Selects lanes of Va or Vb by a lane predicate. -/
def execVsel (g d a b k : Nat) (s : State) : Out := issueGroup [] [gopVsel g d a b k] s

/-- R192. Packed 8-bit dot product accumulated with one saturation. -/
def execVdot4 (g d a b : Nat) (au bu : Bool) (s : State) : Out := issueGroup [] [gopVdot4 g d a b au bu] s

/-- R194. One compare-exchange stage of a sorting network. -/
def execVcmx (g d a b : Nat) (s : State) : Out := issueGroup [] [gopVcmx g d a b] s

/-- R185. Lanewise compare into a lane-predicate pair. -/
def execVcmp (g : Nat) (cc : Cond) (k a b : Nat) (s : State) : Out := issueGroup [] [gopVcmp g cc k a b s] s

/-- R187. Gathers lanes of Va by an index row. -/
def execVshuf (g d a b : Nat) (s : State) : Out := issueGroup [] [gopVshuf g d a b] s

/-- R187. Rotates lanes toward lane 0 by n. -/
def execVrot (g d a n : Nat) (s : State) : Out := issueGroup [] [gopVrot g d a n] s

/-- R189. Converts elements between format codes. -/
def execVcvt (g d a src dst : Nat) (sat : Bool) (s : State) : Out := issueGroup [] [gopVcvt g d a src dst sat] s

/-- R191. Narrows two rows into one. -/
def execVpack (g d a b mode : Nat) (sat : Bool) (s : State) : Out := issueGroup [] [gopVpack g d a b mode sat] s

/-- R191. Widens half of one row. -/
def execVunpk (g d a mode : Nat) (hi : Bool) (s : State) : Out := issueGroup [] [gopVunpk g d a mode hi] s

/-- R193. Sums guarded lanes by a fixed tree into lane 0. -/
def execVreds (g d a : Nat) (s : State) : Out := issueGroup [] [gopVreds g d a] s

/-- R193. Takes the max or min of guarded lanes into lane 0. -/
def execVredm (g d a : Nat) (mn : Bool) (s : State) : Out := issueGroup [] [gopVredm g d a mn] s

/-- R184. Writes each lane's index. -/
def execVidx (g d : Nat) (s : State) : Out := issueGroup [] [gopVidx g d] s

/-- R187. Broadcasts the low bits of Xa to every lane. -/
def execVbcast (g d a : Nat) (s : State) : Out := issueGroup [] [gopVbcast g d a] s

/-- R188. Extracts one lane into an X register. -/
def execVext (g d a idx : Nat) (s : State) : Out := issueGroup [] [gopVext g d a idx] s

/-- R187. Inserts the low bits of Xa into one lane. -/
def execVins (g d a idx : Nat) (s : State) : Out := issueGroup [] [gopVins g d a idx] s

/-- R182. Shifts every lane left by an immediate. -/
def execVshli (g d a q : Nat) (s : State) : Out := issueGroup [] [gopVshli g d a q] s

/-- R182. Shifts every lane right logically by an immediate. -/
def execVshri (g d a q : Nat) (s : State) : Out := issueGroup [] [gopVshri g d a q] s

/-- R182. Shifts every lane right arithmetically by an immediate. -/
def execVsrai (g d a q : Nat) (s : State) : Out := issueGroup [] [gopVsrai g d a q] s

/-- R183. Adds an immediate to every lane. -/
def execVaddi (g d a : Nat) (i : Int) (s : State) : Out := issueGroup [] [gopVaddi g d a i] s

/-- R183. Writes an immediate into every lane. -/
def execVmovi (g d : Nat) (i : Int) (s : State) : Out := issueGroup [] [gopVmovi g d i] s

/-- R195. Correctly rounded e^x per lane. -/
def execVexp (g d a : Nat) (s : State) : Out := issueGroup [] [gopVexp g d a s] s

/-- R195. Correctly rounded ln x per lane. -/
def execVlog (g d a : Nat) (s : State) : Out := issueGroup [] [gopVlog g d a s] s

/-- R195. Correctly rounded reciprocal per lane. -/
def execVrcp (g d a : Nat) (s : State) : Out := issueGroup [] [gopVrcp g d a s] s

/-- R195. Correctly rounded reciprocal square root per lane. -/
def execVrsq (g d a : Nat) (s : State) : Out := issueGroup [] [gopVrsq g d a s] s

/-- R195. Correctly rounded tanh per lane. -/
def execVtanh (g d a : Nat) (s : State) : Out := issueGroup [] [gopVtanh g d a s] s

/-- R195. Correctly rounded logistic sigmoid per lane. -/
def execVsig (g d a : Nat) (s : State) : Out := issueGroup [] [gopVsig g d a s] s

/-- R195. Correctly rounded sine per lane. -/
def execVsin (g d a : Nat) (s : State) : Out := issueGroup [] [gopVsin g d a s] s

/-- R195. Correctly rounded cosine per lane. -/
def execVcos (g d a : Nat) (s : State) : Out := issueGroup [] [gopVcos g d a s] s

/-- R195. Correctly rounded error function per lane. -/
def execVerf (g d a : Nat) (s : State) : Out := issueGroup [] [gopVerf g d a s] s

end Sys2Proof.Machine
end

