-- ==== Sys2Proof/Machine/States.lean ====
section
/-! DEFINITION. State handles and tiles: tile words (R339), slots and frames with their share counts (R208, R340), the arena (R339), the lookup
of a state reference (R234, R235), copy on write (R242) and the pager's whole-state moves (R318, R340). -/

namespace Sys2Proof.Machine

/-! ## Slabs (R15, R323) -/

/-- The halves bound to front end f, ascending. -/
def Tower.halves (t : Tower) (f : Nat) : List Nat :=
  let e := (t.caston.getD f 0).toNat
  let n := if e / 2 ^ 14 = 1 then 2 else if e / 2 ^ 14 = 2 then 4 else 0
  (List.range n).map fun i => 2 * f + e / 2 ^ (3 * i) % 8

/-- The slabs of front end f, named by their lower halves. -/
def Tower.slabs (t : Tower) (f : Nat) : List Nat := ((t.halves f).zipIdx.filter fun e => e.2 % 2 == 0).map (·.1)

def State.slabsOf (s : State) (k : Nat) : List Nat := (s.tower (towerOf k)).slabs (k % 16)

/-- Every slab bound on the tower. -/
def Tower.allSlabs (t : Tower) : List Nat := (List.range 16).flatMap fun f => t.slabs f

/-! ## Tile words -/

def twKind (w : Word) : Nat := bits w 63 62
def twSlab (w : Word) : Nat := bits w 45 40
/-- The key of a resident tile's place: slab, slot, half. -/
def twKey (w : Word) : Nat := (twSlab w * 128 + bits w 38 32) * 2 + bits w 39 39
def twFrame (w : Word) : Nat := bits w 31 0
/-- The tile word of a place. -/
def twResident (key : Nat) : Word := w64 (2 ^ 62 + key / 256 * 2 ^ 40 + key % 2 * 2 ^ 39 + key / 2 % 128 * 2 ^ 32)
def twPaged (f : Nat) : Word := w64 (2 ^ 63 + f)

def State.tileWords (s : State) (arr n : Nat) : List Word := (List.range n).map fun i => rdWord s.mem (arr + 8 * i)
def State.setTileWord (s : State) (arr i : Nat) (w : Word) : State := s.poke (arr + 8 * i) (toLE 8 w.toNat)
def State.setTileWords (s : State) (arr : Nat) (ws : List Word) : State := s.poke arr (bytesOf ws)

/-- The tile arrays of a handle: its own and its snapshots'. -/
def HEntry.arrays (h : HEntry) : List Nat := h.tiles :: h.snaps.map (·.2)

/-- The resident places that a state refers to, each once. -/
def State.placesOf (s : State) (h : HEntry) : List Nat :=
  ((h.arrays.flatMap fun a => s.tileWords a h.nt).filter (fun w => twKind w == 1)).map twKey |>.eraseDups

/-- The frames that a state refers to, each once. -/
def State.framesOf (s : State) (h : HEntry) : List Nat :=
  ((h.arrays.flatMap fun a => s.tileWords a h.nt).filter (fun w => twKind w == 2)).map twFrame |>.eraseDups

/-- The eight words of a handle's entry, as the table in HBM4E holds them (R339). -/
def HEntry.image (h : HEntry) : List Word :=
  w64 (h.v.toNat * 2 ^ 63 + h.res % 4 * 2 ^ 61 + h.fmt16.toNat * 2 ^ 60 + h.twr % 16 * 2 ^ 56 + h.job % 64 * 2 ^ 50 + h.snap.toNat * 2 ^ 46
      + h.keep.toNat * 2 ^ 45 + h.gen % 256 * 2 ^ 32 + h.nt % 65536 * 2 ^ 16)
    :: w64 h.tiles :: ((List.range 4).map fun n => w64 ((mfind h.snaps n).getD 0)) ++ [0, 0]

/-- The byte of the handle table at physical address a, if it lies there. -/
def State.handleByte (s : State) (a : Nat) : Option Byte :=
  if Config.handleBase ≤ a ∧ a < Config.handleBase + 2 ^ 30 then
    some ((bytesOf (s.handle ((a - Config.handleBase) / 64)).image).getD ((a - Config.handleBase) % 64) 0)
  else none

/-- A handle's word (R343). -/
def HEntry.word (h : HEntry) (i : Nat) : Word := w64 (h.gen * 2 ^ 24 + i)

/-- Rewrites every tile word of a state. -/
def State.mapTileWords (s : State) (h : HEntry) (f : Word → Word) : State :=
  h.arrays.foldl (fun s a => s.setTileWords a ((s.tileWords a h.nt).map f)) s

/-! ## Slots and frames -/

def Tower.share (t : Tower) (key : Nat) : Nat := mget t.slotShare key 0
def Tower.fshare (t : Tower) (f : Nat) : Nat := mget t.frameShare f 0

/-- One of a list, by the free value c, where the spec leaves open which. -/
def freeOf (c : Nat) : List Nat → Option Nat
  | [] => none
  | a :: r => some ((a :: r).getD (Config.pick c (r.length + 1) % (r.length + 1)) a)

/-- The free places of a slab: whole slots for binary32, free halves for binary16 (R339). -/
def Tower.freePlaces (t : Tower) (fmt16 : Bool) (slab : Nat) : List Nat :=
  if fmt16 then ((List.range 256).map (slab * 256 + ·)).filter fun k => t.share k == 0 && (k % 2 == 0 || !(mget t.slots (k - 1) {}).wide)
  else ((List.range 128).map fun j => (slab * 128 + j) * 2).filter fun k => t.share k == 0 && t.share (k + 1) == 0

/-- A free place of any of the slabs; which is open. -/
def Tower.freeIn (t : Tower) (c : Nat) (fmt16 : Bool) (slabs : List Nat) : Option Nat := freeOf c (slabs.flatMap (t.freePlaces fmt16))

def Tower.freePlace (t : Tower) (c : Nat) (fmt16 : Bool) (slab : Nat) : Option Nat := t.freeIn c fmt16 [slab]

/-- Pager frames of a tower: its share of the pager memory of the configuration record (R198, R408). -/
def State.frameCount (s : State) : Nat := s.cfg.pagerMiB * 16 / 12

/-- The lowest free frames, n of them. -/
def State.freeFrames (s : State) (t n : Nat) : List Nat :=
  ((List.range ((s.tower t).frameShare.length + n)).filter fun f => (s.tower t).fshare f == 0 && decide (f < s.frameCount)).take n

/-- One reference of a place is gone; the last one frees and zeroes it (R208, R346). -/
def Tower.dropPlace (t : Tower) (key : Nat) : Tower :=
  if t.share key ≤ 1 then { t with slotShare := mdel t.slotShare key, slots := mdel t.slots key }
  else { t with slotShare := mput t.slotShare key (t.share key - 1) }

def Tower.dropFrame (t : Tower) (f : Nat) : Tower :=
  if t.fshare f ≤ 1 then { t with frameShare := mdel t.frameShare f, frames := mdel t.frames f }
  else { t with frameShare := mput t.frameShare f (t.fshare f - 1) }

/-- One reference more of what a tile word names. -/
def Tower.addRef (t : Tower) (w : Word) : Tower :=
  if twKind w = 1 then { t with slotShare := mput t.slotShare (twKey w) (t.share (twKey w) + 1) }
  else if twKind w = 2 then { t with frameShare := mput t.frameShare (twFrame w) (t.fshare (twFrame w) + 1) }
  else t

/-- One reference less. -/
def Tower.dropRef (t : Tower) (w : Word) : Tower :=
  if twKind w = 1 then t.dropPlace (twKey w) else if twKind w = 2 then t.dropFrame (twFrame w) else t

/-- References that a tile word's target has. -/
def Tower.refs (t : Tower) (w : Word) : Nat := if twKind w = 1 then t.share (twKey w) else if twKind w = 2 then t.fshare (twFrame w) else 0

/-- The tile that a word names; a zero tile has no storage. -/
def Tower.tileOf (t : Tower) (w : Word) : Tile :=
  if twKind w = 1 then mget t.slots (twKey w) {} else if twKind w = 2 then mget t.frames (twFrame w) {} else {}

/-- The words of state SRAM that a tile word's tile takes, as latent errors name them (R217). -/
def tileHas (w : Word) (wide : Bool) (e : SramErr) : Bool :=
  decide (e.sram = .state) && (e.word / 4096 == twKey w || (wide && e.word / 4096 == twKey w + 1))

/-- The tile of a word as a reader finds it: wrong bits of its state SRAM are corrected and counted, or poison the tile, which keeps the poison
(R217, R371). -/
def State.readTile (s : State) (t : Nat) (w : Word) : State × Tile :=
  let x := (s.tower t).tileOf w
  if twKind w ≠ 1 then (s, x)
  else
    let (s, bad) := s.towerErrs t (tileHas w x.wide)
    let x := { x with poison := x.poison || bad }
    (if bad then s.modTower t fun y => { y with slots := mput y.slots (twKey w) x } else s, x)

/-- Element n × 128 + j of a tile: S[n][j]. -/
def Tile.at (t : Tile) (n j : Nat) : Nat := (t.elems.getD (n * 128 + j) 0).toNat

/-! ## The arena (R339) -/

/-- Bytes of a tile array. -/
def arrayBytes (nt : Nat) : Nat := cdiv (nt * 8) 64 * 64

/-- The lowest free place of n bytes in a job's arena. -/
def Job.arenaFind (j : Job) (n : Nat) : Option Nat :=
  ((j.arenaBase :: j.arena.map fun e => e.1 + e.2).filter fun a =>
    decide (a + n ≤ j.arenaBase + j.arenaSize) && j.arena.all fun e => decide (a + n ≤ e.1) || decide (e.1 + e.2 ≤ a)).min?

/-- Allocates n bytes of the arena. -/
def State.arenaAlloc (s : State) (job n : Nat) : Option (Nat × State) :=
  match s.job? job with
  | none => none
  | some j => match j.arenaFind n with
    | none => none
    | some a => some (a, s.setJob job { j with arena := (a, n) :: j.arena })

def State.arenaFree (s : State) (job a : Nat) : State := s.modJob job fun j => { j with arena := j.arena.filter fun e => e.1 != a }

/-- The lowest free handle index; index 0 is never allocated (R339). -/
def State.freeIndex (s : State) : Option Nat :=
  ((List.range (s.handles.length + 2)).filter fun i => i != 0 && decide (i < 2 ^ 24) && !(s.handle i).v).head?

/-! ## Uses and banks -/

/-- Whether an FWD or OPU naming the state is issued and not complete, or a state instruction on it is not performed (R236). -/
def CmdKind.names (c : CmdKind) (i : Nat) : Bool :=
  match c with
  | .fwdRead r _ _ _ _ => bits r 23 0 == i
  | .fwdWrite r _ _ _ _ => bits r 23 0 == i
  | .opu r _ _ => bits r 23 0 == i
  | _ => false

def StateKind.handles : StateKind → List Nat
  | .fork a _ => [bits a 23 0]
  | .snap h _ _ => [h]
  | .roll h _ => [h]
  | .avg d a b _ _ => [d, a, b]
  | .free h => [h]
  | .move h _ => [h]

/-- An FWD or OPU on state i with a number below u is in flight on tower t: issued and not complete (R236, R242). -/
def State.inFlightBefore (s : State) (t u i : Nat) : Bool :=
  s.cores.any fun e => towerOf e.1 == t && [3, 6].any fun q => (mget e.2.cmds q []).any fun c => decide (c.uid < u) && c.kind.names i

/-- An FWD or OPU on state i is in flight on tower t. -/
def State.inFlight (s : State) (t i : Nat) : Bool := s.inFlightBefore t s.uid i

/-- A use of a state (R318). -/
def State.useState (s : State) (i : Nat) : State := s.modHandle i fun h => { h with used := s.now }

/-- The banks of a slab by key. -/
def bankKeys (slab : Nat) : List Nat := (List.range 16).map (slab * 16 + ·)

/-- A use of a slab's 16 state banks (R208, R218): a retained bank begins its exit, an entering one notes the waiting access. -/
def State.touchSlab (s : State) (t slab : Nat) : State :=
  s.modTower t fun x => { x with banks := (bankKeys slab).foldl (fun m b =>
    let y := mget m b {}
    mput m b (if y.mode = 2 then { y with mode := 3, due := s.now + 1023, lastUse := s.now }
      else if y.mode = 1 then { y with waiting := true, lastUse := s.now } else { y with lastUse := s.now })) x.banks }

/-- All banks of the slab are active. -/
def Tower.slabAwake (t : Tower) (slab : Nat) : Bool := (bankKeys slab).all fun b => (mget t.banks b {}).mode == 0

/-- The slabs in which a state has resident tiles. -/
def State.slabsHeld (s : State) (h : HEntry) : List Nat := ((s.placesOf h).map (· / 256)).eraseDups

/-- An access to every resident tile of a state: its banks are touched (R218). -/
def State.touchState (s : State) (i : Nat) : State := (s.slabsHeld (s.handle i)).foldl (fun s b => s.touchSlab (s.handle i).twr b) s

/-- Every bank with a tile of the state is active. -/
def State.stateAwake (s : State) (i : Nat) : Bool := (s.slabsHeld (s.handle i)).all (s.tower (s.handle i).twr).slabAwake

/-! ## Lookups -/

/-- The handle lookup of core k's tower (R235, R342): a miss of the handle cache freezes the core. -/
def State.handleHit (s : State) (k i : Nat) : Bool :=
  (s.tower (towerOf k)).hcache.contains i || ((s.core k).fill? (.handle i)).isSome

/-- A tile is being copied on write, as seen by this tile word (R235, R242). -/
def State.copying (s : State) (t i tile : Nat) (w : Word) : Bool :=
  (s.handle i).cow.any (·.1 == tile) || (twKind w == 1 && s.handles.any fun e => e.2.v && e.2.twr == t && e.2.cow.any fun c => c.2.1 == twKey w)

/-- The lookup of a state reference by core k (R235): the tile word. -/
def State.refLookup (s : State) (k : Nat) (ref : Word) : Except Stop Word :=
  let i := bits ref 23 0
  let tile := bits ref 47 32
  if !s.handleHit k i then .error (.freeze [.handle i])
  else if bits ref 63 48 ≠ 0 then .error (.cause 0x0A 2 ref)
  else
    let h := s.handle i
    if !h.v ∨ h.gen ≠ bits ref 31 24 then .error (.cause 0x0A 1 ref)
    else if h.job ≠ s.jobOf k then .error (.cause 0x0A 3 ref)
    else if h.nt ≤ tile then .error (.cause 0x0A 2 ref)
    else
      let w := rdWord s.mem (h.tiles + 8 * tile)
      if h.res = 3 ∨ s.copying h.twr i tile w then .error (.cause 0x03 4 ref)
      else if h.lost then .error (.cause 0x0A 5 ref)
      else if h.res ≠ 0 ∨ twKind w ≠ 1 then .error (.park (.absent i tile))
      else if h.twr ≠ towerOf k ∨ !(s.slabsOf k).contains (twSlab w) then .error (.cause 0x0A 4 ref)
      else .ok w

/-! ## The pager's moves -/

/-- A keep in force protects a state while its tiles hold at most 96 slots of any slab (R317). -/
def State.kept (s : State) (h : HEntry) : Bool :=
  h.keep && (s.slabsHeld h).all fun slab => decide ((((s.placesOf h).filter (· / 256 == slab)).map (· / 2)).eraseDups.length ≤ 96)

/-- The least recently used state of tower t that is neither kept, in flight nor being copied, and is none of those named (R318); of the states with
a tile in the given slabs, where a slot of those is needed. -/
def State.victim (s : State) (t : Nat) (not slabs : List Nat) : Option Nat :=
  ((s.handles.filter fun e => e.2.v && (slabs.isEmpty || (s.placesOf e.2).any fun p => slabs.contains (p / 256)) && e.2.res == 0 && e.2.twr == t && !not.contains e.1 && !s.kept e.2 && !s.inFlight t e.1 && e.2.cow.isEmpty
      && !((s.tower t).stateq.any fun o => o.kind.handles.contains e.1)).foldl
    (fun (b : Option (Nat × Nat)) e => match b with | some x => if x.2 ≤ e.2.used then some x else some (e.1, e.2.used) | none => some (e.1, e.2.used)) none).map (·.1)

/-- Bytes of one tile. -/
def HEntry.tileBytes (h : HEntry) : Nat := if h.fmt16 then 32768 else 65536

/-- Requests of 4 KiB for n bytes, each of which takes the given cycles (R355). -/
def requests (n cycles : Nat) : List Request := List.replicate (cdiv n 4096) { units := 64, cycles := cycles }

/-- The pager's requests for n bytes (R439): its nominal rate, lengthened by what has no bound; c the free value. -/
def pagerRequests (c n : Nat) : List Request := requests n (59 + Config.extra c)

/-- Writes every tile of a state into a frame and frees its slots (R340): the state afterwards refers to frames only. -/
def State.tilesOut (s : State) (i : Nat) : State :=
  let h := s.handle i
  let t := h.twr
  let ps := s.placesOf h
  let fs := s.freeFrames t ps.length
  let moves := ps.zip fs
  let paged (w : Word) : Word := match moves.find? fun m => twKind w == 1 && m.1 == twKey w with | some m => twPaged m.2 | none => w
  let words := h.arrays.flatMap fun a => s.tileWords a h.nt
  let s := s.mapTileWords h paged
  s.modTower t fun x =>
    let x := moves.foldl (fun x m => { x with frames := mput x.frames m.2 (mget x.slots m.1 {}) }) x
    words.foldl (fun x w => if twKind w = 1 then (x.dropPlace (twKey w)).addRef (paged w) else x) x

/-- Places for every frame and zero tile of a state, the first of them in the named slab where one is named, and as many others as fit there; the
rest where the pager chooses, which is open (R236). None when the slabs do not hold them. -/
def State.roomFor (s : State) (h : HEntry) (first : List Nat) (n : Nat) : Option (List Nat) :=
  let t := s.tower h.twr
  ((List.range n).foldl (fun (acc : Option (Tower × List Nat)) j => match acc with
    | none => none
    | some (t, l) =>
      let c := s.freeCtr + j
      match (match t.freeIn c h.fmt16 first with | some p => some p | none => if j = 0 ∧ !first.isEmpty then none else t.freeIn c h.fmt16 t.allSlabs) with
      | none => none
      | some p => some ({ t with slotShare := mput t.slotShare p 1 }, l ++ [p])) (some (t, []))).map (·.2)

/-- Zero tiles of a state's arrays: each tile word of kind 0 becomes a slot of its own, frames are shared among the words that name them. -/
def State.zeroCount (s : State) (h : HEntry) : Nat := ((h.arrays.flatMap fun a => s.tileWords a h.nt).filter fun w => twKind w == 0).length

/-- Brings every tile of a state into the given places, the named tile into the first of them (R236, R340): each frame takes one place for all
the words that name it, each zero tile a place of its own. -/
def State.tilesIn (s : State) (i tile : Nat) (places : List Nat) : State :=
  let h := s.handle i
  let t := h.twr
  let here := h.tiles + 8 * tile
  let all := h.arrays.flatMap fun a => (List.range h.nt).map fun j => a + 8 * j
  let step (acc : State × List Nat × List (Nat × Nat)) (pos : Nat) : State × List Nat × List (Nat × Nat) :=
    let (s, ps, done) := acc
    let w := rdWord s.mem pos
    let put (s : State) (p : Nat) : State := s.poke pos (toLE 8 (twResident p).toNat)
    if twKind w = 2 then
      match done.find? fun m => m.1 == twFrame w with
      | some m => (put (s.modTower t fun x => (x.addRef (twResident m.2)).dropFrame m.1) m.2, ps, done)
      | none => match ps with
        | [] => (s, [], done)
        | p :: r =>
          (put (s.modTower t fun x => (({ x with slots := mput x.slots p { mget x.frames (twFrame w) {} with wide := !h.fmt16 } }).addRef (twResident p)).dropFrame (twFrame w)) p,
            r, (twFrame w, p) :: done)
    else if twKind w = 0 then
      match ps with
      | [] => (s, [], done)
      | p :: r => (put (s.modTower t fun x => ({ x with slots := mput x.slots p { wide := !h.fmt16 } }).addRef (twResident p)) p, r, done)
    else (s, ps, done)
  ((here :: all.filter (· != here)).foldl step (s, places, [])).1

/-! ## Copy on write (R242) -/

/-- Cycles of a copy within state SRAM: 1 KiB a cycle (R439). -/
def HEntry.copyCycles (h : HEntry) : Nat := h.tileBytes / 1024

/-- A place of its slab for a copy of the tile that handle i names: the pager pages out its victims one by one until a place is free, or until the tile is
shared no more; with the cycles that this takes. None where it finds no state to page out. Each victim's move is charged to the pager gauge (R242, R318,
R340, R439). -/
def State.placeFor (s : State) (i tile : Nat) : Nat → Nat → Option (State × Option Nat × Nat)
  | 0, _ => none
  | fuel + 1, wait =>
    let h := s.handle i
    let t := h.twr
    let w := rdWord s.mem (h.tiles + 8 * tile)
    if (s.tower t).refs w ≤ 1 then some (s, none, wait)
    else match (s.tower t).freePlace s.freeCtr h.fmt16 (twSlab w) with
      | some p => some (s, some p, wait)
      | none => match s.victim t [i] [twSlab w] with
        | none => none
        | some v =>
          let n := (s.placesOf (s.handle v)).length
          if (s.freeFrames t n).length < n then none
          else
            let reqs := pagerRequests s.freeCtr (n * (s.handle v).tileBytes)
            ((((s.tilesOut v).modHandle v fun e => { e with res := 1 }).bump t 0x104).charge (s.handle v).job t 2 (reqs.map (·.units)).sum).spend.placeFor i tile
              fuel (wait + (reqs.map (·.cycles)).sum)

/-- The tile of handle i made its own before a write: its word afterwards, with the copy running where it was shared; none when the slab has
no free slot and the pager finds no state to page out. The copy is late by the time that the pager takes (R242, R439). -/
def State.ownTile (s : State) (i tile : Nat) : Option (State × Word) :=
  let h := s.handle i
  let t := h.twr
  let w := rdWord s.mem (h.tiles + 8 * tile)
  if (s.tower t).refs w ≤ 1 then some (s, w)
  else match s.placeFor i tile (s.handles.length + 1) 0 with
    | none => none
    | some (s, none, wait) =>
      some (if wait = 0 then s else s.modHandle i fun e => { e with cow := e.cow ++ [(tile, twKey w, s.now + wait - 1)] }, w)
    | some (s, some p, wait) =>
      let s := s.spend.modTower t fun x => (({ x with slots := mput x.slots p (x.tileOf w) }).addRef (twResident p)).dropRef w
      let s := s.setTileWord h.tiles tile (twResident p)
      some (s.modHandle i fun e => { e with cow := e.cow ++ [(tile, twKey w, s.now + wait + h.copyCycles - 1)] }, twResident p)

/-- The tile of a word replaced. -/
def State.putTile (s : State) (t : Nat) (w : Word) (x : Tile) : State := s.modTower t fun y => { y with slots := mput y.slots (twKey w) x }

end Sys2Proof.Machine
end

