-- ==== Sys2Proof/Machine/VecMem.lean ====
section
/-! DEFINITION. Row loads and stores: VLD, VST, VLDS, VSTS (R254 to R256). -/

namespace Sys2Proof.Machine

/-- Addresses of the lanes under a pointer's descriptor: a, step a, step (step a) … (R255). -/
def walkLanes (am : Word × Word) : Nat → Word → List Word
  | 0, _ => []
  | n + 1, a => a :: walkLanes am n (stepPtr am a)

/-- Contiguous runs within a line, from elements of e bytes in lane order. -/
def runsOf (e : Nat) : List Word → List (Word × Nat)
  | [] => []
  | a :: r =>
    match runsOf e r with
    | (b, n) :: rest => if a + w64 e = b ∧ a.toNat / 64 = b.toNat / 64 then (a, n + e) :: rest else (a, e) :: (b, n) :: rest
    | [] => [(a, e)]

/-- A row access as it issues: element type, memory format and saturation, guarded lanes, element addresses, next pointer. -/
structure RowAcc where
  t : Ety
  fmt : Nat
  sat : Bool
  addr : Word
  lanes : List Nat
  addrs : List Word
  next : Option Word

/-- The bank of a scratchpad address. -/
def bankOf (a : Word) : Nat := bits a 19 15

/-- BFMT of bank n as accesses use it: that of a bank which serves L1 has no effect (R134). -/
def Core.bankFmt (c : Core) (n : Nat) : Half := if n < c.scr then mget c.bfmt n 0 else 0

/-- The formats of the banks as a transfer finds them (R134, R271). -/
def Core.bankFmts (c : Core) : Map Half := c.bfmt.filter fun e => decide (e.1 < c.scr)

/-- The form of a row access (R254, R255). With lane 0 guarded off and a_0 no valid address, bits 19:15 of a_0 name the bank of a scratchpad form, and
the element type is the format of any other. MODEL'S CHOICE, log entry 110. -/
def State.rowAcc (s : State) (g p : Nat) (u : Upd) (f : Int) (strided : Bool) : RowAcc :=
  let k := s.cur.core
  let i := s.cur.strand
  let t := s.me.ety
  let am := s.readAM k i p
  let (a, nx) := s.memForm p u f 64
  let bf := (s.core k).bankFmt (bankOf a)
  let scr := spaceOf a = .scr && bits a 56 20 == 0
  let fmt := if scr then bf.toNat % 64 else s.me.acct
  let all := if strided then walkLanes am t.n a else (List.range t.n).map fun j => a + w64 (j * fmtBytes fmt)
  let m := s.laneGuard g
  let ls := (List.range t.n).filter fun j => m.getLsbD j
  let nx := match u with
    | .post => some (stepPtr am (if strided then all.getLastD a else a))
    | _ => nx
  { t := t, fmt := fmt, sat := scr && bf.getLsbD 7, addr := a, lanes := ls, addrs := ls.map fun j => all.getD j 0, next := nx }

/-- The first guarded element with a condition. -/
def RowAcc.first (r : RowAcc) (f : Word → Bool) : Option Word := r.addrs.find? f

/-- The operand and address causes of a row access in the order of R364. -/
def State.rowStop (s : State) (k : Nat) (r : RowAcc) (strided : Bool) : Option Stop :=
  let e := fmtBytes r.fmt
  let scr := spaceOf r.addr = .scr
  let n := r.t.n
  if scr ∧ r.fmt = 34 then some (.cause 0x0C 2 r.addr)
  else match r.first fun a => decide (spaceOf a = .none) with
  | some a => some (.cause 0x10 1 a)
  | none =>
    match r.first fun a => decide (spaceOf a = .scr) && ((s.core k).scrOff a e).isNone with
    | some a => some (.cause 0x11 1 a)
    | none =>
      if !strided then
        if r.addr.toNat % 64 ≠ 0 then some (.cause 0x12 1 r.addr)
        else if scr ∧ 32768 < r.addr.toNat % 32768 + n * e then some (.cause 0x12 1 r.addr)
        else none
      else
        (r.first fun a => a.toNat % e != 0 || (decide (spaceOf a = .scr) != scr) || (scr && bankOf a != bankOf r.addr)).map fun a => .cause 0x12 1 a

/-- The parts of a row access, checked. The pages of a VLD or VST are compared as those of one access (R212, R254); the elements of a VLDS or VSTS are
accesses of their own, none of which crosses a line. -/
def State.rowParts (s : State) (k : Nat) (r : RowAcc) (strided write : Bool) : Except Stop (List Part) :=
  match s.rowStop k r strided with
  | some e => .error e
  | none =>
    let runs := runsOf (fmtBytes r.fmt) r.addrs
    if spaceOf r.addr = .scr then .ok (runs.map fun p => { scr := true, pa := bits p.1 19 0, va := p.1, len := p.2 })
    else match s.globParts k (s.jobOf k) runs with
      | .error e => .error e
      | .ok ps =>
        if !strided && mixedPages ps then .error (.cause 0x12 1 r.addr)
        else match denied write ps with | some e => .error e | none => .ok (ps.map (·.1))

/-- The freeze of a wide access (R256): a cycle for each further 16 lines. -/
def State.wideFreeze (s : State) (k : Nat) (ps : List Part) : State :=
  let n := (cdiv ((ps.map Part.lineAddr).eraseDups.length) 16) - 1
  if n = 0 then s
  else s.modCore k fun c =>
    let m := match c.frozen with | some z => z.due - s.now + n | none => n
    { c with frozen := some { needs := [.cycles m], due := s.now + m, since := s.now + 1 } }

/-- The values of consecutive elements of e bytes. -/
def elemsOf (e : Nat) : Nat → List Byte → List Nat
  | 0, _ => []
  | n + 1, bs => ofLE (bs.take e) :: elemsOf e n (bs.drop e)

/-- A row with the given lanes set. -/
def rowAt (w n : Nat) (ls vals : List Nat) : Row := rowOf w n fun i => (vals.getD (ls.findIdx (· == i)) 0)

def gopRowLoad (g oc p d : Nat) (u : Upd) (f : Int) (strided : Bool) (s : State) : GOp :=
  ⟨{ kind := .memory, reads := .l g :: memReads p (if strided then .post else u), writes := (.v d, s.loadLat p u f 64) :: memWrites p u
     mir := true, bad := updBad u f }, fun s =>
    let k := s.cur.core
    let i := s.cur.strand
    let r := s.rowAcc g p u f strided
    let l := loadLatency r.addr
    if r.lanes.isEmpty then .ok ((s.result k i (.v d) l (.row 0 0)).updatePtr k i p r.next)
    else match s.rowParts k r strided false with
    | .error e => .error e
    | .ok ps =>
      let h := s.me.heldBack oc
      if !h.isEmpty then .error (.freeze h)
      else match s.readParts k i oc ps with
      | .error e => .error e
      | .ok (s, bs, po) =>
        let vals := (elemsOf (fmtBytes r.fmt) r.lanes.length bs).map (moveFmt r.fmt s.me.acct false)
        let row := rowAt r.t.w r.t.n r.lanes vals
        .ok (((s.result k i (.v d) l (.row row (maskRow r.t.w r.t.n (s.laneGuard g))) 0 po).updatePtr k i p r.next).wideFreeze k ps)⟩

def gopRowStore (g oc p d : Nat) (u : Upd) (f : Int) (strided : Bool) : GOp :=
  ⟨{ kind := .memory, reads := .l g :: .v d :: memReads p (if strided then .post else u), writes := memWrites p u, irr := oc != 0, blocky := oc == 0
     bad := updBad u f
     early := [(.l g :: memReads p (if strided then .post else u), fun s =>
       let r := s.rowAcc g p u f strided
       if r.lanes.isEmpty then none else stopOf (s.rowParts s.cur.core r strided true))] }, fun s =>
    let k := s.cur.core
    let i := s.cur.strand
    let r := s.rowAcc g p u f strided
    if r.lanes.isEmpty then .ok (s.updatePtr k i p r.next)
    else match s.rowParts k r strided true with
    | .error e => .error e
    | .ok ps =>
      let x := s.me
      let v := s.readV k i d
      let bs := r.lanes.flatMap fun j => toLE (fmtBytes r.fmt) (moveFmt x.acct r.fmt r.sat (laneOf r.t.w v j))
      if x.xlinv.isSome then .error (.freeze [.drop])
      else if oc = 0 then
        if 256 < x.rows.length + x.newLines ps ∧ !x.guarded then .error (.block (.rowFull (x.newLines ps)))
        else .ok (((s.storeRows k i ps bs).updatePtr k i p r.next).wideFreeze k ps)
      else if !s.sqRoom k i ps.length then .error (.freeze [.room (s.cur.own + ps.length)])
      else .ok (((s.storeDirect k i oc ps bs).updatePtr k i p r.next).wideFreeze k ps)⟩

def gopVld (g oc p d : Nat) (u : Upd) (f : Int) (s : State) : GOp := gopRowLoad g oc p d u f false s
def gopVlds (g oc p d : Nat) (u : Upd) (f : Int) (s : State) : GOp := gopRowLoad g oc p d u f true s
def gopVst (g oc p d : Nat) (u : Upd) (f : Int) : GOp := gopRowStore g oc p d u f false
def gopVsts (g oc p d : Nat) (u : Upd) (f : Int) : GOp := gopRowStore g oc p d u f true

/-! ## Meanings -/

/-- R254. Loads one accumulator row, converting from a bank format. -/
def execVld (g oc p d : Nat) (u : Upd) (f : Int) (s : State) : Out := issueGroup [] [gopVld g oc p d u f s] s

/-- R255. Loads one element per lane at descriptor-walked addresses. -/
def execVlds (g oc p d : Nat) (u : Upd) (f : Int) (s : State) : Out := issueGroup [] [gopVlds g oc p d u f s] s

/-- R254. Stores one accumulator row, converting into a bank format. -/
def execVst (g oc p d : Nat) (u : Upd) (f : Int) (s : State) : Out := issueGroup [] [gopVst g oc p d u f] s

/-- R255. Stores one element per lane at descriptor-walked addresses. -/
def execVsts (g oc p d : Nat) (u : Upd) (f : Int) (s : State) : Out := issueGroup [] [gopVsts g oc p d u f] s

end Sys2Proof.Machine
end

