-- ==== Sys2Proof/Machine/Matrix.lean ====
section
/-! DEFINITION. The slow-weight path and the array: WSTR, WLD, WSCL, WSWAP, MMA, MRD, ACFG (R220 to R233, R107 to R111), the engines' command
queues (R221), and the completion events of the plane loader, the result writer and the decompressor. -/

namespace Sys2Proof.Machine

/-! ## Engine queues (R221) -/

def Core.cmdsOf (c : Core) (e : Nat) : List Cmd := mget c.cmds e []

/-- Commands that engine e of a core holds; weight streams are those of engine 0. -/
def Core.outstanding (c : Core) (e : Nat) : Nat := if e = 0 then c.streams.length else (c.cmdsOf e).length

/-- An engine whose eight entries are taken blocks the issuing strand (R33, R221). -/
def Core.engineFull (c : Core) (e : Nat) : Bool := 8 ≤ c.outstanding e

/-- Puts a command of the issuing strand into queue e. -/
def State.enqueue (s : State) (e : Nat) (kind : CmdKind) (tag : Nat := 0) (reqs : List Request := []) : State :=
  let k := s.cur.core
  let i := s.cur.strand
  let cmd : Cmd := { uid := s.uid, strand := i, job := s.jobOf k, kind := kind, reqs := reqs, tag := tag, seg := (s.strand k i).seg, pc := s.cur.start }
  let s := ({ s with uid := s.uid + 1 }).modCore k fun c => { c with cmds := mput c.cmds e (c.cmdsOf e ++ [cmd]) }
  if e < 6 then s.modStrand k i fun x => x.issueTo e else s

/-- Slabs a core drives. -/
def State.slabCount (s : State) (k : Nat) : Nat := max 1 (s.slabsOf k).length

/-- Columns of a core's array (R17). -/
def State.colsOf (s : State) (k : Nat) : Nat := 128 * s.slabCount k

/-- Whether a command of engine 1 with a smaller number than u is outstanding. -/
def Core.loaderBefore (c : Core) (u : Nat) : Bool := (c.cmdsOf 1).any fun x => decide (x.uid < u)

/-- Whether an FWD read still needs array and shadow plane in cycle `now` (R243); its entry stays until its rows land. -/
def Cmd.reading (x : Cmd) (now : Nat) : Bool := !x.started || decide (now ≤ x.due)

/-- Whether an FWD read with a smaller number than u has not finished with the shadow plane before cycle `now`. -/
def Core.readBefore (c : Core) (now u : Nat) : Bool := (c.cmdsOf 6).any fun x => decide (x.uid < u) && x.reading now

/-- Whether a command of engine 3 writes the tile that a state reference names. -/
def CmdKind.onTile (c : CmdKind) (ref : Word) : Bool :=
  let same (r : Word) : Bool := bits r 23 0 == bits ref 23 0 && bits r 47 32 == bits ref 47 32
  match c with
  | .fwdWrite r _ _ _ _ => same r
  | .opu r _ _ => same r
  | _ => false

/-- How a command of core k may begin in this cycle: its last cycle, or none while it waits. A WSWAP, a copy and a push have no time of their own here. -/
def State.begins (s : State) (k e : Nat) (before : List Cmd) (x : Cmd) : Option Nat :=
  let c := s.core k
  let t := s.tower (towerOf k)
  match x.kind with
  | .wld tile => if before.isEmpty && !c.readBefore s.now x.uid then some (s.now + tile.elems.length * fmtBytes tile.fmt / (256 * s.slabCount k) - 1) else none
  | .wscl ps n scr =>
    if before.isEmpty && (ps.all fun p => p.1 || s.umbraMay x.job p.2.1 p.2.2 false) && (x.tag == 0 || s.scopeClear k x.strand x.uid (x.tag - 1)) then
      some (s.now + n / 128 + 3 + (if scr then 0 else Config.extra (s.freeCtr + x.uid))) else none
  | .fwdRead ref _ n _ slab =>
    let cow := (s.handle (bits ref 23 0)).cow.any fun y => y.1 == bits ref 47 32
    let older := (c.cmdsOf 3).any fun y => decide (y.uid < x.uid) && y.kind.onTile ref
    if e == 6 && !older && !(before.any fun y => y.reading s.now) && c.mmaLeft == 0 && !c.loaderBefore x.uid && !cow && t.slabAwake slab then some (s.now + 63 + n) else none
  | .fwdWrite _ n form slab filled =>
    let busy := before.any fun y => match y.kind with
      | .fwdWrite _ _ _ z _ => z == slab | .opu _ _ z => z == slab | .state _ _ => true | _ => false
    if !busy && t.slabAwake slab && filled.any fun f => decide (f ≤ s.now) then some (s.now + 3 + (if form = 1 then 8 else 4) * n) else none
  | .opu ref n slab =>
    let busy := before.any fun y => match y.kind with
      | .fwdWrite _ _ _ z _ => z == slab | .opu _ _ z => z == slab | .state _ _ => true | _ => false
    let cow := (s.handle (bits ref 23 0)).cow.any fun y => y.1 == bits ref 47 32
    if !busy && !cow && t.slabAwake slab then some (s.now + 3 + 4 * n) else none
  | .state op n =>
    if before.isEmpty && !(t.stateq.any fun o => o.uid == op) then some (s.now + n - 1) else none
  | _ => none

/-- Whether the exchanges still outstanding leave the present active plane as the shadow plane. -/
def Core.swapsOdd (c : Core) : Bool := ((c.cmdsOf 1).filter fun y => decide (y.kind = .wswap)).length % 2 == 1

/-- Whether a WSCL is outstanding for the present shadow plane: an even number of exchanges stand before it. -/
def sclWaits : List Cmd → Bool → Bool
  | [], _ => false
  | y :: r, odd => match y.kind with
    | .wscl _ _ _ => !odd || sclWaits r odd
    | .wswap => sclWaits r (!odd)
    | _ => sclWaits r odd

/-- The cycle at whose end an FWD's rows land (R243), for a tag. -/
def State.dueOf (s : State) (k i tag due : Nat) : State :=
  s.modStrand k i fun x => { x with pend := x.pend.map fun p => if p.tag = tag then { p with due := some due } else p }

/-- A command begins (R224, R226, R238, R243). -/
def State.beginCmd (s : State) (k e : Nat) (x : Cmd) (due : Nat) : State :=
  let s := s.modCore k fun c => { c with cmds := mput c.cmds e ((c.cmdsOf e).map fun y => if y.uid = x.uid then { y with started := true, due := due } else y) }
  match x.kind with
  | .fwdRead _ plane n form _ =>
    let s := s.modCore k fun c => { c with shadow := { plane with resident := !sclWaits (c.cmdsOf 1) false }, errs := c.errs.filter fun e => decide (e.sram ≠ .shadow) }
    if form = 0 then s.dueOf k x.strand x.tag (s.now + 87 + n)
    else s.modCore k fun c => { c with cmds := mput c.cmds 3 ((c.cmdsOf 3).map fun y =>
      match y.kind with
      | .fwdWrite r n f z none => if y.tag = x.tag then { y with kind := .fwdWrite r n f z (some (s.now + 64)), due := s.now + 87 + n } else y
      | _ => y) }
  | .fwdWrite _ _ _ _ _ => s.dueOf k x.strand x.tag (max x.due due)
  | .wscl _ _ _ => if 5 ≤ x.tag then s.acquire k else s
  | _ => s

/-- Every command of core k that may begin in this cycle begins. -/
def State.beginAll (s : State) (k : Nat) : State :=
  [6, 1, 3].foldl (fun s e =>
    let l := (s.core k).cmdsOf e
    l.zipIdx.foldl (fun s (p : Cmd × Nat) =>
      if p.1.started then s
      else match ((s.core k).cmdsOf e).find? fun y => y.uid == p.1.uid with
        | none => s
        | some y => match s.begins k e (l.take p.2) y with
          | some d => s.beginCmd k e y d
          | none => s) s) s

/-- Takes a command out of its queue and posts its completion with the word w (R221, R296). -/
def State.finishCmd (s : State) (k e : Nat) (x : Cmd) (w : Word) : State :=
  let s := if 4 ≤ e ∧ bits w 63 56 = 3 then s.bumpErr (towerOf k) 1 else s
  (s.modCore k fun c => { c with cmds := mput c.cmds e ((c.cmdsOf e).filter fun y => y.uid != x.uid) }).complete k x.strand e w

/-! ## Accesses of engines -/

/-- A write laid over memory as a reader sees it. -/
def State.overlay (s : State) (pa : Nat) (bs : List Byte) (pois : Bool) : State :=
  let s := { s with mem := wrBytes s.mem pa bs }
  if pois then s.poisonBytes pa bs.length else s

/-- The machine as the engines of core k read global memory: what is performed at its tower's L2, or is dirty in its own L1, is performed at a scope
that contains them, and they see it (R279, R281). -/
def State.engineView (s : State) (k : Nat) : State :=
  let s := (s.tower (towerOf k)).out.foldl (fun s e => s.overlay e.2.pa e.2.bytes e.2.pois) s
  (s.core k).l1.foldl (fun s e => (maskRuns e.2.dirty).foldl (fun s r => s.overlay (e.1 * 64 + r.1) ((e.2.data.drop r.1).take r.2) (e.2.poisoned 0 64 r.1 r.2)) s) s

/-! ## Weight streams (R222, R223, R119 to R121) -/

/-- The checks of a stream's address (R222). -/
def wstrStop (va : Word) : Option Stop :=
  if bits va 63 57 ≠ 0 then some (.cause 0x09 3 va) else if va.toNat % 8 ≠ 0 then some (.cause 0x12 1 va) else none

def gopWstr (g f a b : Nat) (acq : Bool) (sc : Nat) : GOp :=
  ⟨{ kind := .extended, reads := [.p g, .x a, .x b], guard := some g, irr := true, blocky := true
     bad := if planeFmt f && decide (sc < 6) then none else some 1
     early := [([.p g, .x a], fun s => wstrStop (s.readX s.cur.core s.cur.strand a))] }, fun s =>
    let k := s.cur.core
    let i := s.cur.strand
    let va := s.readX k i a
    let n := bits (s.readX k i b) 31 0
    match wstrStop va with
    | some e => .error e
    | none =>
    if (s.core k).engineFull 0 then .error (.block (.engineFull 0))
    else
      let s := s.modStrand k i fun x => x.issueTo 0
      if n = 0 then .ok (s.complete k i 0 0)
      else
        let st : Stream := { fmt := f, next := va, tiles := n, total := n, strand := i, job := s.jobOf k, acq := if acq then some sc else none
                             due := s.now + 1 + Config.extra s.freeCtr, uid := s.uid }
        .ok ((({ s with uid := s.uid + 1 }).modCore k fun c => { c with streams := c.streams ++ [st] }).spend)⟩

/-- The elements of a Holig weight block of elements of e bytes (R119, R120), or none where the block fails (R121). A count of nonzero elements that is
not zero in mode 0 or 1 fails the block: R119 has it zero there and R121 does not list it, so this is the model's choice (log entry 91). -/
def holigBlock (e : Nat) (bs : List Byte) : Option (List Nat) :=
  let h := BitVec.ofNat 64 (ofLE (bs.take 8))
  let len := bits h 47 32
  let mode := bits h 1 0
  let nnz := bits h 16 8
  let body := (bs.drop 8).take (len - 8)
  let elem (o : Nat) : Nat := ofLE ((body.drop o).take e)
  let nib (o j : Nat) : Nat := (body.getD (o + j / 2) 0).toNat / 16 ^ (j % 2) % 16
  let want := if mode = 0 then 8 + 256 * e else if mode = 1 then 8 + 16 * e + 128 else cdiv (8 + 16 * e + 32 + cdiv nnz 2) 8 * 8
  let mask : List Bool := (List.range 256).map fun j => (body.getD (16 * e + j / 8) 0).getLsbD (j % 8)
  if mode = 3 ∨ bits h 31 17 ≠ 0 ∨ bits h 7 3 ≠ 0 ∨ len ≠ want ∨ 256 < nnz ∨ (mode ≠ 2 ∧ nnz ≠ 0)
      ∨ bits h 2 2 + 1 ≠ e ∨ (body.foldl (fun a b => a + b.toNat) 0) % 65536 ≠ bits h 63 48 then none
  else if mode = 0 then some ((List.range 256).map fun j => elem (j * e))
  else if mode = 1 then some ((List.range 256).map fun j => elem (nib (16 * e) j * e))
  else if (mask.filter (fun b => b)).length ≠ nnz then none
  else some ((mask.foldl (fun (acc : List Nat × Nat) b => if b then (elem (nib (16 * e + 32) acc.2 * e) :: acc.1, acc.2 + 1) else (0 :: acc.1, acc.2)) ([], 0)).1.reverse)

/-- Bytes that the FIFO holds. -/
def Core.fifoBytes (c : Core) : Nat := c.fifoHeld + (c.fifo.foldl (fun a t => a + t.elems.length * fmtBytes t.fmt) 0)

/-- A stream of core k fails at a block (R121, R225): the tile under way is marked, and status 7 is posted. -/
def State.failStream (s : State) (k : Nat) (st : Stream) (detail : Nat) (addr : Word) : State :=
  let mark (l : List FifoTile) : List FifoTile := match l.getLast? with
    | some t => if t.remaining = 0 ∧ t.fail.isNone then l ++ [{ fmt := st.fmt, elems := [], blocks := 0, base := st.next, remaining := st.tiles, fail := some (detail, addr) }]
                else l.dropLast ++ [{ t with fail := some (detail, addr) }]
    | none => [{ fmt := st.fmt, elems := [], blocks := 0, base := st.next, remaining := st.tiles, fail := some (detail, addr) }]
  let s := if detail = 3 then s.bumpErr (towerOf k) 1 else s
  (s.modCore k fun c => { c with streams := c.streams.drop 1, failed := true, fifo := mark c.fifo }).complete k st.strand 0 (completion 7 addr)

/-- The length that the header at a block's address states, at least 8; 8 where the header cannot be read. -/
def State.blockLen (s : State) (k : Nat) (st : Stream) : Nat :=
  match (s.engineView k).vread st.job st.next.toNat 8 with
  | .ok (hd, _) => max 8 (bits (BitVec.ofNat 64 (ofLE hd)) 47 32)
  | .error _ => 8

/-- Whether a stream's acquire, if it has one, has what it waits for (R292). -/
def State.acquireClear (s : State) (k : Nat) (st : Stream) : Bool :=
  st.started || (match st.acq with | some sc => s.scopeClear k st.strand st.uid sc | none => true)

/-- Whether the decompressor of core k may write its next block now: the stream, its turn, its acquire, room and gauges (R222, R223, R357). -/
def State.decompressReady (s : State) (k : Nat) : Option Stream :=
  let c := s.core k
  match c.streams with
  | [] => none
  | st :: _ =>
    let n := 256 * fmtBytes st.fmt
    if !c.failed && decide (st.due ≤ s.now) && s.acquireClear k st && decide (c.fifoBytes + n ≤ 262144 * s.slabCount k)
        && s.admits st.job (towerOf k) 1
        && s.vmay st.job st.next.toNat (s.blockLen k st) then some st else none

/-- R223, R225: one block is checked and decoded into the FIFO, or the stream fails; a stream's last block ends it. A block is read to the length that
its header states before it is checked: where those bytes do not translate or carry poison, that is what fails, whatever its format (log entry 92).
A stream's first block is preceded by its acquire (R292). -/
def execDecompressBlock (t f : Nat) (s : State) : Out :=
  let k := 16 * t + f
  match s.decompressReady k with
  | none => .next ((match (s.core k).streams with
      | st :: _ => if !st.started then (match st.acq with | some sc => s.scopePush k st.strand st.uid sc | none => s) else s
      | [] => s))
  | some st =>
    let s := if !st.started && (st.acq.any fun sc => decide (4 ≤ sc)) then s.acquire k else s
    let e := fmtBytes st.fmt
    let cols := s.colsOf k
    match (s.engineView k).vread st.job st.next.toNat 8 with
    | .error _ => .next ((s.failStream k st 2 st.next).spend)
    | .ok (hd, p1) =>
      let len := bits (BitVec.ofNat 64 (ofLE hd)) 47 32
      match (s.engineView k).vread st.job st.next.toNat (max 8 len) with
      | .error _ => .next ((s.failStream k st 2 st.next).spend)
      | .ok (bs, p2) =>
        let (s, p3) := s.vfetch t st.job st.next.toNat bs.length
        if p1 ∨ p2 ∨ p3 then .next ((s.failStream k st 3 st.next).spend)
        else match holigBlock e bs with
        | none => .next ((s.failStream k st 1 st.next).spend)
        | some vals =>
          let s := s.charge st.job t 1 (4 * e)
          let per := cols / 2
          let es : List Half := vals.map (BitVec.ofNat 32)
          let add (l : List FifoTile) : List FifoTile := match l.getLast? with
            | some z => if z.remaining = 0 then l ++ [{ fmt := st.fmt, elems := es, blocks := 1, base := st.next, remaining := per - 1 }]
                        else l.dropLast ++ [{ z with elems := z.elems ++ es, blocks := z.blocks + 1, remaining := z.remaining - 1 }]
            | none => [{ fmt := st.fmt, elems := es, blocks := 1, base := st.next, remaining := per - 1 }]
          let s := s.modCore k fun c => { c with fifo := add c.fifo }
          let whole := ((s.core k).fifo.getLast?.map (·.remaining)).getD 0 == 0
          let tiles := if whole then st.tiles - 1 else st.tiles
          let st := { st with started := true, next := st.next + w64 len, tiles := tiles, due := s.now + cdiv e (s.slabCount k) + Config.extra s.freeCtr }
          let s := s.modCore k fun c => { c with streams := if tiles = 0 then c.streams.drop 1 else st :: c.streams.drop 1 }
          .next ((if tiles = 0 then s.complete k st.strand 0 0 else s).spend)

/-! ## The plane loader (R224 to R227) -/

/-- R224, R225: the oldest tile of the FIFO is claimed. -/
def gopWld (g : Nat) : GOp :=
  ⟨{ kind := .extended, reads := [.p g], guard := some g, irr := true, blocky := true }, fun s =>
    let k := s.cur.core
    let c := s.core k
    match c.fifo with
    | [] => .error (.cause 0x03 1 0)
    | z :: r =>
      match z.fail with
      | some (d, a) => .error (.cause 0x0B d a)
      | none =>
        if z.remaining ≠ 0 then .error (.cause 0x03 1 0)
        else if c.engineFull 1 then .error (.block (.engineFull 1))
        else
          let n := z.elems.length * fmtBytes z.fmt
          let (s, bad) := (s.setCore k { c with fifo := r, fifoHeld := c.fifoHeld + n }).coreErrs k fun e => decide (e.sram = .fifo) && decide (e.word * 8 < n)
          .ok ((s.enqueue 1 (.wld { z with pois := bad })).beginAll k)⟩

/-- The special-value flags of a plane's elements (R224): flag j for K-rows 32j to 32j + 31. -/
def specialFlags (fmt cols : Nat) (elems : List Half) : BitVec 4 :=
  BitVec.ofNat 4 ((List.range 4).foldr (fun j acc => (((elems.drop (32 * j * cols)).take (32 * cols)).any fun e => isSpecial fmt e.toNat).toNat + 2 * acc) 0)

/-- The nonzero elements of a list with their places. -/
def sparse (l : List Half) : Map Half := (l.zipIdx.filter fun e => e.1 != 0).map fun e => (e.2, e.1)

/-- The head of an engine's queue when its last cycle has come. -/
def State.headDone (s : State) (k e : Nat) : Option Cmd :=
  match (s.core k).cmdsOf e with
  | x :: _ => if x.started ∧ x.due ≤ s.now then some x else none
  | [] => none

/-- R224: the tile is in the shadow plane. -/
def execPlaneLoadComplete (t f : Nat) (s : State) : Out :=
  let k := 16 * t + f
  match s.headDone k 1 with
  | some x => match x.kind with
    | .wld z =>
      let p : Plane := { (s.core k).shadow with elems := sparse z.elems, fmt := z.fmt, flags := specialFlags z.fmt (s.colsOf k) z.elems, poison := z.pois }
      .next ((s.modCore k fun c => { c with shadow := p, errs := c.errs.filter (fun e => decide (e.sram ≠ .shadow)), fifoHeld := c.fifoHeld - min c.fifoHeld (256 * s.slabCount k) }).finishCmd k 1 x 0)
    | _ => .next s
  | none => .next s

def gopWscl (g a : Nat) (acq : Bool) (sc : Nat) : GOp :=
  ⟨{ kind := .extended, reads := [.p g, .x a], guard := some g, irr := true, blocky := true, bad := if sc < 6 then none else some 1 }, fun s =>
    let k := s.cur.core
    let i := s.cur.strand
    let va := s.readX k i a
    let n := 4 * s.me.ncols
    if spaceOf va ≠ .none ∧ !(spaceOf va = .scr ∧ ((s.core k).scrOff va n).isNone) ∧ va.toNat % 64 ≠ 0 then .error (.cause 0x12 1 va)
    else match s.parts k va n false with
      | .error e => .error e
      | .ok ps =>
        if (s.core k).engineFull 1 then .error (.block (.engineFull 1))
        else
          let s := if acq then s.scopePush k i s.uid sc else s
          let s := s.modCore k fun c =>
            if c.swapsOdd then { c with active := { c.active with resident := false } } else { c with shadow := { c.shadow with resident := false } }
          .ok (((s.enqueue 1 (.wscl (ps.map fun p => (p.scr, p.pa, p.len)) n (spaceOf va == .scr)) (if acq then sc + 1 else 0)).beginAll k).spend)⟩

/-- The next parts of the scales that a WSCL reads: two of 64 bytes in a cycle from scratchpad, all of them from global memory. -/
def State.readScales (s : State) (k : Nat) (x : Cmd) : State × List Byte × Bool :=
  match x.kind with
  | .wscl ps _ scr =>
    let v := s.engineView k
    let todo := ps.drop (x.data.length / 64)
    (if scr then todo.take 2 else todo).foldl (fun (acc : State × List Byte × Bool) p =>
      let (s, bs, po) := acc
      if p.1 then let (s, b, q) := s.scrRead k p.2.1 p.2.2; (s, bs ++ b, po || q)
      else
        let (b, q) := v.physRead p.2.1 p.2.2
        let b := if region p.2.1 = 1 then (List.range p.2.2).map fun j => Config.peerByte s.freeCtr (p.2.1 + j) else b
        let (s, r) := s.homeFetch (towerOf k) x.job p.2.1 p.2.2
        (s, bs ++ b, po || q || r)) (s, x.data, x.dataPois)
  | _ => (s, x.data, x.dataPois)

/-- A cycle of the scale loader: the head of engine 1 reads, from scratchpad in each cycle of its read, from global memory as its read ends, four
cycles before its completion (R226). -/
def State.scaleTick (s : State) (k : Nat) : State :=
  match (s.core k).cmdsOf 1 with
  | x :: _ => match x.kind with
    | .wscl _ n scr =>
      if x.started && decide (x.data.length < n) && (scr || decide (x.due ≤ s.now + 3)) then
        let (s, bs, po) := s.readScales k x
        s.modCore k fun c => { c with cmds := mput c.cmds 1 ((c.cmdsOf 1).map fun y => if y.uid = x.uid then { y with data := bs, dataPois := po } else y) }
      else s
    | _ => s
  | [] => s

/-- R226: the scales are read and resident. -/
def execScaleLoadComplete (t f : Nat) (s : State) : Out :=
  let k := 16 * t + f
  match s.headDone k 1 with
  | some x => match x.kind with
    | .wscl _ _ _ =>
      let sc : Map Nat := (x.data.zipIdx.filter fun e => e.1 != 127).map fun e => (e.2, e.1.toNat)
      .next ((s.modCore k fun c => { c with shadow := { c.shadow with scales := sc, resident := true, scalePois := x.dataPois } }).finishCmd k 1 x 0)
    | _ => .next s
  | none => .next s

/-- R227. -/
def gopWswap (g : Nat) : GOp :=
  ⟨{ kind := .extended, reads := [.p g], guard := some g, irr := true, blocky := true }, fun s =>
    let k := s.cur.core
    let c := s.core k
    if (c.cmdsOf 1).any fun x => match x.kind with | .wld _ => true | _ => false then .error (.cause 0x03 2 0)
    else if c.engineFull 1 then .error (.block (.engineFull 1))
    else .ok (s.enqueue 1 .wswap)⟩

/-- An error of a plane after the exchange of the planes. -/
def SramErr.swapped (e : SramErr) : SramErr :=
  match e.sram with
  | .active => { e with sram := .shadow }
  | .shadow => { e with sram := .active }
  | _ => e

/-- R227: the exchange takes effect. -/
def execWswapEffect (t f : Nat) (s : State) : Out :=
  let k := 16 * t + f
  let c := s.core k
  match c.cmdsOf 1 with
  | x :: _ => match x.kind with
    | .wswap =>
      if c.mmaLeft = 0 ∧ !c.readBefore (s.now + 1) x.uid then
        .next ((s.setCore k { c with active := c.shadow, shadow := c.active, errs := c.errs.map SramErr.swapped }).finishCmd k 1 x 0)
      else .next s
    | _ => .next s
  | [] => .next s

/-! ## The array (R228 to R231, R107 to R110) -/

/-- The combination of plane and bank formats (R229): passes per row and ACCT. -/
def mmaShape (plane bank : Nat) : Option (Nat × Nat) :=
  let b8 (c : Nat) := decide (c < 28)
  let i8 (c : Nat) := c == 36 || c == 37
  if b8 plane && b8 bank then some (1, 33)
  else if (b8 plane || plane == 32) && (b8 bank || bank == 32) then some (2, 33)
  else if i8 plane && i8 bank then some (1, 40) else none

/-- `exact_sum` of R108. -/
def exactSum (l : List (FVal × FVal)) : FVal := l.foldl (fun acc e => (acc.add .rne (e.1.mul e.2).1).1) (.num false ⟨0, 1⟩)

/-- One block's scaled dot (R107): ea and ew the E8 codes. -/
def blockDot (l : List (FVal × FVal)) (ea ew : Nat) : FVal :=
  if ea = 255 ∨ ew = 255 then .nan false
  else match exactSum l with
    | .num n q => .num n (q.mul (pow2 ((ea + ew : Nat) - 254)))
    | v => v

/-- `skip(j)` of R109. -/
def skipBlock (p : Plane) (cols j ea : Nat) (fmt : Nat) (a : List Nat) : Bool :=
  (a.all fun x => if fmt = 32 then x % 0x8000 == 0 else x == 0) && ea != 255 && !p.flags.getLsbD j
    && (List.range cols).all fun n => mget p.scales (j * cols + n) 127 != 255

/-- The dots of column n of a floating row (R107): those blocks that are not skipped. -/
def rowDots (p : Plane) (cols fmt : Nat) (a : List Nat) (ea : List Nat) (n : Nat) : List FVal :=
  (List.range 4).filterMap fun j =>
    let al := (a.drop (32 * j)).take 32
    let e := ea.getD j 127
    if skipBlock p cols j e fmt al then none
    else some (blockDot (al.zipIdx.map fun x => (decodeFmt fmt x.1, decodeFmt p.fmt (mget p.elems ((32 * j + x.2) * cols + n) 0).toNat)) e (mget p.scales (j * cols + n) 127))

/-- The block sums of column n of an integer row (R110). -/
def rowSums (p : Plane) (cols fmt : Nat) (a : List Nat) (n : Nat) : List Int :=
  (List.range 4).map fun j =>
    (((a.drop (32 * j)).take 32).zipIdx.foldl (fun (acc : Int) x =>
      acc + dotByte (fmt == 37) x.1 0 * dotByte (p.fmt == 37) (mget p.elems ((32 * j + x.2) * cols + n) 0).toNat 0) 0)

/-- The row of activations m of a bank: its elements, scales and poison (R134, R228). -/
def State.actRow (s : State) (k bank m : Nat) : State × List Nat × List Nat × Bool :=
  let bf := (s.core k).bankFmt bank
  let fmt := bf.toNat % 64
  let e := fmtBytes fmt
  let (s, bs, p1) := s.scrRead k (bank * 32768 + m * 128 * e) (128 * e)
  let vals := (List.range 128).map fun i => ofLE ((bs.drop (i * e)).take e)
  if bf.getLsbD 31 then
    let o := fld bf.toNat 26 5 * 32768 + (32 * fld bf.toNat 16 10 + 4 * m) % 32768
    let (s, sb, p2) := s.scrRead k o 4
    (s, vals, sb.map (·.toNat), p1 || p2)
  else (s, vals, [127, 127, 127, 127], p1)

/-- Step 3 of R229: the active plane and the bank that Xa names form a row of the table, and ACCT is not that row's. A false guard does not suppress
it (R63); an Xa that is pending, or a port without an entry, names no bank yet. -/
def State.mmaAcct (s : State) (a : Nat) : Bool :=
  let k := s.cur.core
  let c := s.core k
  let va := s.readX k s.cur.strand a
  (s.regBlock k s.me (.x a)).isNone && spaceOf va == .scr && (c.scrOff va 1).isSome
    && (match mmaShape c.active.fmt ((c.bankFmt (bits va 19 0 / 32768)).toNat % 64) with | some (_, want) => s.me.acct != want | none => false)

/-- R228 to R231. The rows land like fixed-latency results; a collision is the illegal-schedule trap (R74). An uncorrectable error of the active plane
is met at issue (R371, log entry 96). -/
def gopMma (g d a n : Nat) (zs : Bool) (s : State) : GOp :=
  let acct := s.me.acct
  ⟨{ kind := .extended, reads := [.p g, .x a], writes := (List.range n).map fun r => (.v (d + r), 0), guard := some g
     bad := if acct ≠ 33 ∧ acct ≠ 40 then some 1 else if s.mmaAcct a then some 1 else if 64 < d + n then some 12 else none }, fun s =>
    let k := s.cur.core
    let i := s.cur.strand
    let c := s.core k
    let va := s.readX k i a
    let p := c.active
    if spaceOf va ≠ .scr ∨ (c.scrOff va 1).isNone then .error (.cause 0x11 1 va)
    else
      let x := bits va 19 0
      let bank := x / 32768
      let bf := c.bankFmt bank
      let fmt := bf.toNat % 64
      let row := 128 * fmtBytes fmt
      let m0 := x % 32768 / row
      let sb := fld bf.toNat 26 5
      let sa : Word := w64 (2 ^ 63 + sb * 32768 + (32 * fld bf.toNat 16 10 + 4 * m0) % 32768)
      match mmaShape p.fmt fmt with
      | none => .error (.cause 0x09 1 (w64 bank))
      | some (passes, want) =>
        let left (r : Nat) : Nat := if passes = 1 then 25 + r else 26 + 2 * r
        if acct ≠ want then .error (.cause 0x01 1 0)
        else if (List.range n).any fun r => s.me.inflight.any fun l => decide (l.dest = .v (d + r)) && l.left == left r then .error (.cause 0x02 1 0)
        else if x % row ≠ 0 ∨ 32768 < x % 32768 + n * row then .error (.cause 0x09 2 (w64 x))
        else if bf.getLsbD 31 ∧ c.scr ≤ sb then .error (.cause 0x11 1 sa)
        else if !p.resident then .error (.cause 0x03 3 0)
        else if c.mmaLeft ≠ 0 ∨ ((c.cmdsOf 6).any fun y => y.reading s.now) ∨ (c.cmdsOf 1).any fun y => decide (y.kind = .wswap) then .error (.cause 0x03 5 0)
        else if c.errs.any fun e => decide (e.sram = .active) && e.dbl then .error (.cause 0x15 2 (w64 bank))
        else
          let (s, _) := s.coreErrs k fun e => decide (e.sram = .active)
          let cols := s.me.ncols
          let step (s : State) (r : Nat) : State :=
            let (s, vals, ea, po) := s.actRow k bank (m0 + r)
            let v : Val := if want = 40 then .iacc zs ((List.range cols).map fun j => rowSums p cols fmt vals j)
              else .macc zs ((List.range cols).map fun j => rowDots p cols fmt vals ea j)
            s.result k i (.v (d + r)) (left r) v 0 (po || p.poison || p.scalePois)
          let s := (List.range n).foldl step s
          .ok (s.modCore k fun c => { c with mmaLeft := n * passes, mmaBy := some (i, s.me.seg, s.cur.start, bank) })⟩

/-! ## The result writer (R232, R111) -/

/-- One converted element (R111). -/
def mrdElem (acct fmt : Nat) (sat : Bool) (scale v : Nat) : Nat :=
  let x := if acct = 40 then fvalOfInt (sInt 32 v) else ieee32.decode v
  let y := rne ieee32 (x.mul (ieee32.decode scale)).1
  convertFmt fmt sat (ieee32.decode y)

/-- What an MRD's address meets (R232): the operand check before the range (R364). -/
def State.mrdStop (s : State) (d n : Nat) : Option Stop :=
  let c := s.core s.cur.core
  let va := s.readX s.cur.core s.cur.strand d
  if spaceOf va ≠ .scr ∨ (c.scrOff va 1).isNone then some (.cause 0x11 1 va)
  else
    let x := bits va 19 0
    let e := fmtBytes ((c.bankFmt (x / 32768)).toNat % 64)
    if x % e ≠ 0 ∨ 32768 < x % 32768 + n * s.me.ncols * e then some (.cause 0x09 2 (w64 x)) else none

def gopMrd (g d a b n : Nat) (s : State) : GOp :=
  let acct := s.me.acct
  ⟨{ kind := .extended, reads := .p g :: .x d :: .f b :: (List.range n).map fun r => .v (a + r), guard := some g, blocky := true
     carries := (List.range n).map fun r => .v (a + r), early := [([.p g, .x d], fun s => s.mrdStop d n)]
     bad := if acct ≠ 33 ∧ acct ≠ 40 then some 1 else if 32 ≤ b ∨ 64 < a + n then some 12 else none }, fun s =>
    let k := s.cur.core
    let i := s.cur.strand
    let c := s.core k
    match s.mrdStop d n with
    | some e => .error e
    | none =>
      let x := bits (s.readX k i d) 19 0
      let bf := c.bankFmt (x / 32768)
      let fmt := bf.toNat % 64
      let e := fmtBytes fmt
      let cols := s.me.ncols
      if c.engineFull 2 then .error (.block (.engineFull 2))
      else
        let scale := bits (s.readF k i b) 31 0
        let bytes := (List.range n).flatMap fun r =>
          let v := s.readV k i (a + r)
          (List.range cols).flatMap fun j => toLE e (mrdElem acct fmt (bf.getLsbD 7) scale (laneOf 32 v j))
        let po := (List.range n).any fun r => s.me.poisonedReg (.v (a + r))
        let due := s.now + n + 8 - Config.pick s.freeCtr (n + 8) % (n + 8)
        let s := (s.enqueue 2 (.mrd x e bytes po)).spend
        .ok (s.modCore k fun c => { c with cmds := mput c.cmds 2 ((c.cmdsOf 2).map fun y =>
          { y with started := true, due := if y.started then min y.due due else due }) })⟩

/-- Elements of e bytes, by number, written into scratchpad from offset off on; poisoned if `po`. -/
def Core.writeElements (c : Core) (off e : Nat) (bs : List Byte) (po : Bool) (ns : List Nat) : Core :=
  ns.foldl (fun c n =>
    let c := c.scrWrite (off + n * e) ((bs.drop (n * e)).take e)
    if po then c.scrPoison (off + n * e) e else c) c

/-- The elements or units that a command still has to write, of m. -/
def Cmd.rest (x : Cmd) (m : Nat) : List Nat := x.left.getD (List.range m)

/-- The members of a list that the free values from f on choose. -/
def chosenOf (f : Nat) (l : List Nat) : List Nat := (l.zipIdx.filter fun (e : Nat × Nat) => Config.pick (f + e.2) 2 % 2 == 1).map (·.1)

/-- The head of engine e with f applied. -/
def State.modHead (s : State) (k e : Nat) (f : Cmd → Cmd) : State :=
  s.modCore k fun c => { c with cmds := mput c.cmds e (match c.cmdsOf e with | x :: r => f x :: r | [] => []) }

/-- A cycle of the result writer: which elements of its head come into scratchpad before the last cycle is open (R232). -/
def State.writerProgress (s : State) (k : Nat) : State :=
  match (s.core k).cmdsOf 2 with
  | x :: _ => match x.kind with
    | .mrd off e bs po =>
      let m := x.rest (bs.length / e)
      let ns := chosenOf s.freeCtr m
      let s := { s with freeCtr := s.freeCtr + m.length }
      (s.modCore k fun c => c.writeElements off e bs po ns).modHead k 2 fun y => { y with left := some (m.filter fun n => !ns.contains n) }
    | _ => s
  | [] => s

/-- R232: the bytes of an MRD are in scratchpad. -/
def execMrdComplete (t f : Nat) (s : State) : Out :=
  let k := 16 * t + f
  match s.headDone k 2 with
  | some x => match x.kind with
    | .mrd off e bytes po => .next ((s.modCore k fun c => c.writeElements off e bytes po (x.rest (bytes.length / e))).finishCmd k 2 x 0)
    | _ => .next s
  | none => .next s

/-- R233: the write is noted and made at the end of the issue cycle. -/
def gopAcfg (g f : Nat) : GOp :=
  ⟨{ kind := .extended, reads := [.p g], guard := some g, phase := 3, bad := if acctCode f then none else some 1 }, fun s =>
    .ok (s.modStrand s.cur.core s.cur.strand fun x => { x with scfg := setBits x.scfg 9 4 f })⟩

/-- An uncorrectable error of an array or a plane of core k, met by a command of strand i that the group at pc issued in segment seg: a cause at that group
while the strand is in the segment, else at its next group (R371). A strand at a barrier, which no rewind takes back, meets it at its next group too
(log entry 96). -/
def State.arrayFault (s : State) (k i seg : Nat) (pc : Word) (bank : Nat) : State :=
  let c := s.core k
  let x := c.strand i
  let calm : Bool := match x.st with | .running => true | .ready => true | .blocked _ => true | .parked _ => true | _ => false
  if x.seg = seg ∧ calm then
    let t := (((s.dropWait k i 2).dropWait k i 3).dropWait k i 4).takeCause k i 0x15 2 0 pc (w64 bank)
    if c.run = some i then t else t.modCore k fun d => { d with run := c.run, last := c.last, gap := c.gap, bubble := c.bubble }
  else if x.st = .inactive then s
  else s.setStrand k i { x with arrayErr := some bank }

/-- The passes of an MMA read the active plane: latent errors are corrected and counted, uncorrectable ones met (R217, R371). -/
def State.mmaErrs (s : State) (k : Nat) : State :=
  let c := s.core k
  match c.mmaBy with
  | some (i, seg, pc, bank) =>
    if c.mmaLeft = 0 then s.setCore k { c with mmaBy := none }
    else
      let (s, bad) := s.coreErrs k fun e => decide (e.sram = .active)
      if bad then (s.modCore k fun c => { c with mmaBy := none }).arrayFault k i seg pc bank else s
  | none => s

/-- An FWD read that has just ended meets the uncorrectable errors of the shadow plane. -/
def State.readErrs (s : State) (k : Nat) : State :=
  match (s.core k).cmdsOf 6 |>.find? fun x => x.started && x.due + 1 == s.now with
  | none => s
  | some x =>
    let (s, bad) := s.coreErrs k fun e => decide (e.sram = .shadow)
    match bad, x.kind with
    | true, .fwdRead _ _ _ _ slab => s.arrayFault k x.strand x.seg x.pc slab
    | _, _ => s

/-- A cycle of a core's array and of the progressive freeing of the FIFO (R224, R230, R243): reads whose rows have landed leave, and commands that may
begin do. -/
def State.engineTick (s : State) (k : Nat) (frozen : Bool) : State :=
  let s := ((if frozen then s else s.mmaErrs k).readErrs k).scaleTick k
  let n := 256 * s.slabCount k
  let s := s.modCore k fun c => { c with
    mmaLeft := if frozen then c.mmaLeft else c.mmaLeft - 1
    fifoHeld := if ((c.cmdsOf 1).head?.any fun x => x.started && (match x.kind with | .wld _ => true | _ => false)) then c.fifoHeld - min c.fifoHeld n else c.fifoHeld
    cmds := mput c.cmds 6 ((c.cmdsOf 6).filter fun x => !x.started || decide (s.now ≤ x.due + 24)) }
  (s.writerProgress k).beginAll k

/-! ## Meanings -/

/-- R222. Queues a weight stream of T tiles on engine 0. -/
def execWstr (g f a b : Nat) (acq : Bool) (sc : Nat) (s : State) : Out := issueGroup [] [gopWstr g f a b acq sc] s

/-- R224. Claims the oldest FIFO tile and loads it into the shadow plane. -/
def execWld (g : Nat) (s : State) : Out := issueGroup [] [gopWld g] s

/-- R226. Loads the shadow plane's E8 scales. -/
def execWscl (g a : Nat) (acq : Bool) (sc : Nat) (s : State) : Out := issueGroup [] [gopWscl g a acq sc] s

/-- R227. Exchanges the active and shadow planes. -/
def execWswap (g : Nat) (s : State) : Out := issueGroup [] [gopWswap g] s

/-- R228. Multiplies activation rows by the active plane into accumulator rows. -/
def execMma (g d a n : Nat) (zs : Bool) (s : State) : Out := issueGroup [] [gopMma g d a n zs s] s

/-- R232. Scales and converts accumulator rows into scratchpad on engine 2. -/
def execMrd (g d a b n : Nat) (s : State) : Out := issueGroup [] [gopMrd g d a b n s] s

/-- R233. Sets SCFG.ACCT. -/
def execAcfg (g f : Nat) (s : State) : Out := issueGroup [] [gopAcfg g f] s

end Sys2Proof.Machine
end

