-- ==== Sys2Proof/Machine/StateOps.lean ====
section
/-! DEFINITION. What the state instructions do once a tower has accepted them (R339 to R347): handles and their arrays, and performing each when the
moves of its handles have ended and the FWDs and OPUs before it are complete (R242, R342). -/

namespace Sys2Proof.Machine

/-- A list in rows of n. -/
def inRows {α : Type} (n : Nat) : Nat → List α → List (List α)
  | 0, _ => []
  | m + 1, l => l.take n :: inRows n m (l.drop n)

/-- The format of a state's tiles. -/
def tileIeee (fmt16 : Bool) : Ieee := if fmt16 then ieee16 else ieee32

/-- The handle in bits 31:0 of a register. -/
def handleWord (w : Word) : Word := w &&& 0xFFFFFFFF

/-- Whether a handle names a live state of the job that tower t holds (R342): the detail of the fault. -/
def State.handleFault (s : State) (t job : Nat) (w : Word) : Option Nat :=
  let h := s.handle (bits w 23 0)
  if !h.v ∨ h.gen ≠ bits w 31 24 then some 1
  else if h.job ≠ job then some 3
  else if h.twr ≠ t then some 6 else none

/-- The lookup of a state instruction (R342): the index. -/
def State.handleLookup (s : State) (k : Nat) (w : Word) : Except Stop Nat :=
  let i := bits w 23 0
  if !s.handleHit k i then .error (.freeze [.handle i])
  else match s.handleFault (towerOf k) (s.jobOf k) w with
    | some d => .error (.cause 0x0A d (handleWord w))
    | none => .ok i

/-- Result codes. -/
def codeWord (n : Nat) : Word := w64 (2 ^ 63 + n)

/-- Releases a handle (R346): references, arrays, hints, keep, generation; strands parked on it become ready. -/
def State.freeHandle (s : State) (i : Nat) : State :=
  let h := s.handle i
  let words := h.arrays.flatMap fun a => s.tileWords a h.nt
  let s := s.modTower h.twr fun t => words.foldl Tower.dropRef t
  let s := h.arrays.foldl (fun s a => s.arenaFree h.job a) s
  let s := s.modTower h.twr fun t => { t with hints := t.hints.filter fun e => e.1 != i, faults := t.faults.filter fun e => e.1 != i }
  let s := s.setHandle i { gen := (h.gen + 1) % 256 }
  s.wakeAbsent i

/-- A new handle of tower t with these tile words and format (R343): its word, or the failure code. -/
def State.newHandle (s : State) (t job : Nat) (fmt16 : Bool) (res : Nat) (words : List Word) : Except Nat (State × Nat) :=
  match s.freeIndex with
  | none => .error 1
  | some i => match s.arenaAlloc job (arrayBytes words.length) with
    | none => .error 2
    | some (a, s) =>
      let s := s.setTileWords a words
      .ok (s.setHandle i { v := true, res := res, fmt16 := fmt16, twr := t, job := job, gen := (s.handle i).gen, nt := words.length, tiles := a, used := s.now }, i)

/-- The weighted sum of two tiles (R345). -/
def avgTile (f : Ieee) (w c : Half) (a b : Tile) : List Half :=
  let x := padTo 0 16384 a.elems
  let y := padTo 0 16384 b.elems
  (x.zip y).map fun e =>
    let p := ((ieee32.decode w.toNat).mul (f.decode e.1.toNat)).1
    let q := ((ieee32.decode c.toNat).mul (f.decode e.2.toNat)).1
    BitVec.ofNat 32 (rne f (p.add .rne q).1)

/-- Writes the sums into every tile of the destination, which is copied on write where it is shared. -/
def State.avgInto (s : State) (d : Nat) (l : List (Nat × List Half × Bool)) : Option State :=
  l.foldl (fun (acc : Option State) e => match acc with
    | none => none
    | some s => match s.ownTile d e.1 with
      | none => none
      | some (s, w) => some (s.putTile (s.handle d).twr w { (s.tower (s.handle d).twr).tileOf w with elems := e.2.1, poison := e.2.2 })) (some s)

/-- Whether an accepted instruction waits for an earlier FWD or OPU on its handles (R242, R342). -/
def State.stateWaits (s : State) (t : Nat) (o : StateOp) : Bool := o.kind.handles.any fun i => i != 0 && s.inFlightBefore t o.uid i

/-- The states whose tiles an instruction reads or writes. -/
def StateKind.touches : StateKind → List Nat
  | .avg d a b _ _ => [d, a, b]
  | .move i _ => [i]
  | _ => []

/-- What an accepted instruction needs before it can perform, once the FWDs and OPUs before it are complete: an SAVG has its absent states brought in, as an
absent-state fault has (R236, R345), and banks that are not active leave retention (R218). True where it must wait. -/
def State.prepare (s : State) (t : Nat) (o : StateOp) : State × Bool :=
  let hs := o.kind.touches.eraseDups
  let live := hs.all fun i => (s.handle i).v && !(s.handle i).lost
  let gone := match o.kind with | .avg _ _ _ _ _ => if live then hs.filter fun i => (s.handle i).res == 1 else [] | _ => []
  if !gone.isEmpty then
    (s.modTower t fun x => { x with faults := gone.foldl (fun l i => if l.any fun e => e.1 == i then l else l ++ [(i, o.core)]) x.faults }, true)
  else if live && !(hs.all s.stateAwake) then (hs.foldl (fun s i => s.touchState i) s, true)
  else (s, false)

/-- The sums of an SAVG: each tile of two states as a reader finds it (R217, R345). -/
def State.avgTiles (s : State) (t d a b : Nat) (w c : Half) : State × List (Nat × List Half × Bool) :=
  (List.range (s.handle d).nt).foldl (fun (acc : State × List (Nat × List Half × Bool)) j =>
    let (s, ta) := acc.1.readTile t (rdWord acc.1.mem ((acc.1.handle a).tiles + 8 * j))
    let (s, tb) := s.readTile t (rdWord s.mem ((s.handle b).tiles + 8 * j))
    (s, acc.2 ++ [(j, avgTile (tileIeee (s.handle d).fmt16) w c ta tb, ta.poison || tb.poison)])) (s, [])

/-- One accepted instruction performs: the state, or none while it must wait (R342 to R346). -/
def State.performState (s : State) (t : Nat) (o : StateOp) : Option State :=
  let quiet (i : Nat) : Bool := !(s.handle i).v || (s.handle i).res < 2
  match o.kind with
  | .fork a cr =>
    let i := bits a 23 0
    if i ≠ 0 ∧ !quiet i then none
    else
      let h := s.handle i
      let words := if i = 0 then List.replicate (bits cr 15 0) 0 else s.tileWords h.tiles h.nt
      let r := if i ≠ 0 ∧ !h.v then .error 1 else s.newHandle t o.job (if i = 0 then bitOf cr 16 else h.fmt16) (if i = 0 then 1 else h.res) words
      match r with
      | .error c => some (s.resolve o.core o.strand o.tag (codeWord c) (s.dueIn 32) false)
      | .ok (s, n) =>
        let s := s.modTower t fun x => words.foldl Tower.addRef x
        some (s.resolve o.core o.strand o.tag ((s.handle n).word n) (s.dueIn 32) false)
  | .snap i n arr =>
    if !quiet i then none
    else
      let h := s.handle i
      if !h.v then some s
      else
        let words := s.tileWords h.tiles h.nt
        let old := mfind h.snaps n
        let dst := old.getD arr
        let s := match old with
          | some a =>
            let s := (s.modTower t fun x => (s.tileWords a h.nt).foldl Tower.dropRef x)
            if a = arr then s else s.arenaFree h.job arr
          | none => s
        let s := (s.modTower t fun x => words.foldl Tower.addRef x).setTileWords dst words
        some (s.modHandle i fun e => { e with snaps := mput e.snaps n dst, snap := e.snap ||| (1 <<< n) })
  | .roll i n =>
    if !quiet i then none
    else
      let h := s.handle i
      match mfind h.snaps n with
      | some a =>
        let words := s.tileWords a h.nt
        let old := s.tileWords h.tiles h.nt
        some ((s.modTower t fun x => old.foldl Tower.dropRef (words.foldl Tower.addRef x)).setTileWords h.tiles words)
      | none => some s
  | .avg d a b w c =>
    let ok (i : Nat) : Bool := (s.handle i).v && (s.handle i).res == 0 && (s.handle i).cow.isEmpty
    if !([d, a, b].all fun i => (s.handle i).v && !(s.handle i).lost) then some s
    else if !([d, a, b].all ok) then none
    else
      let (s, l) := s.avgTiles t d a b w c
      s.avgInto d l
  | .free i => if !quiet i then none else if (s.handle i).v then some (s.freeHandle i) else some s
  | .move _ _ => none

/-- Bytes that a move of a state carries: every tile of its arrays (R347). -/
def State.moveBytes (s : State) (h : HEntry) : Nat := ((h.arrays.flatMap fun a => s.tileWords a h.nt).filter fun w => twKind w != 0).length * h.tileBytes

/-- Every accepted state instruction of tower t that can perform does so, oldest first, none before an earlier one on its handle; a move begins
when its handle's moves have ended (R342, R347). An SAVG on a state that the pager could not restore ends without an effect (log entry 97). -/
def State.serveStates (s : State) (t : Nat) : State :=
  ((s.tower t).stateq.foldl (fun (acc : State × List Nat) o =>
    let (s, held) := acc
    let hs := o.kind.handles
    if (hs.any fun i => i != 0 && held.contains i) || o.started || s.stateWaits t o then (s, held ++ hs)
    else match s.prepare t o with
    | (s, true) => (s, held ++ hs)
    | (s, false) =>
      match o.kind with
      | .move i _ =>
        if 2 ≤ (s.handle i).res then (s, held ++ hs)
        else
          let reqs := pagerRequests s.freeCtr (s.moveBytes (s.handle i))
          let res := (s.handle i).res
          (((s.modHandle i fun h => { h with res := 3 }).modTower t fun x =>
            { x with stateq := x.stateq.map fun y => if y.uid = o.uid then { y with started := true, reqs := reqs, res := res } else y }).spend, held ++ hs)
      | _ => match s.performState t o with
        | some s => (s.modTower t fun x => { x with stateq := x.stateq.filter fun y => y.uid != o.uid }, held)
        | none => (s, held ++ hs)) (s, [])).1

/-- Whether tower t has accepted a state instruction on handle i that is neither performed nor, an SMOVE, begun. -/
def State.statesAhead (s : State) (t i : Nat) : Bool := (s.tower t).stateq.any fun o => !o.started && o.kind.handles.contains i

end Sys2Proof.Machine
end

