-- ==== Sys2Proof/Machine/FastWeight.lean ====
section
/-! DEFINITION. The fast-weight instructions (R234 to R243): FWD.READ, FWD.DELTA, FWD.OUTER, OPU, and the completion of engine 3 and of a copy on
write. A state write takes effect when its group issues, in core issue order; its engine command and landing give its time. -/

namespace Sys2Proof.Machine

/-- The 128 rows of a tile. -/
def Tile.rows (t : Tile) : List (List Nat) := inRows 128 128 (padTo 0 16384 (t.elems.map (·.toNat)))

/-- A tile of these rows. -/
def Tile.ofRows (t : Tile) (r : List (List Nat)) (po : Bool) : Tile := { t with elems := r.flatten.map (BitVec.ofNat 32), poison := t.poison || po }

/-- The shadow plane that the read of a tile fills (R238): column off + n holds row n of the state in binary16; other columns keep their bits. -/
def fillPlane (old : Plane) (f : Ieee) (cols off : Nat) (rows : List (List Nat)) (po : Bool) : Plane :=
  let cell (j n : Nat) : Half :=
    if off ≤ n ∧ n < off + 128 then BitVec.ofNat 32 (rne ieee16 (f.decode ((rows.getD (n - off) []).getD j 0)))
    else mget old.elems (j * cols + n) 0
  let es := (List.range 128).flatMap fun j => (List.range cols).map fun n => cell j n
  { elems := sparse es, fmt := 32, scales := [], resident := true, flags := specialFlags 32 cols es, poison := po, scalePois := false }

/-- The output row of one q row (R238). -/
def readRow (p : Plane) (cols off : Nat) (q : List Nat) : List Nat :=
  let x := q.map fun v => rne ieee16 (ieee32.decode v)
  (List.range 128).map fun n => accLane 0 (rowDots p cols 32 x [127, 127, 127, 127] (off + n))

/-- The fade of R239. -/
def fadeRows (f : Ieee) (g : Nat) (rows : List (List Nat)) : List (List Nat) :=
  rows.map fun r => r.map fun x => rne f ((ieee32.decode g).mul (f.decode x)).1

/-- One fused rank-1 update: S[n][j] := RNEf(b[n] × k[j] + S[n][j]). -/
def rankOne (f : Ieee) (b k : List Nat) (rows : List (List Nat)) : List (List Nat) :=
  (rows.zip b).map fun e => (e.1.zip k).map fun y => rne f (FVal.fma .rne (ieee32.decode e.2) (ieee32.decode y.2) (f.decode y.1)).1

/-- One step of FWD.DELTA: e and b of every row from S as it stands, then the update (R239). -/
def deltaStep (f : Ieee) (beta : Nat) (rows : List (List Nat)) (kv : List Nat × List Nat) : List (List Nat) :=
  let wide (x : Nat) : Nat := rne ieee32 (f.decode x)
  let b := (rows.zip kv.2).map fun e =>
    let p := (e.1.zip kv.1).map fun y => mulF ieee32 (wide y.1) y.2
    let d := (reduceTree (addF ieee32) 8 p).headD 0
    mulF ieee32 beta (subF ieee32 e.2 d)
  rankOne f b kv.1 rows

/-- One step of FWD.OUTER (R240). -/
def outerStep (f : Ieee) (eta : Nat) (rows : List (List Nat)) (ku : List Nat × List Nat) : List (List Nat) :=
  rankOne f (ku.2.map fun u => mulF ieee32 eta u) ku.1 rows

/-- The 128 lanes of row r as the issuing strand reads them. -/
def State.vec (s : State) (r : Nat) : List Nat := s.lanes 32 128 r

/-- A row whose lanes 0 to 127 are given. -/
def row128 (l : List Nat) : Val := .row (packRow 32 l) (maskRow 32 128 (BitVec.allOnes 512))

/-- Rows of an operand block that a form reads, c the chunk (R237). -/
def blockRows (form c : Nat) : Nat := if form = 0 then c else 3 * c + 1

/-- The lookup of an FWD or OPU by the issuing core (R235). One that state instructions precede, accepted by its tower on the handle and not performed,
freezes the core until they are (R242, R342). MODEL'S CHOICE, log entry 97. -/
def State.fwdLookup (s : State) (ref : Word) : Except Stop Word :=
  let r := s.refLookup s.cur.core ref
  let wait : Except Stop Word := if s.statesAhead (towerOf s.cur.core) (bits ref 23 0) then .error (.freeze [.states (bits ref 23 0)]) else r
  match r with
  | .ok _ => wait
  | .error (.cause 0x0A 1 _) => r
  | .error (.cause 0x0A 3 _) => r
  | .error (.cause 0x0A _ _) => if bits ref 63 48 = 0 then wait else r
  | .error _ => r

/-- The FWD family (R237 to R240, R242): form 0 READ, 1 DELTA, 2 OUTER. In a ganged core the half of the shadow plane that the other slab feeds is what
it was at issue. MODEL'S CHOICE, log entry 120. -/
def gopFwd (form g d a b c : Nat) (s : State) : GOp :=
  let rd := (List.range (blockRows form c)).map fun r => Reg.v (a + r)
  let outs := (List.range c).map fun r => Reg.v (d + r)
  ⟨{ kind := .extended, reads := .p g :: .x b :: rd, pends := outs, guard := some g, irr := true, blocky := true
     early := [([.p g, .x b], fun s => stopOf (s.fwdLookup (s.readX s.cur.core s.cur.strand b)))]
     bad := if s.me.acct ≠ 33 then some 1 else if 64 < d + c ∨ 64 < a + blockRows form c then some 12 else none }, fun s =>
    let k := s.cur.core
    let i := s.cur.strand
    let ref := s.readX k i b
    match s.fwdLookup ref with
    | .error e => .error e
    | .ok w =>
      if form ≠ 0 ∧ (s.core k).engineFull 3 then .error (.block (.engineFull 3))
      else
        let h := s.handle (bits ref 23 0)
        let t := towerOf k
        let f := tileIeee h.fmt16
        let (s, tile) := s.readTile t w
        let rows := tile.rows
        let cols := s.me.ncols
        let off := 128 * (s.slabsOf k).findIdx (· == twSlab w)
        let plane := fillPlane (s.core k).shadow f cols off rows tile.poison
        let q := (List.range c).map fun r => s.vec (a + (if form = 0 then 0 else 2 * c) + r)
        let os := q.map (readRow plane cols off)
        let own := if form = 0 then some (s, w) else s.ownTile (bits ref 23 0) (bits ref 47 32)
        match own with
        | none => .error (.block (.engineFull 3))
        | some (s, w') =>
          let coef := s.vec (a + 3 * c)
          let ks := (List.range c).map fun r => s.vec (a + r)
          let vs := (List.range c).map fun r => s.vec (a + c + r)
          let rows' :=
            if form = 1 then ((ks.zip vs).zipIdx.foldl (fun acc e => deltaStep f (coef.getD e.2 0) acc e.1) (fadeRows f (coef.getD 64 0) rows))
            else (ks.zip vs).foldl (outerStep f (coef.getD 65 0)) (fadeRows f (coef.getD 64 0) rows)
          let s := if form = 0 then s else s.putTile t w' (tile.ofRows rows' false)
          let tag := s.uid
          let s := { s with uid := s.uid + 1 }
          let s := (s.useState (bits ref 23 0)).touchSlab t (twSlab w)
          let s := s.modStrand k i fun x => { x with
            pend := x.pend ++ [{ dests := outs, vals := os.map row128, due := none, tag := tag, poison := tile.poison }]
            vdest := outs ++ x.vdest.filter fun r => !outs.contains r }
          let s := s.enqueue 6 (.fwdRead ref plane c form (twSlab w)) tag
          let s := if form = 0 then s else s.enqueue 3 (.fwdWrite ref c form (twSlab w) none) tag
          .ok (s.beginAll k)⟩

def gopFwdRead (g d a b c : Nat) (s : State) : GOp := gopFwd 0 g d a b c s
def gopFwdDelta (g d a b c : Nat) (s : State) : GOp := gopFwd 1 g d a b c s
def gopFwdOuter (g d a b c : Nat) (s : State) : GOp := gopFwd 2 g d a b c s

/-- R241. -/
def gopOpu (g d a b c : Nat) (s : State) : GOp :=
  let rd := ((List.range c).map fun r => Reg.v (a + r)) ++ (List.range c).map fun r => Reg.v (b + r)
  ⟨{ kind := .extended, reads := .p g :: .x d :: rd, guard := some g, irr := true, blocky := true
     early := [([.p g, .x d], fun s => stopOf (s.fwdLookup (s.readX s.cur.core s.cur.strand d)))]
     bad := if s.me.acct ≠ 33 then some 1 else if 64 < a + c ∨ 64 < b + c then some 12 else none }, fun s =>
    let k := s.cur.core
    let i := s.cur.strand
    let ref := s.readX k i d
    match s.fwdLookup ref with
    | .error e => .error e
    | .ok _ =>
      if (s.core k).engineFull 3 then .error (.block (.engineFull 3))
      else match s.ownTile (bits ref 23 0) (bits ref 47 32) with
      | none => .error (.block (.engineFull 3))
      | some (s, w) =>
        let t := towerOf k
        let (s, tile) := s.readTile t w
        let f := tileIeee (s.handle (bits ref 23 0)).fmt16
        let rows' := (List.range c).foldl (fun acc r => rankOne f (s.vec (a + r)) (s.vec (b + r)) acc) tile.rows
        let s := s.putTile t w (tile.ofRows rows' false)
        let s := (s.useState (bits ref 23 0)).touchSlab t (twSlab w)
        .ok ((s.enqueue 3 (.opu ref c (twSlab w))).beginAll k)⟩

/-- R221: a command of the state engine completes. -/
def execStateEngineComplete (t f : Nat) (s : State) : Out :=
  let k := 16 * t + f
  match ((s.core k).cmdsOf 3).find? fun x => x.started && decide (x.due ≤ s.now) with
  | some x => .next (s.finishCmd k 3 x 0)
  | none => .next s

/-- R242: the copies on write of this core's slabs that have ended. -/
def execCopyOnWriteComplete (t f : Nat) (s : State) : Out :=
  let k := 16 * t + f
  let slabs := s.slabsOf k
  .next { s with handles := s.handles.map fun e =>
    if e.2.v ∧ e.2.twr = t then (e.1, { e.2 with cow := e.2.cow.filter fun c => !(slabs.contains (c.2.1 / 256) && decide (c.2.2 ≤ s.now)) }) else e }

/-! ## Meanings -/

/-- R238. Reads a state tile through the shadow plane into output rows. -/
def execFwdRead (g d a b c : Nat) (s : State) : Out := issueGroup [] [gopFwdRead g d a b c s] s

/-- R239. Reads, fades and applies delta-rule steps to a state tile. -/
def execFwdDelta (g d a b c : Nat) (s : State) : Out := issueGroup [] [gopFwdDelta g d a b c s] s

/-- R240. Reads, fades and applies outer-product updates to a state tile. -/
def execFwdOuter (g d a b c : Nat) (s : State) : Out := issueGroup [] [gopFwdOuter g d a b c s] s

/-- R241. Applies c fused rank-1 updates to a state tile on engine 3. -/
def execOpu (g d a b c : Nat) (s : State) : Out := issueGroup [] [gopOpu g d a b c s] s

end Sys2Proof.Machine
end

