-- ==== Sys2Proof/Machine/StateInst.lean ====
section
/-! DEFINITION. The state instructions (R341 to R348): SFORK, SSNAP, SROLL, SAVG, SFREE, SMOVE, SQRY, and the completion of a state move. An
accepted instruction performs at once, or when the moves of its handles end (R342). -/

namespace Sys2Proof.Machine

/-- Accepts a state instruction of the issuing strand. -/
def State.acceptState (s : State) (kind : StateKind) (tag : Nat) : Nat × State :=
  let k := s.cur.core
  let o : StateOp := { uid := s.uid, core := k, strand := s.cur.strand, job := s.jobOf k, kind := kind, tag := tag }
  let s := ({ s with uid := s.uid + 1 }).modTower (towerOf k) fun x => { x with stateq := x.stateq ++ [o] }
  let s := kind.handles.foldl (fun s i => if i = 0 then s else s.useState i) s
  let s := match kind with | .avg d a b _ _ => [d, a, b].foldl State.touchState s | .move i _ => s.touchState i | _ => s
  (o.uid, s.serveStates (towerOf k))

/-- Accepts one whose completion is that of engine 3, of n cycles. -/
def State.acceptEngine (s : State) (kind : StateKind) (n : Nat) : State :=
  let (u, s) := s.acceptState kind 0
  ((s.enqueue 3 (.state u n)).beginAll s.cur.core).spend

/-- Accepts one whose result lands in Xd. -/
def State.acceptResult (s : State) (d : Nat) (kind : StateKind) : State :=
  let tag := s.uid
  let s := ({ s with uid := s.uid + 1 }).resultVar s.cur.core s.cur.strand (.x d) (.w 0) none tag
  (s.acceptState kind tag).2.spend

/-- A state instruction; `engine`: it is a command of engine 3 and can block (R33, R221). `h`: the register of its handle, whose lookup needs no other. -/
def infoState (g : Nat) (reads : List Reg) (bad : Option Nat) (engine : Bool) (h : Nat) : Info :=
  { kind := .extended, reads := .p g :: reads, guard := some g, irr := true, blocky := engine, bad := bad
    early := [([.p g, .x h], fun s => stopOf (s.handleLookup s.cur.core (s.readX s.cur.core s.cur.strand h)))] }

/-- The tile array that an instruction takes is allocated by the shade context within a freeze (R366). -/
def State.allocNeed (s : State) : Option Stop := if ((s.core s.cur.core).fill? .alloc).isNone then some (.freeze [.alloc]) else none

/-- R343. -/
def gopSfork (g d a b : Nat) : GOp :=
  ⟨{ infoState g [.x a, .x b] none false a with
       pends := [.x d]
       early := (infoState g [] none false a).early.map fun e => (e.1, fun s => if bits (s.readX s.cur.core s.cur.strand a) 23 0 = 0 then none else e.2 s) },
   fun s =>
    let k := s.cur.core
    let i := s.cur.strand
    let xa := s.readX k i a
    let xb := s.readX k i b
    if bits xa 23 0 = 0 then
      if bits xb 15 0 = 0 ∨ bits xb 63 17 ≠ 0 then .error (.cause 0x0F 5 xb)
      else match s.allocNeed with
        | some e => .error e
        | none => .ok (s.acceptResult d (.fork 0 xb))
    else match s.handleLookup k xa with
      | .error e => .error e
      | .ok _ => match s.allocNeed with
        | some e => .error e
        | none => .ok (s.acceptResult d (.fork (handleWord xa) xb))⟩

/-- The check of an operand word alone: cause 0x0F with its detail where it is bad (R344, R347, R364). -/
def wordEarly (g b detail : Nat) (bad : Word → Bool) : List Reg × (State → Option Stop) :=
  ([.p g, .x b], fun s => let w := s.readX s.cur.core s.cur.strand b; if bad w then some (.cause 0x0F detail w) else none)

/-- What SSNAP and SROLL use. -/
def infoSnap (g a b : Nat) : Info :=
  { infoState g [.x a, .x b] none true a with early := (infoState g [] none true a).early ++ [wordEarly g b 3 fun w => bits w 63 2 != 0] }

/-- R344. -/
def gopSsnap (g a b : Nat) : GOp :=
  ⟨infoSnap g a b, fun s =>
    let k := s.cur.core
    let i := s.cur.strand
    let xa := s.readX k i a
    let xb := s.readX k i b
    match s.handleLookup k xa with
    | .error e => .error e
    | .ok h =>
      let n := bits xb 1 0
      if bits xb 63 2 ≠ 0 then .error (.cause 0x0F 3 xb)
      else
        let r := match mfind (s.handle h).snaps n with
          | some arr => some (arr, s)
          | none => s.arenaAlloc (s.jobOf k) (arrayBytes (s.handle h).nt)
        match r, (if (mfind (s.handle h).snaps n).isNone then s.allocNeed else none) with
        | _, some e => .error e
        | none, none => .error (.cause 0x0F 9 (handleWord xa))
        | some (arr, s), none =>
          if (s.core k).engineFull 3 then .error (.block (.engineFull 3))
          else .ok (s.acceptEngine (.snap h n arr) (1 + Config.extra s.freeCtr))⟩

/-- Whether snapshot n of a handle is held, or will be once the instructions accepted before have performed. -/
def State.snapHeld (s : State) (t h n : Nat) : Bool :=
  (s.handle h).snap.getLsbD n || (s.tower t).stateq.any fun o => match o.kind with | .snap i m _ => i == h && m == n | _ => false

/-- R344. -/
def gopSroll (g a b : Nat) : GOp :=
  ⟨infoSnap g a b, fun s =>
    let k := s.cur.core
    let i := s.cur.strand
    let xa := s.readX k i a
    let xb := s.readX k i b
    match s.handleLookup k xa with
    | .error e => .error e
    | .ok h =>
      let n := bits xb 1 0
      if bits xb 63 2 ≠ 0 then .error (.cause 0x0F 3 xb)
      else if !s.snapHeld (towerOf k) h n then .error (.cause 0x0F 4 xb)
      else if (s.core k).engineFull 3 then .error (.block (.engineFull 3))
      else .ok (s.acceptEngine (.roll h n) (1 + Config.extra s.freeCtr))⟩

/-- Whether SAVG waits parked for a state (R236, R345): absent, or being paged out. -/
def HEntry.away (h : HEntry) : Bool := h.res == 1 || (h.res == 2 && !h.inward)

/-- Cycles of an SAVG (R345): 8 a tile, and 64 for each operand tile in another slab. -/
def State.avgCycles (s : State) (d a b : Nat) : Nat :=
  let slab (i j : Nat) : Nat := twSlab (rdWord s.mem ((s.handle i).tiles + 8 * j))
  (List.range (s.handle d).nt).foldl (fun n j =>
    n + 8 + (if slab a j = slab d j then 0 else 64) + (if slab b j = slab d j then 0 else 64)) 0

/-- The three states of an SAVG and their agreement (R342, R345). -/
def State.savgCheck (s : State) (d a b : Nat) : Except Stop (Nat × Nat × Nat) :=
  let k := s.cur.core
  let i := s.cur.strand
  match s.handleLookup k (s.readX k i d), s.handleLookup k (s.readX k i a), s.handleLookup k (s.readX k i b) with
  | .error e, _, _ => .error e
  | _, .error e, _ => .error e
  | _, _, .error e => .error e
  | .ok hd, .ok ha, .ok hb =>
    let x := s.handle hd
    let same (u : HEntry) : Bool := u.nt == x.nt && u.fmt16 == x.fmt16
    if !same (s.handle ha) ∨ !same (s.handle hb) then .error (.cause 0x0F 7 (s.readX k i d)) else .ok (hd, ha, hb)

/-- R345. -/
def gopSavg (g d a b w : Nat) (fs : Bool) : GOp :=
  let n := infoState g [.x d, .x a, .x b, .f w] (badF [w]) true d
  ⟨{ n with early := n.early ++ (infoState g [] none true a).early ++ (infoState g [] none true b).early
                       ++ [([.p g, .x d, .x a, .x b], fun s => stopOf (s.savgCheck d a b))] }, fun s =>
    let k := s.cur.core
    let i := s.cur.strand
    match s.savgCheck d a b with
    | .error e => .error e
    | .ok (hd, ha, hb) =>
      match [hd, ha, hb].find? fun n => (s.handle n).away with
        | some n => .error (.park (.absent n 0))
        | none =>
          if (s.core k).engineFull 3 then .error (.block (.engineFull 3))
          else
            let fw := s.readF k i w
            let wv : Nat := if fs then rne ieee32 (fsRead fw).1 else bits fw 31 0
            let cv : Nat := subF ieee32 0x3F800000 wv
            .ok (s.acceptEngine (.avg hd ha hb (BitVec.ofNat 32 wv) (BitVec.ofNat 32 cv)) (s.avgCycles hd ha hb))⟩

/-- R346. -/
def gopSfree (g a : Nat) : GOp :=
  ⟨infoState g [.x a] none true a, fun s =>
    let k := s.cur.core
    match s.handleLookup k (s.readX k s.cur.strand a) with
    | .error e => .error e
    | .ok h =>
      if (s.core k).engineFull 3 then .error (.block (.engineFull 3))
      else .ok (s.acceptEngine (.free h) (1 + Config.extra s.freeCtr))⟩

/-- R347. -/
def gopSmove (g d a b : Nat) : GOp :=
  ⟨{ infoState g [.x a, .x b] none false a with
       pends := [.x d]
       early := (infoState g [] none false a).early ++ [wordEarly g b 6 fun w => bits w 63 15 != 0 || decide (11 < bits w 3 0)] }, fun s =>
    let k := s.cur.core
    let i := s.cur.strand
    let xa := s.readX k i a
    let xb := s.readX k i b
    match s.handleLookup k xa with
    | .error e => .error e
    | .ok h =>
      let rem := bitOf xb 4
      if bits xb 63 15 ≠ 0 ∨ 11 < bits xb 3 0 ∨ (!rem ∧ bits xb 3 0 = (s.handle h).twr) then .error (.cause 0x0F 6 xb)
      else .ok (s.acceptResult d (.move h xb))⟩

/-- R348. -/
def gopSqry (g d a : Nat) : GOp :=
  ⟨{ infoState g [.x a] none false a with pends := [.x d], early := [] }, fun s =>
    let k := s.cur.core
    let i := s.cur.strand
    let xa := s.readX k i a
    let n := bits xa 23 0
    if !s.handleHit k n then .error (.freeze [.handle n])
    else
      let h := s.handle n
      let shared := (s.tileWords h.tiles h.nt).any fun w => decide (1 < (s.tower h.twr).refs w)
      let v : Word := match s.handleFault (towerOf k) (s.jobOf k) xa with
        | some _ => 0
        | none => w64 (2 ^ 63 + h.res * 2 ^ 61 + h.fmt16.toNat * 2 ^ 60 + h.twr * 2 ^ 56 + h.snap.toNat * 2 ^ 52 + h.keep.toNat * 2 ^ 51
            + shared.toNat * 2 ^ 50 + h.nt * 2 ^ 32 + bits xa 31 0)
      .ok ((s.resultVar k i (.x d) (.w v) (some (s.dueIn 8))).spend)⟩

/-! ## The end of a move (R347) -/

/-- Tiles with their kinds, placed unshared on tower t: tile words; none when neither a slot nor a frame is free. -/
def State.placeTiles (s : State) (t : Nat) (fmt16 : Bool) (l : List (Nat × Tile)) : Option (State × List Word) :=
  l.foldl (fun (acc : Option (State × List Word)) e => match acc with
    | none => none
    | some (s, ws) =>
      let x := s.tower t
      if e.1 = 0 then some (s, ws ++ [0])
      else match (if e.1 = 1 then x.freeIn s.freeCtr fmt16 x.allSlabs else none) with
        | some p => some ((s.setTower t { x with slots := mput x.slots p { e.2 with wide := !fmt16 }, slotShare := mput x.slotShare p 1 }).spend, ws ++ [twResident p])
        | none => match s.freeFrames t 1 with
          | f :: _ => some (s.setTower t { x with frames := mput x.frames f e.2, frameShare := mput x.frameShare f 1 }, ws ++ [twPaged f])
          | [] => none) (some (s, []))

/-- A state written at a destination (R347): arrays for the state and its snapshots, a new handle; or the failure code. -/
def State.arriveState (s : State) (t job : Nat) (fmt16 : Bool) (snap : BitVec 4) (tiles : List (Nat × Tile)) : Except Nat (State × Word) :=
  let ns := (List.range 4).filter fun n => snap.getLsbD n
  let nt := tiles.length / (ns.length + 1)
  match s.job? job with
  | none => .error 2
  | some _ => match s.placeTiles t fmt16 tiles with
    | none => .error 4
    | some (u, ws) =>
      let groups := inRows nt (ns.length + 1) ws
      let first := groups.headD []
      let res := if ws.all fun w => twKind w == 1 then 0 else 1
      match u.newHandle t job fmt16 res first with
      | .error c => .error c
      | .ok (u, i) =>
        let r := (ns.zip (groups.drop 1)).foldl (fun (acc : Option State) e => match acc with
          | none => none
          | some s => match s.arenaAlloc job (arrayBytes nt) with
            | none => none
            | some (a, s) => some ((s.setTileWords a e.2).modHandle i fun h => { h with snaps := mput h.snaps e.1 a, snap := h.snap ||| (1 <<< e.1) })) (some u)
        match r with
        | none => .error 2
        | some u => .ok (u, (u.handle i).word i)

/-- Every tile of a state and its snapshots, with kinds, as a reader finds them (R217). -/
def State.tilesOf (s : State) (h : HEntry) : State × List (Nat × Tile) :=
  (h.arrays.flatMap fun a => s.tileWords a h.nt).foldl (fun (acc : State × List (Nat × Tile)) w =>
    let (s, x) := acc.1.readTile h.twr w
    (s, acc.2 ++ [(twKind w, x)])) (s, [])

/-- The flits that carry tile n of a state: of a tile that is all zero its kind alone, else its elements, 128 bytes a flit (R402). -/
def tileFlits (fmt16 : Bool) (n tag : Nat) (e : Nat × Tile) : List FlitPayload :=
  if e.1 = 0 then [.stateTile n 0 false 0 [] tag]
  else
    let c := if fmt16 then 64 else 32
    (inRows c (16384 / c) (padTo 0 16384 e.2.elems)).zipIdx.map fun r => .stateTile n e.1 e.2.poison (c * r.2) r.1 tag

/-- A state leaves for a peer on lane 3 (R347, R403): its header, then its tiles. -/
def State.sendState (s : State) (peer dst : Nat) (h : HEntry) (tag k : Nat) : State × Bool :=
  let (s, l) := s.tilesOf h
  let fs : List FlitPayload := .stateMove (bits (w64 dst) 14 9) (bits (w64 dst) 3 0) h.fmt16 h.snap.toNat l.length tag :: l.zipIdx.flatMap fun e => tileFlits h.fmt16 e.2 tag e.1
  fs.foldl (fun acc f => if acc.2 then acc.1.sendFlit peer 3 6 f tag k else acc) (s, true)

/-- R347: the oldest move of the strand whose bytes are written ends: the source is freed and Xd receives the new handle, or the source is
left as it was and Xd receives the code. -/
def execStateMoveComplete (t f st : Nat) (s : State) : Out :=
  let k := 16 * t + f
  match (s.tower t).stateq.find? fun o => o.core == k && o.strand == st && o.started && o.reqs.isEmpty && o.busy == 0 with
  | none => .next s
  | some o => match o.kind with
    | .move i dst =>
      let h := s.handle i
      let drop (s : State) : State := s.modTower t fun x => { x with stateq := x.stateq.filter fun y => y.uid != o.uid }
      let fail (s : State) (c : Word) : State := ((drop s).modHandle i fun h => { h with res := o.res }).resolve k st o.tag c s.now false
      let done (s : State) (c : Word) : State := ((drop s).freeHandle i).resolve k st o.tag c s.now false
      let finish (s : State) (c : Word) : State := ((if bitOf c 63 then fail s c else done s c).serveStates t).spend
      if bitOf dst 4 then
        match o.answer with
        | some c => .next (finish s c)
        | none =>
          if s.remote.any fun e => decide (e.2 = .move k st o.tag) then .next s
          else
            let peer := bits dst 8 5
            let tag := s.uid
            match ({ s with uid := s.uid + 1 }).sendState peer dst.toNat h tag k with
            | (s, true) => .next { s with remote := mput s.remote tag (.move k st o.tag) }
            | (s, false) => .next (finish s (codeWord 3))
      else
        let u := bits dst 3 0
        let (r, l) := s.tilesOf h
        match r.arriveState u h.job h.fmt16 h.snap l with
        | .error c => .next (finish s (codeWord c))
        | .ok (z, w) =>
          let slabs := z.slabsHeld (z.handle (bits w 23 0))
          if slabs.all (s.tower u).slabAwake then .next (finish (slabs.foldl (fun s b => s.touchSlab u b) z) w) else .next (slabs.foldl (fun s b => s.touchSlab u b) s).spend
    | _ => .next s

/-! ## Meanings -/

/-- R343. Creates a new state handle or forks an existing one. -/
def execSfork (g d a b : Nat) (s : State) : Out := issueGroup [] [gopSfork g d a b] s

/-- R344. Takes snapshot n of a handle's tile words. -/
def execSsnap (g a b : Nat) (s : State) : Out := issueGroup [] [gopSsnap g a b] s

/-- R344. Rolls a handle back to snapshot n. -/
def execSroll (g a b : Nat) (s : State) : Out := issueGroup [] [gopSroll g a b] s

/-- R345. Writes a weighted sum of two states into a third. -/
def execSavg (g d a b w : Nat) (fs : Bool) (s : State) : Out := issueGroup [] [gopSavg g d a b w fs] s

/-- R346. Releases a handle, its tiles and snapshots. -/
def execSfree (g a : Nat) (s : State) : Out := issueGroup [] [gopSfree g a] s

/-- R347. Moves a state and its snapshots to another tower or device. -/
def execSmove (g d a b : Nat) (s : State) : Out := issueGroup [] [gopSmove g d a b] s

/-- R348. Writes a handle's status word. -/
def execSqry (g d a : Nat) (s : State) : Out := issueGroup [] [gopSqry g d a] s

end Sys2Proof.Machine
end

