-- ==== Sys2Proof/Machine/Records.lean ====
section
/-! DEFINITION. Launch records and their checks (R301, R302, R373), the pending-launch pool (R305), task pools with their queues, rings and
dependences (R308 to R312, R328 to R331). -/

namespace Sys2Proof.Machine

/-! ## Launch records (R301) -/

def recKind (w : List Word) : Nat := bits (w.getD 0 0) 1 0
def recEntry (w : List Word) : Word := w.getD 0 0 &&& 0x1FFFFFFFFFFFFF0
def recTrap (w : List Word) : Word := w.getD 1 0 &&& 0x1FFFFFFFFFFFFF0
def recArg (w : List Word) : Word := w.getD 2 0
def recSave (w : List Word) : Nat := bits (w.getD 3 0) 56 12 * 4096
def recJob (w : List Word) : Nat := bits (w.getD 3 0) 5 0
def recTables (w : List Word) : Nat := bits (w.getD 4 0) 56 6 * 64
def recRing (w : List Word) : Nat := bits (w.getD 5 0) 56 12 * 4096
def recRlog (w : List Word) : Nat := bits (w.getD 5 0) 4 0
/-- Gangs of the launch. -/
def recGangs (w : List Word) : Nat := bits (w.getD 6 0) 63 52 + 1
def recCores (w : List Word) : Nat := bits (w.getD 6 0) 51 47
def recGng (w : List Word) : Bool := bitOf (w.getD 6 0) 46
def recSmask (w : List Word) : Nat := bits (w.getD 6 0) 45 42
def recTmask (w : List Word) : Nat := bits (w.getD 6 0) 41 38
def recScr (w : List Word) : Nat := bits (w.getD 6 0) 37 33
def recByp (w : List Word) : Nat := bits (w.getD 6 0) 32 25
def recPool (w : List Word) : Nat := bits (w.getD 6 0) 24 21
def recNdrain (w : List Word) : Nat := bits (w.getD 6 0) 20 14
def recDlim (w : List Word) : Nat := if bits (w.getD 6 0) 13 10 = 0 then 8 else bits (w.getD 6 0) 13 10
def recGtol (w : List Word) : Word := w64 (bits (w.getD 7 0) 31 0)

/-- Bytes of the table block. -/
def recTableLen (w : List Word) : Nat := 128 + 16 * recNdrain w

/-- The drain entries of a table block: start, end, stub (R301). The fourth word of an entry, which the layout reserves, is not looked at (log entry 87). -/
def drainEntries (n : Nat) (tb : List Byte) : List (Int × Int × Int) :=
  (List.range n).map fun j =>
    let e (o : Nat) : Int := sInt 32 (ofLE ((tb.drop (128 + 16 * j + o)).take 4))
    (e 0, e 4, e 8)

/-- Word n of a table block's bank table. -/
def bankWord (tb : List Byte) (n : Nat) : Half := BitVec.ofNat 32 (ofLE ((tb.drop (4 * n)).take 4))

/-- The bank table of a table block, as the BFMT registers hold it: reserved bits read as zero (R8, R134). -/
def bankTable (tb : List Byte) : Map Half := (List.range 32).map fun n => (n, bfmtWrite 0 (bankWord tb n))

/-- The mode that a gang's shape asks of a front end (R323). -/
def shapeMode (gng : Bool) : Nat := if gng then 2 else 1

/-- Front ends of tower t of the shape, within the job's partition. -/
def State.partFronts (s : State) (t : Nat) (j : Job) (gng : Bool) : List Nat :=
  (List.range 16).filter fun f => (j.part.getD t 0).getLsbD f && ((s.tower t).caston.getD f 0).toNat / 2 ^ 14 == shapeMode gng

/-- An open pool of another live launch (R302). -/
def State.poolTaken (s : State) (t p l : Nat) : Bool :=
  match mfind (s.tower t).pools p with
  | some x => !x.finished && x.launch != l
  | none => false

/-- The defects of a record (R302, R373) that its own words show: reason and word. -/
def recordDefects (w : List Word) : List (Nat × Nat) :=
  let g (n : Nat) : Word := w.getD n 0
  let grid := recKind w == 0
  let if_ (c : Bool) (r n : Nat) : List (Nat × Nat) := if c then [(r, n)] else []
  if_ (bits (g 0) 63 57 != 0 || bits (g 0) 3 2 != 0 || recKind w == 3) 1 0
    ++ if_ (bits (g 1) 63 57 != 0 || bits (g 1) 3 0 != 0) 1 1
    ++ if_ (bits (g 3) 63 57 != 0 || bits (g 3) 11 6 != 0) 1 3
    ++ if_ (bits (g 4) 63 57 != 0 || bits (g 4) 5 0 != 0) 1 4
    ++ if_ (bits (g 5) 63 57 != 0 || bits (g 5) 11 5 != 0) 1 5
    ++ if_ (bits (g 6) 9 0 != 0) 1 6
    ++ if_ (!grid && (recRlog w < 6 || 20 < recRlog w)) 2 5
    ++ if_ (recCores w == 0 || 16 < recCores w || (recGng w && 8 < recCores w) || (!grid && 16 < recGangs w) || 64 < recNdrain w || 8 < recDlim w) 2 6
    ++ if_ (recSmask w == 0 || (recTmask w &&& recSmask w) != recTmask w || (!grid && recTmask w == 0)) 3 6
    ++ if_ (30 < recScr w) 4 6
    ++ if_ (grid && (recRing w != 0 || recRlog w != 0)) 7 5
    ++ if_ (grid && (recTmask w != 0 || recPool w != 0)) 7 6

/-- The defects of a table block. Of a drain entry's ends the one named in R302 is checked for its alignment, the end of the range (log entry 86). -/
def tableDefects (w : List Word) (tb : List Byte) : List (Nat × Nat) :=
  (if (List.range 32).all fun n => fmtOk ((bankWord tb n).toNat % 64) then [] else [(5, 4)])
    ++ (if (drainEntries (recNdrain w) tb).all fun e => decide (e.1 < e.2.1) && e.2.1 % 16 == 0 then [] else [(6, 4)])

/-- The record's check on tower t for job j (R302, R373): its table block, or the reason and the word; `more`: defects known otherwise. `l` is the
launch's own number. Of R44's towers the one that is to place the record counts (log entry 85). -/
def State.checkRecord (s : State) (t l : Nat) (j : Job) (w : List Word) (more : List (Nat × Nat) := []) : Except (Nat × Nat) (List Byte) :=
  let tb : List Byte × List (Nat × Nat) :=
    if 64 < recNdrain w then ([], [])
    else match s.vread j.num (recTables w) (recTableLen w) with
      | .error _ => ([], [(9, 4)])
      | .ok (bs, po) => (bs, if po then [(9, 4)] else tableDefects w bs)
  let ds := recordDefects w ++ tb.2 ++ more
    ++ (if recKind w ≠ 0 ∧ s.poolTaken t (recPool w) l then [(7, 6)] else [])
    ++ (if (s.partFronts t j (recGng w)).length < recCores w then [(8, 6)] else [])
  match lowest ds with
  | some e => .error e
  | none => .ok tb.1

/-! ## The pending-launch pool (R305, R306) -/

def Tower.pendEntry (t : Tower) (e : Nat) : PendEntry := mget t.pend e ⟨false, 0, 0⟩

def Tower.pendFree (t : Tower) : List Nat := (List.range 256).filter fun e => !(t.pendEntry e).live

/-- The launch id of an entry. -/
def launchId (t e gen : Nat) : Word := w64 (2 ^ 32 + t * 2 ^ 16 + gen * 2 ^ 8 + e)

/-- Frees the entry of a child launch; strands joined on it become ready (R305, R306). -/
def State.freePend (s : State) (t e : Nat) : State :=
  let x := (s.tower t).pendEntry e
  let s := s.modTower t fun y => { y with pend := mput y.pend e { x with live := false, gen := (x.gen + 1) % 256 } }
  s.wakeAll (.join (launchId t e x.gen)) 3

/-- Reads a 64-byte record at an address as a class-15 load of the issuing strand (R305, R309). -/
def State.readRecord (s : State) (k i : Nat) (a : Word) : Except Stop (State × List Word) :=
  if spaceOf a ≠ .none ∧ !(spaceOf a = .scr ∧ ((s.core k).scrOff a 64).isNone) ∧ a.toNat % 64 ≠ 0 then .error (.cause 0x12 2 a)
  else match s.loadBytes k i 15 a 64 with
    | .error e => .error e
    | .ok (s, bs, po) => if po then .error (.cause 0x15 1 0) else .ok (s, wordsOf 8 bs)

/-! ## Keys (R328) -/

def isHandleKey (k : Word) : Bool := bits k 63 32 == 0xFFFFFFFF
def isArrivalKey (k : Word) : Bool := bitOf k 63 && !isHandleKey k
def isTileKey (k : Word) : Bool := !bitOf k 63
/-- The name under which a key stands in the dependence table. -/
def keyId (k : Word) : Word := if isTileKey k then w64 (bits k 56 0) else k
def withVersion (k : Word) (v : Nat) : Word := w64 (v * 2 ^ 57 + bits k 56 0)

def tCtl (w : List Word) : Word := w.getD 1 0
def tHnd (w : List Word) : Bool := bitOf (tCtl w) 5
def tHandle (w : List Word) : Nat := bits (tCtl w) 63 32
def tIns (w : List Word) : List Word := ((w.drop 2).take 3).filter (· != 0)
def tOuts (w : List Word) : List Word := ((w.drop 5).take 2).filter (· != 0)
/-- The handle key that HND adds to the write set. -/
def tHandleKeys (w : List Word) : List Word := if tHnd w then [w64 (0xFFFFFFFF * 2 ^ 32 + tHandle w)] else []
/-- Keys of the write set that are not renamed. -/
def tWriteKeys (w : List Word) : List Word := (tHandleKeys w ++ (tOuts w).filter fun k => !isTileKey k).eraseDups

/-! ## The dependence table (R329, R330) -/

def depLive (e : DepEntry) : Bool := e.writer.isSome || !e.readers.isEmpty

/-- The current version of an identifier. -/
def depCurrent (d : List DepEntry) (l : Nat) (id : Word) : DepEntry :=
  (d.find? fun e => e.launch == l && e.id == id && e.current).getD { launch := l, id := id, version := 0, current := true, writer := none, readers := [] }

/-- The table with an entry put in the place of that of its launch, identifier and version. -/
def depPut (d : List DepEntry) (e : DepEntry) : List DepEntry :=
  (d.filter fun x => !(x.launch == e.launch && x.id == e.id && x.version == e.version)) ++ [e]

/-- What registration of a record builds: the table, the tasks it waits for, the delivered words. -/
structure Registering where
  dep : List DepEntry
  deps : List Nat
  words : List Word

/-- A read of a key (R330). -/
def regRead (l uid pos : Nat) (r : Registering) : Registering :=
  let k := r.words.getD pos 0
  if k = 0 then r
  else
    let e := depCurrent r.dep l (keyId k)
    { dep := depPut r.dep { e with readers := e.readers ++ [uid] }
      deps := r.deps ++ e.writer.toList.filter (· != uid)
      words := if isTileKey k then r.words.set pos (withVersion k e.version) else r.words }

/-- A write of a tile key (R330): none when the next version is still live. -/
def regWriteTile (l uid pos : Nat) (r : Registering) : Option Registering :=
  let k := r.words.getD pos 0
  if k = 0 ∨ !isTileKey k then some r
  else
    let e := depCurrent r.dep l (keyId k)
    if depLive e then
      let v := (e.version + 1) % 64
      if r.dep.any fun x => x.launch == l && x.id == keyId k && x.version == v && depLive x then none
      else
        let d := depPut r.dep { e with current := false }
        some { r with dep := depPut d { launch := l, id := keyId k, version := v, current := true, writer := some uid, readers := [] }
                      words := r.words.set pos (withVersion k v) }
    else some { r with dep := depPut r.dep { e with writer := some uid }, words := r.words.set pos (withVersion k e.version) }

/-- A write of a handle or arrival key (R330). -/
def regWriteKey (l uid : Nat) (r : Registering) (k : Word) : Registering :=
  let e := depCurrent r.dep l k
  { r with dep := depPut r.dep { e with writer := some uid, readers := e.readers.filter (· == uid) }
           deps := r.deps ++ (e.writer.toList ++ e.readers).filter (· != uid) }

/-- Registration of a record (R329, R330): none when entries are too few or a rename must wait. -/
def registerRec (d : List DepEntry) (l uid : Nat) (w : List Word) : Option Registering :=
  let r : Registering := { dep := d, deps := [], words := w }
  let r := [2, 3, 4].foldl (fun r p => regRead l uid p r) r
  match regWriteTile l uid 5 r with
  | none => none
  | some r => match regWriteTile l uid 6 r with
    | none => none
    | some r =>
      let r := (tWriteKeys w).foldl (regWriteKey l uid) r
      let live := r.dep.filter depLive
      if 4096 < live.length ∨ 1024 < (live.filter fun e => e.launch == l).length then none
      else some { r with deps := r.deps.eraseDups }

/-- A task retires (R330, R331): it stops being a writer and a reader. -/
def depRetire (d : List DepEntry) (uid : Nat) : List DepEntry :=
  (d.map fun e => { e with writer := if e.writer = some uid then none else e.writer, readers := e.readers.filter (· != uid) }).filter fun e => e.current || depLive e

/-! ## Arrivals (R331) -/

def Tower.arrived (t : Tower) (job : Nat) (k : Word) : Bool := t.arrivals.any fun a => a.job == job && a.key == k && a.registered

/-- Awaited entries for the arrival keys that a record names, while the table has room. -/
def Tower.await (t : Tower) (job : Nat) (ks : List Word) : Tower :=
  ks.foldl (fun t k => if (t.arrivals.any fun a => a.job == job && a.key == k) || 1024 ≤ t.arrivals.length then t
    else { t with arrivals := t.arrivals ++ [⟨k, job, false⟩] }) t

/-! ## Stopping a launch (R320, R372) -/

/-- A core that no gang holds: its registers are cold (R122), nothing of the gang's work stays; planes, cached copies and translations do. -/
def Core.freed (c : Core) : Core :=
  { c with gang := none, run := none, gap := 0, issued := false, bubble := false, frozen := none, fills := [], q := [], sq := [], fifo := [], fifoHeld := 0,
           streams := [], failed := false, cmds := [], mmaLeft := 0, mmaBy := none, staging := [], strands := [], held := false, bfmt := [], gtol := 0 }

/-- Frees a core: its dirty lines are written back first (R39, R49); accesses of it that wait are never performed. -/
def State.freeCore (s : State) (k : Nat) : State :=
  let s := (s.writeBack k).modCore k Core.freed
  s.modTower (towerOf k) fun t => { t with
    waits := t.waits.filter fun w => w.core != k, faults := t.faults.filter fun e => e.2 != k, held := t.held.filter fun e => e.1 != k }

/-- Stops a gang for good: its strands issue nothing more and its undrained rows are dropped. -/
def State.stopGang (s : State) (g : Nat) : State :=
  match s.gang? g with
  | none => s
  | some x =>
    let s := match x.phase with
      | .saved => s
      | _ => x.cores.foldl (fun s k => s.freeCore k) s
    { s with gangs := mdel s.gangs g }

/-- What a launch holds on its tower is released: pool, dependences, drain stubs, its place in a launch queue, its pool entry (R305, R320, R332). -/
def State.releaseLaunch (s : State) (l : Nat) : State :=
  match s.launch? l with
  | none => s
  | some x =>
    let s := s.modTower x.tower fun t => { t with
      pools := t.pools.filter fun e => e.2.launch != l
      discards := t.discards.filter fun e => ((mfind t.pools e.2.1).map (·.launch)) != some l
      dep := t.dep.filter fun e => e.launch != l
      stubs := t.stubs.filter fun e => e.1 != l
      lq := t.lq.map fun e => (e.1, e.2.filter fun r => r.launch != some l) }
    let s := match x.child with | some (t, e) => s.freePend t e | none => s
    { s with launches := mdel s.launches l }

/-- A launch is halted (R320, R372): its gangs stop, and everything it holds is released. -/
def State.haltLaunch (s : State) (l : Nat) : State :=
  ((s.gangs.filter fun e => e.2.launch == l).foldl (fun s e => s.stopGang e.1) s).releaseLaunch l

/-! ## Pools (R308 to R312) -/

/-- Whether the pool of the launch of core k is finished; a launch that is gone has none. -/
def State.poolOver (s : State) (k : Nat) : Bool := match s.launchOf k with | some l => l.poolOver | none => true

def State.pool? (s : State) (t p : Nat) : Option Pool := mfind (s.tower t).pools p
def State.setPool (s : State) (t p : Nat) (x : Pool) : State := s.modTower t fun y => { y with pools := mput y.pools p x }
def State.modPool (s : State) (t p : Nat) (f : Pool → Pool) : State := match s.pool? t p with | some x => s.setPool t p (f x) | none => s

/-- Registers the records of a pool's queue in the order in which they entered it, up to the first that must wait (R329). -/
def State.registerPool (s : State) (t p : Nat) : State :=
  match s.pool? t p with
  | none => s
  | some x =>
    let todo := ((x.queue.filter fun r => !r.registered).mergeSort fun a b => decide (a.entered ≤ b.entered)).map (·.uid)
    (todo.foldl (fun (acc : State × Bool) u =>
      let (s, stop) := acc
      if stop then acc
      else match s.pool? t p with
        | none => acc
        | some x => match x.queue.find? fun r => r.uid == u with
          | none => acc
          | some r => match registerRec (s.tower t).dep x.launch u r.words with
            | none => (s, true)
            | some g =>
              let s := s.modTower t fun y => ({ y with dep := g.dep }).await x.job ((tIns r.words).filter isArrivalKey)
              (s.modPool t p fun x => { x with queue := x.queue.map fun q => if q.uid = u then { q with registered := true, delivered := g.words, deps := g.deps } else q }, false))
      (s, false)).1

/-- Every pool of tower t registers what it can (R329), and records registered before ask again for the awaited entries that they found no room for
(R331). -/
def State.registerTower (s : State) (t : Nat) : State :=
  let s := ((s.tower t).pools.map (·.1)).foldl (fun s p => s.registerPool t p) s
  (s.tower t).pools.foldl (fun s e => (e.2.queue.filter (·.registered)).foldl (fun s r =>
    s.modTower t fun y => y.await e.2.job ((tIns r.words).filter isArrivalKey)) s) s

/-- A record enters the queue now. -/
def TaskRec.enter (r : TaskRec) (s : State) : TaskRec := { r with entered := s.uid }

/-- The address of ring record n. -/
def Pool.ringAddr (x : Pool) (n : Nat) : Nat := x.ring.toNat + 64 * (n % 2 ^ x.rlog)

/-- A fault on a ring access halts the launch, with event type 8 (R310). -/
def State.ringFault (s : State) (t : Nat) (x : Pool) (addr : Nat) : State :=
  let tag := match s.launch? x.launch with | some l => l.htag | none => 0
  (s.postJob 8 x.job t tag [w64 addr]).haltLaunch x.launch

/-- Writes a record at the ring's tail (spill), or in front of its head. -/
def State.ringPut (s : State) (t p : Nat) (front : Bool) (r : TaskRec) : State :=
  match s.pool? t p with
  | none => s
  | some x =>
    let n := 2 ^ x.rlog
    let idx := if front then (x.ringHead + n - 1) % n else x.ringHead + x.ringq.length
    let (s, f) := s.vwrite t none x.job (x.ringAddr idx) (bytesOf r.words)
    let s := s.modPool t p fun x => if front then { x with ringHead := idx, ringq := r :: x.ringq } else { x with ringq := x.ringq ++ [r] }
    match f with | some (_, _, a) => s.ringFault t x a | none => s

/-- A record at the head of a pool's queue (R310): none while it must wait. -/
def State.insertHead (s : State) (t p : Nat) (r : TaskRec) : Option State :=
  match s.pool? t p with
  | none => some s
  | some x =>
    let r := r.enter s
    let s := { s with uid := s.uid + 1 }
    if x.queue.length < 32 then some ((s.setPool t p { x with queue := r :: x.queue }).registerPool t p)
    else if 2 ^ x.rlog ≤ x.ringq.length then none
    else
      let s := match x.queue.getLast? with
        | some z => (s.setPool t p { x with queue := x.queue.dropLast }).ringPut t p true z
        | none => s
      some ((s.modPool t p fun x => { x with queue := r :: x.queue }).registerPool t p)

/-- Whether a discard slot of tower t holds a record of pool p. -/
def Tower.discarding (t : Tower) (p : Nat) : Bool := t.discards.any fun e => e.2.1 == p

/-- Whether pool x has no place for a new record (R310). -/
def Pool.blocked (x : Pool) (pri : Bool) : Bool :=
  if pri then x.queue.length == 32 && decide (2 ^ x.rlog ≤ x.ringq.length)
  else !(x.ringq.isEmpty && decide (x.queue.length < 32)) && decide (2 ^ x.rlog ≤ x.ringq.length)

/-- The oldest record of pool p that waits in a discard slot enters the queue, if there is room (R310, R316). -/
def State.serveDiscard (s : State) (t p : Nat) : State :=
  match (s.tower t).discards.find? fun e => e.2.1 == p with
  | none => s
  | some (n, _, r) => match (s.modTower t fun y => { y with discards := mdel y.discards n }).insertHead t p r with
    | some s => s
    | none => s

/-- All of them, as far as there is room. -/
def State.serveDiscards (s : State) (t p : Nat) : State := (s.tower t).discards.foldl (fun s _ => s.serveDiscard t p) s

/-- A pool accepts a record (R310): none when it must wait. Discard slots come before head insertions. -/
def State.acceptTask (s : State) (t p : Nat) (w : List Word) : Option State :=
  let pri := bitOf (tCtl w) 4
  let s := if pri then s.serveDiscards t p else s
  match s.pool? t p with
  | none => none
  | some x =>
    let r : TaskRec := { words := w, orig := w, delivered := w, registered := false, uid := s.uid }
    let s := { s with uid := s.uid + 1 }
    if x.blocked pri then none
    else if pri then s.insertHead t p r
    else if x.ringq.isEmpty ∧ x.queue.length < 32 then some ((({ s with uid := s.uid + 1 }).setPool t p { x with queue := x.queue ++ [r.enter s] }).registerPool t p)
    else some (s.ringPut t p false r)

/-- A record whose reserved bits, entry or pool kind is wrong (R309): of a close marker the control word alone counts (R308). -/
def taskBad (w : List Word) (guardedPool : Bool) : Bool :=
  let c := tCtl w
  bits c 15 8 != 0 || (!bitOf c 5 && bits c 63 32 != 0) || (!bitOf c 6 && bits c 31 16 != 0) || (bitOf c 6 && !guardedPool)
    || (!bitOf c 7 && (bits (w.getD 0 0) 63 57 != 0 || bits (w.getD 0 0) 3 0 != 0))

/-- Whether every condition of R312 for readiness holds. -/
def State.taskReady (s : State) (t job : Nat) (r : TaskRec) : Bool :=
  r.registered && r.deps.isEmpty && ((tIns r.words).filter isArrivalKey).all fun k => (s.tower t).arrived job k

/-- A task of a tower retires: dependences, arrivals of its write set, waiting records (R330, R331). -/
def State.retireTask (s : State) (t _p job uid : Nat) (w : List Word) : State :=
  let ks := (tWriteKeys w).filter isArrivalKey
  let s := s.modTower t fun y => { y with
    dep := depRetire y.dep uid
    arrivals := y.arrivals.filter fun a => !(a.job == job && ks.contains a.key)
    pools := y.pools.map fun e => (e.1, { e.2 with
      queue := e.2.queue.map fun r => { r with deps := r.deps.filter (· != uid) }
      ringq := e.2.ringq.map fun r => { r with deps := r.deps.filter (· != uid) } }) }
  s.registerTower t

end Sys2Proof.Machine
end

