-- ==== Sys2Proof/Machine/Tasks.lean ====
section
/-! DEFINITION. The queue instructions of class 14 (R295 to R317): EWAIT, EPOLL, TSUB, TDONE, LAUNCH, LJOIN, RANGE, GBAR, YIELD, QCNT, SPAGE. -/

namespace Sys2Proof.Machine

def infoQ (g : Nat) (reads : List Reg) : Info := { kind := .extended, reads := .p g :: reads, guard := some g }

/-- R297. -/
def gopEwait (g m : Nat) : GOp :=
  ⟨{ infoQ g [] with irr := true, blocky := true, bad := if m = 0 then some 12 else none }, fun s =>
    if (List.range 6).all fun e => !m.testBit e || s.me.engineCount e == 0 then .ok s else .error (.block (.engines m))⟩

/-- R298. -/
def gopEpoll (g d e : Nat) : GOp :=
  ⟨{ infoQ g [] with writes := [(.x d, 2)], bad := if e < 6 then none else some 12 }, fun s =>
    let x := s.me
    .ok (s.result s.cur.core s.cur.strand (.x d) 2 (.w (w64 (bits (x.engineError e) 63 8 * 256 + x.engineCount e % 16))))⟩

/-! ## Tasks -/

/-- R309, R310. -/
def gopTsub (g a : Nat) : GOp :=
  ⟨{ infoQ g [.x a] with irr := true, blocky := true }, fun s =>
    let k := s.cur.core
    let i := s.cur.strand
    let t := towerOf k
    let xa := s.readX k i a
    match s.readRecord k i xa with
    | .error e => .error e
    | .ok (s, w) =>
      let p := bits (tCtl w) 3 0
      let pool := (s.pool? t p).filter fun x => !x.finished && x.job == s.jobOf k
      let grd := match pool with | some x => x.guarded | none => true
      if taskBad w grd then .error (.cause 0x0E 1 xa)
      else match pool with
        | none => .error (.cause 0x0E 2 xa)
        | some x =>
          let mine := match s.me.task with | some r => r.pool == p && !r.retiring | none => false
          if x.closed ∧ !mine then .error (.cause 0x0E 2 xa)
          else if bitOf (tCtl w) 7 then .ok (s.modPool t p fun x => { x with closed := true })
          else
            let s := s.release k i
            if !s.released k i then .error (.freeze [.release])
            else match s.acceptTask t p w with
              | some s => .ok s
              | none => .error (.block (.poolFull p (bitOf (tCtl w) 4)))⟩

/-- The strand is a task strand of a pool or guarded launch (R315). -/
def State.isTaskStrand (s : State) (k i : Nat) : Bool :=
  match s.gangOf k, s.launchOf k with
  | some g, some l => recKind l.words != 0 && g.tmask.getLsbD i
  | _, _ => false

/-- The exact record of a discarded guarded task (R316). -/
def exactRecord (w : List Word) : List Word :=
  let c := tCtl w
  let e := w.getD 0 0 + wInt (16 * sInt 16 (bits c 31 16))
  (w.set 0 e).set 1 (setBits (setBits c 31 16 0) 6 6 0)

/-- The residual passes the guard (R135, R316). -/
def guardPasses (tol : Word) (res : Nat) : Bool :=
  let r := ieee32.decode res
  let t := ieee32.decode (bits tol 31 0)
  !r.isNan && !t.isNan && (r.lt t || r.eqv t)

/-- R315, R316: TDONE with TM = 0 offers the strand for work; else it ends the task and offers it again. The slot is given up as at a GBAR, with the
bubble in the cycle after the group (log entry 83). -/
def gopTdone (g : Nat) : GOp :=
  ⟨{ infoQ g [] with irr := true, blocky := true, phase := 4 }, fun s =>
    let k := s.cur.core
    let i := s.cur.strand
    let t := towerOf k
    let x := s.me
    let park (s : State) : State :=
      let s := (s.takeWait k i 4 (w64 i)).1.modStrand k i fun x => { x with st := .parked .task }
      { s with cur := { s.cur with give := true } }
    let shut (x : Strand) : Strand := { x.setTM false with rown := x.rown + 1 }
    if !s.isTaskStrand k i then .error (.cause 0x0E 7 0)
    else match x.task with
    | none => .ok (park s)
    | some r =>
      if !x.tm then .ok (park s)
      else if !r.guarded then .ok (park (s.modStrand k i fun x => { shut x with task := some { r with retiring := true } }))
      else
        let c := s.core k
        if !s.canPop k 6 then .error (.block (.queueEmpty 6))
        else
          let v := ((c.port 6).head?.map (·.val)).getD 0
          if bits v 33 32 ≠ i then .error (.cause 0x0E 8 v)
          else
            let s := s.popX k 62
            if guardPasses c.gtol (bits v 31 0) ∧ !r.overflow then
              .ok (park ((s.modStrand k i fun x => { shut x with task := some { r with retiring := true } }).bump t 0x10A))
            else if (mfind (s.tower t).discards (4 * k + i)).isSome then .error (.block (.poolFull r.pool true))
            else
              let rec' : TaskRec := { words := exactRecord r.orig, orig := exactRecord r.orig, delivered := exactRecord r.words, registered := true, uid := r.uid
                                      bypass := r.bypass }
              let s := s.modStrand k i fun x => { x.setTM false with rows := x.rows.take r.fill, task := none }
              let s := (s.bump t 0x10B).modTower t fun y => { y with discards := mput y.discards (4 * k + i) (r.pool, rec') }
              .ok (park s)⟩

/-! ## Launches -/

/-- R305. -/
def gopLaunch (g d a : Nat) : GOp :=
  ⟨{ infoQ g [.x a] with pends := [.x d], irr := true }, fun s =>
    let k := s.cur.core
    let i := s.cur.strand
    let t := towerOf k
    let xa := s.readX k i a
    match s.readRecord k i xa with
    | .error e => .error e
    | .ok (s, w) =>
      let s := s.release k i
      if !s.released k i then .error (.freeze [.release])
      else match s.launchOf k, s.job? (s.jobOf k) with
      | some par, some j =>
        let due := if spaceOf xa = .scr then s.now + Config.pick s.freeCtr 40 % 40 else s.dueIn 47
        let answer (s : State) (v : Word) : State := (s.resultVar k i (.x d) (.w v) (some due)).spend
        match s.checkRecord t s.uid j w with
        | .error _ => .ok (answer s (codeWord 3))
        | .ok tb =>
          if par.limit < par.depth + 1 then .ok (answer s (codeWord 2))
          else match freeOf (s.freeCtr + 1) (s.tower t).pendFree with
            | none => .ok (answer s (codeWord 1))
            | some e =>
              let l := s.uid
              let pe := (s.tower t).pendEntry e
              let nl : Launch := { words := w, table := tb, job := j.num, child := some (t, e), parentTask := if s.me.tm then s.me.task.map (·.uid) else none
                                   depth := par.depth + 1, limit := min par.limit (recDlim w), tower := t, fn := par.fn, order := l }
              let s := { s with uid := s.uid + 1, launches := mput s.launches l nl }
              let s := s.modTower t fun x => { x with pend := mput x.pend e { pe with live := true, launch := l } }
              .ok (answer s (launchId t e pe.gen))
      | _, _ => .ok ((s.resultVar k i (.x d) (.w (codeWord 3)) (some (s.dueIn 40))).spend)⟩

/-- R306. -/
def gopLjoin (g a : Nat) : GOp :=
  ⟨{ infoQ g [.x a] with irr := true, blocky := true }, fun s =>
    let k := s.cur.core
    let i := s.cur.strand
    let id := s.readX k i a
    let e := (s.tower (towerOf k)).pendEntry (bits id 7 0)
    let live := e.live && e.gen == bits id 15 8
    let child := s.launch? e.launch
    if bits id 63 33 ≠ 0 ∨ !bitOf id 32 ∨ bits id 31 20 ≠ 0 ∨ bits id 19 16 ≠ towerOf k then .error (.cause 0x0E 6 id)
    else if live ∧ s.cur.tm ∧ (child.bind (·.parentTask)) ≠ s.me.task.map (·.uid) then .error (.cause 0x0D 2 id)
    else if live ∧ (child.map (·.job)) ≠ some (s.jobOf k) then .error (.cause 0x0E 6 id)
    else if live then .error (.park (.join id))
    else .ok (s.acquire k)⟩

/-- R307. -/
def gopRange (g d a b : Nat) : GOp :=
  ⟨{ infoQ g [.x a, .x b] with
       pends := [.x d], irr := true
       early := [([.p g, .x a], fun s => let w := s.readX s.cur.core s.cur.strand a; if bits w 63 5 ≠ 0 then some (.cause 0x0E 9 w) else none)] }, fun s =>
    let k := s.cur.core
    let i := s.cur.strand
    let xa := s.readX k i a
    let xb := s.readX k i b
    let c := bits xa 3 0
    let mn := bits xb 47 32
    let kk := bits xb 55 48
    let w := bits xb 63 56
    if bitOf xa 4 ∧ (mn = 0 ∨ kk = 0 ∨ w = 0) then .error (.cause 0x0E 5 xb)
    else if bits xa 63 5 ≠ 0 then .error (.cause 0x0E 9 xa)
    else
      let li := match s.gangOf k with | some g => g.launch | none => 0
      let l := s.launch? li
      let r := (l.map (·.range)).getD []
      let (nx, rm, m, kw) := mget r c (0, 0, 1, 1)
      let n := min rm (max m (cdiv rm kw))
      let (v, e) : Word × (Nat × Nat × Nat × Nat) :=
        if bitOf xa 4 then (0, (0, bits xb 31 0, mn, kk * w)) else (w64 (n * 2 ^ 32 + nx % 2 ^ 32), (nx + n, rm - n, m, kw))
      let due := max (s.dueIn 16) (mget ((l.map (·.rangeBusy)).getD []) c 0 + 4)
      let s := s.modLaunch li fun l => { l with range := mput l.range c e, rangeBusy := mput l.rangeBusy c due }
      .ok ((s.resultVar k i (.x d) (.w v) (some due)).spend)⟩

/-! ## Barriers (R300) -/

def gopGbar (g : Nat) : GOp :=
  ⟨{ infoQ g [] with blocky := true, phase := 4 }, fun s =>
    let k := s.cur.core
    let i := s.cur.strand
    if s.cur.tm then .error (.cause 0x0D 1 0)
    else
      let s := s.modStrand k i fun x => { x with st := .atBarrier }
      let s := match (s.core k).gang with
        | some n => s.modGang n fun g => { g with arrived := g.arrived ++ [g.gsi k i], lastAt := s.now }
        | none => s
      .ok { s with cur := { s.cur with give := true } }⟩

def gopYield (g : Nat) : GOp :=
  ⟨{ infoQ g [] with blocky := true, phase := 4 }, fun s => .ok { s with cur := { s.cur with give := true } }⟩

/-- The value that a selector of QCNT names (R299). -/
def State.queueCount (s : State) (k i sel : Nat) : Option Nat :=
  let t := s.tower (towerOf k)
  let n := sel % 16
  let open? := (mfind t.pools n).filter fun x => !x.finished
  match sel / 16 with
  | 0 => if n < 8 then some ((s.core k).port n).length else none
  | 1 => if n < 6 then some ((s.strand k i).engineCount n) else none
  | 2 => if n < 6 then some ((s.core k).outstanding n) else none
  | 3 => some ((open?.map fun x => x.queue.length).getD 0)
  | 4 => some ((open?.map fun x => x.ringq.length).getD 0)
  | 5 => if n = 0 then some t.pendFree.length else none
  | 6 => if n < 8 then some (mget t.lq n []).length else none
  | 7 => if n = 0 then some (s.core k).staging.length else none
  | _ => none

def gopQcnt (g d a : Nat) : GOp :=
  ⟨{ infoQ g [.x a] with writes := [(.x d, 2)] }, fun s =>
    let k := s.cur.core
    let i := s.cur.strand
    let xa := s.readX k i a
    match (if bits xa 63 8 = 0 then s.queueCount k i (bits xa 7 0) else none) with
    | some n => .ok (s.result k i (.x d) 2 (.w (w64 n)))
    | none => .error (.cause 0x0E 3 xa)⟩

/-- R317. -/
def gopSpage (g a b : Nat) : GOp :=
  ⟨{ infoQ g [.x a, .x b] with
       irr := true
       early := [([.p g, .x b], fun s => let w := s.readX s.cur.core s.cur.strand b; if bits w 63 2 ≠ 0 then some (.cause 0x0E 4 w) else none)] }, fun s =>
    let k := s.cur.core
    let i := s.cur.strand
    let xa := s.readX k i a
    let xb := s.readX k i b
    let t := towerOf k
    if bits xb 63 2 ≠ 0 then .error (.cause 0x0E 4 xb)
    else match s.handleFault t (s.jobOf k) xa with
      | some _ => .ok s
      | none =>
        if 64 ≤ (s.tower t).hints.length then .ok (s.bump t 0x106)
        else .ok (s.modTower t fun x => { x with hints := x.hints ++ [(bits xa 23 0, bits xb 1 0)] })⟩

/-- R313, R314: whether the L2 probe of a key hits. -/
def State.l2hit (s : State) (t job : Nat) (key : Word) : Bool :=
  let va := bits key 56 0
  match (s.tower t).tlb2.find? fun e => e.hits job va with
  | some e => (mfind (s.tower t).l2 (e.pa va / 128)).isSome
  | none => false

/-- A record whose state's tile 0 is resident may run only on the core bound to that tile's slab (R312). -/
def State.mayRunOn (s : State) (k : Nat) (w : List Word) : Bool :=
  let h := s.handle (bits (w64 (tHandle w)) 23 0)
  let tw := rdWord s.mem h.tiles
  !tHnd w || !h.v || h.gen != bits (w64 (tHandle w)) 31 24 || twKind tw != 1 || (h.twr == towerOf k && (s.slabsOf k).contains (twSlab tw))

/-- The record that the dispatcher chooses for core k among a pool's candidates (R313), and the queue with its bypass counts. -/
def State.pickTask (s : State) (t k : Nat) (x : Pool) : Option (TaskRec × List TaskRec) :=
  let c (r : TaskRec) : Bool := s.taskReady t x.job r && s.mayRunOn k r.words
  let hit (r : TaskRec) : Bool := s.l2hit t x.job (r.words.getD 2 0)
  match x.queue.find? c with
  | none => none
  | some o =>
    let rest (u : Nat) (q : List TaskRec) : List TaskRec := q.filter fun r => r.uid != u
    if o.bypass < x.byp ∧ !hit o then
      match x.queue.find? fun r => c r && hit r with
      | some h =>
        let older := x.queue.takeWhile fun r => r.uid != h.uid
        let q := x.queue.map fun r => if c r && older.any fun z => z.uid == r.uid then { r with bypass := r.bypass + 1 } else r
        some (h, rest h.uid q)
      | none => some (o, rest o.uid x.queue)
    else some (o, rest o.uid x.queue)

/-- The pool that core k serves. -/
def State.poolOf (s : State) (k : Nat) : Option (Nat × Pool) :=
  match s.gangOf k, s.launchOf k with
  | some g, some l =>
    if recKind l.words ≠ 0 ∧ g.phase = .running then
      match s.pool? (towerOf k) (recPool l.words) with
      | some x => if x.launch = g.launch then some (recPool l.words, x) else none
      | none => none
    else none
  | _, _ => none

/-- The dispatcher's next assignment on tower t: core, pool, record, the queue without it (R312, R313). -/
def State.nextAssignment (s : State) (t : Nat) : Option (Nat × Nat × TaskRec × List TaskRec) :=
  if s.now < (s.tower t).dispatchAt then none
  else pick1 (fun n =>
    let k := 16 * t + ((s.tower t).lastServed + 1 + n) % 16
    match s.poolOf k with
    | none => none
    | some (p, x) =>
      if 2 ≤ (s.core k).staging.length ∨ 8 < ((s.core k).port 7).length then none
      else match s.pickTask t k x with
        | some (r, q) => some (k, p, r, q)
        | none => none) (List.range 16)

/-- R313, R314: one ready record is pushed into Q7 of a core and staged. -/
def execTaskDispatch (t : Nat) (s : State) : Out :=
  match s.nextAssignment t with
  | none => .next s
  | some (k, p, r, q) =>
    let s := s.modPool t p fun x => { x with queue := q }
    let s := s.modTower t fun y => { y with lastServed := k % 16, dispatchAt := s.now + 1 }
    let es := r.delivered.map fun w => (QEntry.mk s.uid true w 4)
    let st : Staged := { words := r.delivered, orig := r.orig, uid := r.uid, pool := p, guarded := bitOf (tCtl r.words) 6, stagedAt := s.now, bypass := r.bypass }
    let s := s.modCore k fun c => { c with q := mput c.q 7 (c.port 7 ++ es), staging := c.staging ++ [st] }
    .next ({ s with uid := s.uid + 1 }.registerPool t p)

/-- The strand of core k on which a staged task may start, and the task (R314). -/
def State.nextStart (s : State) (k : Nat) : Option (Nat × Staged) :=
  let t := towerOf k
  let c := s.core k
  let ready (z : Staged) : Bool :=
    ((tIns z.words).filter isTileKey).all (fun key => (c.tagSlot key).isSome) && ((tIns z.words).filter isArrivalKey).all fun key => (s.tower t).arrived (s.jobOf k) key
  let free (i : Nat) : Bool := s.isTaskStrand k i && decide ((c.strand i).st = .parked .task) && (c.strand i).task.isNone
  match (s.gangOf k).map (·.phase), c.staging.find? ready, (List.range 4).find? free with
  | some GangPhase.running, some z, some i => some (i, z)
  | _, _, _ => none

/-- R139, R314: a staged task starts on a parked task strand, with an acquire of device scope (R292); its first group may issue at a free moment
within 14 cycles (R440). -/
def execTaskStart (t f : Nat) (s : State) : Out :=
  let k := 16 * t + f
  match s.nextStart k with
  | none => .next s
  | some (i, z) =>
    let s := s.modCore k fun c => { c with staging := c.staging.filter fun y => y.uid != z.uid }
    let s := s.acquire k
    let s := (s.wake k i 4).modStrand k i fun x =>
      { ((x.setX 1 (z.words.getD 7 0)).setX 2 (tCtl z.words)).setTM true with
          spc := s.spcAt k (z.words.getD 0 0 &&& 0x1FFFFFFFFFFFFF0)
          startAt := s.now + Config.pick s.freeCtr 14 % 14
          task := some { words := z.words, orig := z.orig, uid := z.uid, pool := z.pool, guarded := z.guarded, fill := x.rows.length, bypass := z.bypass } }
    let s := s.spend
    .next (match s.poolOf k with | some (p, _) => s.registerPool t p | none => s)

/-- R310: one record moves from the ring's head to the queue's tail. -/
def execRingRefill (t pool : Nat) (s : State) : Out :=
  match s.pool? t pool with
  | none => .next s
  | some x =>
    if x.queue.length < 32 ∧ x.refillAt ≤ s.now ∧ !(s.tower t).discarding pool ∧ s.vmay x.job (x.ringAddr x.ringHead) 64 then
      match x.ringq with
      | [] => .next s
      | r :: rest =>
        match s.vread x.job (x.ringAddr x.ringHead) 64 with
        | .error (_, _, a) => .next (s.ringFault t x a)
        | .ok (bs, _) =>
          let s := (s.vfetch t x.job (x.ringAddr x.ringHead) 64).1
          let w := wordsOf 8 bs
          let r := if r.registered then r else { r with words := w, delivered := w }
          .next ((({ s with uid := s.uid + 1 }).setPool t pool
            { x with ringq := rest, ringHead := (x.ringHead + 1) % 2 ^ x.rlog, queue := x.queue ++ [r.enter s], refillAt := s.now + 8 }).registerPool t pool)
    else .next s

/-- A registration in a tower's arrival table (R331): none while the table is full. -/
def State.registerArrival (s : State) (t job : Nat) (key : Word) : Option State :=
  let x := s.tower t
  if x.arrivals.any fun a => a.job == job && a.key == key then
    some (s.setTower t { x with arrivals := x.arrivals.map fun a => if a.job = job ∧ a.key = key then { a with registered := true } else a })
  else if x.arrivals.length < 1024 then some (s.setTower t { x with arrivals := x.arrivals ++ [⟨key, job, true⟩] })
  else none

/-- R331: an arrival key is registered; while the table is full the registration waits. -/
def execArrivalRegistration (t job : Nat) (key : Word) (s : State) : Out :=
  match s.registerArrival t job key with
  | some s => .next s
  | none => .next { s with agenda := s.agenda ++ [(s.now + 1, .arrivalRegistration t job key)] }

/-! ## Meanings -/

/-- R297. Blocks until the strand's commands on the named engines complete. -/
def execEwait (g m : Nat) (s : State) : Out := issueGroup [] [gopEwait g m] s

/-- R298. Writes the strand's count and error word for one engine. -/
def execEpoll (g d e : Nat) (s : State) : Out := issueGroup [] [gopEpoll g d e] s

/-- R309. Submits a task record to a pool. -/
def execTsub (g a : Nat) (s : State) : Out := issueGroup [] [gopTsub g a] s

/-- R315. Retires the current task, or offers the strand for work, and parks for the next. -/
def execTdone (g : Nat) (s : State) : Out := issueGroup [] [gopTdone g] s

/-- R305. Places a child launch in the pending-launch pool. -/
def execLaunch (g d a : Nat) (s : State) : Out := issueGroup [] [gopLaunch g d a] s

/-- R306. Waits for a child launch to complete. -/
def execLjoin (g a : Nat) (s : State) : Out := issueGroup [] [gopLjoin g a] s

/-- R307. Initialises a range counter or takes a chunk from it. -/
def execRange (g d a b : Nat) (s : State) : Out := issueGroup [] [gopRange g d a b] s

/-- R300. Arrives at the gang barrier and gives up the slot. -/
def execGbar (g : Nat) (s : State) : Out := issueGroup [] [gopGbar g] s

/-- R300. Gives up the issue slot and stays ready. -/
def execYield (g : Nat) (s : State) : Out := issueGroup [] [gopYield g] s

/-- R299. Writes the occupancy of a selected queue. -/
def execQcnt (g d a : Nat) (s : State) : Out := issueGroup [] [gopQcnt g d a] s

/-- R317. Passes a prefetch, evict, keep or release hint to the pager. -/
def execSpage (g a b : Nat) (s : State) : Out := issueGroup [] [gopSpage g a b] s

end Sys2Proof.Machine
end

