-- ==== Sys2Proof/Machine/Copy.lean ====
section
/-! DEFINITION. Copies and pushes (R269 to R276): descriptors, the elements they enumerate, conversions with block scales, the transfers of
engines 4 and 5 under their gauges (R355 to R357), and their completions. -/

namespace Sys2Proof.Machine

/-! ## Descriptors (R270, R271) -/

structure Dim where
  count : Nat
  src : Int
  dst : Int
deriving DecidableEq, Repr

structure Desc where
  ctl : Word
  src : Word
  dst : Word
  scale : Word
  key : Word
  dims : List Dim
  /-- The first defect that the words show (R275 status 1). -/
  bad : Bool
deriving DecidableEq, Repr

def Desc.sfmt (d : Desc) : Nat := bits d.ctl 63 58
def Desc.dfmt (d : Desc) : Nat := bits d.ctl 57 52
def Desc.sfb (d : Desc) : Bool := bitOf d.ctl 51
def Desc.dfb (d : Desc) : Bool := bitOf d.ctl 50
def Desc.sat (d : Desc) : Bool := bitOf d.ctl 49
def Desc.scl (d : Desc) : Bool := bitOf d.ctl 48
def Desc.acq (d : Desc) : Bool := bitOf d.ctl 47
def Desc.rel (d : Desc) : Bool := bitOf d.ctl 46
def Desc.scope (d : Desc) : Nat := bits d.ctl 45 43
def Desc.rank (d : Desc) : Nat := bits d.ctl 42 40
def Desc.rtwr (d : Desc) : Nat := bits d.ctl 39 36
def Desc.rjob (d : Desc) : Nat := bits d.ctl 35 30
/-- Elements of the enumeration (R272). -/
def Desc.elems (d : Desc) : Nat := d.dims.foldl (fun n x => n * x.count) 1

/-- A descriptor's 160 bytes. A field that R270 and R271 call zero in its case, and that is not, is a defect like a reserved bit (log entry 81). -/
def parseDesc (bs : List Byte) : Desc :=
  let word (o : Nat) : Word := BitVec.ofNat 64 (ofLE ((bs.drop o).take 8))
  let dim (n : Nat) : Nat := ofLE ((bs.drop (0x30 + 16 * n)).take 16)
  let ctl := word 0
  let rank := bits ctl 42 40
  let ds := (List.range rank).map fun n =>
    ({ count := dim n % 2 ^ 32, src := sInt 48 (dim n / 2 ^ 32), dst := sInt 48 (dim n / 2 ^ 80) } : Dim)
  let bad := rank == 0 || ds.any (fun x => x.count == 0) || (List.range 7).any (fun n => decide (rank ≤ n) && dim n != 0)
    || bits ctl 29 0 != 0 || word 0x28 != 0 || decide (5 < bits ctl 45 43) || decide (11 < bits ctl 39 36)
    || (if bitOf ctl 51 then bits ctl 63 58 != 0 else !fmtOk (bits ctl 63 58))
    || (if bitOf ctl 50 then bits ctl 57 52 != 0 || bitOf ctl 49 else !fmtOk (bits ctl 57 52))
    || (!bitOf ctl 48 && word 0x18 != 0)
  { ctl := ctl, src := word 8, dst := word 16, scale := word 24, key := word 32, dims := ds, bad := bad }

/-- The offset of element n on one side (R272). -/
def elemOffset (f : Dim → Int) : List Dim → Nat → Int
  | [], _ => 0
  | d :: r, n => ((n % d.count : Nat) : Int) * f d + elemOffset f r (n / d.count)

/-- The address of element n. -/
def Desc.srcAt (d : Desc) (n : Nat) : Word := d.src + wInt (elemOffset (·.src) d.dims n)
def Desc.dstAt (d : Desc) (n : Nat) : Word := d.dst + wInt (elemOffset (·.dst) d.dims n)

/-- Where one side's elements stand: format, and the bank that SFB or DFB fixes. -/
def sideFmt (bf : Map Half) (fb : Bool) (fmt : Nat) (base : Word) : Nat := if fb then (mget bf (bankOf base) 0).toNat % 64 else fmt

/-- Whether an address of e bytes is misplaced: misaligned, or outside the base's bank under SFB or DFB (R272). -/
def misplaced (fb : Bool) (base a : Word) (e : Nat) : Bool :=
  a.toNat % e != 0 || (fb && (spaceOf a != .scr || bits a 56 20 != 0 || bankOf a != bankOf base))

/-! ## Reading and writing elements -/

/-- A failure of a transfer: status and first faulting address (R275). -/
abbrev Fail := Nat × Word

/-- The machine as the copy and push engines of core k read global memory. Of a line that the tower's L2 holds they may read that copy, stale where the
line's home is another tower, or the home's: which is open (R281 items 3 and 4). The reading draws as many free values as L2 holds lines. -/
def State.copyView (s : State) (k : Nat) : State :=
  let l2 := (s.tower (towerOf k)).l2
  let m := (chosenOf s.freeCtr (l2.map (·.1))).foldl (fun m ln => match mfind l2 ln with | some z => wrBytes m (ln * 128) z.data | none => m) s.mem
  ({ s with mem := m }).engineView k

/-- The free values that a copyView draws are spent. -/
def State.viewed (s : State) (k : Nat) : State := { s with freeCtr := s.freeCtr + (s.tower (towerOf k)).l2.length }

/-- n bytes as an engine of core k reads them; v is the machine as it sees global memory. -/
def State.engineBytes (s v : State) (k job : Nat) (a : Word) (n : Nat) : Except Fail (List Byte × State) :=
  match spaceOf a with
  | .none => .error (2, a)
  | .scr => match (s.core k).scrOff a n with
    | none => .error (2, a)
    | some o =>
      let (s, bs, po) := s.scrRead k o n
      if po then .error (3, a) else .ok (bs, s)
  | .glob => match ({ v with freeCtr := s.freeCtr }).vread job a.toNat n with
    | .error (_, _, f) => .error (2, w64 f)
    | .ok (bs, po) =>
      let (s, bad) := s.vused (towerOf k) job a.toNat n
      if po || bad then .error (3, a) else .ok (bs, s.spend)

/-- Writes bytes as an engine of core k does (R272): near array at once, global addresses at L2 on their way home; `tag` is its command. -/
def State.engineWrite (s : State) (k i job tag : Nat) (a : Word) (bs : List Byte) : State × Option Fail :=
  match spaceOf a with
  | .none => (s, some (2, a))
  | .scr => match (s.core k).scrOff a bs.length with
    | none => (s, some (2, a))
    | some o => (s.modCore k fun c => c.scrWrite o bs, none)
  | .glob => match s.vwrite (towerOf k) (some (k, i)) job a.toNat bs tag with
    | (s, some (_, _, f)) => (s, some (2, w64 f))
    | (s, none) => (s, none)

/-- The largest finite magnitude of a binary8 format. -/
def b8Max (fmt : Nat) : Quo := match (bin8Of fmt).decode (bin8Of fmt).maxCode with | .num _ q => q | _ => ⟨1, 1⟩

/-- The scale code of a block (R273): the least s with M ≤ max × 2^s, by search from below. -/
def blockScale (fmt : Nat) (vals : List FVal) : Nat :=
  let m := vals.foldl (fun (a : Quo) v => match v with | .num _ q => if a.lt q.abs then q.abs else a | _ => a) ⟨0, 1⟩
  if m.isZero then 127
  else
    let e0 := quoLog2 m - quoLog2 (b8Max fmt) - 2
    let sv : Int := ((List.range 5).map fun (i : Nat) => e0 + (i : Int)).find? (fun x => m.le ((b8Max fmt).mul (pow2 x))) |>.getD (e0 + 4)
    (clamp 0 254 (127 + sv)).toNat

/-- A value divided by 2^(e − 127), exactly. -/
def unscale (e : Nat) : FVal → FVal
  | .num n q => .num n (q.mul (pow2 (127 - (e : Int))))
  | v => v

/-- The destination codes of source codes, and the scale bytes (R272, R273). -/
def convertAll (sf df : Nat) (sat scl : Bool) (codes : List Nat) : List Nat × List Nat :=
  if !scl then (codes.map (moveFmt sf df sat), [])
  else
    let blocks := inRows 32 (codes.length / 32) codes
    let es := blocks.map fun b => blockScale df (b.map (decodeFmt sf))
    (((blocks.zip es).flatMap fun e => e.1.map fun c => convertFmt df sat (unscale e.2 (decodeFmt sf c))), es)

/-- A transfer's conversion: source and destination formats, saturation, block scales, and the descriptor of the destination side with its DFB. -/
structure Relay where
  sf : Nat
  df : Nat
  sat : Bool
  scl : Bool
  dst : Desc
  fb : Bool
deriving DecidableEq, Repr

/-- What source codes of elements write: each its element, and of whole blocks of 32 the scale bytes (R272, R273); an element out of place is a
failure. -/
def Relay.items (x : Relay) (l : List (Nat × Nat)) : Except Fail (List (Word × List Byte)) :=
  let e := fmtBytes x.df
  let (cs, ss) := convertAll x.sf x.df x.sat x.scl (l.map (·.2))
  let at_ (c : (Nat × Nat) × Nat) : Word := x.dst.dstAt c.1.1
  match (l.zip cs).find? fun c => misplaced x.fb x.dst.dst (at_ c) e with
  | some c => .error (1, at_ c)
  | none => .ok ((l.zip cs).map (fun c => (at_ c, toLE e c.2))
      ++ ss.zipIdx.map fun b => (x.dst.scale + w64 ((l.getD (32 * b.2) (0, 0)).1 / 32), [BitVec.ofNat 8 b.1]))

/-- Status 1 of a copy's descriptor that its words and banks show (R275); an arrival key is one of them (log entry 81). -/
def Desc.copyBad (d : Desc) (df : Nat) : Bool :=
  d.bad || (d.sfb && spaceOf d.src != .scr) || (d.dfb && spaceOf d.dst != .scr) || (d.scl && (d.elems % 32 != 0 || 28 ≤ df)) || d.key != 0

/-- The conversion of a copy. -/
def Desc.relay (d : Desc) (bf : Map Half) : Relay :=
  { sf := sideFmt bf d.sfb d.sfmt d.src
    df := sideFmt bf d.dfb d.dfmt d.dst
    sat := if d.dfb then (mget bf (bankOf d.dst) 0).getLsbD 7 else d.sat
    scl := d.scl, dst := d, fb := d.dfb }

/-! ## PUSH (R274) -/

/-- A write of the receiving side under RJOB's tables, part of the transfer `tag`: every page written must carry PIN (R274, R275). -/
def State.pinWrite (s : State) (t job tag : Nat) (a : Word) (bs : List Byte) : State × Option Fail :=
  if spaceOf a ≠ .glob then (s, some (1, a))
  else match s.vaddr job a.toNat true with
    | .error _ => (s, some (2, a))
    | .ok (_, e) =>
      if !e.pin then (s, some (5, a))
      else match s.vwrite t none job a.toNat bs tag with
        | (s, some (_, _, f)) => (s, some (2, w64 f))
        | (s, none) => (s, none)

/-- The bytes of a receiver's descriptor on this device: at the virtual address that the sender named, under its job's tables as they stand now, so
that a migration of its page is followed (R214, R269). -/
def State.recvBytes (s : State) (job : Nat) (a : Word) : Except Fail (List Byte × Bool) :=
  match s.vread job a.toNat 160 with
  | .error (_, _, f) => .error (2, w64 f)
  | .ok r => .ok r

/-- What is wrong with a receiver's descriptor of those bytes, for n elements (R274, R275). -/
def State.descCheckAt (s : State) (bs : List Byte) (n : Nat) : Desc × Option Word :=
  let d := parseDesc bs
  (d, if d.bad ∨ d.key ≠ 0 ∨ d.dfb ∨ d.sfb ∨ spaceOf d.dst ≠ .glob ∨ (d.scl ∧ spaceOf d.scale ≠ .glob) ∨ (d.scl ∧ (d.elems % 32 ≠ 0 ∨ 28 ≤ d.dfmt)) then some (completion 1 0)
    else if d.elems ≠ n ∨ (s.job? d.rjob).isNone then some (completion 4 0)
    else none)

/-- The receiver's descriptor, for n elements, and the completion word of what is wrong with it (R274, R275). The sender's arrival key has no place
in it. -/
def State.recvDesc (s : State) (job : Nat) (a : Word) (n : Nat) : Desc × Option Word :=
  match s.recvBytes job a with
  | .error f => (parseDesc [], some (completion f.1 f.2))
  | .ok (bs, po) => if po then (parseDesc bs, some (completion 3 a)) else s.descCheckAt bs n

/-- A status of 4, 5 or 6 is also posted to the receiving job (R275). -/
def State.postPush (s : State) (d : Desc) (w : Word) : State := if 4 ≤ bits w 63 56 then s.postJob 5 d.rjob d.rtwr 0 [w] else s

/-- The conversion of a PUSH of source format sf into the receiver's descriptor. -/
def Desc.recvRelay (d : Desc) (sf : Nat) : Relay := { sf := sf, df := d.dfmt, sat := d.sat, scl := d.scl, dst := d, fb := false }

/-- Whether what a PUSH of tag `tag` has written for its receiver is performed: at its homes before the key is registered (R274), and with the
receiver's REL at its SCOPE, which at system scope takes in the duplicates (R264, R292). -/
def State.pushClear (s : State) (tag : Nat) (d : Desc) : Bool :=
  !(s.towers.any fun t => t.2.out.any fun e => e.2.tag == tag && e.2.strand == 6) && s.storesAcked tag
    && !(s.hostAcks.any fun a => a.1 == 16 * d.rtwr && a.2.1 == 6)
    && (!d.rel || decide (d.scope < 5) || !s.dups.any fun n => n.cmd == tag)

/-- The key of a PUSH whose writes are all performed is registered, where the arrival table has room (R274, R331): none while it waits. A key of 0
registers nothing. MODEL'S CHOICE, log entry 118. -/
def State.pushKey (s : State) (tag : Nat) (d : Desc) (key : Word) : Option State :=
  if !s.pushClear tag d then none else if key = 0 then some s else s.registerArrival d.rtwr d.rjob key

/-! ## A transfer as its descriptors give it -/

/-- The sender's descriptor and the format of its elements; the conversion on this device, none where the receiver is another; the tower and the job
whose pinned pages are written, none for a copy. -/
structure Route where
  d : Desc
  sf : Nat
  relay : Option Relay
  into : Option (Nat × Nat)
deriving DecidableEq, Repr

/-- The route of a command whose descriptors are read. -/
def Cmd.route (x : Cmd) : Option Route :=
  let d := parseDesc x.desc
  match x.kind with
  | .cpy _ bf => some { d := d, sf := (d.relay bf).sf, relay := some (d.relay bf), into := none }
  | .push _ _ bf remote =>
    let sf := sideFmt bf d.sfb d.sfmt d.src
    let e := parseDesc x.rdesc
    some (if remote then { d := d, sf := sf, relay := none, into := none } else { d := d, sf := sf, relay := some (e.recvRelay sf), into := some (e.rtwr, e.rjob) })
  | _ => none

def Route.scl (r : Route) : Bool := r.relay.any (·.scl)

/-- Elements that are chosen together: one; a block under block scaling; what a flit carries to another device. -/
def Route.unit (r : Route) : Nat := match r.relay with | some x => if x.scl then 32 else 1 | none => 128 / fmtBytes r.sf
def Route.units (r : Route) : Nat := cdiv r.d.elems r.unit
def Route.elemsOf (r : Route) (n : Nat) : List Nat := ((List.range r.unit).map (r.unit * n + ·)).filter fun j => decide (j < r.d.elems)

/-- What n elements read, in whole units, write: the elements, and a scale byte for each block. -/
def Route.made (r : Route) (n : Nat) : Nat := if r.scl then n / 32 * 33 else n

/-- n members of a list, drawn by free values from `f` on, and those left. -/
def drawn {α : Type} (f : Nat) : Nat → List α → List α × List α
  | 0, l => ([], l)
  | n + 1, l =>
    let i := Config.pick f l.length % l.length
    match l[i]? with
    | none => ([], l)
    | some a => let (b, r) := drawn (f + 1) n (l.eraseIdx i); (a :: b, r)

/-! ## Issue (R269) -/

def infoCopy (g : Nat) (reads : List Reg) : Info := { kind := .extended, reads := .p g :: reads, guard := some g, irr := true, blocky := true }

/-- The check of a sender's descriptor address (R269). -/
def State.descCheck (s : State) (k : Nat) (a : Word) : Option Stop :=
  if spaceOf a = .none then some (.cause 0x10 1 a)
  else if spaceOf a = .scr ∧ ((s.core k).scrOff a 160).isNone then some (.cause 0x11 1 a)
  else if a.toNat % 16 ≠ 0 then some (.cause 0x12 2 a) else none

/-- The receiver's descriptor (R269): its physical address, or what it meets, with the sender's descriptor address xa, in the order of R364. -/
def State.pushCheck (s : State) (k : Nat) (xa xb : Word) : Except Stop Nat :=
  let low (r : Except Stop Nat) : Except Stop Nat :=
    match s.descCheck k xa with
    | some (.cause c d w) => if spaceOf xb = .none ∧ c ≠ 0x10 then .error (.cause 0x10 1 xb) else .error (.cause c d w)
    | some e => .error e
    | none => if spaceOf xb = .none then .error (.cause 0x10 1 xb) else if xb.toNat % 16 ≠ 0 then .error (.cause 0x12 2 xb) else r
  if spaceOf xb = .scr then .error (.cause 0x0C 5 xb)
  else match s.mapped k xb false with
    | .error (.freeze n) => .error (.freeze n)
    | .error e => low (.error e)
    | .ok m => if region (m.pa xb.toNat) = 2 then .error (.cause 0x0C 5 xb) else low (.ok (m.pa xb.toNat))

/-- What the receiver's address meets alone (R364). -/
def State.recvStop (s : State) (k : Nat) (xb : Word) : Option Stop :=
  let odd : Option Stop := if xb.toNat % 16 ≠ 0 then some (.cause 0x12 2 xb) else none
  if spaceOf xb = .scr then some (.cause 0x0C 5 xb)
  else match s.mapped k xb false with
    | .error (.cause 0x13 d w) => odd <|> some (.cause 0x13 d w)
    | .error e => some e
    | .ok m => if region (m.pa xb.toNat) = 2 then some (.cause 0x0C 5 xb) else odd

def gopCpy (g a : Nat) : GOp :=
  ⟨infoCopy g [.x a], fun s =>
    let k := s.cur.core
    let i := s.cur.strand
    let xa := s.readX k i a
    match s.descCheck k xa with
    | some e => .error e
    | none =>
      if (s.core k).engineFull 4 then .error (.block (.engineFull 4))
      else .ok (s.enqueue 4 (.cpy xa (s.core k).bankFmts))⟩

def gopPush (g a b : Nat) : GOp :=
  ⟨{ infoCopy g [.x a, .x b] with
       early := [([.p g, .x a], fun s => s.descCheck s.cur.core (s.readX s.cur.core s.cur.strand a)),
                 ([.p g, .x b], fun s => s.recvStop s.cur.core (s.readX s.cur.core s.cur.strand b))] }, fun s =>
    let k := s.cur.core
    let i := s.cur.strand
    let xa := s.readX k i a
    let xb := s.readX k i b
    match s.pushCheck k xa xb with
    | .error e => .error e
    | .ok pa =>
        if (s.core k).engineFull 5 then .error (.block (.engineFull 5))
        else .ok (s.enqueue 5 (.push xa (if region pa = 1 then w64 pa else xb) (s.core k).bankFmts (region pa == 1)))⟩

/-! ## Transfers -/

/-- The requests of a transfer that reads n bytes, and writes w bytes for every r that it reads (R276, R355, R357): at most 4 KiB each, 128 bytes read
and 128 written a cycle. -/
def transferRequests (w r : Nat) : Nat → Nat → List Request
  | 0, _ => []
  | fuel + 1, n =>
    if n = 0 then [] else let c := min n 4096; { units := cdiv c 64, cycles := cdiv (max c (cdiv (c * w) r)) 128 } :: transferRequests w r fuel (n - c)

/-- The requests of a transfer by its sender's descriptor and its formats; a block-scaled one also writes a byte for every 32 elements (R273). -/
def Desc.requests (d : Desc) (sf df : Nat) (scl : Bool) : List Request :=
  let n := d.elems * fmtBytes sf
  transferRequests (32 * fmtBytes df + scl.toNat) (32 * fmtBytes sf) (n / 4096 + 1) n

/-- The requests of a transfer whose descriptors are read; the elements that a PUSH to another device carries are written there. -/
def Route.requests (r : Route) : List Request := r.d.requests r.sf ((r.relay.map (·.df)).getD r.sf) r.scl

/-- Changes command u of engine e of core k. -/
def State.modCmd (s : State) (k e u : Nat) (f : Cmd → Cmd) : State :=
  s.modCore k fun c => { c with cmds := mput c.cmds e ((c.cmdsOf e).map fun y => if y.uid = u then f y else y) }

/-- The transfer that an engine has in hand: the oldest that still moves (R269). -/
def Core.moving (c : Core) (e : Nat) : Option Cmd := (c.cmdsOf e).find? fun x => !x.moved

/-- A command that moves no further, with its completion word where it failed. -/
def Cmd.stopped (x : Cmd) (w : Option Word) : Cmd := { x with started := true, moved := true, status := w, reqs := [], adm := [], busy := 0, todo := [], ready := [], codes := [] }

/-- A transfer fails (R275): a status of 4, 5 or 6 is also posted to the receiving job. -/
def State.failTransfer (s : State) (k e : Nat) (x : Cmd) (w : Word) : State :=
  let s := match x.kind with
    | .push _ _ _ true => { s with remote := mdel s.remote x.tag }
    | .push _ _ _ false => s.postPush (parseDesc x.rdesc) w
    | _ => s
  s.modCmd k e x.uid (·.stopped (some w))

/-- Whether gauge 0 lets an engine of core k read n bytes at a: lines that its tower's L2 holds ask nothing of HBM4E (R355, R357). -/
def State.engineMay (s : State) (k job : Nat) (a : Word) (n : Nat) : Bool :=
  spaceOf a != .glob || (pieces (n / 65536 + 2) a.toNat n).all fun p => match s.vaddr job p.1 false with
    | .ok (pa, _) => region pa != 0 || (linesAt 128 pa p.2).all fun ln => (mfind (s.tower (towerOf k)).l2 ln).isSome || s.umbraMay job (ln * 128) 128 false
    | .error _ => true

/-- A transfer's own descriptor is read and its acquire asked for (R269, R272); the command with what came of it. -/
def State.readSender (s : State) (k e : Nat) (x : Cmd) : State :=
  let go (a : Word) (bad : Desc → Bool) : State :=
    if !s.engineMay k x.job a 160 then s
    else match (s.viewed k).engineBytes (s.copyView k) k x.job a 160 with
      | .error f => s.failTransfer k e x (completion f.1 f.2)
      | .ok (bs, s) => if bad (parseDesc bs) then s.failTransfer k e x (completion 1 0) else s.modCmd k e x.uid fun y => { y with desc := bs }
  match x.kind with
  | .cpy a bf => go a fun d => d.copyBad (d.relay bf).df
  | .push a _ _ _ => go a fun d => d.bad || (d.sfb && spaceOf d.src != .scr)
  | _ => s

/-- Its receiver's descriptor, read on this device (R274); a PUSH to another device takes a tag there. -/
def State.readReceiver (s : State) (k e : Nat) (x : Cmd) : State :=
  let begun (s : State) (f : Cmd → Cmd) : State := s.modCmd k e x.uid fun y => let z := f y; { z with started := true, reqs := (z.route.map (·.requests)).getD [] }
  match x.kind with
  | .push _ _ _ true => begun { s with remote := mput s.remote s.uid (.push k x.uid), uid := s.uid + 1 } fun y => { y with tag := s.uid }
  | .push _ r _ _ =>
    if !s.vmay x.job r.toNat 160 then s
    else match s.recvDesc x.job r (parseDesc x.desc).elems, s.recvBytes x.job r with
      | (_, some w), .error _ => s.failTransfer k e x w
      | (_, some w), .ok (bs, _) => s.failTransfer k e { x with rdesc := bs } w
      | (_, none), .ok (bs, _) =>
        let (s, bad) := s.vfetch (towerOf k) x.job r.toNat 160
        if bad then s.failTransfer k e x (completion 3 r) else begun s fun y => { y with rdesc := bs }
      | (_, none), .error f => s.failTransfer k e x (completion f.1 f.2)
  | _ => begun s id

/-- A transfer begins: descriptors, acquire, requests (R269, R272, R274, R292). -/
def State.beginTransfer (s : State) (k e : Nat) (x : Cmd) : State :=
  let s := if x.desc.isEmpty then s.readSender k e x else s
  match (s.core k).moving e with
  | none => s
  | some x =>
    let d := parseDesc x.desc
    if x.desc.isEmpty then s
    else
      let acq := d.acq ∧ 1 ≤ d.scope
      let s := if acq then s.scopePush k x.strand x.uid d.scope else s
      if acq ∧ !s.scopeClear k x.strand x.uid d.scope then s
      else (if acq ∧ 4 ≤ d.scope then s.acquire k else s).readReceiver k e x

/-- Whether the gauges of a transfer admit a request: copy, and fabric for a push to another device (R355). -/
def State.transferAdmits (s : State) (k : Nat) (x : Cmd) : Bool :=
  s.admits x.job (towerOf k) 5 && (match x.kind with | .push _ _ _ true => s.admits x.job (towerOf k) 4 | _ => true)

def State.transferCharge (s : State) (k : Nat) (x : Cmd) (u : Nat) : State :=
  let s := s.charge x.job (towerOf k) 5 u
  match x.kind with | .push _ _ _ true => s.charge x.job (towerOf k) 4 u | _ => s

/-- Admits the requests of the transfer in hand of engine e while its gauges let it (R357). -/
def State.admitMoving (s : State) (k e : Nat) : Nat → State
  | 0 => s
  | fuel + 1 =>
    match (s.core k).moving e with
    | some x => match x.reqs with
      | r :: rest => if s.transferAdmits k x then ((s.transferCharge k x r.units).modCmd k e x.uid fun y => { y with reqs := rest, adm := y.adm ++ [r] }).admitMoving k e fuel else s
      | [] => s
    | none => s

/-- The engines of core k whose transfer moves: engine 5's only while engine 4's does not (R276). -/
def Core.carries (c : Core) (e : Nat) : Bool := (c.moving e).any fun y => y.busy != 0 || !y.adm.isEmpty

/-- The transfers of core k at the start of a cycle: one begins on each engine, its requests are admitted, and one moves. -/
def State.transferStart (s : State) (k : Nat) : State :=
  let one (s : State) (e : Nat) : State :=
    match (s.core k).moving e with
    | none => s
    | some x =>
      let s := if x.started then s else s.beginTransfer k e x
      s.admitMoving k e (((s.core k).moving e).elim 0 (·.reqs.length))
  let s := one (one s 4) 5
  let move (s : State) (e : Nat) : State := match (s.core k).moving e with
    | some x => s.modCmd k e x.uid fun y => if y.busy = 0 then (match y.adm with | r :: rest => { y with adm := rest, busy := r.cycles } | [] => y) else y
    | none => s
  if (s.core k).carries 4 then move s 4 else move s 5

/-! ## A cycle of a transfer (R276) -/

/-- Elements of the requests begun so far. -/
def Cmd.begun (x : Cmd) (r : Route) : Nat :=
  let e := fmtBytes r.sf
  min r.d.elems ((cdiv (r.d.elems * e) 4096 - x.reqs.length - x.adm.length) * (4096 / e))

/-- Bounds on what a cycle carries: the least and the most elements that it reads, and the least items that it writes, so that the requests begun end
with their last cycle. -/
def Cmd.bounds (x : Cmd) (r : Route) : Nat × Nat × Nat :=
  let rpc := 128 / fmtBytes r.sf
  let wpc := match r.relay with | some y => 128 / fmtBytes y.df | none => rpc
  let out := if r.relay.isNone then x.got else r.made x.got - x.ready.length
  let more := if r.relay.isNone then 0 else r.made (x.begun r) - out - (x.busy - 1) * wpc
  let most := min (x.begun r - x.got) rpc
  (if r.scl then most else min most (max (x.begun r - x.got - (x.busy - 1) * rpc) (out + more - x.got)), most, more)

/-- The command with at least n elements to read, so far as there are any: more of its units are chosen freely, for elements are moved in no fixed
order (R272). -/
def State.chooseUnits (s : State) (x : Cmd) (r : Route) (n : Nat) : State × Cmd :=
  let u := if n ≤ x.todo.length then 0 else cdiv (n - x.todo.length) r.unit + r.relay.isNone.toNat
  let (us, rest) := drawn s.freeCtr u (x.rest r.units)
  ({ s with freeCtr := s.freeCtr + u }, { x with todo := x.todo ++ us.flatMap r.elemsOf, left := some rest })

/-- The source codes of elements, up to the first failure. -/
def State.codesAt (s v : State) (k job : Nat) (r : Route) : List Nat → State × List (Nat × Nat) × Option Fail
  | [] => (s, [], none)
  | n :: ns =>
    let a := r.d.srcAt n
    if misplaced r.d.sfb r.d.src a (fmtBytes r.sf) then (s, [], some (1, a))
    else match s.engineBytes v k job a (fmtBytes r.sf) with
      | .error f => (s, [], some f)
      | .ok (bs, s) => match s.codesAt v k job r ns with | (s, l, f) => (s, (n, ofLE bs) :: l, f)

/-- Writes items in turn up to the first failure: a copy's as its engine does, a PUSH's into the receiver's pages. -/
def State.putItems (s : State) (k : Nat) (x : Cmd) (r : Route) (l : List (Word × List Byte)) : State × Option Fail :=
  l.foldl (fun (acc : State × Option Fail) i => match acc with
    | (s, some f) => (s, some f)
    | (s, none) => match r.into with
      | some (t, j) => s.pinWrite t j x.uid i.1 i.2
      | none => s.engineWrite k x.strand x.job x.uid i.1 i.2) (s, none)

/-- The runs of consecutive elements in a list of codes: the first element and its codes, at most n of them. -/
def codeRuns (n : Nat) : List (Nat × Nat) → List (Nat × List Nat)
  | [] => []
  | (j, c) :: l => match codeRuns n l with
    | (i, cs) :: r => if i = j + 1 ∧ cs.length < n then (j, c :: cs) :: r else (j, [c]) :: (i, cs) :: r
    | [] => [(j, [c])]

/-- The codes of a PUSH to another device leave, and with `last` the registration that follows all of its data (R403). -/
def State.sendCodes (s : State) (k : Nat) (x : Cmd) (r : Route) (l : List (Nat × Nat)) (last : Bool) : State × Bool :=
  match x.kind with
  | .push _ pa _ _ =>
    let put (vl ty : Nat) (s : State) (f : FlitPayload) : State × Bool := s.sendFlit (peerOf pa.toNat) vl ty f x.tag k
    let (s, ok) := (codeRuns (128 / fmtBytes r.sf) l).foldl (fun acc c =>
      if acc.2 then put 0 2 acc.1 (.pushData (pa.toNat % 2 ^ 41) r.sf r.d.elems c.1 c.2 x.tag) else acc) (s, true)
    if ok && last then put 1 7 s (.arrival (pa.toNat % 2 ^ 41) r.d.key x.tag) else (s, ok)
  | _ => (s, true)

/-- The elements that command y reads in this cycle, with their bytes made ready: the command then, or the completion word of a failure. -/
def State.readCycle (s v : State) (k : Nat) (y : Cmd) (r : Route) (n : Nat) : State × Except Word Cmd :=
  match s.codesAt v k y.job r (y.todo.take n) with
  | (s, _, some f) => (s, .error (completion f.1 f.2))
  | (s, l, none) =>
    let z := { y with todo := y.todo.drop n, got := y.got + l.length }
    match r.relay with
    | none =>
      match s.sendCodes k y r l (decide (z.got = r.d.elems)) with
      | (s, true) => (s, .ok z)
      | (s, false) => (s, .error (completion 6 0))
    | some q =>
      let all := y.codes ++ l
      let n := if r.scl then all.length / 32 * 32 else all.length
      match q.items (all.take n) with
      | .error f => (s, .error (completion f.1 f.2))
      | .ok is => (s, .ok { z with codes := all.drop n, ready := y.ready ++ is })

/-- A cycle of transfer x of engine e of core k: it reads up to 128 bytes and writes up to 128 bytes, in an order and at a pace that are free within the
cycles of its requests (R272, R276); a gauge that does not admit what HBM4E has to deliver holds it up (R357). -/
def State.transferCycle (s : State) (k e : Nat) (x : Cmd) (r : Route) : State :=
  let (least, most, more) := x.bounds r
  let n := least + Config.pick s.freeCtr (most - least + 1) % (most - least + 1)
  let (s, y) := s.spend.chooseUnits x r n
  if !((y.todo.take n).all fun j => s.engineMay k x.job (r.d.srcAt j) (fmtBytes r.sf)) then s
  else match (s.viewed k).readCycle (s.copyView k) k y r n with
    | (s, .error w) => s.failTransfer k e x w
    | (s, .ok z) =>
      let cap := min z.ready.length (128 / fmtBytes ((r.relay.map (·.df)).getD r.sf))
      let low := min cap more
      let m := low + Config.pick s.freeCtr (cap - low + 1) % (cap - low + 1)
      let (is, rest) := drawn (s.freeCtr + 1) m z.ready
      match ({ s with freeCtr := s.freeCtr + 1 + m } : State).putItems k x r is with
      | (s, some f) => s.failTransfer k e x (completion f.1 f.2)
      | (s, none) =>
        let whole := z.got == z.begun r && rest.isEmpty
        let z := { z with ready := rest, busy := if whole then z.busy - 1 else max 1 (z.busy - 1) }
        s.modCmd k e x.uid fun _ => if z.busy = 0 && z.reqs.isEmpty && z.adm.isEmpty then z.stopped none else z

/-- The cycle of core k's transfers: one of them moves (R276). -/
def State.transferMove (s : State) (k : Nat) : State :=
  let go (e : Nat) : State := match (s.core k).moving e with
    | some x => match x.route with
      | some r => if x.busy = 0 then s else s.transferCycle k e x r
      | none => s
    | none => s
  if ((s.core k).moving 4).any fun y => y.busy != 0 then go 4 else go 5

/-! ## Completion (R274, R275) -/

/-- The oldest command of engine e where it has moved its last byte, or failed. -/
def State.transferDone (s : State) (k e : Nat) : Option Cmd := ((s.core k).cmdsOf e).head?.filter (·.moved)

/-- Whether the writes of a command of core k are performed at the scope of its release (R272, R292). -/
def State.relClear (s : State) (k : Nat) (x : Cmd) (d : Desc) : Bool :=
  !d.rel || ((decide (d.scope < 4) || !((s.tower (towerOf k)).out.any fun e => e.1 == k && e.2.tag == x.uid && decide (8 ≤ e.2.strand)))
    && (decide (d.scope < 5) || (!(s.unacked k (8 + x.strand) fun _ => true) && !s.dups.any fun n => n.cmd == x.uid)))

/-- R275: a copy that has moved its last byte posts its completion word once its release has performed (R272). -/
def execCopyComplete (t f : Nat) (s : State) : Out :=
  let k := 16 * t + f
  match s.transferDone k 4 with
  | some x =>
    match x.status with
    | some w => .next (s.finishCmd k 4 x w)
    | none =>
      let d := parseDesc x.desc
      let s := if d.rel ∧ 4 ≤ d.scope then s.pushHome (towerOf k) fun e => e.1 == k && e.2.tag == x.uid && decide (8 ≤ e.2.strand) else s
      .next (if s.relClear k x d then s.finishCmd k 4 x 0 else s)
  | none => .next s

/-- The keys of core k's PUSHes on this device that have moved, whose writes are performed (R274); those of several PUSHes in any order. -/
def State.pushKeys (s : State) (k : Nat) : State :=
  ((s.core k).cmdsOf 5).foldl (fun s x =>
    match x.kind with
    | .push _ _ _ false =>
      if x.moved && x.status.isNone && !x.keyed then
        match s.pushKey x.uid (parseDesc x.rdesc) (parseDesc x.desc).key with
        | some s => s.modCmd k 5 x.uid fun y => { y with keyed := true }
        | none => s
      else s
    | _ => s) s

/-- R274: pushes that have moved have their keys registered, and the oldest, if it has or has failed or was answered, posts its completion word. -/
def execPushComplete (t f : Nat) (s : State) : Out :=
  let k := 16 * t + f
  let s := s.pushKeys k
  match s.transferDone k 5 with
  | some x => .next (match x.status with | some w => s.finishCmd k 5 x w | none => if x.keyed then s.finishCmd k 5 x 0 else s)
  | none => .next s

/-! ## Meanings -/

/-- R269. Passes a copy descriptor to engine 4. -/
def execCpy (g a : Nat) (s : State) : Out := issueGroup [] [gopCpy g a] s

/-- R274. Passes sender and receiver descriptors to engine 5. -/
def execPush (g a b : Nat) (s : State) : Out := issueGroup [] [gopPush g a b] s

end Sys2Proof.Machine
end

