-- ==== Sys2Proof/Machine/Fetch.lean ====
section
/-! DEFINITION. Fetching: the bundles of a strand's next group (R53 to R58), their translation (R363), the group that their syllables form
with the conditions of R84 that its words meet, and the choice of the running strand (R32 to R35). -/

namespace Sys2Proof.Machine

/-- One syllable of a group: word, lend byte, byte address, bundle, index in the bundle. -/
structure Syl where
  word : Nat
  lend : Nat
  bundle : Word
  pos : Nat
deriving DecidableEq, Repr

def Syl.addr (y : Syl) : Word := y.bundle + w64 (4 * y.pos)

/-- A bundle's four words. -/
abbrev Bundle := List Nat

/-- The header of a bundle, if its s0 is one (R55). -/
def headerOf (b : Bundle) : Option Nat := if fld (b.getD 0 0) 27 4 = 15 then some (b.getD 0 0) else none

/-- The lend byte of syllable pos under a header (R55). -/
def lendOf (h : Option Nat) (pos : Nat) : Nat :=
  match h, pos with
  | some w, n + 1 => fld w (8 * n) 8
  | _, _ => 0

/-- The words of the bundle at b, or what keeps core k from fetching it (R200, R363, R366). -/
def State.bundleAt (s : State) (k : Nat) (b : Word) : Except Stop Bundle :=
  if bits b 63 57 != 0 then .error (.cause 0x10 2 b)
  else match s.xlate k (s.jobOf k) b.toNat with
    | .need n => .error (.freeze [n])
    | .bad _ _ => .error (.cause 0x13 3 b)
    | .ok e =>
      let pa := e.pa b.toNat
      if region pa ≠ 0 then .error (.cause 0x10 2 b)
      else if !e.x then .error (.cause 0x14 2 b)
      else .ok ((List.range 4).map fun i => ofLE (rdBytes s.mem (pa + 4 * i) 4))

/-- The fetch of the bundle at b by core k from memory: what it moves and counts where the tower's L2 does not hold it (R213, R355). -/
def State.bundleUse (s : State) (k : Nat) (b : Word) : State :=
  match s.xlate k (s.jobOf k) b.toNat with
  | .ok e => (s.readUse (towerOf k) (s.jobOf k) (e.pa b.toNat) 16).1
  | _ => s

/-- Whether the gauge admits what HBM4E has to deliver for it (R357). -/
def State.bundleMay (s : State) (k : Nat) (b : Word) : Bool :=
  match s.xlate k (s.jobOf k) b.toNat with
  | .ok e => (mfind (s.tower (towerOf k)).l2 (e.pa b.toNat / 128)).isSome || s.umbraMay (s.jobOf k) (e.pa b.toNat) 16 false
  | _ => true

/-- The syllables of a bundle from index p up to the first stop bit. -/
def sylsFrom (b : Word) (ws : Bundle) (h : Option Nat) : Nat → Nat → List Syl
  | 0, _ => []
  | fuel + 1, p =>
    let y : Syl := { word := ws.getD p 0, lend := lendOf h p, bundle := b, pos := p }
    if p = 3 ∨ stopBit y.word then [y] else y :: sylsFrom b ws h fuel (p + 1)

/-- Where the syllables of a bundle begin: past a header in s0. -/
def firstPos (h : Option Nat) (p : Nat) : Nat := if h.isSome ∧ p = 0 then 1 else p

/-- What one bundle adds to a group: its syllables, and conditions by position (details 2, 4 and 9 of R84), and mirror positions.
`at0` is the position its first syllable takes; `first`: the group begins in this bundle. -/
structure Piece where
  syls : List Syl
  enc : List (Nat × Nat)
  mirror : List Nat
  marked : Bool

/-- The bits that two halves of a mirror pair may differ in (R70): T and the destination field of the format. -/
def mirrorMask (w : Nat) : Nat :=
  let dest : Nat :=
    match fld w 27 4 with
    | 0 => 0x3F000 | 4 => 0x3F000 | 9 => 0x3F000
    | 1 => 0x7E000 | 11 => 0x7E000
    | 2 => if fld w 20 3 = 2 then 0xF000 else 0xE000
    | 10 => 0x3F000
    | 6 => 0xFC0
    | 7 => if fld w 20 3 = 4 then 0x7C0 else 0xFC0
    | _ => 0
  dest + 0x80000000

/-- Whether the words of s1 and s2 may form a mirror pair. -/
def mirrorWords (a b : Syl) : Bool :=
  a.lend == b.lend && (a.word ||| mirrorMask a.word) == (b.word ||| mirrorMask a.word)

def pieceOf (b : Word) (ws : Bundle) (p at0 : Nat) (first : Bool) : Piece :=
  let h := headerOf ws
  let q := firstPos h p
  let ys := sylsFrom b ws h 4 q
  let hw := h.getD 0
  let has (n : Nat) : Option Nat := (ys.findIdx? fun y => y.pos == n).map (at0 + ·)
  let mk := fld hw 26 1 == 1
  let mi := fld hw 25 1 == 1
  { syls := ys
    enc := (if fld hw 31 1 = 1 ∨ fld hw 24 1 = 1 then [(at0, 2)] else [])
      ++ (if mk && !first then [(at0, 4)] else [])
      ++ (if mi then
            match has 1, has 2 with
            | some i, some j => if mirrorWords (ys.getD (i - at0) ⟨0, 0, 0, 0⟩) (ys.getD (j - at0) ⟨0, 0, 0, 0⟩) then [] else [(j, 9)]
            | some i, none => [(i, 9)]
            | none, some j => [(j, 9)]
            | none, none => []
          else [])
    mirror := if mi then (match has 1 with | some i => [i] | none => []) else []
    marked := mk && first && q == 1 }

/-- A group as fetched: its syllables, the conditions its words meet, its mirror positions, whether it is marked. -/
structure Fetched where
  syls : List Syl
  enc : List (Nat × Nat)
  mirror : List Nat
  marked : Bool

/-- The group at address a of core k: one bundle or two (R57). A stop carries what keeps its bundle from being fetched. -/
def State.fetchGroup (s : State) (k : Nat) (a : Word) : Except Stop Fetched :=
  let b := a &&& 0xFFFFFFFFFFFFFFF0
  match s.bundleAt k b with
  | .error e => .error e
  | .ok ws =>
    let p := pieceOf b ws (a.toNat / 4 % 4) 0 true
    if p.syls.getLast?.any fun y => stopBit y.word then .ok { syls := p.syls, enc := p.enc, mirror := p.mirror, marked := p.marked }
    else
      match s.bundleAt k (b + 16) with
      | .error e => .error e
      | .ok ws2 =>
        let q := pieceOf (b + 16) ws2 0 p.syls.length false
        let ys := p.syls ++ q.syls
        let over5 : List (Nat × Nat) := if q.syls.getLast?.any fun y => stopBit y.word then [] else [(ys.length, 5)]
        .ok { syls := ys, enc := p.enc ++ q.enc ++ over5, mirror := p.mirror ++ q.mirror, marked := p.marked }

/-- The bundles of a fetched group. -/
def Fetched.bundles (f : Fetched) : List Word := (f.syls.map (·.bundle)).eraseDups

/-- The operations of the syllables up to the first that does not decode, with the condition met there; the operation that this one's codes list
stands last, for the conditions of lower detail that it meets (R84). -/
def decodeSyls : Nat → List Syl → List Instr × List (Nat × Nat)
  | _, [] => ([], [])
  | p, y :: r =>
    match decodeOp y.word y.lend with
    | .error (d, i) => (i.toList, [(p, d)])
    | .ok i => let (is, e) := decodeSyls (p + 1) r; (i :: is, e)

/-- Detail 8 at a class-3 operation whose bundle is not the one in which the group ends (R59). -/
def classThreeBad (ys : List Syl) : List (Nat × Nat) :=
  match ys.getLast? with
  | none => []
  | some z => ys.zipIdx.filterMap fun e => if fld e.1.word 27 4 = 3 ∧ e.1.bundle ≠ z.bundle then some (e.2, 8) else none

/-- The group context of a fetched group. -/
def Fetched.ctx (f : Fetched) (k i : Nat) (ops : Nat) : GroupCtx :=
  let y := f.syls.headD ⟨0, 0, 0, 0⟩
  let z := f.syls.getLastD ⟨0, 0, 0, 0⟩
  { core := k, strand := i, start := y.addr, next := z.addr + 4, bundle := z.bundle
    atS3 := z.pos == 3 && stopBit z.word, marked := f.marked, mirror := f.mirror.filter fun p => p + 1 < ops }

/-! ## Choice of the running strand -/

/-- Whether a strand may be selected in cycle `now`: ready, its start over (R440), and after a blocking point every result landed (R35, R79). -/
def Strand.selectable (x : Strand) (now : Nat) : Bool :=
  decide (x.st = .ready) && decide (x.startAt ≤ now) && (!x.landFirst || (x.inflight.isEmpty && x.pend.isEmpty))

/-- Whether the strand's gang lets it issue: a gang that is being pre-empted issues only drain-stub groups (R49, R375). -/
def State.mayIssue (s : State) (k i : Nat) : Bool :=
  match s.gangOf k with
  | some g => (match g.phase with | .running => true | .preempting _ => (s.strand k i).stub.isSome | _ => false)
  | none => false

/-- The strand that the selector chooses, searching after the last one that ran (R34). -/
def State.choose (s : State) (k : Nat) : Option Nat :=
  let c := s.core k
  ([1, 2, 3, 4].map fun n => (c.last + n) % 4).find? fun i => (c.strand i).selectable s.now && s.mayIssue k i

/-- Core k with a running strand, where one can be chosen. -/
def State.select (s : State) (k : Nat) : State :=
  match (s.core k).run with
  | some _ => s
  | none =>
    match s.choose k with
    | none => s
    | some i => (s.modStrand k i fun x => { x with st := .running, landFirst := false }).modCore k fun c => { c with run := some i }

/-- Whether core k is frozen in this cycle. -/
def State.frozenNow (s : State) (k : Nat) : Bool := (s.core k).frozen.any fun f => decide (f.since ≤ s.now)

/-- A fetch fault, or a freeze on the way to a bundle, of strand i (R363, R77). -/
def State.fetchStop (s : State) (k i : Nat) (e : Stop) : State :=
  match e with
  | .cause c d w => ((s.modCore k fun x => { x with fills := [] }).takeCause k i c d 0 (s.strand k i).spc w).spend
  | .freeze n => s.freezeOn k n
  | _ => s

/-- A strand in a drain stub that reaches a marked group stops before it (R375). -/
def State.stubEnds (s : State) (k i : Nat) (a : Word) : State :=
  (s.modStrand k i fun x => { x.record a with spc := a, st := .ready, stub := none, landFirst := true }).giveUp k i 0

end Sys2Proof.Machine
end

