-- ==== Sys2Proof/Machine/Landing.lean ====
section
/-! DEFINITION. Events within a core: results land (R71, R73), the shade context serves misses (R366, R367), traps are entered and recovered
causes rewound (R133, R368), posted accesses perform (R261), fences and drops end (R263, R264, R337), parks without an entry are rechecked
(R333). -/

namespace Sys2Proof.Machine

/-! ## Results -/

/-- R71, R77: on a core that is not frozen, the oldest result whose last cycle this is lands. -/
def execResultLanding (t f st : Nat) (s : State) : Out :=
  let k := 16 * t + f
  let x := s.strand k st
  if s.frozenNow k then .next s
  else match x.inflight.find? fun l => l.left == 1 with
    | none => .next s
    | some l => .next ((s.setStrand k st { x with inflight := x.inflight.eraseP fun l => l.left == 1 }).land k st l)

/-- R73: a variable-latency result whose cycle has come lands, frozen core or not; its registers are pending no more. -/
def execPendingResultLands (t f st : Nat) (s : State) : Out :=
  let k := 16 * t + f
  let x := s.strand k st
  match x.pend.find? fun p => p.due.any fun d => decide (d ≤ s.now) with
  | none => .next s
  | some p => .next ((s.setStrand k st { x with pend := x.pend.eraseP fun p => p.due.any fun d => decide (d ≤ s.now) }).landPend k st p)

/-! ## The shade context -/

/-- Adds a line to tower t's L2; another may be replaced (R209). -/
def State.addL2 (s : State) (t ln : Nat) (l : L1Line) : State :=
  s.modTower t fun x =>
    let e := Config.pick s.freeCtr (x.l2.length + 1) % (x.l2.length + 1)
    let old := if 786432 ≤ x.l2.length then x.l2.eraseIdx (e % x.l2.length) else x.l2.eraseIdx e
    { x with l2 := mput old ln l, errs := x.errs.filter fun r => !r.at .l2 (ln * 128) 128 }

/-- Adds line ln to core k's L1 in a way of its set; the line it replaces is written back (R204). -/
def State.addL1 (s : State) (k ln : Nat) (l : L1Line) : State :=
  let ways := 32 - (s.core k).scr
  let w := (s.core k).scr + Config.pick (s.freeCtr + 1) ways % ways
  let out := (s.core k).l1.filter fun e => e.1 % 512 == ln % 512 && e.2.way == w && e.1 != ln
  let s := out.foldl (fun s e => s.dropLine k e.1) s
  s.modCore k fun c => { c with l1 := mput c.l1 ln { l with way := w }, errs := c.errs.filter fun r => !r.at .l1 (ln * 64) 64 }

/-- The 128-byte line ln is fetched into tower t's L2 (R209). -/
def State.l2Fetch (s : State) (t job ln : Nat) : State × L1Line :=
  let s := (s.homeFetch t job (ln * 128) 128).1
  let l := s.towerLine t (ln * 128) 128
  (s.addL2 t ln l, l)

/-- The 128-byte line of tower t's L2 that holds 64-byte line ln, fetched where L2 lacks it, or where its copy, always clean, holds poison or a
double error (R209, R217, R370). -/
def State.l2Line (s : State) (t job ln : Nat) : State × L1Line :=
  match mfind (s.tower t).l2 (ln / 2) with
  | some l =>
    let (s, bad) := s.towerErrs t fun e => e.at .l2 (ln / 2 * 128) 128
    if l.poison != 0 || bad then s.l2Fetch t job (ln / 2) else (s, l)
  | none => s.l2Fetch t job (ln / 2)

/-- Whether the fill of line ln may go on: L2 has it, or its home's gauge admits what HBM4E moves (R355, R357). -/
def State.lineMay (s : State) (t job ln : Nat) : Bool := ((mfind (s.tower t).l2 (ln / 2)).any fun l => l.poison == 0) || s.umbraMay job (ln / 2 * 128) 128 false

/-- Fills line ln into core k's L1: its bytes and poison. -/
def State.fillLine (s : State) (k ln : Nat) : State × List Byte × Bool :=
  let (s, l) := s.l2Line (towerOf k) (s.jobOf k) ln
  let bs := (l.data.drop (ln % 2 * 64)).take 64
  let po := (l.poison >>> (ln % 2 * 8)) &&& 0xFF
  ((s.addL1 k ln { data := bs, poison := po }).spend, bs, po != 0)

/-- A fill arrives at core k. -/
def State.gotFill (s : State) (k : Nat) (f : Fill) : State := s.modCore k fun c => { c with fills := f :: c.fills }

/-- Asks a peer for bytes, unless they have been asked for (R404). A port that is down loses the operation, and its value is poisoned. -/
def State.askPeer (s : State) (k : Nat) (n : Need) (pa len : Nat) : State :=
  if s.remote.any fun e => decide (e.2 = .fill k n) then s
  else
    let tag := s.uid
    let s := { s with uid := s.uid + 1 }
    match s.sendFlit (peerOf pa) 0 1 (.load (pa % 2 ^ 41) len tag) tag k with
    | (s, true) => { s with remote := mput s.remote tag (.fill k n) }
    | (s, false) => s.gotFill k { need := n, bytes := (List.range len).map fun j => (Config.lostValue (s.freeCtr + j)).setWidth 8, poison := true }

/-- A read at the coherence point for core k: from home once its gauge admits what it moves (R357), or from a peer. -/
def State.askBytes (s : State) (k : Nat) (n : Need) (pa len : Nat) : State :=
  if region pa = 1 then s.askPeer k n pa len
  else if !s.umbraMay (s.jobOf k) pa len false then s
  else
    let s := (s.homeFetch (towerOf k) (s.jobOf k) pa len).1
    let (bs, po) := s.physRead pa len
    s.gotFill k { need := n, bytes := bs, poison := po }

/-- What the walk for a need reads: addresses and lengths of table entries (R335, R339). -/
def State.walkOf (s : State) : Need → List (Nat × Nat)
  | .tlb j va => (match s.job? j with | some y => walkReads s.mem va.toNat 3 y.root | none => []).map fun a => (a, 8)
  | .handle i => [(Config.handleBase + 64 * i, 64)]
  | _ => []

/-- Whether the gauge of core k's job admits what HBM4E has to deliver for that walk (R355, R357). -/
def State.walkMay (s : State) (k : Nat) (n : Need) : Bool := (s.walkOf n).all fun r => s.umbraMay (s.jobOf k) r.1 r.2 false

/-- The walk's reads, once admitted; double errors of the home's Umbra cache poison the words they meet (R217, R367). -/
def State.walkFetch (s : State) (k : Nat) (n : Need) : State :=
  if ((s.core k).fill? n).isSome || !s.walkMay k n then s
  else (s.walkOf n).foldl (fun s r => (s.homeFetch (towerOf k) (s.jobOf k) r.1 r.2).1) s

/-- The strand that core k's shade context serves: the one that holds the issue slot. -/
def State.frozenStrand (s : State) (k : Nat) : Nat := ((s.core k).run).getD 0

/-- The service of one need (R366): the state with what the shade context found, or unchanged while the need must wait. -/
def State.serveNeed (s : State) (k : Nat) (n : Need) : State :=
  let job := s.jobOf k
  let i := s.frozenStrand k
  if ((s.core k).fill? n).isSome then s
  else match n with
  | .tlb j va =>
    if !s.walkMay k n || (s.walkOf n).any fun r => s.poisoned r.1 r.2 then s
    else match s.walk j va.toNat with
      | .ok e => (s.addTlb k e).gotFill k { need := n }
      | .error c => s.gotFill k { need := n, cause := some c }
  | .line ln =>
    if !s.lineMay (towerOf k) job ln then s
    else
      let (s, bs, po) := s.fillLine k ln
      s.gotFill k { need := n, bytes := bs, poison := po }
  | .direct pa len c =>
    let s := (s.dropCopies k pa len).loadPush k i c pa len true
    if s.loadClear k i c pa len true then s.askBytes k n pa len else s
  | .konst pa => s.askBytes k n pa 8
  | .order c loc len coh => s.loadPush k i c loc len coh
  | .release => s.release k i
  | .alloc => s.gotFill k { need := n }
  | .handle i =>
    if !s.walkMay k n then s
    else
    let s := s.modTower (towerOf k) fun t =>
      { t with hcache := (if 1024 ≤ t.hcache.length then t.hcache.eraseIdx (Config.pick s.freeCtr 1024 % 1024) else t.hcache) ++ [i] }
    s.spend.gotFill k { need := n }
  | _ => s

/-- Whether a need is met. -/
def State.needMet (s : State) (k : Nat) (n : Need) : Bool :=
  let i := s.frozenStrand k
  let x := s.strand k i
  match n with
  | .room m => (s.core k).sqTakes x (s.core k).sq.isEmpty 0 m
  | .states i => !s.statesAhead (towerOf k) i
  | .order c loc len coh => s.loadClear k i c loc len coh
  | .release => s.released k i
  | .fence => x.fences.isEmpty
  | .drop => x.xlinv.isNone
  | .cycles _ => true
  | _ => ((s.core k).fill? n).isSome

/-- A walk meets uncorrectable data in a page table or in the state handle table (R367). -/
def State.walkPoisoned (s : State) (k : Nat) (ns : List Need) : Bool :=
  ns.any fun n => s.walkMay k n && (s.walkOf n).any fun r => s.poisoned r.1 r.2

/-- R366: the shade context serves the needs of a frozen core; when all are met the freeze ends. Uncorrectable data in its own store, or in a
table, fails the gang with reason 3 (R367). -/
def execShadeMissService (t f : Nat) (s : State) : Out :=
  let k := 16 * t + f
  match (s.core k).frozen with
  | none => .next s
  | some z =>
    if s.now < z.due ∨ !s.frozenNow k then .next s
    else
      let (s, bad) := s.coreErrs k fun e => decide (e.sram = .shade)
      let s := z.needs.foldl (fun s n => s.walkFetch k n) s
      if bad || s.walkPoisoned k z.needs then .next ((s.modCore k fun c => { c with frozen := none }).failAt k (s.frozenStrand k) 3)
      else
      let s := z.needs.foldl (fun s n => s.serveNeed k n) s
      if z.needs.all fun n => s.needMet k n then .next (s.modCore k fun c => { c with frozen := none })
      else .next s

/-! ## Traps and recoveries -/

/-- R133, R362: the strand that holds the issue slot meets a cause at its next group. -/
def execTrapEntry (t f st code detail syl : Nat) (sinfo : Word) (s : State) : Out :=
  let k := 16 * t + f
  let x := s.strand k st
  if x.st = .running then .next (s.takeCause k st code detail syl x.spc sinfo) else .next s

/-- Whether the condition of a recovered cause has cleared (R78, R231, R368 step 3). -/
def State.causeCleared (s : State) (k : Nat) (x : Strand) (code detail : Nat) : Bool :=
  let c := s.core k
  if code ≠ 0x03 then true
  else if detail = 1 then (match c.fifo with | z :: _ => z.remaining == 0 || z.fail.isSome | [] => false)
  else if detail = 2 then !((c.cmdsOf 1).any fun y => match y.kind with | .wld _ => true | _ => false)
  else if detail = 3 then c.active.resident
  else if detail = 4 then
    let h := s.handle (bits x.waitRef 23 0)
    h.res != 3 && !(s.copying h.twr (bits x.waitRef 23 0) (bits x.waitRef 47 32) (rdWord s.mem (h.tiles + 8 * bits x.waitRef 47 32)))
  else c.mmaLeft == 0 && !((c.cmdsOf 6).any fun y => y.reading s.now) && !((c.cmdsOf 1).any fun y => decide (y.kind = .wswap))

/-- R368 steps 1, 3, 4 and 5: every result has landed and the condition has cleared: the strand is rewound and ready. -/
def execRecoveryRewind (t f st : Nat) (s : State) : Out :=
  let k := 16 * t + f
  let x := s.strand k st
  match x.st with
  | .recovering code detail =>
    if x.inflight.isEmpty ∧ x.pend.isEmpty ∧ s.causeCleared k x code detail then
      .next (s.setStrand k st { x.rewind with st := .ready, cRewc := x.cRewc + 1, pre := if x.pre = 0 then 0 else 3 })
    else .next s
  | _ => .next s

/-! ## Memory -/

/-- R261, R282: entry k of a core's store queue performs, where nothing that must perform before it is left. -/
def execPostedWritePerform (t f k : Nat) (s : State) : Out :=
  let c := 16 * t + f
  match (s.core c).sq[k]? with
  | some e => if s.mayPerform c e then .next (s.performOne c e) else .next s
  | none => .next s

/-- Before a fence of tower scope ends, which dirty lines are already written back is open: write-backs follow no order among lines (R284). -/
def State.writeSome (s : State) (k : Nat) : State :=
  let l := ((s.core k).l1.filter fun e => e.2.dirty != 0).map (·.1)
  (chosenOf s.freeCtr l).foldl (fun s ln => s.writeBackLine k ln) { s with freeCtr := s.freeCtr + l.length }

/-- An access of strand st that fence m follows: of a named class, issued before it. -/
def FenceMark.names (m : FenceMark) (st : Nat) (e : SqEntry) : Bool := e.strand == st && decide (e.uid < m.uid) && m.mask.getLsbD e.cls

/-- A write of core k on its way home that a fence of device scope follows: the strand's own; with class 0 named, a line written back for it; for
FENCE.D, one of its earlier copies. -/
def FenceMark.covers (m : FenceMark) (k st : Nat) (e : Nat × SqEntry) : Bool :=
  e.1 == k && (m.names st e.2 || (m.mask.getLsbD 0 && e.2.strand == 4 && m.wb.any fun u => decide (e.2.uid < u))
    || (m.dup && e.2.strand == 8 + st && decide (e.2.tag < m.uid)))

/-- Whether the accesses that fence m of strand st follows are performed at its scope (R263, R264, R279); their lines are already written back. -/
def State.fenceClear (s : State) (k st : Nat) (m : FenceMark) : Bool :=
  !((s.waiting k).any (m.names st))
    && (decide (m.scope < 4) || !((s.tower (towerOf k)).out.any (m.covers k st)))
    && (decide (m.scope < 5) || !(s.unacked k st fun c => m.mask.getLsbD c))
    && (!m.dup || ((s.strand k st).dupOut == 0 && !((s.core k).cmdsOf 4).any fun y => y.strand == st && decide (y.uid < m.uid)))

/-- The actions of the strand's oldest fence m, with those behind it (R263): its accesses leave the store queue; from tower scope on, dirty lines are
written back, once; from device scope on, those writes go home. -/
def State.fenceActs (s : State) (k st : Nat) (m : FenceMark) (r : List FenceMark) : State × FenceMark :=
  let s := s.flush k st (m.names st)
  let w := decide (3 ≤ m.scope) && m.wb.isNone
  let s := if w then s.writeBack k else s
  let m := if w then { m with wb := some s.uid } else m
  let s := s.modStrand k st fun x => { x with fences := m :: r }
  (if 4 ≤ m.scope then s.pushHome (towerOf k) (m.covers k st) else s, m)

/-- R263, R264: the actions of the strand's oldest fence end: the accesses of its classes issued before it are performed at its scope, dirty lines
written back from tower scope on, stale copies dropped from device scope on; FENCE.D ends once every duplicate is acknowledged. -/
def execFenceActionsComplete (t f st : Nat) (s : State) : Out :=
  let k := 16 * t + f
  match (s.strand k st).fences with
  | [] => .next s
  | m :: r =>
    if s.now < m.due then .next (if 3 ≤ m.scope then s.writeSome k else s)
    else
      let (s, m) := s.fenceActs k st m r
      if s.fenceClear k st m then
        let s := if 4 ≤ m.scope then s.acquire k else s
        .next (s.modStrand k st fun x => { x with fences := r })
      else .next s

/-- R337: every tower has acknowledged the drop. -/
def execTranslationDropAck (t f st : Nat) (s : State) : Out :=
  let k := 16 * t + f
  match (s.strand k st).xlinv with
  | some d => if d ≤ s.now then .next (s.modStrand k st fun x => { x with xlinv := none }) else .next s
  | none => .next s

/-- R333: the condition of a strand parked without an entry is checked again; the read of a watched line waits for its gauge (R357). -/
def execWaitRecheck (t f st : Nat) (s : State) : Out :=
  let k := 16 * t + f
  let x := s.strand k st
  match x.st with
  | .parked .watch =>
    match x.watch with
    | some w =>
      let may := s.umbraMay (s.jobOf k) (w.line * 64) 64 false
      let s := if w.entered then s else if may then (s.homeFetch t (s.jobOf k) (w.line * 64) 64).1 else s
      let x := { x with recheckDue := !w.entered && !may }
      let differs := if region (w.line * 64) = 1 then Config.pick s.freeCtr 2 % 2 == 1 else rdBytes s.mem (w.line * 64) 64 != w.snap
      if !w.entered ∧ may ∧ differs then .next ((s.setStrand k st { x with st := .ready, landFirst := true, watch := some { w with triggered := true } }).spend)
      else .next (s.setStrand k st x).spend
    | none => .next s
  | .parked (.absent i _) => if !s.hasWait k st 2 ∧ ((s.handle i).res = 0 ∨ !(s.handle i).v ∨ (s.handle i).lost) then .next (s.wake k st 2) else .next s
  | .parked (.join id) =>
    let e := (s.tower t).pendEntry (bits id 7 0)
    if !s.hasWait k st 3 ∧ !(e.live && e.gen == bits id 15 8) then .next (s.wake k st 3) else .next s
  | .parked .task =>
    if !s.hasWait k st 4 ∧ s.poolOver k ∧ x.task.isNone then .next ((s.wake k st 4).modStrand k st fun x => (x.setX 1 0).setX 2 0) else .next s
  | _ => .next s

end Sys2Proof.Machine
end

