-- ==== Sys2Proof/Machine/SaveArea.lean ====
section
/-! DEFINITION. The save area (R140, R141, R245, R377): the core blocks and extension blocks of a gang as bytes, writing them to memory, and
reading them back at a return. -/

namespace Sys2Proof.Machine

/-! ## The layout -/

/-- One item of an image: offset, bytes, whether they carry poison. -/
abbrev Item := Nat × List Byte × Bool

/-- n words of f as bytes. -/
def wordBytes (n : Nat) (f : Nat → Word) : List Byte := (List.range n).flatMap fun j => toLE 8 (f j).toNat

/-- Stride of the strands and size of a core block (R141). -/
def strandStride (gng : Bool) : Nat := if gng then 0x11000 else 0x9000
def coreBlock (gng : Bool) : Nat := if gng then 0x45000 else 0x25000
/-- Bytes of an extension block (R377). -/
def extBlock : Nat := 0x128000
/-- Bytes of a gang's image. -/
def Gang.imageLen (g : Gang) : Nat := g.cores.length * (coreBlock g.ganged + extBlock)

/-- The strand state code (R141, R378); a strand whose recovery waits is recorded as blocked in a dump. -/
def strandCode (x : Strand) (dump : Bool) : Nat :=
  match x.st with
  | .inactive => 0
  | .ready => 1
  | .running => if dump then 5 else 1
  | .blocked _ => if dump then 2 else 1
  | .recovering _ _ => if dump then 2 else 1
  | .parked _ => 3
  | .atBarrier => 4

/-- The items of a strand's block (R141). -/
def strandImage (x : Strand) (rowb : Nat) (dump : Bool) : List (Nat × List Byte) :=
  [ (0x0000, wordBytes 56 x.getX), (0x01C0, wordBytes 32 x.getF), (0x02C0, toLE 8 x.p.toNat), (0x02C8, toLE 8 (strandCode x dump)),
    (0x0300, (List.range 16).flatMap fun n => toLE 64 (x.getL n).toNat), (0x0700, wordBytes 16 x.getA),
    (0x0780, (List.range 16).flatMap fun n => toLE 8 (x.getAM n).1.toNat ++ toLE 8 (x.getAM n).2.toNat),
    (0x0880, wordBytes 4 x.getLS ++ wordBytes 4 x.getLE ++ wordBytes 4 fun n => (x.getLC n).zeroExtend 64),
    (0x08E0, bytesOf [x.spc, x.sst, x.scfg, x.scause, x.sepc, x.sinfo, x.shv]),
    (0x0920, toLE 8 x.restart.addr.toNat ++ wordBytes 16 (fun n => mget x.restart.a n 0) ++ wordBytes 4 (fun n => (mget x.restart.lc n 0).zeroExtend 64)
      ++ toLE 8 x.restart.fill),
    (0x1000, (List.range 64).flatMap fun n => toLE rowb (x.getV n).toNat) ]

/-- The items of a core block (R141); the blocks of inactive strands and the places of absent queue entries are not written. -/
def coreImage (c : Core) (gng dump : Bool) : List (Nat × List Byte) :=
  ((List.range 8).map fun q => (128 * q, bytesOf ((c.port q).map (·.val))))
    ++ [ (0x400, (List.range 8).map fun q => BitVec.ofNat 8 (c.port q).length),
         (0x440, (List.range 32).flatMap fun n => toLE 4 (mget c.bfmt n 0).toNat), (0x4C0, toLE 8 c.gtol.toNat) ]
    ++ ((List.range 4).filter fun i => decide ((c.strand i).st ≠ .inactive)).flatMap fun i =>
        (strandImage (c.strand i) (if gng then 1024 else 512) dump).map fun e => (0x1000 + i * strandStride gng + e.1, e.2)

/-- The streams still queued or running, the first from its first unclaimed tile on (R245). -/
def Core.savedStreams (c : Core) : List Stream :=
  match c.streams with
  | [] => []
  | st :: r =>
    let whole := c.fifo.filter fun t => t.remaining == 0 && t.fail.isNone
    let m := min (st.total - st.tiles) whole.length
    let base := match (whole.drop (whole.length - m)).head?, c.fifo.getLast? with
      | some t, _ => t.base
      | none, some z => if z.remaining = 0 || z.fail.isSome then st.next else z.base
      | none, none => st.next
    { st with next := base, tiles := st.tiles + m, started := false } :: r

/-- A mask of register numbers. -/
def numMask (l : List Nat) : Nat := l.eraseDups.foldl (fun a n => a + 2 ^ n) 0

/-- Elements and scales of a plane (R377). -/
def planeImage (p : Plane) (cols base : Nat) : List Item :=
  [ (base, (List.range (128 * cols)).flatMap (fun n => toLE (fmtBytes p.fmt) (mget p.elems n 0).toNat), p.poison),
    (base + 0x10000, (List.range (4 * cols)).map (fun n => BitVec.ofNat 8 (mget p.scales n 127)), p.scalePois) ]

/-- The header of a plane. -/
def planeHeader (p : Plane) : List Byte := [BitVec.ofNat 8 p.fmt, BitVec.ofNat 8 p.resident.toNat, BitVec.ofNat 8 p.flags.toNat]

/-- The items of the extension block of gang core ci (R377); its reserved bytes are not written. -/
def extImage (g : Gang) (c : Core) (ci cols : Nat) : List Item :=
  let four (n : Nat) (f : Strand → Nat) : List Byte := (List.range 4).flatMap fun i => toLE n (f (c.strand i))
  let watch (x : Strand) : Nat := match x.watch with | some w => w.line * 64 + 1 + w.entered.toNat * 2 | none => 0
  let poison (i : Nat) : List Item :=
    [ (0x60 + 32 * i, toLE 8 (numMask (c.strand i).xPois) ++ toLE 4 (numMask (c.strand i).fPois), false),
      (0x70 + 32 * i, toLE 8 (numMask (c.strand i).vPois), false) ]
  let streams := c.savedStreams.flatMap fun t => toLE 8 t.next.toNat ++ toLE 4 t.tiles ++ toLE 4 (2 ^ 31 + t.fmt)
  let slot (n : Nat) : List Byte := match c.tags[n]? with | some e => toLE 8 e.1.toNat ++ toLE 1 e.2 ++ toLE 1 1 | none => toLE 10 0
  let line (l : RowLine) : List Byte := toLE 8 l.line.toNat ++ toLE 8 l.mask.toNat ++ toLE 64 l.data.toNat
  [ (0x0, toLE 8 (numMask ((List.range 4).filter fun i => g.arrived.contains (4 * ci + i))), false),
    (0x8, four 1 (·.recov) ++ toLE 4 0, false), (0x10, four 8 watch, false), (0x30, four 8 (·.rown.toNat), false), (0x50, four 2 (·.rows.length), false),
    (0x100, streams ++ toLE (128 - streams.length) 0, false),
    (0x180, planeHeader c.active, false), (0x1A0, planeHeader c.shadow, false), (0x1C0, c.staging.flatMap fun z => bytesOf z.words, false) ]
    ++ (List.range 4).flatMap poison
    ++ ((List.range 256).map fun n => (0x1000 + 16 * n, slot n, false))
    ++ ((List.range 4).flatMap fun i => (c.strand i).rows.zipIdx.map fun l => (0x2000 + 0x5000 * i + 80 * l.2, line l.1, l.1.pois))
    ++ planeImage c.active cols 0x16000 ++ planeImage c.shadow cols 0x27000
    ++ [(0x38000, rdBytes c.near 0 c.scrSize, false)]
    ++ c.nearPois.eraseDups.map fun w => (0x38000 + 8 * w, rdBytes c.near (8 * w) 8, true)

/-- The image of a gang, core blocks then extension blocks (R141, R374, R377). -/
def State.gangImage (s : State) (g : Gang) (dump : Bool) : List Item :=
  let n := g.cores.length
  (g.cores.zipIdx.flatMap fun e => (coreImage (s.core e.1) g.ganged dump).map fun i => (coreBlock g.ganged * e.2 + i.1, i.2, false))
    ++ (g.cores.zipIdx.flatMap fun e => (extImage g (s.core e.1) e.2 (if g.ganged then 256 else 128)).map fun i =>
        (coreBlock g.ganged * n + extBlock * e.2 + i.1, i.2.1, i.2.2))

/-! ## Writing -/

/-- What a save reads of core k's SRAMs: latent errors of its rows, planes and scratchpad are corrected and counted, or poison what they stand in
(R217). -/
def State.readOut (s : State) (k : Nat) : State :=
  let s := (List.range 4).foldl (fun s i => s.rowErrs k i fun _ => true) s
  let (s, a) := s.coreErrs k fun e => decide (e.sram = .active)
  let (s, b) := s.coreErrs k fun e => decide (e.sram = .shadow)
  let s := s.modCore k fun c => { c with active := { c.active with poison := c.active.poison || a }, shadow := { c.shadow with poison := c.shadow.poison || b } }
  (s.scrRead k 0 (s.core k).scrSize).1

/-- Poisons the sectors of n bytes at a virtual address. -/
def State.poisonAt (s : State) (job va n : Nat) : State :=
  (pieces (n / 65536 + 2) va n).foldl (fun s p =>
    match s.vaddr job p.1 false with
    | .ok (pa, _) => { s with memPois := ((List.range (p.2 / 32 + 2)).map (pa / 32 + ·) |>.filter fun w => w * 32 < pa + p.2) ++ s.memPois }
    | .error _ => s) s

/-- Writes items by the firmware of tower t from a virtual address on, up to the first fault, whose address it returns. -/
def State.writeItems (s : State) (t job base : Nat) (l : List Item) : State × Option Nat :=
  l.foldl (fun (acc : State × Option Nat) e =>
    match acc with
    | (s, some a) => (s, some a)
    | (s, none) =>
      match s.vwrite t none job (base + e.1) e.2.1 with
      | (s, some (_, _, a)) => (s, some a)
      | (s, none) => (if e.2.2 then s.poisonAt job (base + e.1) e.2.1.length else s, none)) (s, none)

/-! ## Reading back -/

/-- n bytes of a job's memory; zeros where they cannot be read. -/
def State.fetchBytes (s : State) (job va n : Nat) : List Byte :=
  match s.vread job va n with
  | .ok (bs, _) => bs
  | .error _ => List.replicate n 0

/-- A little-endian number within bytes. -/
def numAt (bs : List Byte) (o n : Nat) : Nat := ofLE ((bs.drop o).take n)
def wordAt (bs : List Byte) (o : Nat) : Word := w64 (numAt bs o 8)

/-- A map of n values that are not zero. -/
def mapOf {α : Type} [DecidableEq α] (n : Nat) (z : α) (f : Nat → α) : Map α := (List.range n).filterMap fun j => if f j = z then none else some (j, f j)

/-- The numbers of a mask. -/
def maskNums (n m : Nat) : List Nat := (List.range n).filter fun j => m.testBit j

/-- The shape fields of SCFG with ACCT 33 (R131). -/
def shapeScfg (gng : Bool) : Word := if gng then 0x8100400000000210 else 0x0080200000000210

/-- An AM control word without its reserved bits (R127). -/
def amControl (w : Word) : Word := if bits w 63 62 = 2 then w &&& 0xC000001FFFFFFFFF else w &&& 0xC0FFFFFFFFFFFFFF

/-- A strand as its block and its part of the extension block give it (R140, R377); fe is the front end it returns on. Reserved bits and fixed fields
of a register are as the register has them, whatever the block holds (R8, R129 to R132). -/
def restoreStrand (old : Strand) (b e : List Byte) (i fe : Nat) (gng : Bool) : Strand :=
  let rowb := if gng then 1024 else 512
  let lines := old.rows.zipIdx.map fun l =>
    let o := 0x2000 + 0x5000 * i + 80 * l.2
    { l.1 with line := wordAt e o, mask := BitVec.ofNat 64 (numAt e (o + 8) 8), data := BitVec.ofNat 512 (numAt e (o + 16) 64) }
  let base : Strand := { old with
    rows := lines.take (numAt e (0x50 + 2 * i) 2), rown := wordAt e (0x30 + 8 * i), recov := numAt e (8 + i) 1
    xPois := maskNums 56 (numAt e (0x60 + 32 * i) 8), fPois := maskNums 32 (numAt e (0x68 + 32 * i) 4), vPois := maskNums 64 (numAt e (0x70 + 32 * i) 8)
    watch := old.watch.map fun w => { w with line := numAt e (0x10 + 8 * i) 8 / 64, triggered := true }
    cIssue := 0, cWait := 0, cTbr := 0, cRets := 0, cRewc := 0, cTrpc := 0, snap := none, snapReq := false, pre := 0, stub := none, landFirst := false }
  if old.st = .inactive then { base with sst := setBits old.sst 59 56 fe }
  else
    { base with
      st := (match numAt b 0x2C8 8 % 8 with | 1 => .ready | 2 => .ready | 3 => (match old.st with | .parked p => .parked p | _ => .ready) | 4 => .atBarrier | _ => .ready)
      x := (mapOf 56 0 fun n => wordAt b (8 * n)).filter fun v => v.1 != 0
      f := mapOf 32 0 fun n => wordAt b (0x1C0 + 8 * n)
      p := BitVec.ofNat 16 (numAt b 0x2C0 8) ||| 1
      l := (mapOf 16 0 fun n => BitVec.ofNat 512 (numAt b (0x300 + 64 * n) 64)).filter fun v => v.1 != 0
      a := mapOf 16 0 fun n => wordAt b (0x700 + 8 * n)
      am := mapOf 16 (0, 0) fun n => (amControl (wordAt b (0x780 + 16 * n)), wordAt b (0x788 + 16 * n))
      ls := mapOf 4 0 fun n => wordAt b (0x880 + 8 * n)
      le := mapOf 4 0 fun n => wordAt b (0x8A0 + 8 * n)
      lc := mapOf 4 0 fun n => BitVec.ofNat 32 (numAt b (0x8C0 + 8 * n) 4)
      spc := spcWord (wordAt b 0x8E0), sst := setBits (wordAt b 0x8E8 &&& 0xFFFFFE00C000001F) 59 56 fe
      scfg := scfgWrite (shapeScfg gng) (wordAt b 0x8F0), scause := wordAt b 0x8F8 &&& 0xFFFF07, sepc := spcWord (wordAt b 0x900)
      sinfo := wordAt b 0x908, shv := wordAt b 0x910 &&& 0xFFFFFFFFFFFFFFF0
      restart := { old.restart with addr := spcWord (wordAt b 0x920), a := mapOf 16 0 fun n => wordAt b (0x928 + 8 * n)
                                    lc := mapOf 4 0 fun n => BitVec.ofNat 32 (numAt b (0x9A8 + 8 * n) 4), fill := numAt b 0x9C8 8 }
      v := mapOf 64 0 fun n => BitVec.ofNat 8192 (numAt b (0x1000 + rowb * n) rowb) }

/-- A plane as the extension block gives it. -/
def restorePlane (e : List Byte) (header base cols : Nat) : Plane :=
  let f := numAt e header 1
  { fmt := f, resident := numAt e (header + 1) 1 == 1, flags := BitVec.ofNat 4 (numAt e (header + 2) 1)
    elems := mapOf (128 * cols) 0 fun n => BitVec.ofNat 32 (numAt e (base + fmtBytes f * n) (fmtBytes f))
    scales := mapOf (4 * cols) 127 fun n => numAt e (base + 0x10000 + n) 1 }

/-- A core as its blocks give it, on front end fe. -/
def restoreCore (c : Core) (g : Gang) (ci fe : Nat) (errs : List (Nat × Bool)) (b e : List Byte) : Core :=
  let cols := if g.ganged then 256 else 128
  let streams := (g.streams.getD ci []).zipIdx.map fun t =>
    { t.1 with next := wordAt e (0x100 + 16 * t.2), tiles := numAt e (0x108 + 16 * t.2) 4, fmt := numAt e (0x10C + 16 * t.2) 1 % 64, acq := none }
  let staging := (g.staged.getD ci []).zipIdx.map fun z => { z.1 with words := wordsOf 8 ((e.drop (0x1C0 + 64 * z.2)).take 64) }
  { c with
    gang := some g.num, frz := 0, streams := streams, staging := staging
    q := (List.range 8).map fun q => (q, (List.range (numAt b (0x400 + q) 1)).map fun n => QEntry.mk 0 true (wordAt b (128 * q + 8 * n)) 4)
    bfmt := mapOf 32 0 fun n => bfmtWrite 0 (BitVec.ofNat 32 (numAt b (0x440 + 4 * n) 4))
    gtol := wordAt b 0x4C0 &&& 0xFFFFFFFF
    active := restorePlane e 0x180 0x16000 cols
    shadow := restorePlane e 0x1A0 0x27000 cols
    tags := (List.range 256).filterMap fun n => if numAt e (0x1009 + 16 * n) 1 % 2 = 1 then some (wordAt e (0x1000 + 16 * n), numAt e (0x1008 + 16 * n) 1) else none
    near := wrBytes [] 0 ((e.drop 0x38000).take c.scrSize)
    nearPois := [], nearErr := errs
    strands := (List.range 4).map fun i =>
      (i, restoreStrand (g.hidden.getD (4 * ci + i) {}) (b.drop (0x1000 + strandStride g.ganged * i)) e i fe g.ganged) }

end Sys2Proof.Machine
end

