-- ==== Sys2Proof/Machine/Gangs.lean ====
section
/-! DEFINITION. Gangs: rows and their drain (R285, R204), the gang barrier (R38), retirement and launch completion (R39, R43), placement (R37,
R304, R48, R45). -/

namespace Sys2Proof.Machine

/-! ## Draining lines -/

def RowLine.run (l : RowLine) (r : Nat × Nat) : List Byte := (List.range r.2).map fun j => l.byte (r.1 + j)

/-- The masked bytes of a line as cells from address a on. -/
def RowLine.cells (l : RowLine) (a : Nat) : List Host.Cell := ((List.range 64).filter fun i => l.mask.getLsbD i).map fun i => (a + i, l.byte i)

/-- Cells written into a line that L1 holds: it becomes dirty, and words of poisoned ones carry the poison (R204, R217). -/
def Core.dirtyLine (c : Core) (ln : Nat) (z : RowLine) : Core :=
  match mfind c.l1 ln with
  | none => c
  | some l =>
    let l := (maskRuns z.mask).foldl (fun (l : L1Line) r => l.patched (ln * 64) 64 (ln * 64 + r.1) ((z.cells 0).filterMap fun c =>
      if r.1 ≤ c.1 ∧ c.1 < r.1 + r.2 then some c.2 else none) z.pois) l
    { c with l1 := mput c.l1 ln { l with dirty := l.dirty ||| z.mask } }

/-- Whether a line is of the scratchpad, and where its first byte lies: an offset there, or a physical address. -/
def RowLine.scr (l : RowLine) : Bool := decide (2 ^ 63 ≤ l.phys)
def RowLine.base (l : RowLine) : Nat := l.phys % 2 ^ 63 * 64

/-- The stores that a line of strand i makes as it drains, one a run of its bytes. -/
def RowLine.stores (l : RowLine) (job i uid : Nat) : List SqEntry :=
  (maskRuns l.mask).zipIdx.map fun r =>
    { group := l.mask, lead := r.2 == 0, uid := uid + r.2, strand := i, cls := 0, kind := .store, job := job, va := l.line + w64 r.1.1, pa := l.base + r.1.1, bytes := l.run r.1
      dup := l.dup, nc := l.nc, scr := l.scr, pois := l.pois }

/-- Whether a line that drains is written into the L1 of a one-core gang (R204). -/
def State.drainsToL1 (s : State) (g : Gang) (k : Nat) (l : RowLine) : Bool :=
  g.cores.length == 1 && !l.scr && !l.nc && region l.base == 0 && (mfind (s.core k).l1 l.phys).isSome

/-- One line of strand i of core k drains (R204, R284, R285, R289): none while a direct access of the strand to its bytes is still to perform, or a gauge
does not admit what it sends (R357). In L1 its duplicate goes out at once (R264). -/
def State.drainLine (s : State) (g : Gang) (k i : Nat) (l : RowLine) : Option State :=
  let loc := if l.scr then scrLoc l.base else l.base
  let s := s.flush k i fun e => e.overlaps loc 64
  let es := l.stores g.job i s.uid
  if (s.waiting k).any fun e => e.strand == i && e.overlaps loc 64 then none
  else if s.drainsToL1 g k l then
    if l.dup && s.partner != 0xFF && !s.admits g.job (towerOf k) 3 then none
    else
      let s := s.modCore k fun c => c.dirtyLine l.phys l
      some (if l.dup then es.foldl (fun s e => s.duplicate (towerOf k) (some (k, i)) g.job e.pa e.bytes 0 0 e.lead) s else s)
  else if es.all (s.accepts k) then some (es.foldl (fun s e => s.performEntry k e) { s with uid := s.uid + es.length })
  else none

/-- The strand without its first n lines. -/
def Strand.dropRows (x : Strand) (n : Nat) : Strand :=
  { x with rows := x.rows.drop n, restart := { x.restart with fill := x.restart.fill - n }
           task := x.task.map fun t => { t with fill := t.fill - n } }

/-- The latent errors of strand i's row buffer once its first line is gone. -/
def Core.errsDown (c : Core) (i : Nat) : Core :=
  { c with errs := c.errs.filterMap fun e => if e.sram ≠ .row i then some e else if e.word < 8 then none else some { e with word := e.word - 8 } }

/-- The atomic units of a line (R289), as masks: its aligned 4-byte words that are covered in full, and its other bytes singly. -/
def RowLine.units (l : RowLine) : List (BitVec 64) :=
  (List.range 16).flatMap fun w =>
    let m : BitVec 64 := 0xF <<< (4 * w)
    if l.mask &&& m = m then [m] else ((List.range 4).filter fun j => l.mask.getLsbD (4 * w + j)).map fun j => 1 <<< (4 * w + j)

/-- Units of the first n lines of a strand that have not drained. -/
def Strand.unitsIn (x : Strand) (n : Nat) : Nat := ((x.rows.take n).map fun l => l.units.length).sum

/-- Up to u units of the first n lines of a strand drain, in order; and what is left of u, none where a line must wait. A line of which some units have
drained keeps the others. -/
def State.drainUnits (s : State) (g : Gang) (k i : Nat) : Nat → Nat → State × Nat
  | 0, u => (s, u)
  | n + 1, u =>
    if u = 0 then (s, 0)
    else
      let s := s.rowErrs k i fun z => decide ((s.strand k i).rows.head? = some z)
      match (s.strand k i).rows with
      | [] => (s, u)
      | l :: r =>
        let m := (l.units.take u).foldl (· ||| ·) 0
        match s.drainLine g k i { l with mask := m } with
        | none => (s, 0)
        | some t =>
          if l.units.length ≤ u then ((t.modStrand k i fun x => x.dropRows 1).modCore k fun c => c.errsDown i).drainUnits g k i n (u - l.units.length)
          else (t.modStrand k i fun x => { x with rows := { l with mask := l.mask &&& ~~~m } :: r }, 0)

/-- How many of n units drain in a cycle: at least one, and which number is open. -/
def State.drainCount (s : State) (n : Nat) : Nat := n - Config.pick s.freeCtr n % n

/-! ## Rows (R285) -/

/-- Whether gang strand index n is a task strand. -/
def Gang.isTask (g : Gang) (n : Nat) : Bool := g.tmask.getLsbD (n % 4)

def State.gsiStrand (s : State) (g : Gang) (n : Nat) : Strand := s.strand (g.ofGsi n).1 (g.ofGsi n).2

/-- Whether row `gadv` of the gang advances: every active strand that is no task strand has sealed it; without such a strand, while lines of it
are left. -/
def State.rowAdvances (s : State) (g : Gang) : Bool :=
  let act := (s.activeGsi g).filter fun n => !g.isTask n
  if act.isEmpty then (List.range (4 * g.cores.length)).any fun n => !g.isTask n && (s.gsiStrand g n).rows.any fun l => decide (g.gadv ≤ l.row)
  else act.all fun n => decide (g.gadv < (s.gsiStrand g n).rown)

/-- The lines of a task strand that may drain: sealed, and not held by a guarded task (R285, R288). -/
def Strand.taskDrain (x : Strand) : Nat :=
  let n := (x.rows.takeWhile fun l => decide (l.row < x.rown)).length
  match x.task with
  | some t => if t.guarded && !t.retiring then min n t.fill else n
  | none => n

/-- The task strands that have sealed lines to drain. -/
def State.tasksToDrain (s : State) (g : Gang) : List Nat :=
  (List.range (4 * g.cores.length)).filter fun n => g.isTask n && (s.gsiStrand g n).taskDrain != 0

/-- Lines of gang strand n that drain with row `gadv` (R285). -/
def State.rowLines (s : State) (g : Gang) (n : Nat) : Nat :=
  if g.isTask n then 0 else ((s.gsiStrand g n).rows.takeWhile fun l => decide (l.row ≤ g.gadv)).length

/-- Units that the advancing row still has to drain. -/
def State.rowUnits (s : State) (g : Gang) : Nat :=
  ((List.range (4 * g.cores.length)).map fun n => (s.gsiStrand g n).unitsIn (s.rowLines g n)).sum

/-- The next u units of the advancing row drain, in gang strand-index order. -/
def State.drainRow (s : State) (g : Gang) (u : Nat) : State :=
  ((List.range (4 * g.cores.length)).foldl (fun (a : State × Nat) n =>
    a.1.drainUnits g (g.ofGsi n).1 (g.ofGsi n).2 (a.1.rowLines g n) a.2) (s, u)).1

/-- The advancing row of the gang, if there is one, drains further; once it has drained in full, the next may (R285). -/
def State.advanceRow (s : State) (gang : Nat) (g : Gang) : State :=
  if s.rowAdvances g then
    let d := (s.drainRow g (s.drainCount (s.rowUnits g))).spend
    if d.rowUnits g = 0 then d.modGang gang fun g => { g with gadv := g.gadv + 1 } else d
  else s

/-- The sealed lines of task strand n drain further. -/
def State.drainTask (s : State) (g : Gang) (n : Nat) : State :=
  let x := s.gsiStrand g n
  (s.drainUnits g (g.ofGsi n).1 (g.ofGsi n).2 x.taskDrain (s.drainCount (x.unitsIn x.taskDrain))).1.spend

/-- R285: the next row of the gang advances and drains in gang strand-index order, and task strands' sealed lines drain. How much of a row drains in
a cycle is open (R289). -/
def execRowDrain (gang : Nat) (s : State) : Out :=
  match s.gang? gang with
  | none => .next s
  | some g =>
    let live : Bool := match g.phase with | .running => true | .preempting _ => true | _ => false
    if !live then .next s
    else .next ((s.tasksToDrain g).foldl (fun s n => s.drainTask g n) (s.advanceRow gang g))

/-! ## The barrier (R38) -/

/-- Whether the barrier of the gang completes: every active strand has arrived in an earlier cycle, its sealed rows have drained and its
direct accesses are performed. -/
def State.barrierDone (s : State) (g : Gang) : Bool :=
  !g.arrived.isEmpty && decide (g.lastAt < s.now) && decide (g.phase = .running)
    && (s.activeGsi g).all (fun n => g.arrived.contains n
        && !((s.gsiStrand g n).rows.any fun l => decide (l.row < (s.gsiStrand g n).rown))
        && !((s.waiting (g.ofGsi n).1).any fun e => e.strand == n % 4))

/-- R38: every strand at the barrier becomes ready. -/
def execGbarCompletion (gang : Nat) (s : State) : Out :=
  match s.gang? gang with
  | none => .next s
  | some g =>
    if s.barrierDone g then
      let s := g.arrived.foldl (fun s n => s.modStrand (g.ofGsi n).1 (g.ofGsi n).2 fun x =>
        if x.st = .atBarrier then { x with st := .ready, landFirst := true } else x) s
      .next (s.modGang gang fun g => { g with arrived := [] })
    else .next s

/-! ## Completion of launches (R43, R311) -/

/-- Whether pool n of tower t, which is p, is finished: closed and empty, with nothing staged, discarded or in task mode (R311). -/
def State.poolDone (s : State) (t n : Nat) (p : Pool) : Bool :=
  p.closed && p.queue.isEmpty && p.ringq.isEmpty && !(s.tower t).discarding n
    && !((s.gangs.filter fun e => e.2.launch == p.launch && e.2.tower == t).any fun e =>
      e.2.staged.any (fun l => !l.isEmpty) || e.2.hidden.any (fun x => x.task.isSome || x.tm)
        || e.2.cores.any fun k => decide ((s.core k).gang = some e.1) && (!(s.core k).staging.isEmpty || (s.core k).strands.any fun x => x.2.task.isSome || x.2.tm))

/-- The strands parked in TDONE on the gangs of launch l, whose pool is finished, go on with X1 and X2 zero (R315). -/
def State.wakeDone (s : State) (l : Nat) : State :=
  (s.cores.filter fun e => (s.gangOf e.1).any fun g => g.launch == l).foldl (fun s e =>
    (List.range 4).foldl (fun s i =>
      if (s.strand e.1 i).st = .parked .task ∧ s.hasWait e.1 i 4 then (s.wake e.1 i 4).modStrand e.1 i fun x => (x.setX 1 0).setX 2 0 else s) s) s

/-- A pool is finished (R311, R315). -/
def State.finishPool (s : State) (t n : Nat) : State :=
  match s.pool? t n with
  | none => s
  | some p => ((s.setPool t n { p with finished := true }).modLaunch p.launch fun l => { l with poolOver := true }).wakeDone p.launch

/-- Whether the completion condition of a launch holds (R43). -/
def State.launchComplete (s : State) (l : Nat) : Bool :=
  match s.launch? l with
  | none => false
  | some x =>
    x.placed == recGangs x.words && x.retired == recGangs x.words
      && (recKind x.words == 0 || x.poolOver || match s.pool? x.tower (recPool x.words) with
        | some p => p.launch != l || p.finished || s.poolDone x.tower (recPool x.words) p
        | none => true)

/-- A launch completes: the event of a host launch, and the release of what it held (R43, R305, R319, R332). -/
def State.completeLaunch (s : State) (l : Nat) : State :=
  if s.launchComplete l then
    match s.launch? l with
    | none => s
    | some x =>
      let s := if x.child.isNone then s.postJob 1 x.job x.tower x.htag [] else s
      s.releaseLaunch l
  else s

/-! ## Retirement (R39) -/

/-- Whether a gang retires: no strand is active, its rows have drained, its commands have completed and its accesses are performed. -/
def State.gangDone (s : State) (g : Gang) : Bool :=
  (match g.phase with | .running => true | .preempting _ => true | _ => false)
    && (s.activeGsi g).isEmpty
    && g.cores.all fun k =>
      let c := s.core k
      (s.waiting k).isEmpty && (c.strands.all fun e => e.2.rows.isEmpty) && [1, 2, 3, 4, 5, 6].all fun e => (c.cmdsOf e).isEmpty

/-- Whether the writes of core k are performed at device scope, or with sys at system scope (R279, R292). -/
def State.coreHome (s : State) (k : Nat) (sys : Bool) : Bool :=
  !(s.core k).dirty && !((s.tower (towerOf k)).out.any fun e => e.1 == k)
    && (!sys || (List.range 4).all fun i => !(s.unacked k i fun _ => true) && !(s.unacked k (8 + i) fun _ => true) && (s.strand k i).dupOut == 0)

/-- R39: scratchpad discarded, L1 written back, cores freed, the launch's gang count decremented; first the gang's writes are performed at device scope,
and at system scope for a launch whose completion the host sees (R292). -/
def execGangRetirement (gang : Nat) (s : State) : Out :=
  match s.gang? gang with
  | none => .next s
  | some g =>
    if s.gangDone g then
      let s := g.cores.foldl (fun s k => (s.writeBack k).pushHome (towerOf k) fun e => e.1 == k) s
      let sys := match s.launch? g.launch with | some l => l.child.isNone | none => false
      if g.cores.all fun k => s.coreHome k sys then
        let s := g.cores.foldl (fun s k => (s.modCore k fun c => { c with near := [], nearPois := [], tags := [] }).freeCore k) s
        let s := { s with gangs := mdel s.gangs gang }
        let s := s.modLaunch g.launch fun l => { l with retired := l.retired + 1 }
        .next (s.completeLaunch g.launch)
      else .next s
    else .next s

/-! ## Placing a gang (R37, R138, R205, R206) -/

/-- The free front ends of tower t for a shape within a job's partition. -/
def State.freeFronts (s : State) (t : Nat) (j : Job) (gng : Bool) : List Nat :=
  (s.partFronts t j gng).filter fun f => (s.core (16 * t + f)).gang.isNone

/-- The identity fields of SST (R130). -/
def identSst (t f gsi gcn gci : Nat) : Word := w64 (t * 2 ^ 60 + f * 2 ^ 56 + gsi * 2 ^ 50 + gcn * 2 ^ 45 + gci * 2 ^ 41)

/-- A strand in launch state (R122, R138). -/
def launchStrand (w : List Word) (num : Nat) (t f gsi gcn gci start : Nat) (on : Bool) : Strand :=
  let x : Strand :=
    { st := if on then .ready else .inactive, spc := recEntry w, shv := recTrap w, sst := identSst t f gsi gcn gci
      scfg := shapeScfg (recGng w), fresh := true, restart := { addr := recEntry w }, startAt := start }
  (x.setX 1 (recArg w)).setX 2 (w64 (if recKind w = 0 then num else 0))

/-- A core as placement leaves it; L1 keeps the lines of the banks that stay its own (R206). `last` is 3, so that the first search for a ready strand starts
at strand 0 (log entry 82). -/
def placeCore (c : Core) (gang : Nat) (x : Launch) (num t f gcn gci start : Nat) (errs : List (Nat × Bool)) : Core :=
  let w := x.words
  { c.freed with
    gang := some gang, last := 3, frz := 0, near := [], nearPois := [], nearErr := errs, tags := [], scr := recScr w
    l1 := c.l1.filter fun e => decide (recScr w ≤ e.2.way)
    bfmt := bankTable x.table, gtol := recGtol w
    strands := (List.range 4).map fun i => (i, launchStrand w num t f (4 * gci + i) gcn gci start ((recSmask w).testBit i)) }

/-- Places the next gang of launch l on the given cores. All its strands start in one cycle (R37), at a free moment within the bound of R440; for a child
they follow an acquire of device scope (R292). -/
def State.placeGang (s : State) (l : Nat) (x : Launch) (cores : List Nat) : State :=
  let w := x.words
  let gid := s.uid
  let within := if x.child.isSome then 14 else 256
  let start := s.now + Config.pick s.freeCtr within % within
  let g : Gang := { launch := l, num := x.placed, tower := x.tower, job := x.job, cores := cores, ganged := recGng w
                    smask := BitVec.ofNat 4 (recSmask w), tmask := BitVec.ofNat 4 (if recKind w = 0 then 0 else recTmask w), placedAt := s.now }
  let s := { s with uid := s.uid + 1, gangs := mput s.gangs gid g }
  let s := cores.zipIdx.foldl (fun s e => s.modCore e.1 fun c => placeCore c gid x x.placed x.tower (e.1 % 16) cores.length e.2 start (Config.sramErrors (s.freeCtr + e.2))) s.spend
  let s := if x.child.isSome then cores.foldl (fun s k => s.acquire k) s else s
  let s := if x.placed = 0 then
      let s := s.modTower x.tower fun t => { t with stubs := t.stubs ++ [(l, drainEntries (recNdrain w) x.table)] }
      if recKind w = 0 then s
      else s.setPool x.tower (recPool w) { launch := l, job := x.job, guarded := recKind w == 2, ring := w64 (recRing w + x.tower * 64 * 2 ^ recRlog w)
                                           rlog := recRlog w, byp := recByp w }
    else s
  let s := s.modLaunch l fun y => { y with placed := y.placed + 1, kmem := y.kmem <|> some s.past.length }
  let s := s.modJob x.job fun j => { j with started := true }
  if x.placed + 1 = recGangs w then s.modTower x.tower fun t => { t with lq := t.lq.map fun e => (e.1, e.2.filter fun r => r.launch != some l) } else s

/-! ## The placer (R304) -/

/-- The job of a launch takes placements: live, not halted, not stopped by a checkpoint. -/
def State.jobOpen (s : State) (j : Nat) : Bool := match s.job? j with | some x => !x.halted && !x.stopped | none => false

/-- The launch may be placed but for its cores: room for its drain stubs (R332) and its pool not open for another launch (R302). -/
def State.mayPlace (s : State) (l : Nat) (x : Launch) : Bool :=
  s.jobOpen x.job && (x.placed != 0 ||
    (decide (((s.tower x.tower).stubs.foldl (fun n e => n + e.2.length) 0) + recNdrain x.words ≤ 256)
      && !(recKind x.words != 0 && s.poolTaken x.tower (recPool x.words) l)))

/-- The cores that the next gang of a launch takes (R37). -/
def State.coresFor (s : State) (x : Launch) : Option (List Nat) :=
  match s.job? x.job with
  | none => none
  | some j =>
    let fs := (s.freeFronts x.tower j (recGng x.words)).take (recCores x.words)
    if fs.length = recCores x.words then some (fs.map (16 * x.tower + ·)) else none

/-- Child launches of tower t that still have gangs to place, of a class, oldest first. -/
def State.childrenOf (s : State) (t : Nat) (latency : Bool) : List Nat :=
  ((s.launches.filter fun e => e.2.tower == t && e.2.child.isSome && e.2.placed != recGangs e.2.words
      && (match s.job? e.2.job with | some j => j.latency == latency | none => false)).mergeSort fun a b => a.2.order ≤ b.2.order).map (·.1)

/-- A unit that the placer serves: the head of a launch queue that was not considered yet, or a launch. -/
inductive Unit3 where
  | record (q : Nat) (r : LaunchRec)
  | launch (l : Nat)
deriving DecidableEq, Repr

/-- The heads of launch queues of tower t. -/
def State.headsOf (s : State) (t : Nat) (qs : List Nat) : List Unit3 :=
  qs.filterMap fun q => match mget (s.tower t).lq q [] with
    | [] => none
    | r :: _ => some (match r.launch with | some l => .launch l | none => .record q r)

/-- The units of tower t in the placer's order, behind the returning gangs. -/
def State.unitsOf (s : State) (t : Nat) : List Unit3 :=
  (s.childrenOf t true).map .launch ++ s.headsOf t [0, 1, 2, 3] ++ (s.childrenOf t false).map .launch ++ s.headsOf t [4, 5, 6, 7]

/-- Whether a gang holds its cores and is not on its way out: it runs, or its tiles still follow it (R246). -/
def Gang.stays (g : Gang) : Bool := g.stopAfter.isNone && (match g.phase with | .running => true | .moving _ => true | _ => false)

/-- Cores of tower t that throughput-class gangs hold (R48). -/
def State.throughputCores (s : State) (t : Nat) : Nat :=
  ((s.gangs.filter fun e => e.2.tower == t && e.2.stays && (match s.job? e.2.job with | some j => !j.latency | none => false)).map
    fun e => e.2.cores.length).sum

/-- Whether a gang of tower t is on its way out. -/
def State.preemptingOn (s : State) (t : Nat) : Bool :=
  s.gangs.any fun e => e.2.tower == t && (e.2.stopAfter.isSome || match e.2.phase with | .preempting _ => true | _ => false)

/-- Cores of gang g that a launch could use. -/
def State.usable (s : State) (x : Launch) (g : Gang) : Nat :=
  match s.job? x.job with
  | none => 0
  | some j => (g.cores.filter fun k => (s.partFronts x.tower j (recGng x.words)).contains (k % 16)).length

/-- The throughput gang that is pre-empted for a latency launch (R48): the one with the fewest cores that frees enough, the latest placed among
equals, if the floor still holds. -/
def State.latencyVictim (s : State) (x : Launch) : Option Nat :=
  match s.job? x.job with
  | none => none
  | some j =>
    if !j.latency then none
    else
      let have_ := (s.freeFronts x.tower j (recGng x.words)).length
      let floor := ((s.tower x.tower).cntOf 0x109).toNat
      let ok := s.gangs.filter fun e => e.2.tower == x.tower && e.2.stays && (match s.job? e.2.job with | some y => !y.latency | none => false)
        && decide (recCores x.words ≤ have_ + s.usable x e.2) && decide (floor + e.2.cores.length ≤ s.throughputCores x.tower) && s.usable x e.2 != 0
      ((ok.mergeSort fun a b => decide (a.2.cores.length < b.2.cores.length) || (a.2.cores.length == b.2.cores.length && decide (b.2.placedAt ≤ a.2.placedAt))).head?).map (·.1)

/-- Every active strand of a gang is parked on LJOIN (R45). -/
def State.allJoining (s : State) (g : Gang) (x : Nat → Strand) : Bool :=
  let act := (List.range (4 * g.cores.length)).filter fun n => decide ((x n).st ≠ .inactive)
  !act.isEmpty && act.all fun n => match (x n).st with
    | .parked (.join id) => let e := (s.tower g.tower).pendEntry (bits id 7 0); e.live && e.gen == bits id 15 8
    | _ => false

/-- The gang that is pre-empted so that a child it awaits can be placed (R45). The floor of R48, which R45 does not name, is not asked (log entry 84). -/
def State.joinVictim (s : State) (l : Nat) (x : Launch) : Option Nat :=
  match s.job? x.job, x.child with
  | some j, some (t, e) =>
    let have_ := (s.freeFronts x.tower j (recGng x.words)).length
    let id := launchId t e ((s.tower t).pendEntry e).gen
    (s.gangs.find? fun g => g.2.tower == x.tower && decide (g.2.phase = .running) && s.allJoining g.2 (s.gsiStrand g.2)
      && (List.range (4 * g.2.cores.length)).any (fun n => decide ((s.gsiStrand g.2 n).st = .parked (.join id)))
      && decide (recCores x.words ≤ have_ + s.usable x g.2) && g.2.launch != l).map (·.1)
  | _, _ => none

/-- A gang begins to stop (R49, R374). Reasons: 0 a latency launch, 1 its children, 2 a checkpoint, 3 its wait budget. `v` is the launch that it makes way
for, with the gangs placed of it. A gang whose tiles still follow it stops once they have. -/
def State.beginPreempt (s : State) (gang reason : Nat) (v : Option (Nat × Nat) := none) : State :=
  s.modGang gang fun g => match g.phase with
    | .running => { g with phase := .preempting reason, victimOf := v }
    | .moving _ => { g with stopAfter := some reason, victimOf := v }
    | _ => g

/-- The host record at a queue's head is considered (R302): a launch, or its rejection with event type 2. -/
def State.considerHead (s : State) (t q : Nat) (r : LaunchRec) : State :=
  match s.job? r.job with
  | none => s.modTower t fun x => { x with lq := mput x.lq q ((mget x.lq q []).drop 1) }
  | some j =>
    let l := s.uid
    match s.checkRecord t l j r.words with
    | .error (why, w) =>
      let s := s.modTower t fun x => { x with lq := mput x.lq q ((mget x.lq q []).drop 1) }
      s.postEvent j.fn 2 j.num t (bits (r.words.getD 7 0) 63 32) [w64 w, w64 why]
    | .ok tb =>
      let x : Launch := { words := r.words, table := tb, job := j.num, child := none, depth := 0, limit := recDlim r.words, tower := t, fn := r.fn, order := l }
      let s := { s with uid := s.uid + 1, launches := mput s.launches l x }
      s.modTower t fun y => { y with lq := mput y.lq q ({ r with launch := some l } :: (mget y.lq q []).drop 1) }

/-- What the placer does for one unit: the state after it, or none when the unit must wait. -/
def State.serveUnit (s : State) (t : Nat) : Unit3 → Option State
  | .record q r => if s.jobOpen r.job ∨ (s.job? r.job).isNone then some (s.considerHead t q r) else none
  | .launch l =>
    match s.launch? l with
    | none => none
    | some x =>
      if !s.mayPlace l x then none
      else match s.coresFor x with
        | some cs => some (s.placeGang l x cs)
        | none =>
          if s.preemptingOn t then none
          else match s.latencyVictim x with
            | some g => some (s.beginPreempt g 0 (some (l, x.placed)))
            | none => (s.joinVictim l x).map fun g => s.beginPreempt g 1 (some (l, x.placed))

/-- The device takes placements: START reads ready or degraded (R410, R411). -/
def State.startReady (s : State) : Bool := bits s.start 63 60 == 1 || bits s.start 63 60 == 3

/-- R37, R304: the placer of tower t serves the first unit that it can. -/
def execGangPlacement (t : Nat) (s : State) : Out :=
  if !s.startReady then .next s
  else match pick1 (s.serveUnit t) (s.unitsOf t) with
    | some s => .next s
    | none => .next s

end Sys2Proof.Machine
end

