-- ==== Sys2Proof/Machine/Preempt.lean ====
section
/-! DEFINITION. Pre-emption and return (R49, R374 to R377, R245, R246, R268, R333, R361), gang failure (R372), halts with their dumps (R51, R320,
R378), wait budgets (R50). -/

namespace Sys2Proof.Machine

/-! ## Stopping strands (R374 to R376) -/

/-- The drain stub that fetch diverts address a to: that of the first drain entry whose range holds a (R332). -/
def State.stubFor (s : State) (g : Gang) (a : Word) : Option Word :=
  match s.launch? g.launch, (s.tower g.tower).stubs.find? fun e => e.1 == g.launch with
  | some l, some (_, es) =>
    let off := (a.toNat : Int) - (recEntry l.words).toNat
    (es.find? fun e => decide (e.1 ≤ off) && decide (off < e.2.1)).map fun e => recEntry l.words + wInt e.2.2
  | _, _ => none

/-- A strand at its group boundary during a pre-emption: stopped as it stands, diverted, or marked to be rewound; one whose timing recovery waits for an
engine ends that first (R365). -/
def State.stopStrand (s : State) (g : Gang) (k i : Nat) : State :=
  let x := s.strand k i
  let stopped (x : Strand) : Strand := { x with pre := 3 }
  if x.pre = 0 then
    match x.st with
    | .inactive => s.setStrand k i (stopped x)
    | .parked _ => s.setStrand k i (stopped x)
    | .atBarrier => s.setStrand k i (stopped x)
    | .recovering c _ => if c = 0x03 then s.setStrand k i { x with pre := 2 } else s
    | _ =>
      if x.th then s.setStrand k i { stopped x with st := .ready, landFirst := true }
      else match s.stubFor g x.spc with
        | some a => s.setStrand k i { { x.sealed with fresh := x.fresh } with pre := 1, stub := some 0, spc := s.firstOf k a, st := .ready, landFirst := true }
        | none => s.setStrand k i { x with pre := 2, st := .ready, landFirst := true }
  else if x.pre = 1 then
    match x.st with
    | .inactive => s.setStrand k i (stopped x)
    | .parked _ => s.setStrand k i (stopped x)
    | .atBarrier => s.setStrand k i (stopped x)
    | .recovering _ _ => s
    | _ => if x.stub.isNone then s.setStrand k i (stopped x) else s
  else if x.pre = 2 then
    match x.st with
    | .recovering _ _ => s
    | _ => if x.inflight.isEmpty ∧ x.pend.isEmpty then s.setStrand k i { x.sealed.rewind with pre := 3, st := .ready, cRewc := x.cRewc + 1 } else s
  else s

/-- Every strand of a core that is not frozen comes to its boundary. -/
def State.stopCore (s : State) (g : Gang) (k : Nat) : State :=
  if ((s.core k).frozen).isSome then s
  else
    let before := s.core k
    let s := (List.range 4).foldl (fun s i => s.stopStrand g k i) s
    match before.run with
    | some i => if (s.strand k i).pre = 1 ∧ (before.strand i).pre = 1 then s else s.modCore k fun c => { c with run := none, last := i }
    | none => s

/-- Whether everything that must end before the save has ended (R374 steps 1 to 3): strands stopped, results landed, commands complete,
accesses performed and gone home, fences, drops and duplicates answered. -/
def State.readyToSave (s : State) (g : Gang) : Bool :=
  g.cores.all fun k =>
    let c := s.core k
    c.frozen.isNone && c.mmaLeft == 0 && (s.waiting k).isEmpty && !((s.tower (towerOf k)).out.any fun e => e.1 == k) && ([1, 2, 3, 4, 5, 6].all fun e => (c.cmdsOf e).isEmpty)
      && (List.range 4).all fun i =>
        let x := c.strand i
        x.pre == 3 && x.inflight.isEmpty && x.pend.isEmpty && x.fences.isEmpty && x.xlinv.isNone && x.dupOut == 0

/-! ## The save -/

/-- The save area of a gang: that of its launch's record. -/
def State.saveBase (s : State) (g : Gang) : Nat := match s.launch? g.launch with | some l => recSave l.words | none => 0

/-- R374 steps 4 and 5: L1 is written back, the blocks are written, the cores are free. -/
def State.saveGang (s : State) (gang : Nat) (g : Gang) : State :=
  let s := g.cores.foldl (fun s k => (s.writeBack k).readOut k) s
  let s := (s.writeItems g.tower g.job (s.saveBase g) (s.gangImage g false)).1
  let hidden := g.cores.flatMap fun k => (List.range 4).map fun i => s.strand k i
  let staged := g.cores.map fun k => (s.core k).staging
  let streams := g.cores.map fun k => (s.core k).savedStreams
  let s := s.modGang gang fun y => { y with phase := .saved, hidden := hidden, staged := staged, streams := streams, savedAt := s.now }
  g.cores.foldl (fun s k => s.freeCore k) s

/-- R374: a gang stops, its commands complete, and its state is saved. A running gang begins to stop at the request of the host side. -/
def execPreemption (gang : Nat) (s : State) : Out :=
  match s.gang? gang with
  | none => .next s
  | some g =>
    match g.phase with
    | .running => .next (s.beginPreempt gang 2)
    | .preempting _ =>
      let s := g.cores.foldl (fun s k => (s.stopCore g k).pushHome (towerOf k) fun e => e.1 == k) s
      if s.readyToSave g then .next (s.saveGang gang g) else .next s
    | _ => .next s

/-! ## The return (R49, R246, R361) -/

/-- The free cores that a returning gang takes: those it held, where they are still bound in its shape (R16), or the lowest of its shape. -/
def State.returnCores (s : State) (g : Gang) : Option (List Nat) :=
  match s.job? g.job with
  | none => none
  | some j =>
    let free := s.freeFronts g.tower j g.ganged
    if g.cores.all fun k => free.contains (k % 16) then some g.cores
    else if g.cores.length ≤ free.length then some ((free.take g.cores.length).map (16 * g.tower + ·))
    else none

/-- The launch that a gang was pre-empted for still waits, and the gang's return would leave it too few of the cores that it can use (R45, R48; log entry
47). -/
def State.makesWay (s : State) (g : Gang) : Bool :=
  match g.victimOf with
  | none => false
  | some (l, n) =>
    match s.launch? l, s.returnCores g with
    | some x, some cs =>
      let could := match s.job? x.job with | some j => s.freeFronts x.tower j (recGng x.words) | none => []
      let left := could.filter fun f => !cs.contains (16 * x.tower + f)
      x.placed == n && s.mayPlace l x && decide (left.length < could.length) && decide (left.length < recCores x.words)
    | _, _ => false

/-- Whether a saved gang may return: its job takes placements, its cores are free, the launch that it made way for is served, and its save area is
written. -/
def State.mayReturn (s : State) (g : Gang) : Bool :=
  decide (g.phase = .saved) && s.jobOpen g.job && s.startReady && (s.returnCores g).isSome && !s.makesWay g
    && !((s.tower g.tower).out.any fun e => e.2.strand == 6)

/-- A core whose banks change role as at placement (R206), with the split of the gang's launch. -/
def returnCore (c : Core) (scr : Nat) : Core :=
  { c.freed with last := 3, near := [], nearPois := [], nearErr := [], tags := [], scr := scr, l1 := c.l1.filter fun e => decide (scr ≤ e.2.way) }

/-- A returning strand takes a wait-table entry again, and its condition is checked at once (R268, R333). -/
def State.rejoinStrand (s : State) (k i : Nat) : State :=
  let x := s.strand k i
  let s := match x.watch with
    | some w =>
      let free := decide ((s.tower (towerOf k)).waits.length < 1024)
      (if free then (s.takeWait k i 1 (w64 w.line)).1 else s).modStrand k i fun x => { x with watch := some { w with entered := free } }
    | none => s
  match x.st with
  | .parked .watch => s.modStrand k i fun x => { x with st := .ready, landFirst := true }
  | .parked (.absent h _) =>
    if (s.handle h).res = 0 ∨ !(s.handle h).v ∨ (s.handle h).lost then s.modStrand k i fun x => { x with st := .ready, landFirst := true }
    else (s.takeWait k i 2 (w64 h)).1.modTower (s.handle h).twr fun t => { t with faults := t.faults ++ [(h, k)] }
  | .parked (.join id) =>
    let e := (s.tower (towerOf k)).pendEntry (bits id 7 0)
    if e.live && e.gen == bits id 15 8 then (s.takeWait k i 3 id).1 else s.modStrand k i fun x => { x with st := .ready, landFirst := true }
  | .parked .task =>
    if s.poolOver k ∧ x.task.isNone then s.modStrand k i fun x => { (x.setX 1 0).setX 2 0 with st := .ready, landFirst := true } else (s.takeWait k i 4 (w64 i)).1
  | _ => s

/-- The slabs that a gang left, each with the one paired to it (R246); a slab now bound to a core that runs another gang of the job stays. -/
def State.slabPairs (s : State) (gang : Nat) (g : Gang) (old new : List Nat) : List (Nat × Nat) :=
  (old.zip new).flatMap fun e =>
    if e.1 = e.2 ∨ ((s.core e.1).gang.any fun x => x != gang && (s.gang? x).any fun h => h.job == g.job) then []
    else (s.slabsOf e.1).zip (s.slabsOf e.2)

/-- The states of a job on a tower with a tile in one of the given slabs; `busy`: those that another move has in hand, or the others (R246). -/
def State.statesIn (s : State) (t job : Nat) (slabs : List Nat) (busy : Bool) : List Nat :=
  (s.handles.filter fun e => e.2.v && e.2.twr == t && e.2.job == job && decide (2 ≤ e.2.res) == busy && (s.placesOf e.2).any fun p => slabs.contains (p / 256)).map (·.1)

/-- The tiles of the states hs begin to follow the gang: their states are on the move, and the banks at both ends are touched (R218, R246). -/
def State.startFollow (s : State) (gang : Nat) (g : Gang) (pairs : List (Nat × Nat)) (hs late : List Nat) : State :=
  let tile (p : Nat) : Nat := if (mget (s.tower g.tower).slots p {}).wide then 65536 else 32768
  let bytes := (((hs.flatMap fun h => s.placesOf (s.handle h)).eraseDups.filter fun p => (pairs.map (·.1)).contains (p / 256)).map tile).sum
  let s := hs.foldl (fun s h => (s.touchState h).modHandle h fun e => { e with res := 2, inward := true }) s
  let s := if hs.isEmpty then s else pairs.foldl (fun s p => s.touchSlab g.tower p.2) s
  s.modGang gang fun y => { y with phase := .moving s.now, follows := hs, late := late, reqs := requests bytes 4, busy := 0 }

/-- R49: a pre-empted gang returns whole; where its cores are others, its state tiles follow before any strand issues (R246). -/
def execGangReturn (gang : Nat) (s : State) : Out :=
  match s.gang? gang with
  | none => .next s
  | some g =>
    if !s.mayReturn g then .next s
    else match s.returnCores g, s.launch? g.launch with
      | some cs, some l =>
        let base := s.saveBase g
        let (s, bad) := s.vfetch g.tower g.job base g.imageLen
        if bad then .next (s.sched (.gangFailure gang 0 4))
        else match s.vread g.job base g.imageLen with
        | .error _ => .next (s.sched (.gangFailure gang 0 4))
        | .ok (_, true) => .next (s.sched (.gangFailure gang 0 4))
        | .ok (_, false) =>
          let n := cs.length
          let one (s : State) (e : Nat × Nat) : State :=
            let b := s.fetchBytes g.job (base + coreBlock g.ganged * e.2) (coreBlock g.ganged)
            let x := s.fetchBytes g.job (base + coreBlock g.ganged * n + extBlock * e.2) extBlock
            let s := ((s.core e.1).l1.map (·.1)).foldl (fun s ln => s.dropLine e.1 ln) s
            let s := s.modCore e.1 fun c => { restoreCore (returnCore c (recScr l.words)) g e.2 (e.1 % 16) (Config.sramErrors (s.freeCtr + e.2)) b x with gang := some gang }
            let arr := maskNums 4 (numAt x 0 8)
            s.modGang gang fun y => { y with arrived := y.arrived.filter (fun m => m / 4 != e.2) ++ arr.map (4 * e.2 + ·) }
          let s := (cs.zipIdx.foldl one s).spend
          let pairs := s.slabPairs gang g g.cores cs
          let hs := s.statesIn g.tower g.job (pairs.map (·.1)) false
          let late := s.statesIn g.tower g.job (pairs.map (·.1)) true
          let s := s.modGang gang fun y => { y with phase := .running, cores := cs, former := g.cores, hidden := [], staged := [], streams := [], victimOf := none }
          let s := if hs.isEmpty ∧ late.isEmpty then s else s.startFollow gang g pairs hs late
          .next (cs.foldl (fun s k => (List.range 4).foldl (fun s i => s.rejoinStrand k i) s) s)
      | _, _ => .next s

/-- One place of a former slab goes to a free place of the paired slab, or to a frame; every tile word that names it follows (R246). -/
def State.followTile (s : State) (t job : Nat) (pair : Nat × Nat) (key : Nat) : State :=
  let (s, tile) := s.readTile t (twResident key)
  let x := s.tower t
  let n := x.share key
  let to? : Option Word := match x.freePlace s.freeCtr (!tile.wide) pair.2 with
    | some p => some (twResident p)
    | none => (s.freeFrames t 1).head?.map twPaged
  match to? with
  | none => s
  | some w =>
    let x := { x with slots := mdel x.slots key, slotShare := mdel x.slotShare key }
    let x := if twKind w = 1 then { x with slots := mput x.slots (twKey w) tile, slotShare := mput x.slotShare (twKey w) n }
      else { x with frames := mput x.frames (twFrame w) tile, frameShare := mput x.frameShare (twFrame w) n }
    (s.handles.filter fun e => e.2.v && e.2.twr == t && e.2.job == job).foldl (fun s e =>
      s.mapTileWords e.2 fun v => if twKind v = 1 ∧ twKey v = key then w else v) (s.setTower t x).spend

/-- The moves of the tiles of the states that follow a gang end: the states are resident again, absent where a tile found no slot. -/
def State.endFollow (s : State) (g : Gang) (pairs : List (Nat × Nat)) : State :=
  let t := g.tower
  let hs := g.follows.filter fun h => (s.handle h).v
  let keys := (hs.flatMap fun h => s.placesOf (s.handle h)).eraseDups
  let s := keys.foldl (fun s key => match pairs.find? fun p => p.1 == key / 256 with | some p => s.followTile t g.job p key | none => s) s
  hs.foldl (fun s h =>
    let away := !(s.framesOf (s.handle h)).isEmpty
    let s := s.modHandle h fun e => { e with res := if away then 1 else 0, inward := false }
    if away then s else s.wakeAbsent h) s

/-- R246: the moves of a returning gang's tiles end; states that another move had in hand at its return follow when that is over, and once none is left its
strands may issue, or it stops again (R48). The banks that the moves touch are awake first (R218). -/
def execReturnTileMovesComplete (gang : Nat) (s : State) : Out :=
  match s.gang? gang with
  | none => .next s
  | some g =>
    match g.phase with
    | .moving d =>
      let pairs := s.slabPairs gang g g.former g.cores
      let awake := g.follows.all s.stateAwake && (g.follows.isEmpty || pairs.all fun p => (s.tower g.tower).slabAwake p.2)
      if s.now < d ∨ !g.reqs.isEmpty ∨ g.busy ≠ 0 ∨ !awake then .next s
      else
        let s := (s.endFollow g pairs).serveStates g.tower
        let left := g.late.filter fun h => (s.statesIn g.tower g.job (pairs.map (·.1)) true).contains h
        let next := g.late.filter fun h => (s.statesIn g.tower g.job (pairs.map (·.1)) false).contains h
        if left.isEmpty ∧ next.isEmpty then
          .next (s.modGang gang fun y =>
            { y with phase := match y.stopAfter with | some r => .preempting r | none => .running
                     stopAfter := none, former := [], follows := [], late := [] })
        else .next (s.startFollow gang g pairs next left)
    | _ => .next s

/-! ## Failure (R372) -/

/-- The strand without the trap or recovery that it took in this cycle (R365). -/
def Strand.undone (x : Strand) (now : Nat) : Strand :=
  match x.undo with
  | some u =>
    if u.at_ = now then
      { x with st := .running, spc := u.spc, sst := u.sst, scause := u.scause, sepc := u.sepc, sinfo := u.sinfo, cTrpc := u.trpc,
               recov := u.recov, lc := u.lc, restart := u.restart, fresh := u.fresh }
    else x
  | none => x

/-- A failure prevails over the causes that the gang's strands met in its cycle (R365). -/
def State.undoCauses (s : State) (g : Gang) : State :=
  g.cores.foldl (fun s k => (List.range 4).foldl (fun s i => s.modStrand k i fun x => x.undone s.now) s) s

/-- R372, R389: the gang stops, its record is written at its save area, its launch is halted, event type 7 is posted. -/
def execGangFailure (gang gsi reason : Nat) (s : State) : Out :=
  match s.gang? gang with
  | none => .next s
  | some g =>
    let s := if g.phase = .saved then s else s.undoCauses g
    let x := if g.phase = .saved then g.hidden.getD gsi {} else s.gsiStrand g gsi
    let base := s.saveBase g
    let tag := match s.launch? g.launch with | some l => l.htag | none => 0
    let s := if g.phase = .saved then s else (s.writeItems g.tower g.job base (s.gangImage g true)).1
    let s := if reason = 3 then { s with selfTestDue := true } else s
    let s := s.postJob 7 g.job g.tower tag [x.scause, x.sepc, x.sinfo, w64 (gsi % 64 + reason * 256), w64 base]
    .next (s.haltLaunch g.launch)

/-! ## Halts (R51, R320, R378) -/

/-- The items of a gang's record in a dump: its header page, then its blocks (R378). -/
def State.dumpItems (s : State) (g : Gang) : List Item :=
  let tag := match s.launch? g.launch with | some l => l.htag | none => 0
  let words := [w64 (tag * 2 ^ 32 + g.num), w64 (g.cores.length + g.ganged.toNat * 2 ^ 8 + g.tower * 2 ^ 16), w64 (4096 + g.imageLen), w64 (s.saveBase g)]
  (0, bytesOf words ++ List.replicate 4064 0, false) :: (s.gangImage g true).map fun (e : Item) => (4096 + e.1, e.2.1, e.2.2)

/-- Writes the dump of a job: its gangs that hold cores, by tower and lowest front end, each record at a 4 KiB boundary. -/
def State.writeDump (s : State) (j : Job) : State × Option Nat :=
  let gs := ((s.gangs.filter fun e => e.2.job == j.num && decide (e.2.phase ≠ .saved)).map (·.2)).mergeSort fun a b => decide ((a.cores.headD 0) ≤ b.cores.headD 0)
  let r := gs.foldl (fun (acc : State × Option Nat × Nat) g =>
    match acc with
    | (s, some a, o) => (s, some a, o)
    | (s, none, o) =>
      let (s, f) := s.writeItems g.tower j.num (j.dump.toNat + o) (s.dumpItems g)
      (s, f, o + cdiv (4096 + g.imageLen) 4096 * 4096)) (s, none, 0)
  (r.1, r.2.1)

/-- A job is halted (R51, R320): its gangs stop as they stand, with a dump if asked; its records, children, pools and staged tasks are gone. -/
def State.haltJob (s : State) (n : Nat) (dump event : Bool) : State :=
  match s.job? n with
  | none => s
  | some j =>
    if j.halted then s
    else
      let s := (s.gangs.filter fun e => e.2.job == n && decide (e.2.phase ≠ .saved)).foldl (fun s e => s.undoCauses e.2) s
      let (s, fault) := if dump && j.dump != 0 then s.writeDump j else (s, none)
      let s := (s.gangs.filter fun e => e.2.job == n).foldl (fun s e => s.stopGang e.1) s
      let s := (s.launches.filter fun e => e.2.job == n).foldl (fun s e => s.releaseLaunch e.1) s
      let clean (t : Tower) : Tower := { t with
        lq := t.lq.map fun q => (q.1, q.2.filter fun r => r.job != n)
        stateq := t.stateq.filter fun o => o.job != n
        proposals := t.proposals.filter fun p => p.2.1 != n }
      let s := { s with towers := s.towers.map fun (e : Nat × Tower) => (e.1, clean e.2) }
      let s := s.modJob n fun j => { j with halted := true }
      if event then
        let status := if j.dump = 0 then 1 else match fault with | some _ => 2 | none => 0
        s.postJob 4 n 0 0 [j.dump, w64 status, w64 (fault.getD 0)]
      else s

/-- R51, R358: the deadline counter of a throughput job has passed its deadline: the job is halted. -/
def execDeadlineHalt (job : Nat) (s : State) : Out :=
  match s.job? job with
  | some j => if !j.latency ∧ !j.halted ∧ j.dline < j.dcnt then .next (s.haltJob job true true) else .next s
  | none => .next s

/-! ## Wait budgets (R50) -/

/-- The queue ports of a gang that hold an entry: bit 8c + k (R319). -/
def State.portBits (s : State) (g : Gang) : Nat :=
  numMask (g.cores.zipIdx.flatMap fun e => ((List.range 8).filter fun q => !((s.core e.1).port q).isEmpty).map (8 * e.2 + ·))

/-- R50, R359: a gang's waiting cycles exceed the budget of its job for the first time in the slice: the snapshot is posted and the gang pre-empted, unless
it has begun to stop already. -/
def execWaitBudgetPreemption (gang : Nat) (s : State) : Out :=
  match s.gang? gang with
  | none => .next s
  | some g =>
    match s.job? g.job with
    | none => .next s
    | some j =>
      let live : Bool := match g.phase with | .running => true | .preempting _ => true | _ => false
      if j.latency ∧ live ∧ j.wbud < g.wsum ∧ !g.exceeded then
        let parked := numMask ((List.range (4 * g.cores.length)).filter fun n => match (s.gsiStrand g n).st with | .parked _ => true | _ => false)
        let tag := match s.launch? g.launch with | some l => l.htag | none => 0
        let q := s.portBits g
        .next (((s.postJob 3 g.job g.tower tag [w64 (numMask g.arrived), w64 parked, w64 q, w64 (q / 2 ^ 64), w64 (s.saveBase g)]).modGang gang fun y => { y with exceeded := true }).beginPreempt gang 3)
      else .next s

end Sys2Proof.Machine
end

