-- ==== Sys2Proof/Machine/Pager.lean ====
section
/-! DEFINITION. Timers and towers: periods, slices and rate windows (R357, R359, R360), the state pager (R236, R318, R439), bank retention
(R218), page migration (R213, R214, R338). -/

namespace Sys2Proof.Machine

/-! ## Periods -/

/-- R351, R357, R359: at a period start the gauges carry their overshoot over, parameters take effect, and periods of slices are counted; the
hot-page counts begin anew every 1,024 periods (R350). -/
def execPeriodStart (s : State) : Out :=
  if s.now % Config.period ≠ 0 then .next s
  else
    let carry (j : Job) : Job := { j with
      guse := j.guse.map fun e => (e.1, e.2 - j.gbud.getD (e.1 % 6) 0xFFFFF)
      sper := if j.latency && j.sliceOn then j.sper + 1 else j.sper }
    let tower (x : Tower) : Tower := { x with
      cnt := x.paramNext.foldl (fun m e => mput m e.1 (if 0x130 ≤ e.1 then setBits (mget m e.1 0) 15 0 e.2.toNat else e.2)) x.cnt
      paramNext := []
      hot := if s.now / Config.period % 1024 = 0 then [] else x.hot }
    .next { s with jobs := s.jobs.map fun (e : Nat × Job) => (e.1, carry e.2), towers := s.towers.map fun (e : Nat × Tower) => (e.1, tower e.2) }

/-- Whether a new slice of the job begins in this cycle (R359). -/
def Job.sliceDue (j : Job) (now : Nat) : Bool :=
  j.latency && now % Config.period == 0 && (if j.sliceOn then decide (j.slice ≤ j.sper) else decide (j.created < now))

/-- R359: a slice begins: every WSUM of the job is 0. -/
def execSliceStart (job : Nat) (s : State) : Out :=
  match s.job? job with
  | none => .next s
  | some j =>
    if j.sliceDue s.now then
      let reset (g : Gang) : Gang := if g.job = job then { g with wsum := 0, exceeded := false } else g
      .next { s.setJob job { j with sliceOn := true, sper := 0 } with gangs := s.gangs.map fun (e : Nat × Gang) => (e.1, reset e.2) }
    else .next s

/-- R360: a rate window begins: every windowed count is 0. -/
def execRateWindowStart (s : State) : Out :=
  if s.now % Config.rateWindow ≠ 0 then .next s
  else
    let tower (x : Tower) : Tower := { x with
      cnt := (List.range 8).foldl (fun m e => mput m (0x130 + e) (w64 ((x.cntOf (0x130 + e)).toNat % 65536))) x.cnt
      requested := [], layerErr := [] }
    .next { s with towers := s.towers.map fun (e : Nat × Tower) => (e.1, tower e.2) }

/-! ## The state pager -/

/-- Bytes of a state that stand in frames: what a page-in moves. -/
def State.frameBytes (s : State) (h : HEntry) : Nat := (s.framesOf h).length * h.tileBytes

/-- A state has a tile that is not resident. -/
def State.isAway (s : State) (h : HEntry) : Bool := (h.arrays.flatMap fun a => s.tileWords a h.nt).any fun w => twKind w != 1

/-- The pager of tower t begins a move of state i for a demand of a job; the banks that it reads or writes are touched (R218). -/
def State.startMove (s : State) (t i j : Nat) (inward : Bool) (bytes : Nat) : State :=
  let m : PagerMove := { handle := i, inward := inward, reqs := pagerRequests s.freeCtr bytes, forJob := j }
  (((s.touchState i).modHandle i fun h => { h with res := 2, inward := inward }).modTower t fun x => { x with moves := x.moves ++ [m] }).spend

/-- The pager begins to move a state out: none where no frames are free. -/
def State.startOut (s : State) (t i j : Nat) : Option State :=
  let h := s.handle i
  let n := (s.placesOf h).length
  if (s.freeFrames t n).length < n then none else some (s.startMove t i j false (n * h.tileBytes))

/-- The pager begins to bring a state in, the named slabs first; where its slots do not suffice it first moves a victim out (R318). -/
def State.startIn (s : State) (t i : Nat) (first : List Nat) : Option State :=
  let h := s.handle i
  match s.roomFor h first ((s.framesOf h).length + s.zeroCount h) with
  | some _ => some (s.startMove t i h.job true (s.frameBytes h))
  | none =>
    let full := !first.isEmpty && ((s.tower t).freeIn s.freeCtr h.fmt16 first).isNone
    (s.victim t [i] (if full then first else [])).bind fun v => s.startOut t v h.job

/-- The slab in which a faulting core wants its tile (R236). -/
def State.faultSlab (s : State) (k : Nat) : List Nat := (s.slabsOf k).take 1

/-- A move of tower t's pager runs for a job: its other demands wait, those of other jobs do not (R357). -/
def Tower.moving (t : Tower) (j : Nat) : Bool := t.moves.any fun m => m.forJob == j

/-- The first absent-state fault of tower t that the pager can serve. -/
def State.serveFault (s : State) (t : Nat) : Option State :=
  pick1 (fun (e : Nat × Nat) =>
    let h := s.handle e.1
    if !h.v ∨ h.lost ∨ (h.res = 0 ∧ !s.isAway h) then
      some ((s.modTower t fun x => { x with faults := x.faults.filter fun z => z.1 != e.1 }).wakeAbsent e.1)
    else if h.res < 2 ∧ !(s.tower t).moving h.job then s.startIn t e.1 (s.faultSlab e.2)
    else none) (s.tower t).faults

/-- A hint (R317): none while it must wait. A page-out begins at a free moment (R415). -/
def State.serveHint (s : State) (t : Nat) (hint : Nat × Nat) : Option State :=
    let (i, c) := hint
    let h := s.handle i
    let done (s : State) : State := s.modTower t fun x => { x with hints := x.hints.erase hint }
    if !h.v ∨ h.twr ≠ t ∨ h.res = 3 then some (done s)
    else if c = 2 then some ((done s).modHandle i fun h => { h with keep := true })
    else if c = 3 then some ((done s).modHandle i fun h => { h with keep := false })
    else if h.res = 2 ∨ (s.tower t).moving h.job then none
    else if c = 0 then
      if s.isAway h ∧ !h.lost then (s.startIn t i []).map fun u => if (u.handle i).res = 2 then done u else u else some (done s)
    else if h.res = 0 then
      if s.inFlight t i ∨ !h.cow.isEmpty ∨ Config.pick s.freeCtr 2 % 2 = 1 then none else (s.startOut t i h.job).map done
    else some (done s)

/-- Hints in their order, a job's first before its others (R317, R318, R357). -/
def State.serveHints (s : State) (t : Nat) : Option State :=
  let l := (s.tower t).hints
  let firsts := (l.zipIdx.filter fun e => !((l.take e.2).any fun x => (s.handle x.1).job == (s.handle e.1.1).job)).map (·.1)
  pick1 (s.serveHint t) firsts

/-- A read of every resident tile of a state (R217). -/
def State.readState (s : State) (i : Nat) : State :=
  let h := s.handle i
  ((h.arrays.flatMap fun a => s.tileWords a h.nt).eraseDups).foldl (fun s w => (s.readTile h.twr w).1) s

/-- R318: the pager takes the next fault or hint of a job for which it makes no move, and starts one. -/
def execPagerServe (t : Nat) (s : State) : Out :=
  match s.serveFault t with
  | some s => .next s
  | none => match s.serveHints t with
    | some s => .next s
    | none => .next s.spend

/-- A move of tower t that has moved its last byte. -/
def Tower.moveDone (t : Tower) (inward : Bool) : Option PagerMove :=
  t.moves.find? fun m => m.inward == inward && m.reqs.isEmpty && m.busy == 0

/-- The move of state i is over. -/
def State.endMove (s : State) (t i : Nat) : State := s.modTower t fun x => { x with moves := x.moves.filter fun m => m.handle != i }

/-- Slabs that a move is to write: all awake (R218). -/
def State.slabsReady (s : State) (t : Nat) (slabs : List Nat) : Bool := slabs.all (s.tower t).slabAwake

/-- R236, R318: a state is resident; the strands parked for it become ready. Where the pager cannot restore it they become ready too. A single wrong bit of
pager memory is corrected and counted (R217, R219); a bank that is not active is waited for (R218). -/
def execPageInComplete (t : Nat) (s : State) : Out :=
  match (s.tower t).moveDone true with
  | none => .next s
  | some m =>
    let i := m.handle
    let h := s.handle i
    let fault := (s.tower t).faults.find? fun e => e.1 == i
    let first := match fault with | some e => s.faultSlab e.2 | none => []
    let tile := match fault.bind fun e => ((s.core e.2).strands.map (·.2.st)).find? fun x => match x with | .parked (.absent n _) => n == i | _ => false with
      | some (.parked (.absent _ j)) => j
      | _ => 0
    let was := s
    let s := (s.endMove t i).modTower t fun x => { x with faults := x.faults.filter fun e => e.1 != i }
    if Config.pagerError s.freeCtr = 2 then
      .next (((s.modHandle i fun h => { h with res := 1, inward := false, lost := true }).wakeAbsent i).serveStates t).spend
    else match s.roomFor h first ((s.framesOf h).length + s.zeroCount h) with
      | none => .next ((s.modHandle i fun h => { h with res := 1, inward := false }).modTower t fun x =>
          { x with faults := match fault with | some e => e :: x.faults | none => x.faults }).spend
      | some ps =>
        let slabs := (ps.map (· / 256)).eraseDups
        if !s.slabsReady t slabs then .next (slabs.foldl (fun s b => s.touchSlab t b) was)
        else
        let s := if Config.pagerError s.freeCtr = 1 then s.bumpErr t 0 else s
        let s := (({ s with freeCtr := s.freeCtr + ps.length }).tilesIn i tile ps).modHandle i fun h => { h with res := 0, inward := false, used := s.now }
        let s := slabs.foldl (fun s b => s.touchSlab t b) s
        .next ((((s.bump t 0x103).wakeAbsent i).serveStates t).spend)

/-- R318: a state is absent, once the banks that hold it could be read (R218). -/
def execPageOutComplete (t : Nat) (s : State) : Out :=
  match (s.tower t).moveDone false with
  | none => .next s
  | some m =>
    let i := m.handle
    let s := s.touchState i
    if !s.stateAwake i then .next s
    else
      let s := (s.readState i).tilesOut i |>.modHandle i fun h => { h with res := 1 }
      .next (((s.endMove t i).bump t 0x104).serveStates t)

/-! ## Retention (R218) -/

def State.bank (s : State) (t slab b : Nat) : Bank := mget (s.tower t).banks (slab * 16 + b) {}
def State.setBank (s : State) (t slab b : Nat) (x : Bank) : State := s.modTower t fun y => { y with banks := mput y.banks (slab * 16 + b) x }

/-- R218: a bank that nothing has touched for the idle threshold begins to enter retention, for 2,048 cycles. -/
def execRetentionEntry (t slab bank : Nat) (s : State) : Out :=
  let x := s.bank t slab bank
  if x.mode = 0 ∧ x.lastUse + s.idleLimit ≤ s.now then .next (s.setBank t slab bank { x with mode := 1, due := s.now + 2047, waiting := false }) else .next s

/-- R218: the entry ends; an access that waited starts the exit, of 1,024 cycles. -/
def execRetentionEntryEnd (t slab bank : Nat) (s : State) : Out :=
  let x := s.bank t slab bank
  if x.mode = 1 ∧ x.due ≤ s.now then
    .next (s.setBank t slab bank (if x.waiting then { x with mode := 3, due := s.now + 1024, waiting := false } else { x with mode := 2 }))
  else .next s

/-- Poison found in the tile of a place reaches the FWDs that wait for its banks (R218, R371): the plane that they fill, and their rows. -/
def State.poisonWaiting (s : State) (t key : Nat) : State :=
  let hit (x : Cmd) : Bool := match x.kind with
    | .fwdRead r _ _ _ _ => !x.started && twKey (rdWord s.mem ((s.handle (bits r 23 0)).tiles + 8 * bits r 47 32)) == key
    | _ => false
  let mark (x : Cmd) : Cmd := match x.kind with | .fwdRead r p c f z => if hit x then { x with kind := .fwdRead r { p with poison := true } c f z } else x | _ => x
  (s.cores.filter fun e => towerOf e.1 == t).foldl (fun s e =>
    let l := (s.core e.1).cmdsOf 6
    let s := s.modCore e.1 fun c => { c with cmds := mput c.cmds 6 (l.map mark) }
    (l.filter hit).foldl (fun s x => s.modStrand e.1 x.strand fun y => { y with pend := y.pend.map fun p => if p.tag = x.tag then { p with poison := true } else p }) s) s

/-- R218: the exit ends: SECDED stands again; what the retention code found is corrected or poisons a tile of the slab, and is counted. -/
def execRetentionExit (t slab bank : Nat) (s : State) : Out :=
  let x := s.bank t slab bank
  if x.mode = 3 ∧ x.due ≤ s.now then
    let s' := s.setBank t slab bank { x with mode := 0 }
    match Config.retentionError s.freeCtr with
    | 1 => .next (s'.bumpErr t 0).spend
    | 2 =>
      let key := slab * 256 + Config.pick (s.freeCtr + 1) 256 % 256
      .next ((s'.modTower t fun y => match mfind y.slots key with | some z => { y with slots := mput y.slots key { z with poison := true } } | none => y).poisonWaiting t key).spend
    | _ => .next s'.spend
  else .next s

/-! ## Migration (R213, R214, R338) -/

/-- Accesses that tower `user` made to the frames of a page. -/
def Tower.hotOf (t : Tower) (base bits user : Nat) : Nat :=
  t.hot.foldl (fun n h => if h.1 / 2 ^ (bits - 16) = base / 2 ^ bits ∧ h.2.1 = user then n + h.2.2 else n) 0

/-- The counts of a page begin anew. -/
def Tower.hotClear (t : Tower) (base bits user : Nat) : Tower :=
  { t with hot := t.hot.filter fun h => !(decide (h.1 / 2 ^ (bits - 16) = base / 2 ^ bits) && h.2.1 == user) }

/-- A proposal enters the table where it has room, and waits where it has none (R338). -/
def State.propose (s : State) (t user job : Nat) (va frame : Word) (e : Tlb) : State :=
  let x := s.tower t
  let m : Migration := { job := job, va := w64 (va.toNat / 2 ^ e.bits * 2 ^ e.bits), bits := e.bits, old := e.pfn * 2 ^ e.bits, new := frame.toNat, frozen := false, due := 0 }
  if 4 ≤ x.migr.length then s.setTower t { x with proposals := x.proposals ++ [(user, job, va, frame)] } else s.setTower t { x with migr := x.migr ++ [m] }

/-- The oldest waiting proposal of tower t, where the table has room: it starts, or is withdrawn because the page is unmapped, or marked PIN or DUP,
or no page of this tower (R338). -/
def State.proposeNext (s : State) (t : Nat) : State :=
  let x := s.tower t
  match x.proposals with
  | [] => s
  | (user, job, va, frame) :: r =>
    if 4 ≤ x.migr.length then s
    else
      let s := s.setTower t { x with proposals := r }
      match s.walk job va.toNat with
      | .error _ => s
      | .ok e => if e.pin || e.dup || region (e.pfn * 2 ^ e.bits) != 0 || homeTower (e.pfn * 2 ^ e.bits) != t || 21 < e.bits || frame.toNat % 2 ^ e.bits != 0 then s
          else s.propose t user job va frame e

/-- R213, R338: the tracker of home tower t proposes a page of a job for tower `user`, into a free frame there; PIN and DUP pages are skipped and
counted, a full table lets the proposal wait. -/
def execHotPageProposal (t user job : Nat) (va frame : Word) (s : State) : Out :=
  match s.walk job va.toNat with
  | .error _ => .next s
  | .ok e =>
    let base := e.pfn * 2 ^ e.bits
    let x := s.tower t
    if region base ≠ 0 ∨ homeTower base ≠ t ∨ user = t ∨ 21 < e.bits ∨ x.hotOf base e.bits user < (x.cntOf 0x108).toNat then .next s
    else if e.pin ∨ e.dup then .next ((s.setTower t (x.hotClear base e.bits user)).bump t 0x102)
    else if region frame.toNat ≠ 0 ∨ homeTower frame.toNat ≠ user ∨ frame.toNat % 2 ^ e.bits ≠ 0 then .next s
    else .next ((s.setTower t (x.hotClear base e.bits user)).propose t user job va frame e)

/-- R214 steps 1 and 2: writes to the page wait from now on; a page unmapped, or marked PIN or DUP since, is not migrated (R338). -/
def execMigrationFreeze (t k : Nat) (s : State) : Out :=
  match (s.tower t).migr[k]? with
  | none => .next s
  | some m =>
    if m.frozen then .next s
    else
      let good : Bool := match s.walk m.job m.va.toNat with | .ok e => e.pfn * 2 ^ e.bits == m.old && e.bits == m.bits && !e.pin && !e.dup | .error _ => false
      if good then .next (s.modTower t fun x => { x with migr := x.migr.set k { m with frozen := true, due := s.now + Config.extra s.freeCtr } }).spend
      else .next (s.modTower t fun x => { x with migr := x.migr.eraseIdx k })

/-- Where an address of the page stands after the remap. -/
def Migration.follow (m : Migration) (pa : Nat) : Nat := if pa / 2 ^ m.bits = m.old / 2 ^ m.bits ∧ region pa = 0 then m.new + pa % 2 ^ m.bits else pa

/-- The page's bytes in its new frame (R214 step 3). -/
def Migration.copy (m : Migration) (mem : Memory) : Memory :=
  let n := 2 ^ m.bits
  let clear := (mem.filter fun c => decide (m.new ≤ c.1) && decide (c.1 < m.new + n)).foldl (fun (a : Memory) (c : Host.Cell) => wrByte a c.1 0) mem
  (mem.filter fun c => decide (m.old ≤ c.1) && decide (c.1 < m.old + n)).foldl (fun (a : Memory) (c : Host.Cell) => wrByte a (c.1 - m.old + m.new) c.2) clear

/-- Everything that names a line of the page follows it: watches with their wait-table entries, buffered lines, queued accesses and writes on their way
home, the scales that a WSCL has still to read. -/
def State.rekey (s : State) (f : Nat → Nat) : State :=
  let line (l : Nat) : Nat := if 2 ^ 63 ≤ l then l else f (l * 64) / 64
  let entry (e : SqEntry) : SqEntry := { e with pa := f e.pa }
  let strand (x : Strand) : Strand := { x with
    rows := x.rows.map fun l => { l with phys := line l.phys }
    watch := x.watch.map fun w => { w with line := line w.line } }
  let cmd (x : Cmd) : Cmd := match x.kind with
    | .wscl l n z => { x with kind := .wscl (l.map fun a => if a.1 then a else (a.1, f a.2.1, a.2.2)) n z }
    | _ => x
  let core (c : Core) : Core := { c with
    sq := c.sq.map fun e => if e.scr then e else entry e
    cmds := c.cmds.map fun (e : Nat × List Cmd) => (e.1, e.2.map cmd)
    strands := c.strands.map fun (e : Nat × Strand) => (e.1, strand e.2) }
  let tower (t : Tower) : Tower := { t with
    held := t.held.map fun e => (e.1, entry e.2)
    out := t.out.map fun e => (e.1, entry e.2)
    waits := t.waits.map fun w => if w.kind = 1 then { w with key := w64 (line w.key.toNat) } else w }
  let gang (g : Gang) : Gang := { g with hidden := g.hidden.map strand }
  { s with cores := s.cores.map fun (e : Nat × Core) => (e.1, core e.2), towers := s.towers.map fun (e : Nat × Tower) => (e.1, tower e.2)
           gangs := s.gangs.map fun (e : Nat × Gang) => (e.1, gang e.2) }

/-- Every L1 and L2 line of the page at base is invalidated, dirty bytes going to their tower's way home; the Umbra lines and the pending steps of its
home are dropped (R214 steps 2 and 4). -/
def State.dropPage (s : State) (base bits : Nat) : State :=
  let mine (a : Nat) : Bool := decide (base ≤ a) && decide (a < base + 2 ^ bits)
  let s := s.cores.foldl (fun s e => (e.2.l1.filter fun l => mine (l.1 * 64)).foldl (fun s l => s.dropLine e.1 l.1) s) s
  let tower (t : Tower) : Tower := { t with l2 := t.l2.filter fun l => !mine (l.1 * 128), umbra := t.umbra.filter fun l => !mine (l.1 * 128)
                                            wq := t.wq.filter fun l => !mine (l.1 * 128) }
  { s with towers := s.towers.map fun (e : Nat × Tower) => (e.1, tower e.2) }

/-- Every copy of the frame at base, which a page is about to be copied into, is invalidated: what the caches hold of it is of no account. -/
def State.forgetPage (s : State) (base bits : Nat) : State :=
  let mine (a : Nat) : Bool := decide (base ≤ a) && decide (a < base + 2 ^ bits)
  let tower (t : Tower) : Tower := { t with l2 := t.l2.filter fun l => !mine (l.1 * 128), umbra := t.umbra.filter fun l => !mine (l.1 * 128)
                                            wq := t.wq.filter fun l => !mine (l.1 * 128) }
  { s with cores := s.cores.map fun (e : Nat × Core) => (e.1, { e.2 with l1 := e.2.l1.filter fun l => !mine (l.1 * 64) })
           towers := s.towers.map fun (e : Nat × Tower) => (e.1, tower e.2) }

/-- R214 steps 3 to 5: the page is copied, its entry remapped, caches dropped, waiting accesses reissued in each tower's order. -/
def execMigrationCopyComplete (t k : Nat) (s : State) : Out :=
  match (s.tower t).migr[k]? with
  | none => .next s
  | some m =>
    if !m.frozen ∨ s.now < m.due then .next s
    else
      let root := match s.job? m.job with | some j => j.root | none => 0
      let moved := (s.memPois.filter fun p => decide (m.old ≤ p * 32) && decide (p * 32 < m.old + 2 ^ m.bits)).map fun p => m.follow (p * 32) / 32
      let kept := s.memPois.filter fun p => !(decide (m.new ≤ p * 32) && decide (p * 32 < m.new + 2 ^ m.bits))
      let s := s.forgetPage m.new m.bits
      let s := { s with mem := m.copy s.mem, memPois := moved ++ kept, past := .moved m.old m.new (2 ^ m.bits) :: s.past }
      let s := match (walkReads s.mem m.va.toNat 3 root).getLast? with
        | some a => s.performHome (homeTower a) m.job (cellsOf a (toLE 8 (setBits (rdWord s.mem a) 47 8 (m.new / 256)).toNat))
        | none => s
      let s := (s.dropTlb fun e => e.job == m.job && e.vpn == m.va.toNat / 2 ^ e.bits).dropPage m.old m.bits
      let s := (s.modTower t fun x => { x with migr := x.migr.eraseIdx k }).rekey m.follow
      .next ((s.reissue m.new (2 ^ m.bits)).bump t 0x107)

end Sys2Proof.Machine
end

