-- ==== Sys2Proof/Machine/Links.lean ====
section
/-! DEFINITION. The Warath links: flits and their check (R402), receiving, acknowledging, replaying and flow control (R404, R405), performing
what a flit carries (R403, R274, R331, R347, R264), training and fabric numbers (R406), ports that go down (R404). -/

namespace Sys2Proof.Machine

/-! ## The flit (R402) -/

/-- One step of the CRC for a bit. -/
def crcShift (c : Word) : Word := if c.getLsbD 63 then (c <<< 1) ^^^ 0x42F0E1EBA9EA3693 else c <<< 1

/-- The CRC after one byte. -/
def crcByte (c : Word) (b : Byte) : Word :=
  crcShift (crcShift (crcShift (crcShift (crcShift (crcShift (crcShift (crcShift (c ^^^ (b.zeroExtend 64 <<< 56)))))))))

/-- CRC-64 with the ECMA-182 polynomial, from zero, most significant bit first. -/
def crc64 (bs : List Byte) : Word := bs.foldl crcByte 0

/-- The header of a flit. -/
structure FlitHeader where
  seq : Nat
  ack : Nat
  nak : Bool
  stop : BitVec 4
  vl : Nat
  ty : Nat
  src : Nat
  dst : Nat
  len : Nat
deriving DecidableEq, Repr

def headerWord (w : Word) : FlitHeader :=
  { seq := bits w 63 52, ack := bits w 51 40, nak := bitOf w 39, stop := BitVec.ofNat 4 (bits w 38 35), vl := bits w 34 33, ty := bits w 32 29
    src := bits w 28 25, dst := bits w 24 21, len := bits w 20 13 }

def FlitHeader.word (h : FlitHeader) : Word :=
  w64 (h.seq % 4096 * 2 ^ 52 + h.ack % 4096 * 2 ^ 40 + h.nak.toNat * 2 ^ 39 + h.stop.toNat * 2 ^ 35 + h.vl % 4 * 2 ^ 33 + h.ty % 16 * 2 ^ 29
    + h.src % 16 * 2 ^ 25 + h.dst % 16 * 2 ^ 21 + h.len % 256 * 2 ^ 13)

/-- A flit's 256 bytes: header, payload filled up with zeros, check. -/
def flitOf (h : FlitHeader) (payload : List Byte) : List Byte :=
  let b := toLE 8 ({ h with len := payload.length }).word.toNat ++ padTo 0 240 payload
  b ++ toLE 8 (crc64 b).toNat

/-- The TYPE under which a payload travels. -/
def payloadType : FlitPayload → Nat
  | .idle => 0 | .store _ _ _ => 1 | .load _ _ _ => 1 | .pushData _ _ _ _ _ _ => 2 | .atomic _ _ _ _ _ _ _ => 3 | .response _ _ _ => 4
  | .dupWrite _ _ => 5 | .dupAck _ => 5 | .stateMove _ _ _ _ _ _ => 6 | .stateTile _ _ _ _ _ _ => 6 | .arrival _ _ _ => 7 | .control _ _ => 8

/-- The bytes of a flit as port p sends it now: the header carries what the port acknowledges and stops. -/
def State.flitSent (s : State) (p : Nat) (f : Flit) : List Byte :=
  let x := s.port p
  flitOf { seq := f.seq, ack := x.rxSeq, nak := x.nakOut, stop := x.stopRx, vl := f.vl, ty := f.ty, src := s.fabric, dst := f.dst, len := 0 }
    ((Config.flitBytes f.payload).take 240)

/-- Whether 256 received bytes are an intact flit (R402). -/
def flitIntact (raw : List Byte) : Bool :=
  let h := headerWord (w64 (ofLE (raw.take 8)))
  raw.length == 256 && crc64 (raw.take 248) == w64 (ofLE (raw.drop 248)) && decide (h.ty ≤ 8) && decide (h.len ≤ 240)

/-- What a received flit carries, where its payload is of the header's TYPE; the TYPE stands in front of the used bytes. -/
def flitCarries (raw : List Byte) : FlitPayload :=
  let h := headerWord (w64 (ofLE (raw.take 8)))
  let p := Config.flitPayload (BitVec.ofNat 8 h.ty :: (raw.drop 8).take h.len)
  if payloadType p = h.ty then p else .idle

/-- The tower of a port (R20). -/
def portTower (p : Nat) : Nat := if p < 8 then p / 2 else p / 2 + 4

/-- The topology word (R406): ports that are up, and the peers that they reach. -/
def State.topology (s : State) : Nat :=
  let up := (List.range 16).filter fun p => (s.port p).up
  numMask up + numMask (up.map fun p => (s.port p).peer) * 2 ^ 16

/-! ## Ports that go down (R404) -/

/-- The push number u of core k knows its completion word, and moves no further. -/
def State.pushAnswer (s : State) (k u : Nat) (w : Word) : State := s.modCmd k 5 u (·.stopped (some w))

/-- The move of core k with tag t knows what its register receives. -/
def State.moveAnswer (s : State) (k t : Nat) (w : Word) : State :=
  let f (o : StateOp) : StateOp := if o.core = k ∧ o.tag = t then { o with answer := some w } else o
  s.modTower (towerOf k) fun x => { x with stateq := x.stateq.map f }

/-- A duplicate is out no more: its writer counts one less. -/
def State.dupGone (s : State) (d : DupNote) : State :=
  let s := { s with dups := s.dups.filter fun e => e.uid != d.uid }
  match d.who with | some w => s.modStrand w.1 w.2 fun x => { x with dupOut := x.dupOut - 1 } | none => s

/-- What becomes of an operation whose flit was not acknowledged on a port that went down (R404). -/
def State.failFlit (s : State) (f : Flit) : State :=
  let poison (s : State) (tag : Nat) : State :=
    match mfind s.remote tag with
    | some (.fill k n) =>
      let len := match n with | .direct _ l _ => l | .konst _ => 8 | _ => 64
      ({ s with remote := mdel s.remote tag }.gotFill k
        { need := n, bytes := (List.range len).map fun j => (Config.lostValue (s.freeCtr + j)).setWidth 8, poison := true }).spend
    | some (.amo k e) => ({ s with remote := mdel s.remote tag }.resolve k e.strand e.tag (Config.lostValue s.freeCtr) s.now true).spend
    | _ => s
  let push (tag : Nat) : State := match mfind s.remote tag with
    | some (.push k u) => { s with remote := mdel s.remote tag }.pushAnswer k u (completion 6 0)
    | _ => s
  let move (tag : Nat) : State := match mfind s.remote tag with
    | some (.move k _ t) => { s with remote := mdel s.remote tag }.moveAnswer k t (codeWord 3)
    | _ => s
  match f.payload with
  | .load _ _ tag => poison s tag
  | .atomic _ _ _ _ _ tag _ => poison s tag
  | .pushData _ _ _ _ _ tag => push tag
  | .arrival _ _ tag => push tag
  | .stateMove _ _ _ _ _ tag => move tag
  | .stateTile _ _ _ _ _ tag => move tag
  | .dupWrite _ _ =>
    match s.dups.find? fun d => d.uid == f.tag with
    | none => s
    | some d =>
      let s := s.dupGone d
      match s.ckptRun with
      | some r => if d.who.isNone ∧ d.job = r.job then { s with ckptRun := some { r with status := 3 } } else s
      | none => s
  | _ => s

/-- Whether a flit that a port had not sent is still wanted: not of a transfer that has failed. -/
def State.wanted (s : State) (f : Flit) : Bool :=
  match f.payload with
  | .pushData _ _ _ _ _ tag => (mfind s.remote tag).isSome
  | .arrival _ _ tag => (mfind s.remote tag).isSome
  | .stateMove _ _ _ _ _ tag => (mfind s.remote tag).isSome
  | .stateTile _ _ _ _ _ tag => (mfind s.remote tag).isSome
  | _ => true

/-- A port goes down: its unacknowledged operations fail, and what it had not sent of others moves to the peer's next port (R404). -/
def State.portDown (s : State) (p : Nat) : State :=
  let x := s.port p
  let s := s.setPort p { x with up := false, unacked := [], queues := [], retrainDue := none, retrained := true }
  let s := x.unacked.foldl (fun s f => s.failFlit f) s
  (x.queues.flatMap (·.2)).foldl (fun s f =>
    if !s.wanted f then s
    else match s.sendFlit f.dst f.vl f.ty f.payload f.tag f.core f.who with
    | (s, true) => s
    | (s, false) => s.failFlit f) s

/-! ## Performing what arrived -/

/-- An answer of lane 1 to a peer. -/
def State.respond (s : State) (peer tag status : Nat) (bs : List Byte) : State := (s.sendFlit peer 1 4 (.response tag status bs) tag 0).1

/-- A response reaches the operation that waits for it. -/
def State.gotResponse (s : State) (tag status : Nat) (bs : List Byte) : State :=
  let w := w64 (ofLE (bs.take 8))
  let s' := { s with remote := mdel s.remote tag }
  match mfind s.remote tag with
  | some (.fill k n) => s'.gotFill k { need := n, bytes := bs, poison := status != 0 }
  | some (.amo k e) => s'.resolve k e.strand e.tag w s.now (status != 0)
  | some (.push k u) => s'.pushAnswer k u w
  | some (.move k _ t) => s'.moveAnswer k t w
  | none => s

/-- n duplicates are acknowledged, oldest first. -/
def State.gotAcks (s : State) (n : Nat) : State := (s.dups.take n).foldl (fun s d => s.dupGone d) s

/-- Bytes from a peer are performed at their home on this device, at an address that has one. -/
def State.peerWrite (s : State) (pa : Nat) (bs : List Byte) (pois : Bool) : State :=
  if frameOk pa then s.performHome (homeTower pa) 64 (cellsOf pa bs) pois else s

/-- A read for a peer: the state, the bytes and their poison. -/
def State.peerRead (s : State) (pa n : Nat) : State × List Byte × Bool :=
  let (s, bad) := s.homeFetch (homeTower pa) 64 pa n
  (s, rdBytes s.mem pa n, s.poisoned pa n || bad)

/-- An atomic of a peer, performed at its home on this device once every copy of its line has been written back (R261): the state, and the old value
with its poison; none while it must wait. -/
def State.peerAtomic (s : State) (pa code : Nat) (dbl : Bool) (x cmp : Word) (red : Bool) : State × Option (Word × Bool) :=
  match aopOf code with
  | none => (s, some (0, true))
  | some op =>
    if !frameOk pa then (s, some (0, true))
    else
      let s := s.recall pa
      if !s.recalled pa (aopBytes dbl) then (s, none)
      else if red ∧ !s.wqRoom pa (some { pa := pa, op := op, dbl := dbl, operand := x }) then (s, none)
      else match s.homeAtomic (homeTower pa) 64 pa op dbl x cmp red with | (s, old, po, _) => (s, some (old, po))

/-- The duplicate of a write of the partner is kept apart, where no program sees it (R293). -/
def State.keepDup (s : State) (a : Nat) (bs : List Byte) : State := { s with dupMem := wrBytes s.dupMem a bs }

/-! ## Transfers that arrive (R274, R347, R403) -/

/-- Changes the arriving transfer number u. -/
def State.modInbound (s : State) (u : Nat) (f : Inbound → Inbound) : State := { s with inbound := s.inbound.map fun x => if x.uid = u then f x else x }

/-- A flit of a PUSH reaches what has arrived of it; the first one, data or registration, for lanes are not ordered against one another, has the
receiver's descriptor at physical address pa read. -/
def State.inboundPush (s : State) (peer pa tag : Nat) (f : Inbound → Inbound) : State :=
  match s.inbound.find? fun x => x.peer == peer && x.tag == tag with
  | some x => s.modInbound x.uid f
  | none =>
    let (s, bs, po) := s.peerRead pa 160
    let x : Inbound := { uid := s.uid, peer := peer, tag := tag, kind := .push bs none none, status := if po then some (completion 3 (w64 pa)) else none }
    { s with uid := s.uid + 1, inbound := s.inbound ++ [f x] }

/-- Source codes arrive: elements from `first` on, of a format and a number. -/
def Inbound.data (x : Inbound) (fmt total first : Nat) (cs : List Nat) : Inbound :=
  match x.kind with
  | .push d _ key => { x with kind := .push d (some (fmt, total)) key, codes := x.codes ++ cs.zipIdx.map fun c => (first + c.2, c.1) }
  | _ => x

/-- The registration arrives that follows the data (R403). -/
def Inbound.closes (x : Inbound) (key : Word) : Inbound := match x.kind with | .push d src _ => { x with kind := .push d src (some key) } | _ => x

/-- A part of a tile arrives. -/
def Inbound.tile (x : Inbound) (n kind : Nat) (poison : Bool) (es : List Half) : Inbound :=
  let (_, t) := mget x.tiles n (0, ({} : Tile))
  { x with tiles := mput x.tiles n (kind, { t with elems := t.elems ++ es, poison := t.poison || poison }) }

/-- The arriving PUSH x fails with a completion word: nothing more of it is written, and the receiving job hears of a status of 4, 5 or 6 (R275). -/
def State.pushFails (s : State) (x : Inbound) (d : Desc) (w : Word) : State :=
  (s.postPush d w).modInbound x.uid fun x => { x with status := some w, codes := [], ready := [] }

/-- What has arrived whole of a PUSH is made ready: elements, or under block scaling the blocks of which all 32 are here (R273). -/
def Relay.whole (q : Relay) (l : List (Nat × Nat)) : List (Nat × Nat) × List (Nat × Nat) :=
  if !q.scl then (l, [])
  else
    let full (b : Nat) : Bool := (List.range 32).all fun j => l.any fun c => c.1 == 32 * b + j
    let bs := (l.map (·.1 / 32)).eraseDups.filter full
    (bs.flatMap fun b => (List.range 32).filterMap fun j => l.find? fun c => c.1 == 32 * b + j, l.filter fun c => !bs.contains (c.1 / 32))

/-- A cycle of the arriving PUSH x (R272 to R275): its descriptor is checked once data has come; what is here is converted, and written at free moments
in a free order, at least the oldest once the registration is here; then, with everything written and performed, the key is registered and the sender
answered. -/
def State.pushTick (s : State) (x : Inbound) (bs : List Byte) (src : Option (Nat × Nat)) (key : Option Word) : State :=
  let done (s : State) (w : Word) : State :=
    ({ s with inbound := s.inbound.filter fun y => y.uid != x.uid }).respond x.peer x.tag (bits w 63 56) (toLE 8 w.toNat)
  match x.status, src with
  | some w, _ => if key.isSome then done s w else s
  | none, none => s
  | none, some (sf, total) =>
    let (d, bad) := s.descCheckAt bs total
    match (if x.begun then none else bad) with
    | some w => s.pushFails x d w
    | none =>
      let q := d.recvRelay sf
      let (l, rest) := q.whole x.codes
      match q.items l with
      | .error f => s.pushFails x d (completion f.1 f.2)
      | .ok is =>
        let all := x.ready ++ is
        let go := chosenOf s.freeCtr (List.range all.length)
        let pick (n : Nat) : Bool := go.contains n || (key.isSome && n == 0)
        let s := { s with freeCtr := s.freeCtr + all.length }
        let r := (all.zipIdx.filter fun e => pick e.2).foldl (fun (acc : State × Option Fail) i => match acc with
          | (s, some f) => (s, some f)
          | (s, none) => s.pinWrite d.rtwr d.rjob x.uid i.1.1 i.1.2) (s, none)
        match r with
        | (s, some f) => s.pushFails x d (completion f.1 f.2)
        | (s, none) =>
          let left := (all.zipIdx.filter fun e => !pick e.2).map (·.1)
          let taken := x.taken + l.length
          let s := s.modInbound x.uid fun y => { y with begun := true, codes := rest, ready := left, taken := taken }
          match key with
          | some k => if taken = total ∧ left.isEmpty then (match s.pushKey x.uid d k with | some s => done s 0 | none => s) else s
          | none => s

/-- A cycle of an arriving state: with every tile whole it is written (R347) once the banks that take it are awake (R218), and the sender answered. -/
def State.stateTick (s : State) (x : Inbound) (job tower : Nat) (fmt16 : Bool) (snap n : Nat) : State :=
  let done (s : State) (w : Word) : State := ({ s with inbound := s.inbound.filter fun y => y.uid != x.uid }).respond x.peer x.tag 0 (toLE 8 w.toNat)
  let whole (t : Nat × Tile) : Bool := t.1 == 0 || t.2.elems.length == 16384
  if !((List.range n).all fun j => (mfind x.tiles j).any whole) then s
  else match s.arriveState tower job fmt16 (BitVec.ofNat 4 snap) (x.tiles.map (·.2)) with
    | .error c => done s (codeWord c)
    | .ok (z, w) =>
      let slabs := z.slabsHeld (z.handle (bits w 23 0))
      if slabs.all (s.tower tower).slabAwake then done (slabs.foldl (fun s b => s.touchSlab tower b) z) w
      else (slabs.foldl (fun s b => s.touchSlab tower b) s).spend

/-- A cycle of everything that arrives. -/
def State.serveInbound (s : State) : State :=
  s.inbound.foldl (fun s y => match s.inbound.find? fun x => x.uid == y.uid with
    | none => s
    | some x => match x.kind with
      | .push bs src key => s.pushTick x bs src key
      | .state job t f snap n => s.stateTick x job t f snap n) s

/-- What a flit from a peer carries is performed; false while it must wait, as writes and atomics do for a migration of their page (R214). -/
def State.performFlit (s : State) (peer : Nat) : FlitPayload → State × Bool
  | .idle => (s, true)
  | .store a bs po => if s.migrating (a % 2 ^ 41) then (s, false) else (s.peerWrite (a % 2 ^ 41) bs po, true)
  | .load a n tag =>
    let (s, bs, po) := s.peerRead (a % 2 ^ 41) n
    (s.respond peer tag po.toNat bs, true)
  | .pushData d fmt total first codes tag => (s.inboundPush peer (d % 2 ^ 41) tag (·.data fmt total first codes), true)
  | .arrival d key tag => (s.inboundPush peer (d % 2 ^ 41) tag (·.closes key), true)
  | .atomic a code dbl x cmp tag ret =>
    if s.migrating (a % 2 ^ 41) then (s, false)
    else match s.peerAtomic (a % 2 ^ 41) code dbl x cmp (!ret) with
      | (s, none) => (s, false)
      | (s, some r) => (if ret then s.respond peer tag r.2.toNat (toLE (aopBytes dbl) r.1.toNat) else s, true)
  | .response tag status bs => (s.gotResponse tag status bs, true)
  | .dupWrite a bs => (((s.keepDup a bs).sendFlit peer 2 5 (.dupAck 1) 0 0).1, true)
  | .dupAck n => (s.gotAcks n, true)
  | .stateMove job tower fmt16 snap tiles tag =>
    ({ s with uid := s.uid + 1, inbound := s.inbound ++ [{ uid := s.uid, peer := peer, tag := tag, kind := .state job tower fmt16 snap tiles }] }, true)
  | .stateTile n kind po _ es tag =>
    (match s.inbound.find? fun x => x.peer == peer && x.tag == tag with
     | some x => s.modInbound x.uid (·.tile n kind po es)
     | none => s, true)
  | .control _ _ => (s, true)

/-- The stop bit of a lane after its occupancy changed to n (R405). -/
def stopAfter (old : BitVec 4) (v n : Nat) : BitVec 4 :=
  if 128 ≤ n then old ||| (1 <<< v) else if n ≤ 64 then old &&& ~~~ ((1 : BitVec 4) <<< v) else old

/-- The oldest flit of lane v of a port is performed, where it need not wait. -/
def State.serveLane (s : State) (p v : Nat) : State :=
  match mget (s.port p).rxq v [] with
  | [] => s
  | f :: _ =>
    match s.performFlit (s.port p).peer f with
    | (s, true) =>
      let x := s.port p
      let r := (mget x.rxq v []).drop 1
      s.setPort p { x with rxq := mput x.rxq v r, stopRx := stopAfter x.stopRx v r.length }
    | (s, false) => s

/-- One flit of every lane of every port. -/
def State.serveLinks (s : State) : State :=
  s.ports.foldl (fun s e => (List.range 4).foldl (fun s v => s.serveLane e.1 v) s) s

/-! ## Receiving (R404 to R406) -/

/-- The port without the flits that an acknowledgement of `ack` covers. -/
def Port.acked (x : Port) (ack : Nat) : Port :=
  if x.unacked.any fun f => f.seq == ack then
    { x with unacked := (x.unacked.dropWhile fun f => f.seq != ack).drop 1, retrained := false }
  else x

/-- A NAK: every flit from the first unacknowledged one is replayed; the eighth replay of one flit asks for training, the sixteenth fails. -/
def State.replay (s : State) (p : Nat) : State :=
  let x := s.port p
  if x.unacked.isEmpty then s
  else
    let x : Port := { x with unacked := x.unacked.map fun (f : Flit) => { f with replays := f.replays + 1 } }
    let s := (s.setPort p x).bumpErr (portTower p) 7
    let n : Nat := match x.unacked with | f :: _ => f.replays | [] => 0
    if x.retrained ∧ 16 ≤ n then s.portDown p
    else if !x.retrained ∧ 8 ≤ n ∧ x.retrainDue.isNone then s.setPort p { x with retrainDue := some (s.now + 3600000) }
    else s

/-- What the lane stops and the window let through goes out. -/
def State.pumpPort (s : State) (p : Nat) : State :=
  let x := s.port p
  s.setPort p (x.pump (x.queues.foldl (fun n e => n + e.2.length) 0))

/-- Port p, in training, learns the number and the device at its far end (R406): it comes up, unless the number is this device's own, or that of another
device; then every port to a device of that number is left down. That a number once found double stays so until a cold start is log entry 117. -/
def State.learn (s : State) (p f : Nat) (dev : List Byte) : State :=
  let s := s.setPort p { s.port p with peer := f, ident := dev }
  let others := (List.range 16).filter fun q => q != p && ((s.port q).up || (s.port q).clash) && (s.port q).peer == f
  if f = s.fabric ∨ others.any (fun q => (s.port q).clash || (s.port q).ident != dev) then
    (others ++ [p]).foldl (fun s q =>
      let s := if (s.port q).up then s.portDown q else s
      s.setPort q { s.port q with clash := true }) s
  else s.setPort p { s.port p with up := true }

/-- A flit on a port that is not up: training, in which control flits tell the peer's number (R406). A port that went down, or to a double number,
stays down. -/
def State.trainFlit (s : State) (p : Nat) (raw : List Byte) : State :=
  let x := s.port p
  if !flitIntact raw ∨ x.retrained ∨ x.clash then s
  else match flitCarries raw with
    | .control f dev => if 16 ≤ f then s else s.learn p f dev
    | _ => s

/-- A sequenced intact flit on a port that is up: taken in order, else answered with NAK unless it was taken before. -/
def Port.take (x : Port) (fabric : Nat) (raw : List Byte) : Port :=
  let h := headerWord (w64 (ofLE (raw.take 8)))
  let want := (x.rxSeq + 1) % 4096
  let q := mget x.rxq h.vl []
  if h.ty = 0 then x
  else if h.seq ≠ want then (if (want + 4096 - h.seq) % 4096 ≤ 2048 then x else { x with nakOut := true })
  else if 256 ≤ q.length then { x with nakOut := true }
  else
    let pl := if h.dst = fabric then flitCarries raw else .idle
    { x with rxSeq := want, nakOut := false, rxq := mput x.rxq h.vl (q ++ [pl]), stopRx := stopAfter x.stopRx h.vl (q.length + 1) }

/-- R402, R404, R405: a flit is received: checked, its acknowledgement, NAK and stops obeyed, and taken, discarded or answered with NAK. -/
def execFlitReceive (port : Nat) (raw : List Byte) (s : State) : Out :=
  if 16 ≤ port then .next s
  else if !(s.port port).up then .next (s.trainFlit port raw)
  else if !flitIntact raw then .next (s.setPort port { s.port port with nakOut := true })
  else
    let h := headerWord (w64 (ofLE (raw.take 8)))
    let s := s.setPort port { (s.port port).acked h.ack with stopTx := h.stop }
    let s := if h.nak then s.replay port else s
    if (s.port port).up then .next ((s.setPort port ((s.port port).take s.fabric raw)).pumpPort port) else .next s

/-- R404: the retraining of a port ends; where it failed the port goes down. -/
def execLinkRetrain (port : Nat) (ok : Bool) (s : State) : Out :=
  let x := s.port port
  if x.retrainDue.isNone then .next s
  else if ok then .next ((s.setPort port { x with retrainDue := none, retrained := true }).pumpPort port)
  else .next (s.portDown port)

end Sys2Proof.Machine
end

