-- ==== Sys2Proof/Machine/StartUp.lean ====
section
/-! DEFINITION. Start-up (R410, R411): the cast-on tables (R323 to R325), the attempts of a start, the cold start, and the warm start with what
it keeps (R198, R216, R294, R322, R350, R396). -/

namespace Sys2Proof.Machine

/-! ## Cast-on tables (R324) -/

/-- One front end of the build: the next half that may be taken, and the entry; none where the halves do not suffice. -/
def castEntry (good : Nat → Bool) (gmask f nxt : Nat) : Option (Nat × BitVec 16) :=
  let ask := gmask.testBit (f / 2)
  if ask ∧ f % 2 = 1 then some (nxt, 0)
  else
    let n := if ask then 4 else 2
    let top := if ask then 2 * f + 7 else min (2 * f + 5) 35
    let hs := ((List.range (top + 1)).filter fun h => good h && decide (max nxt (2 * f) ≤ h)).take n
    if hs.length < n then none
    else
      let offs := hs.zipIdx.foldl (fun a (e : Nat × Nat) => a + (e.1 - 2 * f) * 8 ^ e.2) 0
      some (hs.getLastD 0 + 1, BitVec.ofNat 16 ((if ask then 2 else 1) * 2 ^ 14 + offs))

/-- A tower's table for a mask. -/
def castBuild (good : Nat → Bool) (gmask : Nat) : Option (List (BitVec 16)) :=
  ((List.range 16).foldl (fun (acc : Option (Nat × List (BitVec 16))) f =>
    match acc with
    | none => none
    | some (nxt, l) => (castEntry good gmask f nxt).map fun e => (e.1, l ++ [e.2])) (some (0, []))).map (·.2)

/-- A tower's table and whether its mask was refused; none when the build fails with mask 0. -/
def castOn (good : Nat → Bool) (gmask : Nat) : Option (List (BitVec 16) × Bool) :=
  match castBuild good gmask with
  | some l => some (l, false)
  | none => if gmask = 0 then none else (castBuild good 0).map fun l => (l, true)

/-! ## Attempts (R410, R411) -/

/-- What one attempt of a start yields: a table for each tower and the refused masks, or the step that fails with its code. `train`: how step 3 turns
out; `found`: the halves that the self-test finds, where it runs. -/
def startAttempt (c : ConfigRecord) (train : Bool) (found : Option (List (BitVec 40))) (gmask : List Byte) : Except (Nat × Nat) (List (List (BitVec 16)) × Nat) :=
  let bad (t h : Nat) : Bool := (c.defects t).getLsbD h || (match found with | some l => (l.getD t 0).getLsbD h | none => false)
  let good (t h : Nat) : Bool := decide (h < 36) && !bad t h
  if !c.fwSigOk then .error (1, 1)
  else if !c.recordOk then .error (2, 1)
  else if !train then .error (3, 2)
  else if found.isSome && (List.range 12).any fun t => decide (((List.range 36).filter (good t)).length < 32) then .error (4, 3)
  else
    let rows := (List.range 12).map fun t => castOn (good t) (gmask.getD t 0).toNat
    if rows.any (·.isNone) then .error (5, 4)
    else .ok (rows.map fun r => match r with | some e => e.1 | none => [], numMask ((List.range 12).filter fun t => match rows.getD t none with | some e => e.2 | none => false))

/-- START (R411). -/
def startWord (state step code try_ refused : Nat) : Word :=
  w64 (state * 2 ^ 60 + step * 2 ^ 56 + code * 2 ^ 48 + try_ * 2 ^ 44 + refused * 2 ^ 32)

/-- START while attempt n runs its steps up to one (R411). -/
def startSteps (n last : Nat) : List Word := (List.range last).map fun k => startWord 0 (k + 1) 0 n 0

/-- The attempts of a start in turn: tables, and the values that START takes (R410, R411). A failure of step 1 or 2 is final; the third attempt runs at
lower speed. -/
def startAttempts (one : Nat → Except (Nat × Nat) (List (List (BitVec 16)) × Nat)) : Nat → Nat → List (List (BitVec 16)) × List Word
  | 0, n => ([], [startWord 2 3 2 n 0])
  | fuel + 1, n =>
    match one n with
    | .ok (l, r) => (l, startSteps n 6 ++ [startWord (if n = 3 then 3 else 1) 6 0 n r])
    | .error (step, code) =>
      if step ≤ 2 ∨ 3 ≤ n then ([], startSteps n step ++ [startWord 2 step code n 0])
      else let (l, w) := startAttempts one fuel (n + 1); (l, startSteps n step ++ w)

/-- Whether a start whose last value of START is w runs at the lower speed. -/
def startSlow (w : List Word) : Bool := bits (w.getLastD 0) 63 60 == 3

/-! ## The cold start -/

/-- A tower after a cold start: its table, and the capacity that its layers give (R350, R387). -/
def towerCold (c : ConfigRecord) (t : Nat) (table : List (BitVec 16)) : Tower :=
  let out := (List.range 2).flatMap fun st => ((List.range 16).filter fun l => (c.layersOut t st).getLsbD l).map (16 * st + ·)
  { Tower.cold with caston := table, cnt := [(0x100, w64 (2 ^ 37 - out.length * 2 ^ 32)), (0x108, 4096)], layersOut := out }

/-- What outside this device's memories keeps its contents: host memory. -/
def State.hostMem (s : State) : Memory := s.mem.filter fun e => region e.1 == 2

/-- Inputs and events still to come, by the cycle count that begins with the start. -/
def State.laterOn (s : State) : List (Nat × Instr) := s.agenda.map fun (e : Nat × Instr) => (e.1 - s.now, e.2)

/-- R410, R411: a cold start: every memory, queue, table and register takes its cold value; CYC begins at 0. START then takes the values of the steps,
one at a time, while the host can read it (log entry 66). PARAM's fabric number takes effect (R400). -/
def execColdStart (cfg : ConfigRecord) (s : State) : Out :=
  let (tables, words) := startAttempts (fun n => startAttempt cfg (cfg.trainOk.getD (n - 1) true) (some cfg.newDefects) cfg.gmask) 3 1
  let port (p : Nat) : Nat × Port := (p, { halfRate := true })
  .next { towers := (List.range 12).map fun t => (t, towerCold cfg t (tables.getD t []))
          mem := s.hostMem, start := words.headD 0, startNext := words.drop 1, cfg := cfg, fabric := s.fabricNext.getD cfg.fabric, fabricNext := s.fabricNext
          ports := if startSlow words then (List.range 16).map port else []
          memPois := s.memPois.filter fun w => region (w * 32) == 2
          agenda := s.laterOn, images := s.images, freeCtr := s.freeCtr, uid := s.uid }

/-- The next value of START while a start runs. With the last of them a WARM command ends (R399, R410). -/
def State.startGoesOn (s : State) : State :=
  match s.startNext with
  | [] => s
  | w :: r => { s with start := w, startNext := r, mailbox := if r.isEmpty then { s.mailbox with busy := false, result := if s.mailbox.busy then 0 else s.mailbox.result } else s.mailbox }

/-! ## The warm start -/

/-- A tower after a warm start (R198, R322, R350): capacity, parameters, error totals, logs, spares and map-outs stay; pager memory where kept. -/
def towerWarm (x : Tower) (keep : Bool) (table : List (BitVec 16)) : Tower :=
  { caston := table
    cnt := x.cnt.filter fun (e : Nat × Word) => e.1 == 0x100 || e.1 == 0x108 || e.1 == 0x109 || (decide (0x120 ≤ e.1) && decide (e.1 < 0x128))
    paramNext := x.paramNext, arrayLog := x.arrayLog, busLog := x.busLog, arrayAt := x.arrayAt, busAt := x.busAt, spares := x.spares, layersOut := x.layersOut
    frames := if keep then x.frames else [] }

/-- A function's registers after a warm start (R396). -/
def fnWarm (f : Fn) : Fn := { eqbase := f.eqbase, eqcfg := f.eqcfg &&& 0xFFFFFEFF }

/-- A port after a warm start: its training stands unless step 3 ran, and its queues are empty; a peer with the device's own number leaves it down
(R406); `slow`: the start came through at the lower speed (R411). -/
def portWarm (fabric : Nat) (slow : Bool) (x : Port) : Port :=
  { x with up := x.up && x.peer != fabric, queues := [], rxq := [], stopRx := 0, halfRate := slow }

/-- R216: the pager writes every resident state out. -/
def State.statesOut (s : State) : State :=
  (s.handles.filter fun (e : Nat × HEntry) => e.2.v && !e.2.lost).foldl (fun s e => s.tilesOut e.1) s

/-- Every write on its way home has reached it, as the write-back of the L2s brings it (R216). -/
def State.allHome (s : State) : State :=
  (List.range 12).foldl (fun s t => (s.tower t).out.foldl (fun s e => s.performHome t e.2.job (cellsOf e.2.pa e.2.bytes) e.2.pois) s) s

/-- What step 3 of attempt n of a warm start comes to: the saved results stand, or the training that runs for their check sum's sake turns out well
(R410). -/
def State.warmTrains (s : State) (n : Nat) : Bool := (Config.warmTrain (s.freeCtr + n)).getD true

/-- The state that a warm start leaves, the jobs having ended: R410 steps 1 to 6, R216, R294, R322. A failed mesh link keeps START failed (R407). -/
def State.warmed (s : State) (keep : Bool) (frames : Nat → Map Tile) (gmask : List Byte) : State :=
  let found (n : Nat) : Option (List (BitVec 40)) := if s.selfTestDue then some (Config.selfTest (s.freeCtr + n)) else none
  let (tables, words) := startAttempts (fun n => startAttempt s.cfg (s.warmTrains n) (found n) gmask) 3 1
  let words := if s.meshDown.isEmpty then words else [s.start]
  let s := s.allHome
  let fabric := s.fabricNext.getD s.fabric
  { mem := if keep then s.mem else s.hostMem
    memPois := if keep then s.memPois else s.memPois.filter fun w => region (w * 32) == 2
    towers := (List.range 12).map fun t => (t, { towerWarm (s.tower t) keep (tables.getD t []) with frames := if keep then frames t else [] })
    fns := s.fns.map fun (e : Nat × Fn) => (e.1, fnWarm e.2)
    ports := s.ports.map fun (e : Nat × Port) => (e.1, portWarm fabric (startSlow words) e.2)
    dupMem := if keep then s.dupMem else [], mailbox := s.mailbox, start := words.headD 0, startNext := words.drop 1, apbase := s.apbase
    fabric := fabric, fabricNext := s.fabricNext, partner := s.partner
    starts := s.starts + 1, cfg := s.cfg, tempDeci := s.tempDeci, tempAt := s.tempAt, tripDue := s.tripDue, meshDown := s.meshDown, idleLimit := s.idleLimit
    agenda := s.laterOn, images := s.images, freeCtr := s.freeCtr + 4, uid := s.uid }

end Sys2Proof.Machine
end

