-- ==== Sys2Proof/Machine/Jobs.lean ====
section
/-! DEFINITION. Jobs from outside: the management mailbox's commands (R399, R400), the job record (R401), the end of a job, warm starts (R410),
attestation (R409), checkpoints (R379 to R383) and restores (R382). -/

namespace Sys2Proof.Machine

/-- A mailbox command ends with a result (R399). -/
def State.mailEnd (s : State) (r : Nat) : State := { s with mailbox := { s.mailbox with busy := false, result := r } }

/-! ## The job record (R401) -/

/-- The 16 words of a record in host memory. -/
def State.jobRecord (s : State) (addr : Word) : List Word := wordsOf 16 (rdBytes s.mem (hostPa addr.toNat) 128)

/-- The job that a record describes, created in cycle `now`. -/
def recordJob (w : List Word) (now : Nat) : Job :=
  let g (n : Nat) : Word := w.getD n 0
  let size := (g 11).toNat
  let base := cdiv (g 10).toNat 64 * 64
  { num := bits (g 0) 5 0, latency := !bitOf (g 0) 8, fn := bits (g 0) 21 16
    part := (List.range 12).map fun t => BitVec.ofNat 16 (bits (g (1 + t / 4)) (16 * (t % 4) + 15) (16 * (t % 4)))
    slice := bits (g 4) 15 0, wbud := bits (g 4) 63 32, dline := bits (g 5) 47 0
    gbud := (List.range 6).map fun n => bits (g (6 + n / 2)) (32 * (n % 2) + 19) (32 * (n % 2))
    root := (g 9).toNat, arenaBase := base, arenaSize := size - (base - (g 10).toNat)
    ckptBase := g 12, ckptLen := (g 13).toNat, dump := g 14, created := now }

/-- A record breaks a rule (R46, R51, R334, R339, R379, R401). -/
def recordOut (w : List Word) : Bool :=
  let g (n : Nat) : Word := w.getD n 0
  let lat := !bitOf (g 0) 8
  let home (a : Nat) : Bool := region a == 0 && frameOk a && decide (a < 2 ^ 48)
  bits (g 0) 7 6 != 0 || bits (g 0) 15 9 != 0 || bits (g 0) 63 22 != 0 || decide (32 < bits (g 0) 21 16)
    || bits (g 4) 31 16 != 0 || (if lat then bits (g 4) 15 0 == 0 || g 5 != 0 else g 4 != 0 || bits (g 5) 63 48 != 0 || bits (g 5) 47 0 == 0)
    || [6, 7, 8].any (fun n => bits (g n) 31 20 != 0 || bits (g n) 63 52 != 0)
    || !home (g 9).toNat || (g 9).toNat % 2 ^ 21 != 0
    || (g 11 != 0 && !(home (g 10).toNat && home ((g 10).toNat + (g 11).toNat - 1)))
    || bits (g 12) 63 57 != 0 || bits (g 12) 11 0 != 0 || bits (g 13) 11 0 != 0 || ((g 12 == 0) != (g 13 == 0))
    || bits (g 14) 63 57 != 0 || g 15 != 0

/-- Two partitions share a core. -/
def partsMeet (a b : List (BitVec 16)) : Bool := (List.range 12).any fun t => (a.getD t 0) &&& (b.getD t 0) != 0

/-- The result with which a creation ends without effect, or the job. -/
def State.createCheck (s : State) (addr : Word) : Except Nat Job :=
  let w := s.jobRecord addr
  let j := recordJob w s.now
  if bits addr 63 45 ≠ 0 ∨ recordOut w then .error 4
  else if (s.job? j.num).isSome then .error 2
  else if (s.jobs.any fun (e : Nat × Job) => e.2.latency == j.latency && partsMeet e.2.part j.part) ∨ (s.fn j.fn).bound.isSome then .error 3
  else .ok j

/-- The job exists and its function is bound (R394, R399). -/
def State.createJob (s : State) (j : Job) : State := (s.setJob j.num j).setFn j.fn { s.fn j.fn with bound := some j.num }

/-- R399: CREATE. -/
def execCreate (addr : Word) (s : State) : Out :=
  match s.createCheck addr with
  | .error r => .next (s.mailEnd r)
  | .ok j => .next ((s.createJob j).mailEnd 0)

/-! ## The end of a job -/

/-- A job ends: its work is halted without a dump or event, its states, table entries, translations and its binding go, and accesses
that a migration of its pages held back are reissued (R214, R322, R336, R399). -/
def State.endJob (s : State) (n : Nat) : State :=
  match s.job? n with
  | none => s
  | some j =>
    let s := s.haltJob n false false
    let s := (s.handles.filter fun (e : Nat × HEntry) => e.2.v && e.2.job == n).foldl (fun s e => s.freeHandle e.1) s
    let freed := (s.towers.flatMap fun (e : Nat × Tower) => e.2.migr).filter fun m => m.job == n && m.frozen
    let clean (t : Tower) : Tower := { t with
      arrivals := t.arrivals.filter fun a => a.job != n
      migr := t.migr.filter fun m => m.job != n
      moves := t.moves.filter fun m => (s.handle m.handle).v
      proposals := t.proposals.filter fun p => p.2.1 != n }
    let s := { s with towers := s.towers.map fun (e : Nat × Tower) => (e.1, clean e.2) }
    let s := (freed.foldl (fun s m => s.reissue m.old (2 ^ m.bits)) (s.dropTlb fun e => e.job == n))
    let s := s.setFn j.fn { s.fn j.fn with bound := none }
    { s with jobs := mdel s.jobs n, ckpt := s.ckpt.filter (· != n), ckptRun := s.ckptRun.filter fun r => r.job != n }

/-- A job has a live launch, or a record of it stands in a launch queue. -/
def State.hasLaunches (s : State) (n : Nat) : Bool :=
  s.launches.any (fun (e : Nat × Launch) => e.2.job == n) || s.towers.any fun (e : Nat × Tower) => e.2.lq.any fun q => q.2.any fun r => r.job == n

/-- R399: CLOSE; bits 5 to 0 name the job, bit 8 is FORCE. -/
def execClose (arg : Word) (s : State) : Out :=
  let n := bits arg 5 0
  if bits arg 63 9 ≠ 0 ∨ bits arg 7 6 ≠ 0 then .next (s.mailEnd 1)
  else if (s.job? n).isNone then .next (s.mailEnd 2)
  else if !bitOf arg 8 ∧ s.hasLaunches n then .next (s.mailEnd 5)
  else .next ((s.endJob n).mailEnd 0)

/-- R410: WARM: every job ends as a forced CLOSE ends it, then the start runs; with KEEP the states are written out first (R216). -/
def execWarm (keep : Word) (gmask : List Byte) (s : State) : Out :=
  if bits keep 63 1 ≠ 0 then .next (s.mailEnd 1)
  else
    let k := bitOf keep 0
    let u := if k then s.statesOut else s
    let frames (t : Nat) : Map Tile := (u.tower t).frames
    let s := (u.jobs.map (·.1)).foldl (fun s n => s.endJob n) u
    let u := s.warmed k frames gmask
    .next (if u.startNext.isEmpty then u.mailEnd 0 else u)

/-! ## Attestation, parameters, power -/

/-- The report of R409 over a nonce: 160 bytes, then their signature. -/
def State.report (s : State) (nonce : List Byte) : List Byte :=
  let b := padTo 0 32 nonce ++ padTo 0 48 (sha384 s.cfg.firmware) ++ padTo 0 48 (sha384 s.cfg.record) ++ padTo 0 16 s.cfg.serial ++ toLE 8 s.starts ++ toLE 8 s.start.toNat
  b ++ padTo 0 96 (Config.sign b)

/-- R409: ATTEST: nonce and report stand in host memory. -/
def execAttest (nonce dest : Word) (s : State) : Out :=
  if bits nonce 63 45 ≠ 0 ∨ bits dest 63 45 ≠ 0 then .next (s.mailEnd 4)
  else .next ((s.poke (hostPa dest.toNat) (s.report (rdBytes s.mem (hostPa nonce.toNat) 32))).mailEnd 0)

/-- R380: CHECKPOINT. -/
def execCheckpoint (s : State) : Out := .next (s.requestCkpt.mailEnd 0)

/-- R400: PARAM. A tower's parameter waits for its next period start. -/
def execParam (num tower value : Word) (s : State) : Out :=
  let n := num.toNat
  let v := value.toNat
  let later (c : Nat) (ok : Bool) : State :=
    if 11 < tower.toNat ∨ !ok then s.mailEnd 4
    else (s.modTower tower.toNat fun x => { x with paramNext := mput x.paramNext c value }).mailEnd 0
  let device (ok : Bool) (t : State) : State := if tower ≠ 0 ∨ !ok then s.mailEnd 4 else t.mailEnd 0
  .next (
    if n = 1 then later 0x108 (decide (1 ≤ v) && decide (v < 2 ^ 20))
    else if n = 2 then later 0x109 (decide (v ≤ 16))
    else if 3 ≤ n ∧ n ≤ 10 then later (0x130 + (n - 3)) (decide (v < 65536))
    else if n = 11 then device (v % 65536 == 0 && decide (v < 2 ^ 48) && region v == 0 && frameOk v) { s with apbase := value }
    else if n = 12 then device (decide (v < 16)) { s with fabricNext := some v }
    else if n = 13 then device (decide (v < 16) || v == 0xFF) { s with partner := v }
    else s.mailEnd 1)

/-- R400: POWER. -/
def execPower (s : State) : Out :=
  let mw := if s.cfg.model = 1 then (Config.modulePower s.freeCtr).zeroExtend 64 else 0
  let data : List Word := [mw, w64 (s.tempDeci % 65536).toNat, w64 (s.tempAt.1 % 16 + s.tempAt.2 % 4 * 256), 0, 0, 0, 0, 0]
  .next ({ s with mailbox := { s.mailbox with data := data } }.mailEnd 0).spend

/-! ## Checkpoints (R379 to R383) -/

/-- Devices that take part: this one and its peers. -/
def State.deviceCount (s : State) : Nat := 1 + (((List.range 16).filter fun p => (s.port p).up).map fun p => (s.port p).peer).eraseDups.length

/-- What an image holds of a job (R380). -/
def State.jobImage (s : State) (n : Nat) : JobImage :=
  let ls := s.launches.filter fun (e : Nat × Launch) => e.2.job == n
  let mine (l : Nat) : Bool := ls.any fun e => e.1 == l
  let tower (t : Nat) : ImageTower :=
    let x := s.tower t
    { t := t, lq := x.lq.map fun q => (q.1, q.2.filter fun r => r.job == n)
      pend := x.pend.filter fun e => e.2.live && mine e.2.launch
      pools := x.pools.filter fun e => mine e.2.launch
      dep := x.dep.filter fun e => mine e.launch
      arrivals := x.arrivals.filter fun a => a.job == n
      stubs := x.stubs.filter fun e => mine e.1
      discards := x.discards.filter fun e => ((mfind x.pools e.2.1).any fun p => mine p.launch) }
  let state (e : Nat × HEntry) : ImageState :=
    { idx := e.1, entry := e.2, tiles := (e.2.arrays.flatMap fun a => s.tileWords a e.2.nt).map fun w => (w, (s.tower e.2.twr).tileOf w) }
  { launches := ls, gangs := s.gangs.filter fun (e : Nat × Gang) => e.2.job == n, towers := (List.range 12).map tower
    states := (s.handles.filter fun (e : Nat × HEntry) => e.2.v && e.2.job == n).map state }

/-- A tile of a handle on tower t is read for an image: latent errors of state SRAM, and of pager memory, are corrected and counted, or poison it
(R217, R219). -/
def State.readForImage (s : State) (t : Nat) (w : Word) : State × Bool :=
  if twKind w = 1 then let (s, x) := s.readTile t w; (s, x.poison)
  else if twKind w = 0 then (s, false)
  else
    let e := Config.pagerError s.freeCtr
    let s := if e = 1 then s.bumpErr t 0 else s
    (s.spend, ((s.tower t).tileOf w).poison || e == 2)

/-- The states of a job are read for its image: whether a tile, an array or a handle entry of them is uncorrectable (R383). -/
def State.imageRead (s : State) (n : Nat) : State × Bool :=
  (s.handles.filter fun (e : Nat × HEntry) => e.2.v && e.2.job == n).foldl (fun (acc : State × Bool) e =>
    let h := e.2
    let (s, a) := acc.1.homeFetch h.twr n (Config.handleBase + 64 * e.1) 64
    let (s, b) := h.arrays.foldl (fun (acc : State × Bool) x =>
      let (s, b) := acc.1.homeFetch h.twr n x (8 * h.nt); (s, acc.2 || b || s.poisoned x (8 * h.nt))) (s, false)
    let (s, c) := (h.arrays.flatMap fun a => s.tileWords a h.nt).foldl (fun (acc : State × Bool) w => let (s, b) := acc.1.readForImage h.twr w; (s, acc.2 || b)) (s, false)
    (s, acc.2 || a || b || c || s.poisoned (Config.handleBase + 64 * e.1) 64)) (s, false)

/-- Every page of n bytes from va carries DUP. -/
def State.allDup (s : State) (job va n : Nat) : Bool :=
  (pieces (n / 65536 + 2) va n).all fun p => match s.vaddr job p.1 true with | .ok (_, e) => e.dup | .error _ => false

/-- The area and every save area of the job carry DUP (R379). -/
def State.areasDup (s : State) (j : Job) : Bool :=
  s.allDup j.num j.ckptBase.toNat (8192 + 2 * j.ckptLen)
    && (s.launches.filter fun (e : Nat × Launch) => e.2.job == j.num).all fun e =>
      s.allDup j.num (recSave e.2.words) (recCores e.2.words * (coreBlock (recGng e.2.words) + extBlock))

/-- The words of a new image: number u. -/
def newImage (u : Nat) : List Word := (List.range (Config.imageLen u)).map (Config.imageWord u)

/-- The checkpoint of the job at the head ends with a status: its gangs may return, event type 9 is posted (R383). -/
def State.endCkpt (s : State) (n status gen : Nat) (seq : Word) : State :=
  let s := s.modJob n fun j => { j with stopped := false }
  let s := s.postJob 9 n 0 0 [w64 status, w64 gen, seq]
  { s with ckpt := s.ckpt.drop 1, ckptRun := none }

/-- A checkpoint that does not commit: the last committed generation stands. -/
def State.failCkpt (s : State) (j : Job) (status : Nat) : State := s.endCkpt j.num status j.ckptGen j.ckptSeq

/-- The commit record of R381. -/
def State.commitRecord (s : State) (j : Job) (r : CkptRun) : List Word :=
  [0xC0DE5A1E, j.ckptSeq + 1, w64 (1 - j.ckptGen + (s.deviceCount - 1) % 16 * 16 + s.topology * 2 ^ 32), w64 r.len, r.sum, w64 s.now, Config.firmwareVersion, 0]

/-- No duplicate that firmware sent for the job is out. -/
def State.acksIn (s : State) (n : Nat) : Bool := !s.dups.any fun d => d.job == n && d.who.isNone

/-- R380 steps 3 and 4: the image is written, or the checkpoint ends without one. -/
def State.writeImage (s : State) (j : Job) : State :=
  let u := s.uid
  let s := { s with uid := u + 1 }
  let (s, bad) := s.imageRead j.num
  let im := s.jobImage j.num
  let ws := newImage u
  let bs := bytesOf ws
  if j.ckptLen < bs.length then s.failCkpt j 1
  else if !s.areasDup j then s.failCkpt j 2
  else if (s.portTo s.partner).isNone then s.failCkpt j 3
  else if bad then s.failCkpt j 4
  else match s.vwrite 0 none j.num (j.ckptBase.toNat + 8192 + (1 - j.ckptGen) * j.ckptLen) bs with
    | (s, some _) => s.failCkpt j 2
    | (s, none) => { s with ckptRun := some { job := j.num, step := 1, len := bs.length, sum := ws.foldl (· + ·) 0 }, images := s.images ++ [(bs, im)] }

/-- R380: the checkpoint of the job at the head takes its next step: gangs stop; the image is written; its acknowledgements are in and the commit
record is written; that is acknowledged and the gangs return. -/
def execJobCheckpoint (job : Nat) (s : State) : Out :=
  if s.ckpt.head? ≠ some job then .next s
  else match s.job? job with
    | none => .next { s with ckpt := s.ckpt.drop 1, ckptRun := none }
    | some j =>
      if j.halted ∨ j.ckptLen = 0 then .next { s with ckpt := s.ckpt.drop 1, ckptRun := none }
      else
        let at_ := j.ckptBase + w64 (64 * (1 - j.ckptGen))
        match s.ckptRun with
        | none => .next ({ s with ckptRun := some { job := job } }.modJob job fun j => { j with stopped := true })
        | some r =>
          if r.step = 0 then
            let mine := s.gangs.filter fun (e : Nat × Gang) => e.2.job == job
            if mine.all fun e => decide (e.2.phase = .saved) then .next (s.writeImage j)
            else .next (mine.foldl (fun s e => s.beginPreempt e.1 2) s)
          else if r.step = 1 then
            if r.status ≠ 0 then .next (s.failCkpt j r.status)
            else if s.acksIn job then
              .next ({ (s.vwrite 0 none job at_.toNat (bytesOf (s.commitRecord j r))).1 with ckptRun := some { r with step := 2 } })
            else .next s
          else if r.status ≠ 0 then .next ((s.vwrite 0 none job at_.toNat (toLE 8 0)).1.failCkpt j r.status)
          else if s.acksIn job then
            let gen := 1 - j.ckptGen
            .next ((s.modJob job fun j => { j with ckptGen := gen, ckptSeq := j.ckptSeq + 1 }).endCkpt job 0 gen (j.ckptSeq + 1))
          else .next s

/-! ## Restores (R382) -/

/-- A valid commit record of generation g with its image: sequence number, device and topology bits, image bytes. -/
def State.commitAt (s : State) (j : Job) (g : Nat) : Option (Word × Nat × List Byte) :=
  match s.vread j.num (j.ckptBase.toNat + 64 * g) 64 with
  | .ok (bs, false) =>
    let w := wordsOf 8 bs
    let n := (w.getD 3 0).toNat
    if w.getD 0 0 ≠ 0xC0DE5A1E ∨ bits (w.getD 2 0) 0 0 ≠ g ∨ j.ckptLen < n ∨ n % 8 ≠ 0 then none
    else match s.vread j.num (j.ckptBase.toNat + 8192 + g * j.ckptLen) n with
      | .ok (im, false) =>
        if (wordsOf (n / 8) im).foldl (· + ·) 0 = w.getD 4 0 then some (w.getD 1 0, bits (w.getD 2 0) 63 4, im) else none
      | _ => none
  | _ => none

/-- The checkpoint area as a restore reads it: double errors of the home Umbra caches poison what they meet (R217, R382). -/
def State.areaRead (s : State) (j : Job) : State :=
  let s := (s.vfetch 0 j.num j.ckptBase.toNat 128).1
  [0, 1].foldl (fun s g => match s.vread j.num (j.ckptBase.toNat + 64 * g) 64 with
    | .ok (bs, false) => (s.vfetch 0 j.num (j.ckptBase.toNat + 8192 + g * j.ckptLen) (min j.ckptLen ((wordsOf 8 bs).getD 3 0).toNat)).1
    | _ => s) s

/-- The commit record that a restore uses: the valid one with the higher sequence number. -/
def State.commitBest (s : State) (j : Job) : Option (Word × Nat × List Byte) :=
  match s.commitAt j 0, s.commitAt j 1 with
  | some a, some b => some (if a.1 < b.1 then b else a)
  | some a, none => some a
  | none, b => b

/-- The identities of an image moved up by d, and its job renumbered; its constants are read anew (R257); discard slots that wait for their pool stand apart from those of live strands. -/
def JobImage.shift (im : JobImage) (d job past : Nat) : JobImage :=
  let task (r : TaskRec) : TaskRec := { r with uid := r.uid + d, deps := r.deps.map (· + d) }
  let staged (z : Staged) : Staged := { z with uid := z.uid + d }
  let strand (x : Strand) : Strand := { x with task := x.task.map fun r => { r with uid := r.uid + d }, kmem := none }
  let launch (l : Launch) : Launch := { l with job := job, parentTask := l.parentTask.map (· + d), order := l.order + d, kmem := some past }
  let gang (g : Gang) : Gang := { g with
    job := job, launch := g.launch + d, victimOf := none, follows := [], reqs := [], busy := 0, hidden := g.hidden.map strand, staged := g.staged.map fun l => l.map staged
    streams := g.streams.map fun l => l.map fun st => { st with job := job } }
  let tower (t : ImageTower) : ImageTower := { t with
    lq := t.lq.map fun q => (q.1, q.2.map fun r => { r with job := job, launch := r.launch.map (· + d) })
    pend := t.pend.map fun e => (e.1, { e.2 with launch := e.2.launch + d })
    pools := t.pools.map fun e => (e.1, { e.2 with launch := e.2.launch + d, job := job, queue := e.2.queue.map task, ringq := e.2.ringq.map task })
    dep := t.dep.map fun e => { e with launch := e.launch + d, writer := e.writer.map (· + d), readers := e.readers.map (· + d) }
    arrivals := t.arrivals.map fun a => { a with job := job }
    stubs := t.stubs.map fun e => (e.1 + d, e.2)
    discards := t.discards.map fun e => (e.1 + 1024 * (d + 1), (e.2.1, task e.2.2)) }
  { launches := im.launches.map fun e => (e.1 + d, launch e.2), gangs := im.gangs.map fun e => (e.1 + d, gang e.2)
    towers := im.towers.map tower, states := im.states.map fun e => { e with entry := { e.entry with job := job } } }

/-- A tower with what an image holds of it. -/
def Tower.restored (x : Tower) (im : ImageTower) : Tower :=
  { x with
    lq := im.lq.foldl (fun m q => mput m q.1 (mget m q.1 [] ++ q.2)) x.lq
    pend := im.pend.foldl (fun m e => mput m e.1 e.2) x.pend
    pools := im.pools.foldl (fun m e => mput m e.1 e.2) x.pools
    dep := x.dep ++ im.dep, arrivals := x.arrivals ++ im.arrivals, stubs := x.stubs ++ im.stubs, discards := x.discards ++ im.discards }

/-- Something that lives already stands where the image must go: a pool entry, a pool, a handle index. -/
def State.restoreClash (s : State) (im : JobImage) : Bool :=
  (im.towers.any fun t => (t.pend.any fun e => ((s.tower t.t).pendEntry e.1).live) || t.pools.any fun e => (mfind (s.tower t.t).pools e.1).isSome)
    || im.states.any fun e => (s.handle e.idx).v

/-- The frames that the tiles of an image take on tower t: one for each place that its words name. -/
def State.restoreTiles (s : State) (t : Nat) (l : List (Word × Tile)) (seen : List (Word × Nat)) : Option (State × List Word × List (Word × Nat)) :=
  l.foldl (fun (acc : Option (State × List Word × List (Word × Nat))) e => match acc with
    | none => none
    | some (s, ws, seen) =>
      if twKind e.1 = 0 then some (s, ws ++ [0], seen)
      else match seen.find? fun z => z.1 == e.1 with
        | some z => some (s.modTower t fun x => x.addRef (twPaged z.2), ws ++ [twPaged z.2], seen)
        | none => match s.freeFrames t 1 with
          | [] => none
          | f :: _ => some (s.modTower t fun x => { x with frames := mput x.frames f e.2, frameShare := mput x.frameShare f 1 }, ws ++ [twPaged f], (e.1, f) :: seen))
    (some (s, [], seen))

/-- One state of an image: its arrays are allocated, its tiles stand in frames, its handle has its index and generation again. -/
def State.restoreState (s : State) (job : Nat) (e : ImageState) (seen : List (Nat × List (Word × Nat))) : Option (State × List (Nat × List (Word × Nat))) :=
  let h := e.entry
  let here := mget seen h.twr []
  match s.restoreTiles h.twr e.tiles here with
  | none => none
  | some (s, ws, now) =>
    let rows := inRows h.nt (h.snaps.length + 1) ws
    let r := rows.foldl (fun (acc : Option (State × List Nat)) row => match acc with
      | none => none
      | some (s, l) => (s.arenaAlloc job (arrayBytes h.nt)).map fun a => (a.2.setTileWords a.1 row, l ++ [a.1])) (some (s, []))
    r.map fun r => (r.1.setHandle e.idx { h with
        res := 1, inward := false, cow := [], tiles := r.2.headD 0, snaps := (h.snaps.map (·.1)).zip (r.2.drop 1), used := r.1.now }, mput seen h.twr now)

/-- The job's tables, launches, gangs and states as an image gives them; none where they do not fit. -/
def State.rebuild (s : State) (job : Nat) (im : JobImage) : Option State :=
  if s.restoreClash im then none
  else
    let im := im.shift s.uid job s.past.length
    let s := { s with uid := s.uid + s.uid, launches := im.launches.foldl (fun m e => mput m e.1 e.2) s.launches, gangs := im.gangs.foldl (fun m e => mput m e.1 e.2) s.gangs }
    let s := im.towers.foldl (fun s t => s.modTower t.t fun x => x.restored t) s
    (im.states.foldl (fun (acc : Option (State × List (Nat × List (Word × Nat)))) e => match acc with
      | none => none
      | some (s, seen) => s.restoreState job e seen) (some (s, []))).map (·.1)

/-- R382: RESTORE: the job is created, its last committed checkpoint found and its tables, states and gangs rebuilt; or the restore is refused and
the job does not stay. -/
def execRestore (addr : Word) (s : State) : Out :=
  match s.createCheck addr with
  | .error r => .next (s.mailEnd r)
  | .ok j =>
    let u := (s.createJob j).areaRead j
    let refused : State := (u.endJob j.num).mailEnd 5
    if j.ckptLen = 0 then .next refused
    else match u.commitBest j with
      | none => .next refused
      | some (seq, dev, bs) =>
        if dev % 16 ≠ (u.deviceCount - 1) % 16 ∨ dev / 2 ^ 28 ≠ u.topology then .next refused
        else match u.images.find? fun e => e.1 == bs with
          | none => .next refused
          | some (_, im) => match u.rebuild j.num im with
            | none => .next refused
            | some v =>
              let gen := match u.commitAt j 0 with | some a => if a.1 = seq then 0 else 1 | none => 1
              .next ((v.modJob j.num fun j => { j with ckptGen := gen, ckptSeq := seq, started := !im.gangs.isEmpty }).mailEnd 0)

end Sys2Proof.Machine
end

