-- ==== Sys2Proof/Machine/Errors.lean ====
section
/-! DEFINITION. Errors that the hardware around the cores reports: HBM4E array and bus errors with their logs, spares and layer map-outs (R384 to
R389), mesh links (R407), temperature and power (R393). -/

namespace Sys2Proof.Machine

/-! ## Logs (R388) -/

def Tower.logArray (x : Tower) (e : List Word) : Tower := { x with arrayLog := lset [] x.arrayLog x.arrayAt e, arrayAt := (x.arrayAt + 1) % 32 }
def Tower.logBus (x : Tower) (e : List Word) : Tower := { x with busLog := lset [] x.busLog x.busAt e, busAt := (x.busAt + 1) % 32 }

/-- Word 0 of an array entry: stack and pseudo-channel follow from the address (R202); `loc` holds layer, bank, row and column at their places. -/
def arrayWord (kind pa : Nat) (loc : Word) : Word :=
  w64 (kind * 2 ^ 56 + stackOf pa * 2 ^ 51 + channelOf pa * 2 ^ 45 + bits loc 44 13 * 2 ^ 13)

/-- Word 0 of a bus entry. -/
def busWord (kind : Nat) (wr : Bool) (stack pc lane spare tries : Nat) : Word :=
  w64 (kind * 2 ^ 56 + wr.toNat * 2 ^ 55 + stack % 2 * 2 ^ 51 + pc % 64 * 2 ^ 45 + lane % 32 * 2 ^ 40 + spare % 4 * 2 ^ 38 + min tries 15 * 2 ^ 34)

/-- The address of a sector. -/
def sectorAddr (addr : Word) : Word := w64 (addr.toNat / 32 * 32)

/-- Whether an address is of tower t's HBM4E (R200, R202). -/
def ofTower (t : Nat) (addr : Word) : Bool := region addr.toNat == 0 && frameOk addr.toNat && homeTower addr.toNat == t

/-- Whether tower t keeps it in that stack and pseudo-channel (R202). -/
def ofChannel (t stack pc : Nat) (addr : Word) : Bool := ofTower t addr && stack == stackOf addr.toNat && pc == channelOf addr.toNat

/-- Poisons the sector of a physical address. -/
def State.poisonSector (s : State) (pa : Nat) : State := { s with memPois := pa / 32 :: s.memPois.filter (· != pa / 32) }

/-! ## Layers (R387) -/

/-- The entries of a table that memory lists. -/
def State.tableWords (s : State) (base count : Nat) : List Word :=
  (((s.mem.filter fun c => decide (base ≤ c.1) && decide (c.1 < base + 8 * count)).map fun c => c.1 / 8).eraseDups).map fun w => rdWord s.mem (8 * w)

/-- Whether a table of a level maps a page homed on tower t. -/
def State.mapsTower (s : State) (t : Nat) : Nat → Nat → Bool
  | lvl, base =>
    (s.tableWords base (2 ^ levelBits lvl)).any fun w =>
      bitOf w 63 && !entryBad lvl w &&
        (if bitOf w 62 then region (bits w 47 8 * 256) == 0 && homeTower (bits w 47 8 * 256) == t
         else match lvl with
          | 0 => false
          | n + 1 => s.mapsTower t n (bits w 47 8 * 256))

/-- The second uncorrectable error of a layer within a window maps it out: capacity, count, and an event to every job with pages on the tower. -/
def State.mapOut (s : State) (t layer : Nat) : State :=
  let x := s.tower t
  let cap := (x.cntOf 0x100).toNat - 2 ^ 32
  let s := (s.setTower t { x with cnt := mput x.cnt 0x100 (w64 cap), layersOut := x.layersOut ++ [layer] }).bumpErr t 6
  s.jobs.foldl (fun s e =>
    if s.mapsTower t 3 e.2.root then s.postJob 10 e.1 t 0 [w64 layer, w64 (t * 2 ^ 37 + cap), w64 (2 ^ 32), w64 cap] else s) s

/-! ## Events -/

/-- R384, R387, R388: a burst of tower t was corrected, or it is uncorrectable and its sector poisoned. -/
def execHbmArrayError (t : Nat) (unc : Bool) (loc addr : Word) (syms : Nat) (s : State) : Out :=
  if !ofTower t addr then .next s
  else
  let s := s.modTower t fun x => x.logArray [arrayWord (if unc then 2 else 1) addr.toNat loc, sectorAddr addr, w64 s.now, w64 (syms % 256)]
  if !unc then .next (s.bumpErr t 2)
  else
    let layer := stackOf addr.toNat * 16 + bits loc 44 41
    let s := (s.poisonSector addr.toNat).bumpErr t 3
    let x := s.tower t
    let n := mget x.layerErr layer 0 + 1
    let s := s.setTower t { x with layerErr := mput x.layerErr layer n }
    .next (if 2 ≤ n ∧ !x.layersOut.contains layer then s.mapOut t layer else s)

/-- The retries of a burst: the lane that failed last, how often in a row, and how many there were. -/
def Tower.retries (x : Tower) (addr : Word) (lane : Nat) : Nat × Nat × Nat := mget x.laneFails (addr.toNat / 32) (lane, 0, 0)

/-- R385, R386, R388: the retry number `tries` of a burst, 16 cycles after the failure before it; where it passes it is logged, where it fails the
lane's failures in a row are counted. After four of them comes the lane test, not a retry. -/
def execHbmParityRetry (t stack pc lane tries : Nat) (wr : Bool) (addr : Word) (mism : Half) (ok : Bool) (s : State) : Out :=
  let (l, n, r) := (s.tower t).retries addr lane
  if !ofChannel t stack pc addr ∨ tries ≠ r + 1 ∨ 4 ≤ n then .next s
  else
    let s' := s.bumpErr t 4
    .next (s'.modTower t fun x =>
      if ok then
        { x.logBus [busWord 1 wr stack pc lane 0 tries, sectorAddr addr, w64 (s.now - 16 * tries), mism.zeroExtend 64] with
          laneFails := mdel x.laneFails (addr.toNat / 32) }
      else { x with laneFails := mput x.laneFails (addr.toNat / 32) (lane, if l = lane then n + 1 else 1, tries) })

/-- R386, R388: the lane test after four failed retries on one lane has ended. With a free spare the lane is swapped and one more retry, the last of
`tries`, passes; without one the burst is poisoned. -/
def execLaneSwap (t stack pc lane tries : Nat) (wr : Bool) (addr : Word) (mism : Half) (s : State) : Out :=
  let used := mget (s.tower t).spares (stack * 64 + pc) 0
  let (l, n, r) := (s.tower t).retries addr lane
  if !ofChannel t stack pc addr ∨ l ≠ lane ∨ n < 4 ∨ tries ≠ r + (if used < 2 then 1 else 0) then .next s
  else
    let first := w64 (s.now - (16 * tries + 256))
    let entry (kind : Nat) : List Word := [busWord kind wr stack pc lane (if used < 2 then used else 0) tries, sectorAddr addr, first, mism.zeroExtend 64]
    let s := s.modTower t fun x => { x with laneFails := mdel x.laneFails (addr.toNat / 32) }
    if used < 2 then
      let s := ((s.modTower t fun x => { x.logBus (entry 2) with spares := mput x.spares (stack * 64 + pc) (used + 1) }).bumpErr t 4).bumpErr t 5
      .next (s.postEvent 0 11 0 t 0 (entry 2))
    else .next ((s.modTower t fun x => x.logBus (entry 3)).poisonSector addr.toNat)

/-- START with a runtime stop: failed, step 7, the given code (R393, R407). -/
def stopWord (start : Word) (code : Nat) : Word := setBits (setBits (setBits start 63 60 2) 59 56 7) 55 48 code

/-- Every live job is halted as R51 halts one, with its dump and event. -/
def State.haltAll (s : State) : State := (s.jobs.map (·.1)).foldl (fun s n => s.haltJob n true true) s

/-- R407: the retraining of the mesh link between two neighbours ends; where it failed every job is halted and START reads failed. -/
def execMeshLinkFailure (a b : Nat) (ok : Bool) (s : State) : Out :=
  if ok || !meshLink a b then .next s
  else .next { s.haltAll with meshDown := s.meshDown ++ [(a, b)], start := stopWord s.start 2 }

/-- R393: a reading of the sensors, the hottest of them given; at 110 °C or more every job is halted and power goes. -/
def execSensorRead (deci : Int) (t die : Nat) (s : State) : Out :=
  let s := { s with tempDeci := deci, tempAt := (t, die) }
  if 1100 ≤ deci ∧ s.tripDue.isNone then .next { s.haltAll with tripDue := some (s.now + 18000000) } else .next s

/-- R393: after the halts power is removed. -/
def execPowerRemoval (s : State) : Out :=
  if s.tripDue.isSome then .next { s with powered := false, tripDue := none, start := stopWord s.start 1 } else .next s

end Sys2Proof.Machine
end

