-- ==== Sys2Proof/Machine/HostPort.lean ====
section
/-! DEFINITION. The host's accesses: submission windows (R303), the event-queue registers (R396, R397), registers without behaviour of their own and
the doorbell (R395, R399), BAR0 reads (R395), and the aperture (R398). -/

namespace Sys2Proof.Machine

/-- A host access is dropped and counted (R395, R396). -/
def State.hostDrop (s : State) (fn : Nat) : State := s.setFn fn { s.fn fn with hflt := satInc (s.fn fn).hflt }

/-! ## Submission (R303) -/

/-- A window write is dropped: event type 6 with its offset, to the function of the job that it is for; a write of a function that has no bound job
reports to the function itself, with JOB 0. -/
def State.submitDrop (s : State) (fn : Nat) (job : Option Nat) (t off : Nat) : State :=
  match job, job.bind s.job? with
  | some n, some j => s.postEvent j.fn 6 n t 0 [w64 off]
  | some n, none => s.postEvent fn 6 n t 0 [w64 off]
  | none, _ => s.postEvent fn 6 0 t 0 [w64 off]

/-- R303: a 64-byte write appends a launch record to queue q of tower t; it names no live job, is of another class, or finds the queue full:
rejected, with the lowest reason among the record's defects (R373), or dropped with its event. -/
def execLaunchRecordSubmit (fn t q : Nat) (words : List Word) (s : State) : Out :=
  if 12 ≤ t ∨ 8 ≤ q ∨ 33 ≤ fn then .next (s.hostDrop fn)
  else if words.length ≠ 8 then .next (s.submitDrop fn (s.fn fn).bound t (64 * q))
  else
    let n := if fn = 0 then recJob words else (s.fn fn).bound.getD 0
    let tag := bits (words.getD 7 0) 63 32
    match (if fn = 0 ∨ (s.fn fn).bound.isSome then s.job? n else none) with
    | none =>
      let (r, m) := (lowest ((10, 3) :: recordDefects words)).getD (10, 3)
      .next (s.postEvent fn 2 (if fn = 0 then n else 0) t tag [w64 m, w64 r])
    | some j =>
      if j.latency ≠ decide (q < 4) then
        let (r, m) := match s.checkRecord t s.uid j words [(11, 3)] with | .error e => e | .ok _ => (11, 3)
        .next (s.postEvent j.fn 2 n t tag [w64 m, w64 r])
      else
        let l := mget (s.tower t).lq q []
        if 64 ≤ l.length then .next (s.submitDrop fn (some n) t (64 * q))
        else
          let w := words.set 3 (setBits (words.getD 3 0) 5 0 n)
          .next (s.modTower t fun x => { x with lq := mput x.lq q (l ++ [{ words := w, job := n, fn := fn }]) })

/-- R303, R309, R310: a 64-byte write submits a task record to pool P of tower t as TSUB does; what TSUB would trap on or block for is dropped with
event type 6. -/
def execTaskRecordSubmit (fn t pool : Nat) (words : List Word) (s : State) : Out :=
  if 12 ≤ t ∨ 16 ≤ pool ∨ 33 ≤ fn then .next (s.hostDrop fn)
  else
    let off := 0x400 + 64 * pool
    match (s.pool? t pool).filter fun x => !x.finished && (fn == 0 || (s.fn fn).bound == some x.job) with
    | none => .next (s.submitDrop fn (s.fn fn).bound t off)
    | some x =>
      if words.length ≠ 8 ∨ taskBad words x.guarded ∨ x.closed then .next (s.submitDrop fn (some x.job) t off)
      else if bitOf (tCtl words) 7 then .next (s.modPool t pool fun x => { x with closed := true })
      else match s.acceptTask t pool words with
        | some s => .next s
        | none => .next (s.submitDrop fn (some x.job) t off)

/-! ## Event queues (R396, R397) -/

/-- R396, R397: EQCFG. A write that would enable the queue with LOG outside 6 to 16 leaves EN clear; enabling it empties it. -/
def execEqcfgWrite (fn : Nat) (v : Half) (s : State) : Out :=
  let f := s.fn fn
  let w := v &&& 0x07FF031F
  let w := if w.toNat.testBit 8 ∧ (w.toNat % 32 < 6 ∨ 16 < w.toNat % 32) then w &&& 0xFFFFFEFF else w
  let on := !f.en && w.toNat.testBit 8
  .next (s.setFn fn { f with eqcfg := w, eqhead := if on then 0 else f.eqhead, eqtail := if on then 0 else f.eqtail })

/-- R397: EQHEAD. A value behind the present one or past EQTAIL is ignored. -/
def execEqheadWrite (fn : Nat) (v : Half) (s : State) : Out :=
  let f := s.fn fn
  if (v - f.eqhead).toNat ≤ (f.eqtail - f.eqhead).toNat then .next (s.setFn fn { f with eqhead := v }) else .next s

/-- R397: the oldest held event is written once there is room. -/
def execHeldEventDelivery (fn : Nat) (s : State) : Out :=
  let f := s.fn fn
  match f.held with
  | r :: rest => if f.en ∧ ¬ f.full then .next ((s.setFn fn { f with held := rest }).pushEvent fn r) else .next s
  | [] => .next s

/-- Whether a message is due and may be sent (R397). -/
def Fn.msixReady (f : Fn) (now : Nat) : Bool :=
  f.msixDue && f.eqcfg.toNat.testBit 9 && (match f.msixLast with | some n => decide (n + 4096 ≤ now) | none => true)

/-- R397: one message covers every record written before it. -/
def execMsixMessage (fn : Nat) (s : State) : Out :=
  let f := s.fn fn
  if f.msixReady s.now then .next (s.setFn fn { f with msixDue := false, msixLast := some s.now }) else .next s

/-! ## Registers (R395, R399) -/

/-- The command that the eight words name runs; result 1 where the code is unknown or a reserved word is not zero (R399). Bits 63 to 32 of WARM's word 3,
beyond byte 11 of the masks, count as such a word: MODEL'S CHOICE, log entry 61. -/
def execMailbox (s : State) : Out :=
  let g (n : Nat) : Word := mget s.mailbox.cmd n 0
  let rest (n : Nat) : Bool := (List.range 8).all fun m => decide (m < n) || g m == 0
  let bad : Out := .next (s.mailEnd 1)
  if g 0 = 1 then (if rest 2 then execCreate (g 1) s else bad)
  else if g 0 = 2 then (if rest 2 then execClose (g 1) s else bad)
  else if g 0 = 3 then (if rest 4 && bits (g 3) 63 32 == 0 then execWarm (g 1) (toLE 8 (g 2).toNat ++ toLE 4 (g 3).toNat) s else bad)
  else if g 0 = 4 then (if rest 3 then execAttest (g 1) (g 2) s else bad)
  else if g 0 = 5 then (if rest 1 then execCheckpoint s else bad)
  else if g 0 = 6 then (if rest 2 then execRestore (g 1) s else bad)
  else if g 0 = 7 then (if rest 4 then execParam (g 1) (g 2) (g 3) s else bad)
  else if g 0 = 8 then (if rest 1 then execPower s else bad)
  else bad

/-- R399: the doorbell: the command will run at the end of the cycle, unless one does. -/
def State.doorbell (s : State) : State := { s with mailbox := { s.mailbox with busy := true } }

/-- The ranges of BAR0 that function fn may use (R395). -/
def barRange (fn off : Nat) : Bool :=
  decide (off < 0xC100) || (fn == 0 && decide (0xD000 ≤ off) && decide (off < 0xE000)) || (decide (0x10000 ≤ off) && decide (off < 0x70000))
    || (fn == 0 && decide (0x70000 ≤ off) && decide (off < 0x7C000) && decide (off % 4096 < 2048))

/-- R395, R396, R399: an 8-byte write to a register. -/
def State.registerPut (s : State) (fn off : Nat) (v : Word) : Out :=
  let f := s.fn fn
  if off = 0xC000 then .next (if f.en then s else s.setFn fn { f with eqbase := v &&& 0xFFFFFFFFFFFFF000 })
  else if off = 0xC008 then execEqcfgWrite fn (v.setWidth 32) s
  else if off = 0xC010 then execEqheadWrite fn (v.setWidth 32) s
  else if off = 0xC038 ∧ fn = 0 then .next (s.setFn 0 { f with jsel := v.toNat % 256 })
  else if 0xD000 ≤ off ∧ off < 0xD040 then .next { s with mailbox := { s.mailbox with cmd := mput s.mailbox.cmd ((off - 0xD000) / 8) v } }
  else if off = 0xD040 then .next (if v = 1 then s.doorbell else s)
  else .next s

/-- R303: a write into a submission window: a record, or dropped with its event; what R395 does not allow either is counted as well. -/
def State.windowPut (s : State) (fn off : Nat) (bs : List Byte) : Out :=
  let t := off / 4096
  let o := off % 4096
  if bs.length = 64 ∧ o % 64 = 0 ∧ o < 0x200 then execLaunchRecordSubmit fn t (o / 64) (wordsOf 8 bs) s
  else if bs.length = 64 ∧ o % 64 = 0 ∧ 0x400 ≤ o ∧ o < 0x800 then execTaskRecordSubmit fn t ((o - 0x400) / 64) (wordsOf 8 bs) s
  else
    let s := s.submitDrop fn (s.fn fn).bound t o
    .next (if bs.length = 8 ∧ off % 8 = 0 then s else s.hostDrop fn)

/-- The counter that the host reads (R350, R395): of tower t, and of the function's job. -/
def State.hostCounter (s : State) (fn t n : Nat) : Word :=
  let job := if fn = 0 then (s.fn 0).jsel else ((s.fn fn).bound).getD 64
  if n = 0 then w64 s.now
  else if n < 0x100 ∨ n = 0x204 ∨ n = 0xFFF then 0
  else s.towerCnt false t job n

/-- An entry's word in the log window of a tower (R388, R395). -/
def logRead (l : List (List Word)) (o : Nat) : Word := (l.getD (o / 32) []).getD (o / 8 % 4) 0

/-- What an aligned 8-byte read of a range that the function may use returns (R303, R395, R396, R399). -/
def State.hostRead (s : State) (fn off : Nat) : Word :=
  let f := s.fn fn
  if off < 0xC000 then
    if off % 4096 = 0x800 then w64 ((List.range 8).foldl (fun a q => a + (mget (s.tower (off / 4096)).lq q []).length * 256 ^ q) 0) else 0
  else if off = 0xC000 then f.eqbase
  else if off = 0xC008 then f.eqcfg.zeroExtend 64
  else if off = 0xC010 then f.eqhead.zeroExtend 64
  else if off = 0xC018 then f.eqtail.zeroExtend 64
  else if off = 0xC020 then f.eqdrop
  else if off = 0xC028 then w64 f.held.length
  else if off = 0xC030 then (match f.bound with | some n => w64 (2 ^ 63 + n) | none => 0)
  else if off = 0xC038 then (if fn = 0 then w64 f.jsel else 0)
  else if off = 0xC040 then s.start
  else if off = 0xC048 then f.hflt
  else if 0xD000 ≤ off ∧ off < 0xE000 then
    if off < 0xD040 then mget s.mailbox.cmd ((off - 0xD000) / 8) 0
    else if off = 0xD048 then w64 (s.mailbox.busy.toNat * 2 ^ 63 + s.mailbox.result)
    else if 0xD080 ≤ off ∧ off < 0xD0C0 then s.mailbox.data.getD ((off - 0xD080) / 8) 0
    else 0
  else if 0x10000 ≤ off ∧ off < 0x70000 then s.hostCounter fn ((off - 0x10000) / 0x8000) ((off - 0x10000) % 0x8000 / 8)
  else if 0x70000 ≤ off ∧ off < 0x7C000 then
    let x := s.tower ((off - 0x70000) / 4096)
    let o := off % 4096
    if o < 1024 then logRead x.arrayLog o else if o < 2048 then logRead x.busLog (o - 1024) else 0
  else 0

/-- R395, R396: a host access to BAR0. What R395 does not allow has no effect but in HFLT, and reads zero. The data of a read stand in the function's
read data (log entry 69). -/
def execRegisterWrite (fn off : Nat) (a : HostAccess) (s : State) : Out :=
  if 33 ≤ fn then .next s
  else match a with
    | .write bs =>
      if off < 0xC000 then s.windowPut fn off bs
      else if bs.length = 8 ∧ off % 8 = 0 ∧ barRange fn off then s.registerPut fn off (w64 (ofLE bs))
      else .next (s.hostDrop fn)
    | .read n =>
      if n = 8 ∧ off % 8 = 0 ∧ barRange fn off then .next (s.setFn fn { s.fn fn with readData := toLE 8 (s.hostRead fn off).toNat })
      else .next ((s.setFn fn { s.fn fn with readData := List.replicate n 0 }).hostDrop fn)

/-! ## The aperture (R398) -/

/-- A host write of bytes within one page performs at the home's Umbra cache; a page under migration holds it back (R214). -/
def State.aperturePut (s : State) (pa : Nat) (bs : List Byte) : State :=
  let t := homeTower pa
  if s.migrating pa then
    ({ s with uid := s.uid + 1 }).toOut (16 * t) { uid := s.uid, strand := 6, cls := 15, kind := .store, job := 64, va := 0, pa := pa, bytes := bs }
  else s.performHome t 64 (cellsOf pa bs)

/-- R398: a host access of any size through BAR2 at offset off: a write of bytes, or a read into the read data, at device scope. The state handle table
reads as its entries (R339). What is dropped as under R395 has no effect but in HFLT, and reads zero. -/
def execHostApertureAccess (off : Nat) (a : HostAccess) (s : State) : Out :=
  let pa := s.apbase.toNat + off
  let n := match a with | .write bs => bs.length | .read n => n
  if 2 ^ 36 < off + n ∨ !(region pa == 0 && frameOk pa && frameOk (pa + (n - 1))) then
    .next (match a with
      | .write _ => s.hostDrop 0
      | .read n => (s.setFn 0 { s.fn 0 with readData := List.replicate n 0 }).hostDrop 0)
  else match a with
    | .write bs => .next ((pieces (n / 65536 + 2) pa n).foldl (fun s p => s.aperturePut p.1 ((bs.drop (p.1 - pa)).take p.2)) s)
    | .read n =>
      let s := (pieces (n / 65536 + 2) pa n).foldl (fun s p => (s.homeFetch (homeTower p.1) 64 p.1 p.2).1) s
      .next (s.setFn 0 { s.fn 0 with readData := (List.range n).map fun i => (s.handleByte (pa + i)).getD (rdByte s.mem (pa + i)) })

end Sys2Proof.Machine
end

