-- ==== Sys2Proof/Machine/Dispatch.lean ====
section
/-! DEFINITION. The dispatch: one arm for each constructor of the instruction type. -/

namespace Sys2Proof.Machine

def exec (i : Instr) (s : State) : Host.Outcome State Fault Refusal :=
  match i with
  | .add g d a b => Sys2Proof.Machine.execAdd g d a b s
  | .sub g d a b => Sys2Proof.Machine.execSub g d a b s
  | .and_ g d a b => Sys2Proof.Machine.execAnd g d a b s
  | .or_ g d a b => Sys2Proof.Machine.execOr g d a b s
  | .xor g d a b => Sys2Proof.Machine.execXor g d a b s
  | .andn g d a b => Sys2Proof.Machine.execAndn g d a b s
  | .shl g d a b => Sys2Proof.Machine.execShl g d a b s
  | .shr g d a b => Sys2Proof.Machine.execShr g d a b s
  | .sra g d a b => Sys2Proof.Machine.execSra g d a b s
  | .rot g d a b => Sys2Proof.Machine.execRot g d a b s
  | .mul g d a b => Sys2Proof.Machine.execMul g d a b s
  | .mulh g d a b => Sys2Proof.Machine.execMulh g d a b s
  | .mulhu g d a b => Sys2Proof.Machine.execMulhu g d a b s
  | .min g d a b => Sys2Proof.Machine.execMin g d a b s
  | .max g d a b => Sys2Proof.Machine.execMax g d a b s
  | .minu g d a b => Sys2Proof.Machine.execMinu g d a b s
  | .maxu g d a b => Sys2Proof.Machine.execMaxu g d a b s
  | .sel g d a b k => Sys2Proof.Machine.execSel g d a b k s
  | .clz g d a => Sys2Proof.Machine.execClz g d a s
  | .ctz g d a => Sys2Proof.Machine.execCtz g d a s
  | .popc g d a => Sys2Proof.Machine.execPopc g d a s
  | .brev g d a => Sys2Proof.Machine.execBrev g d a s
  | .sext g d a w => Sys2Proof.Machine.execSext g d a w s
  | .zext g d a w => Sys2Proof.Machine.execZext g d a w s
  | .div g d a b => Sys2Proof.Machine.execDiv g d a b s
  | .divu g d a b => Sys2Proof.Machine.execDivu g d a b s
  | .rem g d a b => Sys2Proof.Machine.execRem g d a b s
  | .remu g d a b => Sys2Proof.Machine.execRemu g d a b s
  | .addi g d a imm => Sys2Proof.Machine.execAddi g d a imm s
  | .andi g d a imm => Sys2Proof.Machine.execAndi g d a imm s
  | .ori g d a imm => Sys2Proof.Machine.execOri g d a imm s
  | .xori g d a imm => Sys2Proof.Machine.execXori g d a imm s
  | .shli g d a q => Sys2Proof.Machine.execShli g d a q s
  | .shri g d a q => Sys2Proof.Machine.execShri g d a q s
  | .srai g d a q => Sys2Proof.Machine.execSrai g d a q s
  | .muli g d a imm => Sys2Proof.Machine.execMuli g d a imm s
  | .movi g d imm => Sys2Proof.Machine.execMovi g d imm s
  | .movw g d data h => Sys2Proof.Machine.execMovw g d data h s
  | .mini g d a imm => Sys2Proof.Machine.execMini g d a imm s
  | .maxi g d a imm => Sys2Proof.Machine.execMaxi g d a imm s
  | .cmp g cc k a b => Sys2Proof.Machine.execCmp g cc k a b s
  | .cmpi g cc k a imm => Sys2Proof.Machine.execCmpi g cc k a imm s
  | .pand g d a b => Sys2Proof.Machine.execPand g d a b s
  | .por g d a b => Sys2Proof.Machine.execPor g d a b s
  | .pxor g d a b => Sys2Proof.Machine.execPxor g d a b s
  | .pandn g d a b => Sys2Proof.Machine.execPandn g d a b s
  | .pnot g d a => Sys2Proof.Machine.execPnot g d a s
  | .pmov g d a => Sys2Proof.Machine.execPmov g d a s
  | .fcmp g cc k a b => Sys2Proof.Machine.execFcmp g cc k a b s
  | .br g off => Sys2Proof.Machine.execBr g off s
  | .call g d off => Sys2Proof.Machine.execCall g d off s
  | .brx g a => Sys2Proof.Machine.execBrx g a s
  | .ret g a => Sys2Proof.Machine.execRet g a s
  | .loop lvl c e => Sys2Proof.Machine.execLoop lvl c e s
  | .loopi lvl n e => Sys2Proof.Machine.execLoopi lvl n e s
  | .lbrk g lvl => Sys2Proof.Machine.execLbrk g lvl s
  | .fadd g d a b dbl => Sys2Proof.Machine.execFadd g d a b dbl s
  | .fsub g d a b dbl => Sys2Proof.Machine.execFsub g d a b dbl s
  | .fmul g d a b dbl => Sys2Proof.Machine.execFmul g d a b dbl s
  | .ffma g d a b dbl => Sys2Proof.Machine.execFfma g d a b dbl s
  | .fdiv g d a b dbl => Sys2Proof.Machine.execFdiv g d a b dbl s
  | .fsqrt g d a dbl => Sys2Proof.Machine.execFsqrt g d a dbl s
  | .fmin g d a b dbl => Sys2Proof.Machine.execFmin g d a b dbl s
  | .fmax g d a b dbl => Sys2Proof.Machine.execFmax g d a b dbl s
  | .fabs g d a dbl => Sys2Proof.Machine.execFabs g d a dbl s
  | .fneg g d a dbl => Sys2Proof.Machine.execFneg g d a dbl s
  | .fcvt g d a src dst => Sys2Proof.Machine.execFcvt g d a src dst s
  | .fclass g d a dbl => Sys2Proof.Machine.execFclass g d a dbl s
  | .fmov g d a dbl => Sys2Proof.Machine.execFmov g d a dbl s
  | .fnum g d a dbl => Sys2Proof.Machine.execFnum g d a dbl s
  | .fden g d a dbl => Sys2Proof.Machine.execFden g d a dbl s
  | .fmake g d a b dbl => Sys2Proof.Machine.execFmake g d a b dbl s
  | .frnd g d a b dbl => Sys2Proof.Machine.execFrnd g d a b dbl s
  | .aadd g d a b => Sys2Proof.Machine.execAadd g d a b s
  | .aset g d a => Sys2Proof.Machine.execAset g d a s
  | .amset g d a b => Sys2Proof.Machine.execAmset g d a b s
  | .sysrd g d n => Sys2Proof.Machine.execSysrd g d n s
  | .syswr g d n => Sys2Proof.Machine.execSyswr g d n s
  | .trap g n => Sys2Proof.Machine.execTrap g n s
  | .eret g => Sys2Proof.Machine.execEret g s
  | .cmpt g f a b => Sys2Proof.Machine.execCmpt g f a b s
  | .nop g => Sys2Proof.Machine.execNop g s
  | .exit g => Sys2Proof.Machine.execExit g s
  | .cntrd g d n => Sys2Proof.Machine.execCntrd g d n s
  | .cntrdc g d n => Sys2Proof.Machine.execCntrdc g d n s
  | .cntsnap g => Sys2Proof.Machine.execCntsnap g s
  | .xlinv g a b => Sys2Proof.Machine.execXlinv g a b s
  | .ldB g oc p d u f => Sys2Proof.Machine.execLdB g oc p d u f s
  | .ldH g oc p d u f => Sys2Proof.Machine.execLdH g oc p d u f s
  | .ldW g oc p d u f => Sys2Proof.Machine.execLdW g oc p d u f s
  | .ldD g oc p d u f => Sys2Proof.Machine.execLdD g oc p d u f s
  | .stB g oc p d u f => Sys2Proof.Machine.execStB g oc p d u f s
  | .stH g oc p d u f => Sys2Proof.Machine.execStH g oc p d u f s
  | .stW g oc p d u f => Sys2Proof.Machine.execStW g oc p d u f s
  | .stD g oc p d u f => Sys2Proof.Machine.execStD g oc p d u f s
  | .vld g oc p d u f => Sys2Proof.Machine.execVld g oc p d u f s
  | .vst g oc p d u f => Sys2Proof.Machine.execVst g oc p d u f s
  | .vlds g oc p d u f => Sys2Proof.Machine.execVlds g oc p d u f s
  | .vsts g oc p d u f => Sys2Proof.Machine.execVsts g oc p d u f s
  | .ldf g oc p dbl d u f => Sys2Proof.Machine.execLdf g oc p dbl d u f s
  | .stf g oc p dbl d u f => Sys2Proof.Machine.execStf g oc p dbl d u f s
  | .ldk g p d u f => Sys2Proof.Machine.execLdk g p d u f s
  | .tlook g d a => Sys2Proof.Machine.execTlook g d a s
  | .tset g a b => Sys2Proof.Machine.execTset g a b s
  | .tclr g a => Sys2Proof.Machine.execTclr g a s
  | .tinv g => Sys2Proof.Machine.execTinv g s
  | .amo g oc p d q op dbl => Sys2Proof.Machine.execAmo g oc p d q op dbl s
  | .red g oc p q op dbl => Sys2Proof.Machine.execRed g oc p q op dbl s
  | .fence g m sc => Sys2Proof.Machine.execFence g m sc s
  | .fenceD g => Sys2Proof.Machine.execFenceD g s
  | .row g => Sys2Proof.Machine.execRow g s
  | .watch g p u f => Sys2Proof.Machine.execWatch g p u f s
  | .waitw g => Sys2Proof.Machine.execWaitw g s
  | .kinv g => Sys2Proof.Machine.execKinv g s
  | .vadd g d a b => Sys2Proof.Machine.execVadd g d a b s
  | .vsub g d a b => Sys2Proof.Machine.execVsub g d a b s
  | .vmul g d a b => Sys2Proof.Machine.execVmul g d a b s
  | .vfma g d a b => Sys2Proof.Machine.execVfma g d a b s
  | .vmin g d a b => Sys2Proof.Machine.execVmin g d a b s
  | .vmax g d a b => Sys2Proof.Machine.execVmax g d a b s
  | .vabs g d a => Sys2Proof.Machine.execVabs g d a s
  | .vneg g d a => Sys2Proof.Machine.execVneg g d a s
  | .vand g d a b => Sys2Proof.Machine.execVand g d a b s
  | .vor g d a b => Sys2Proof.Machine.execVor g d a b s
  | .vxor g d a b => Sys2Proof.Machine.execVxor g d a b s
  | .vnot g d a => Sys2Proof.Machine.execVnot g d a s
  | .vshl g d a b => Sys2Proof.Machine.execVshl g d a b s
  | .vshr g d a b => Sys2Proof.Machine.execVshr g d a b s
  | .vsra g d a b => Sys2Proof.Machine.execVsra g d a b s
  | .vsel g d a b k => Sys2Proof.Machine.execVsel g d a b k s
  | .vdot4 g d a b au bu => Sys2Proof.Machine.execVdot4 g d a b au bu s
  | .vcmx g d a b => Sys2Proof.Machine.execVcmx g d a b s
  | .vcmp g cc k a b => Sys2Proof.Machine.execVcmp g cc k a b s
  | .vshuf g d a b => Sys2Proof.Machine.execVshuf g d a b s
  | .vrot g d a n => Sys2Proof.Machine.execVrot g d a n s
  | .vcvt g d a src dst sat => Sys2Proof.Machine.execVcvt g d a src dst sat s
  | .vpack g d a b mode sat => Sys2Proof.Machine.execVpack g d a b mode sat s
  | .vunpk g d a mode hi => Sys2Proof.Machine.execVunpk g d a mode hi s
  | .vreds g d a => Sys2Proof.Machine.execVreds g d a s
  | .vredm g d a mn => Sys2Proof.Machine.execVredm g d a mn s
  | .vidx g d => Sys2Proof.Machine.execVidx g d s
  | .vbcast g d a => Sys2Proof.Machine.execVbcast g d a s
  | .vext g d a idx => Sys2Proof.Machine.execVext g d a idx s
  | .vins g d a idx => Sys2Proof.Machine.execVins g d a idx s
  | .vshli g d a q => Sys2Proof.Machine.execVshli g d a q s
  | .vshri g d a q => Sys2Proof.Machine.execVshri g d a q s
  | .vsrai g d a q => Sys2Proof.Machine.execVsrai g d a q s
  | .vaddi g d a imm => Sys2Proof.Machine.execVaddi g d a imm s
  | .vmovi g d imm => Sys2Proof.Machine.execVmovi g d imm s
  | .vexp g d a => Sys2Proof.Machine.execVexp g d a s
  | .vlog g d a => Sys2Proof.Machine.execVlog g d a s
  | .vrcp g d a => Sys2Proof.Machine.execVrcp g d a s
  | .vrsq g d a => Sys2Proof.Machine.execVrsq g d a s
  | .vtanh g d a => Sys2Proof.Machine.execVtanh g d a s
  | .vsig g d a => Sys2Proof.Machine.execVsig g d a s
  | .vsin g d a => Sys2Proof.Machine.execVsin g d a s
  | .vcos g d a => Sys2Proof.Machine.execVcos g d a s
  | .verf g d a => Sys2Proof.Machine.execVerf g d a s
  | .wstr g f a b acq sc => Sys2Proof.Machine.execWstr g f a b acq sc s
  | .wld g => Sys2Proof.Machine.execWld g s
  | .wscl g a acq sc => Sys2Proof.Machine.execWscl g a acq sc s
  | .wswap g => Sys2Proof.Machine.execWswap g s
  | .mma g d a n zs => Sys2Proof.Machine.execMma g d a n zs s
  | .mrd g d a b n => Sys2Proof.Machine.execMrd g d a b n s
  | .acfg g f => Sys2Proof.Machine.execAcfg g f s
  | .fwdRead g d a b c => Sys2Proof.Machine.execFwdRead g d a b c s
  | .fwdDelta g d a b c => Sys2Proof.Machine.execFwdDelta g d a b c s
  | .fwdOuter g d a b c => Sys2Proof.Machine.execFwdOuter g d a b c s
  | .opu g d a b c => Sys2Proof.Machine.execOpu g d a b c s
  | .sfork g d a b => Sys2Proof.Machine.execSfork g d a b s
  | .ssnap g a b => Sys2Proof.Machine.execSsnap g a b s
  | .sroll g a b => Sys2Proof.Machine.execSroll g a b s
  | .savg g d a b w fs => Sys2Proof.Machine.execSavg g d a b w fs s
  | .sfree g a => Sys2Proof.Machine.execSfree g a s
  | .smove g d a b => Sys2Proof.Machine.execSmove g d a b s
  | .sqry g d a => Sys2Proof.Machine.execSqry g d a s
  | .ewait g m => Sys2Proof.Machine.execEwait g m s
  | .epoll g d e => Sys2Proof.Machine.execEpoll g d e s
  | .tsub g a => Sys2Proof.Machine.execTsub g a s
  | .tdone g => Sys2Proof.Machine.execTdone g s
  | .launch g d a => Sys2Proof.Machine.execLaunch g d a s
  | .ljoin g a => Sys2Proof.Machine.execLjoin g a s
  | .range g d a b => Sys2Proof.Machine.execRange g d a b s
  | .gbar g => Sys2Proof.Machine.execGbar g s
  | .yield_ g => Sys2Proof.Machine.execYield g s
  | .qcnt g d a => Sys2Proof.Machine.execQcnt g d a s
  | .spage g a b => Sys2Proof.Machine.execSpage g a b s
  | .cpy g a => Sys2Proof.Machine.execCpy g a s
  | .push g a b => Sys2Proof.Machine.execPush g a b s
  | .resultLanding t f st => Sys2Proof.Machine.execResultLanding t f st s
  | .pendingResultLands t f st => Sys2Proof.Machine.execPendingResultLands t f st s
  | .shadeMissService t f => Sys2Proof.Machine.execShadeMissService t f s
  | .trapEntry t f st code detail syl sinfo => Sys2Proof.Machine.execTrapEntry t f st code detail syl sinfo s
  | .recoveryRewind t f st => Sys2Proof.Machine.execRecoveryRewind t f st s
  | .gangFailure gang gsi reason => Sys2Proof.Machine.execGangFailure gang gsi reason s
  | .gangPlacement t => Sys2Proof.Machine.execGangPlacement t s
  | .preemption gang => Sys2Proof.Machine.execPreemption gang s
  | .gangReturn gang => Sys2Proof.Machine.execGangReturn gang s
  | .gbarCompletion gang => Sys2Proof.Machine.execGbarCompletion gang s
  | .rowDrain gang => Sys2Proof.Machine.execRowDrain gang s
  | .gangRetirement gang => Sys2Proof.Machine.execGangRetirement gang s
  | .waitBudgetPreemption gang => Sys2Proof.Machine.execWaitBudgetPreemption gang s
  | .deadlineHalt job => Sys2Proof.Machine.execDeadlineHalt job s
  | .periodStart => Sys2Proof.Machine.execPeriodStart s
  | .sliceStart job => Sys2Proof.Machine.execSliceStart job s
  | .rateWindowStart => Sys2Proof.Machine.execRateWindowStart s
  | .decompressBlock t f => Sys2Proof.Machine.execDecompressBlock t f s
  | .planeLoadComplete t f => Sys2Proof.Machine.execPlaneLoadComplete t f s
  | .scaleLoadComplete t f => Sys2Proof.Machine.execScaleLoadComplete t f s
  | .wswapEffect t f => Sys2Proof.Machine.execWswapEffect t f s
  | .mrdComplete t f => Sys2Proof.Machine.execMrdComplete t f s
  | .stateEngineComplete t f => Sys2Proof.Machine.execStateEngineComplete t f s
  | .copyOnWriteComplete t f => Sys2Proof.Machine.execCopyOnWriteComplete t f s
  | .copyComplete t f => Sys2Proof.Machine.execCopyComplete t f s
  | .pushComplete t f => Sys2Proof.Machine.execPushComplete t f s
  | .arrivalRegistration t job key => Sys2Proof.Machine.execArrivalRegistration t job key s
  | .pagerServe t => Sys2Proof.Machine.execPagerServe t s
  | .pageInComplete t => Sys2Proof.Machine.execPageInComplete t s
  | .pageOutComplete t => Sys2Proof.Machine.execPageOutComplete t s
  | .stateMoveComplete t f st => Sys2Proof.Machine.execStateMoveComplete t f st s
  | .retentionEntry t slab bank => Sys2Proof.Machine.execRetentionEntry t slab bank s
  | .retentionExit t slab bank => Sys2Proof.Machine.execRetentionExit t slab bank s
  | .taskDispatch t => Sys2Proof.Machine.execTaskDispatch t s
  | .taskStart t f => Sys2Proof.Machine.execTaskStart t f s
  | .ringRefill t pool => Sys2Proof.Machine.execRingRefill t pool s
  | .postedWritePerform t f k => Sys2Proof.Machine.execPostedWritePerform t f k s
  | .fenceActionsComplete t f st => Sys2Proof.Machine.execFenceActionsComplete t f st s
  | .translationDropAck t f st => Sys2Proof.Machine.execTranslationDropAck t f st s
  | .waitRecheck t f st => Sys2Proof.Machine.execWaitRecheck t f st s
  | .hotPageProposal t user job va frame => Sys2Proof.Machine.execHotPageProposal t user job va frame s
  | .migrationFreeze t k => Sys2Proof.Machine.execMigrationFreeze t k s
  | .migrationCopyComplete t k => Sys2Proof.Machine.execMigrationCopyComplete t k s
  | .launchRecordSubmit fn t q rec => Sys2Proof.Machine.execLaunchRecordSubmit fn t q rec s
  | .taskRecordSubmit fn t pool rec => Sys2Proof.Machine.execTaskRecordSubmit fn t pool rec s
  | .eqcfgWrite fn v => Sys2Proof.Machine.execEqcfgWrite fn v s
  | .eqheadWrite fn v => Sys2Proof.Machine.execEqheadWrite fn v s
  | .registerWrite fn off a => Sys2Proof.Machine.execRegisterWrite fn off a s
  | .heldEventDelivery fn => Sys2Proof.Machine.execHeldEventDelivery fn s
  | .msixMessage fn => Sys2Proof.Machine.execMsixMessage fn s
  | .create addr => Sys2Proof.Machine.execCreate addr s
  | .close arg => Sys2Proof.Machine.execClose arg s
  | .warm keep gmask => Sys2Proof.Machine.execWarm keep gmask s
  | .attest nonce dest => Sys2Proof.Machine.execAttest nonce dest s
  | .checkpoint => Sys2Proof.Machine.execCheckpoint s
  | .restore addr => Sys2Proof.Machine.execRestore addr s
  | .param num tower value => Sys2Proof.Machine.execParam num tower value s
  | .power => Sys2Proof.Machine.execPower s
  | .jobCheckpoint job => Sys2Proof.Machine.execJobCheckpoint job s
  | .hostApertureAccess off a => Sys2Proof.Machine.execHostApertureAccess off a s
  | .hbmArrayError t unc loc addr syms => Sys2Proof.Machine.execHbmArrayError t unc loc addr syms s
  | .hbmParityRetry t stack pc lane tries wr addr mism ok => Sys2Proof.Machine.execHbmParityRetry t stack pc lane tries wr addr mism ok s
  | .laneSwap t stack pc lane tries wr addr mism => Sys2Proof.Machine.execLaneSwap t stack pc lane tries wr addr mism s
  | .flitReceive port raw => Sys2Proof.Machine.execFlitReceive port raw s
  | .linkRetrain port ok => Sys2Proof.Machine.execLinkRetrain port ok s
  | .meshLinkFailure a b ok => Sys2Proof.Machine.execMeshLinkFailure a b ok s
  | .sensorRead deci t die => Sys2Proof.Machine.execSensorRead deci t die s
  | .powerRemoval => Sys2Proof.Machine.execPowerRemoval s
  | .coldStart cfg => Sys2Proof.Machine.execColdStart cfg s
  | .retentionEntryEnd t slab bank => Sys2Proof.Machine.execRetentionEntryEnd t slab bank s
  | .returnTileMovesComplete gang => Sys2Proof.Machine.execReturnTileMovesComplete gang s

end Sys2Proof.Machine
end

