-- ==== Sys2Proof/Machine/Groups.lean ====
section
/-! DEFINITION. The operation that each encoded instruction is within a group (R57, R62); events are none. -/

namespace Sys2Proof.Machine

/-- The operation of an instruction, in the state in which its group issues. -/
def gopOf (i : Instr) (s : State) : Option GOp :=
  match i with
  | .add g d a b => some (gopAdd g d a b)
  | .sub g d a b => some (gopSub g d a b)
  | .and_ g d a b => some (gopAnd g d a b)
  | .or_ g d a b => some (gopOr g d a b)
  | .xor g d a b => some (gopXor g d a b)
  | .andn g d a b => some (gopAndn g d a b)
  | .shl g d a b => some (gopShl g d a b)
  | .shr g d a b => some (gopShr g d a b)
  | .sra g d a b => some (gopSra g d a b)
  | .rot g d a b => some (gopRot g d a b)
  | .mul g d a b => some (gopMul g d a b)
  | .mulh g d a b => some (gopMulh g d a b)
  | .mulhu g d a b => some (gopMulhu g d a b)
  | .min g d a b => some (gopMin g d a b)
  | .max g d a b => some (gopMax g d a b)
  | .minu g d a b => some (gopMinu g d a b)
  | .maxu g d a b => some (gopMaxu g d a b)
  | .sel g d a b k => some (gopSel g d a b k)
  | .clz g d a => some (gopClz g d a)
  | .ctz g d a => some (gopCtz g d a)
  | .popc g d a => some (gopPopc g d a)
  | .brev g d a => some (gopBrev g d a)
  | .sext g d a w => some (gopSext g d a w)
  | .zext g d a w => some (gopZext g d a w)
  | .div g d a b => some (gopDiv g d a b)
  | .divu g d a b => some (gopDivu g d a b)
  | .rem g d a b => some (gopRem g d a b)
  | .remu g d a b => some (gopRemu g d a b)
  | .addi g d a i => some (gopAddi g d a i)
  | .andi g d a i => some (gopAndi g d a i)
  | .ori g d a i => some (gopOri g d a i)
  | .xori g d a i => some (gopXori g d a i)
  | .shli g d a q => some (gopShli g d a q)
  | .shri g d a q => some (gopShri g d a q)
  | .srai g d a q => some (gopSrai g d a q)
  | .muli g d a i => some (gopMuli g d a i)
  | .movi g d i => some (gopMovi g d i)
  | .movw g d data h => some (gopMovw g d data h)
  | .mini g d a i => some (gopMini g d a i)
  | .maxi g d a i => some (gopMaxi g d a i)
  | .cmp g cc k a b => some (gopCmp g cc k a b)
  | .cmpi g cc k a i => some (gopCmpi g cc k a i)
  | .pand g d a b => some (gopPand g d a b)
  | .por g d a b => some (gopPor g d a b)
  | .pxor g d a b => some (gopPxor g d a b)
  | .pandn g d a b => some (gopPandn g d a b)
  | .pnot g d a => some (gopPnot g d a)
  | .pmov g d a => some (gopPmov g d a)
  | .fcmp g cc k a b => some (gopFcmp g cc k a b s)
  | .br g off => some (gopBr g off)
  | .call g d off => some (gopCall g d off)
  | .brx g a => some (gopBrx g a)
  | .ret g a => some (gopRet g a)
  | .loop lvl c e => some (gopLoop lvl c e)
  | .loopi lvl n e => some (gopLoopi lvl n e)
  | .lbrk g lvl => some (gopLbrk g lvl)
  | .fadd g d a b dbl => some (gopFadd g d a b dbl s)
  | .fsub g d a b dbl => some (gopFsub g d a b dbl s)
  | .fmul g d a b dbl => some (gopFmul g d a b dbl s)
  | .ffma g d a b dbl => some (gopFfma g d a b dbl s)
  | .fdiv g d a b dbl => some (gopFdiv g d a b dbl s)
  | .fsqrt g d a dbl => some (gopFsqrt g d a dbl s)
  | .fmin g d a b dbl => some (gopFmin g d a b dbl s)
  | .fmax g d a b dbl => some (gopFmax g d a b dbl s)
  | .fabs g d a dbl => some (gopFabs g d a dbl s)
  | .fneg g d a dbl => some (gopFneg g d a dbl s)
  | .fcvt g d a src dst => some (gopFcvt g d a src dst s)
  | .fclass g d a dbl => some (gopFclass g d a dbl s)
  | .fmov g d a dbl => some (gopFmov g d a dbl s)
  | .fnum g d a dbl => some (gopFnum g d a dbl s)
  | .fden g d a dbl => some (gopFden g d a dbl s)
  | .fmake g d a b dbl => some (gopFmake g d a b dbl)
  | .frnd g d a b dbl => some (gopFrnd g d a b dbl)
  | .aadd g d a b => some (gopAadd g d a b)
  | .aset g d a => some (gopAset g d a)
  | .amset g d a b => some (gopAmset g d a b)
  | .sysrd g d n => some (gopSysrd g d n)
  | .syswr g d n => some (gopSyswr g d n)
  | .trap g n => some (gopTrap g n)
  | .eret g => some (gopEret g)
  | .cmpt g f a b => some (gopCmpt g f a b)
  | .nop g => some (gopNop g)
  | .exit g => some (gopExit g)
  | .cntrd g d n => some (gopCntrd g d n)
  | .cntrdc g d n => some (gopCntrdc g d n)
  | .cntsnap g => some (gopCntsnap g)
  | .xlinv g a b => some (gopXlinv g a b)
  | .ldB g oc p d u f => some (gopLdB g oc p d u f s)
  | .ldH g oc p d u f => some (gopLdH g oc p d u f s)
  | .ldW g oc p d u f => some (gopLdW g oc p d u f s)
  | .ldD g oc p d u f => some (gopLdD g oc p d u f s)
  | .stB g oc p d u f => some (gopStB g oc p d u f)
  | .stH g oc p d u f => some (gopStH g oc p d u f)
  | .stW g oc p d u f => some (gopStW g oc p d u f)
  | .stD g oc p d u f => some (gopStD g oc p d u f)
  | .vld g oc p d u f => some (gopVld g oc p d u f s)
  | .vst g oc p d u f => some (gopVst g oc p d u f)
  | .vlds g oc p d u f => some (gopVlds g oc p d u f s)
  | .vsts g oc p d u f => some (gopVsts g oc p d u f)
  | .ldf g oc p dbl d u f => some (gopLdf g oc p dbl d u f s)
  | .stf g oc p dbl d u f => some (gopStf g oc p dbl d u f)
  | .ldk g p d u f => some (gopLdk g p d u f)
  | .tlook g d a => some (gopTlook g d a)
  | .tset g a b => some (gopTset g a b)
  | .tclr g a => some (gopTclr g a)
  | .tinv g => some (gopTinv g)
  | .amo g oc p d q op dbl => some (gopAmo g oc p d q op dbl)
  | .red g oc p q op dbl => some (gopRed g oc p q op dbl)
  | .fence g m sc => some (gopFence g m sc)
  | .fenceD g => some (gopFenceD g)
  | .row g => some (gopRow g)
  | .watch g p u f => some (gopWatch g p u f)
  | .waitw g => some (gopWaitw g)
  | .kinv g => some (gopKinv g)
  | .vadd g d a b => some (gopVadd g d a b)
  | .vsub g d a b => some (gopVsub g d a b)
  | .vmul g d a b => some (gopVmul g d a b)
  | .vfma g d a b => some (gopVfma g d a b)
  | .vmin g d a b => some (gopVmin g d a b)
  | .vmax g d a b => some (gopVmax g d a b)
  | .vabs g d a => some (gopVabs g d a)
  | .vneg g d a => some (gopVneg g d a)
  | .vand g d a b => some (gopVand g d a b)
  | .vor g d a b => some (gopVor g d a b)
  | .vxor g d a b => some (gopVxor g d a b)
  | .vnot g d a => some (gopVnot g d a)
  | .vshl g d a b => some (gopVshl g d a b)
  | .vshr g d a b => some (gopVshr g d a b)
  | .vsra g d a b => some (gopVsra g d a b)
  | .vsel g d a b k => some (gopVsel g d a b k)
  | .vdot4 g d a b au bu => some (gopVdot4 g d a b au bu)
  | .vcmx g d a b => some (gopVcmx g d a b)
  | .vcmp g cc k a b => some (gopVcmp g cc k a b s)
  | .vshuf g d a b => some (gopVshuf g d a b)
  | .vrot g d a n => some (gopVrot g d a n)
  | .vcvt g d a src dst sat => some (gopVcvt g d a src dst sat)
  | .vpack g d a b mode sat => some (gopVpack g d a b mode sat)
  | .vunpk g d a mode hi => some (gopVunpk g d a mode hi)
  | .vreds g d a => some (gopVreds g d a)
  | .vredm g d a mn => some (gopVredm g d a mn)
  | .vidx g d => some (gopVidx g d)
  | .vbcast g d a => some (gopVbcast g d a)
  | .vext g d a idx => some (gopVext g d a idx)
  | .vins g d a idx => some (gopVins g d a idx)
  | .vshli g d a q => some (gopVshli g d a q)
  | .vshri g d a q => some (gopVshri g d a q)
  | .vsrai g d a q => some (gopVsrai g d a q)
  | .vaddi g d a i => some (gopVaddi g d a i)
  | .vmovi g d i => some (gopVmovi g d i)
  | .vexp g d a => some (gopVexp g d a s)
  | .vlog g d a => some (gopVlog g d a s)
  | .vrcp g d a => some (gopVrcp g d a s)
  | .vrsq g d a => some (gopVrsq g d a s)
  | .vtanh g d a => some (gopVtanh g d a s)
  | .vsig g d a => some (gopVsig g d a s)
  | .vsin g d a => some (gopVsin g d a s)
  | .vcos g d a => some (gopVcos g d a s)
  | .verf g d a => some (gopVerf g d a s)
  | .wstr g f a b acq sc => some (gopWstr g f a b acq sc)
  | .wld g => some (gopWld g)
  | .wscl g a acq sc => some (gopWscl g a acq sc)
  | .wswap g => some (gopWswap g)
  | .mma g d a n zs => some (gopMma g d a n zs s)
  | .mrd g d a b n => some (gopMrd g d a b n s)
  | .acfg g f => some (gopAcfg g f)
  | .fwdRead g d a b c => some (gopFwdRead g d a b c s)
  | .fwdDelta g d a b c => some (gopFwdDelta g d a b c s)
  | .fwdOuter g d a b c => some (gopFwdOuter g d a b c s)
  | .opu g d a b c => some (gopOpu g d a b c s)
  | .sfork g d a b => some (gopSfork g d a b)
  | .ssnap g a b => some (gopSsnap g a b)
  | .sroll g a b => some (gopSroll g a b)
  | .savg g d a b w fs => some (gopSavg g d a b w fs)
  | .sfree g a => some (gopSfree g a)
  | .smove g d a b => some (gopSmove g d a b)
  | .sqry g d a => some (gopSqry g d a)
  | .ewait g m => some (gopEwait g m)
  | .epoll g d e => some (gopEpoll g d e)
  | .tsub g a => some (gopTsub g a)
  | .tdone g => some (gopTdone g)
  | .launch g d a => some (gopLaunch g d a)
  | .ljoin g a => some (gopLjoin g a)
  | .range g d a b => some (gopRange g d a b)
  | .gbar g => some (gopGbar g)
  | .yield_ g => some (gopYield g)
  | .qcnt g d a => some (gopQcnt g d a)
  | .spage g a b => some (gopSpage g a b)
  | .cpy g a => some (gopCpy g a)
  | .push g a b => some (gopPush g a b)
  | .resultLanding _ _ _ => none
  | .pendingResultLands _ _ _ => none
  | .shadeMissService _ _ => none
  | .trapEntry _ _ _ _ _ _ _ => none
  | .recoveryRewind _ _ _ => none
  | .gangFailure _ _ _ => none
  | .gangPlacement _ => none
  | .preemption _ => none
  | .gangReturn _ => none
  | .gbarCompletion _ => none
  | .rowDrain _ => none
  | .gangRetirement _ => none
  | .waitBudgetPreemption _ => none
  | .deadlineHalt _ => none
  | .periodStart => none
  | .sliceStart _ => none
  | .rateWindowStart => none
  | .decompressBlock _ _ => none
  | .planeLoadComplete _ _ => none
  | .scaleLoadComplete _ _ => none
  | .wswapEffect _ _ => none
  | .mrdComplete _ _ => none
  | .stateEngineComplete _ _ => none
  | .copyOnWriteComplete _ _ => none
  | .copyComplete _ _ => none
  | .pushComplete _ _ => none
  | .arrivalRegistration _ _ _ => none
  | .pagerServe _ => none
  | .pageInComplete _ => none
  | .pageOutComplete _ => none
  | .stateMoveComplete _ _ _ => none
  | .retentionEntry _ _ _ => none
  | .retentionExit _ _ _ => none
  | .taskDispatch _ => none
  | .taskStart _ _ => none
  | .ringRefill _ _ => none
  | .postedWritePerform _ _ _ => none
  | .fenceActionsComplete _ _ _ => none
  | .translationDropAck _ _ _ => none
  | .waitRecheck _ _ _ => none
  | .hotPageProposal _ _ _ _ _ => none
  | .migrationFreeze _ _ => none
  | .migrationCopyComplete _ _ => none
  | .launchRecordSubmit _ _ _ _ => none
  | .taskRecordSubmit _ _ _ _ => none
  | .eqcfgWrite _ _ => none
  | .eqheadWrite _ _ => none
  | .registerWrite _ _ _ => none
  | .heldEventDelivery _ => none
  | .msixMessage _ => none
  | .create _ => none
  | .close _ => none
  | .warm _ _ => none
  | .attest _ _ => none
  | .checkpoint => none
  | .restore _ => none
  | .param _ _ _ => none
  | .power => none
  | .jobCheckpoint _ => none
  | .hostApertureAccess _ _ => none
  | .hbmArrayError _ _ _ _ _ => none
  | .hbmParityRetry _ _ _ _ _ _ _ _ _ => none
  | .laneSwap _ _ _ _ _ _ _ _ => none
  | .flitReceive _ _ => none
  | .linkRetrain _ _ => none
  | .meshLinkFailure _ _ _ => none
  | .sensorRead _ _ _ => none
  | .powerRemoval => none
  | .coldStart _ => none
  | .retentionEntryEnd _ _ _ => none
  | .returnTileMovesComplete _ => none

end Sys2Proof.Machine
end

