-- ==== Sys2Proof/Machine/Cycle.lean ====
section
/-! DEFINITION. One cycle (R5, R32 to R36, R71 to R77): its start, the turn of each core, the events at its end in a fixed order, and the counting
that ends it (R350, R351). -/

namespace Sys2Proof.Machine

/-- The state that an event leaves; every event answers a next state. -/
def State.run (s : State) (f : State → Out) : State := match f s with | .next t => t | _ => s

/-- An event n times. -/
def State.rerun (s : State) (f : State → Out) : Nat → State
  | 0 => s
  | n + 1 => (s.run f).rerun f n

/-- Cores that a gang holds. -/
def State.busyCores (s : State) : List Nat := (s.cores.filter fun (e : Nat × Core) => e.2.gang.isSome).map (·.1)

/-! ## The start of a cycle -/

/-- What reads return in this cycle: the counters as the last one left them (R351). -/
def State.holdCounters (s : State) : State :=
  { s with
    towers := s.towers.map fun (e : Nat × Tower) => (e.1, { e.2 with cntRead := e.2.cnt })
    jobs := s.jobs.map fun (e : Nat × Job) => (e.1, { e.2 with guseRead := e.2.guse, sperRead := e.2.sper })
    gangs := s.gangs.map fun (e : Nat × Gang) => (e.1, { e.2 with wsumRead := e.2.wsum })
    launches := s.launches.map fun (e : Nat × Launch) => (e.1, { e.2 with rangeRead := e.2.range }) }

/-- The start of a cycle: windows, periods, slices; transfers move (R357, R359, R360). -/
def State.startCycle (s : State) : State :=
  let s := (s.holdCounters.run execRateWindowStart).run execPeriodStart
  let s := (s.jobs.map (·.1)).foldl (fun s j => s.run (execSliceStart j)) s
  s.busyCores.foldl (fun s k => s.transferStart k) s

/-! ## A core's turn -/

/-- The strand of a drain stub that met a block or a cause is rewound instead (R375); where no group of the stub has issued, the restart point is the one
recorded as it was diverted. -/
def State.stubFails (s : State) (k i : Nat) : State :=
  (s.modStrand k i fun x => { x with st := .ready, stub := none, pre := 2, landFirst := true, fresh := x.fresh && x.stub != some 0 }).giveUp k i 0

/-- What the issue of strand i, in a drain stub of which n groups had issued, comes to (R375): `s` before it, `t` after it. -/
def State.inStub (s t : State) (k i n : Nat) : State :=
  let x := t.strand k i
  if x.cIssue ≠ (s.strand k i).cIssue then
    if 4096 ≤ n + 1 then t.stubFails k i else t.modStrand k i fun x => { x with stub := some (n + 1) }
  else if ((t.core k).frozen).isSome then t
  else s.stubFails k i

/-- An outcome with a function applied to its next state. -/
def Out.map (o : Out) (f : State → State) : Out := match o with | .next t => .next (f t) | .fault x => .fault x | .refused x => .refused x

/-- Strand i of core k with its group fetched: the state in which it issues, the conditions of its words, its instructions. -/
def State.groupOf (s : State) (k i : Nat) (f : Fetched) : State × List (Nat × Nat) × List Instr :=
  let d := decodeSyls 0 f.syls
  let ctx := f.ctx k i d.1.length
  ({ s with cur := ctx }.modStrand k i fun x => { x with spc := ctx.start }, f.enc ++ d.2 ++ classThreeBad f.syls, d.1)

/-- The group issues: one instruction alone, or several together. -/
def issueFetched (enc : List (Nat × Nat)) (is : List Instr) (s : State) : Out :=
  match enc, is with
  | [], [i] => exec i s
  | _, _ => issueGroup enc (is.filterMap fun i => gopOf i s) s

/-- The running strand i of core k fetches and issues its group, once its gauge lets the bundles come (R32, R57, R357, R363, R375). -/
def issueTurn (k i : Nat) (s : State) : Out :=
  let x := s.strand k i
  if x.xlinv.isSome then .next (s.freezeOn k [.drop])
  else match s.fetchGroup k x.spc with
    | .error e =>
      let t := s.fetchStop k i e
      .next (match x.stub with | some n => s.inStub t k i n | none => t)
    | .ok f =>
      if !f.bundles.all (s.bundleMay k) then .next s
      else
      let s := f.bundles.foldl (fun s b => s.bundleUse k b) s
      if x.stub.isSome && f.marked then .next (s.stubEnds k i ((f.syls.headD ⟨0, 0, 0, 0⟩).addr))
      else
        let (s', enc, is) := s.groupOf k i f
        (issueFetched enc is s').map fun t => match x.stub with | some n => s.inStub t k i n | none => t

/-- The turn of core k in a cycle (R32, R34, R36). -/
def coreTurn (k : Nat) (s : State) : Out :=
  if s.frozenNow k then .next s
  else if (s.core k).gap ≠ 0 then .next (s.modCore k fun c => { c with gap := c.gap - 1, bubble := c.bubble || c.run.isNone })
  else
    let s := s.select k
    match (s.core k).run with
    | none => .next s
    | some i => if s.mayIssue k i then (issueTurn k i s).map fun t => t.transferStart k else .next s

/-! ## The end of a cycle -/

/-- Whether a strand waits: blocked, also by a recovered cause, parked or at a barrier (R31, R368). -/
def Strand.waiting (x : Strand) : Bool :=
  match x.st with | .blocked _ => true | .parked _ => true | .atBarrier => true | .recovering _ _ => true | _ => false

/-- Whether the gang waits in this cycle (R50). A gang without an active strand, whose rows still drain, does not. MODEL'S CHOICE, log entry 116. -/
def State.gangWaits (s : State) (g : Gang) : Bool :=
  decide (g.phase = .running) && !(s.activeGsi g).isEmpty && (s.activeGsi g).all (fun n => (s.gsiStrand g n).waiting)
    && g.cores.all fun k => !(s.core k).issued && !(s.core k).bubble && !s.frozenNow k

/-- The counting of the cycle (R50, R350): frozen and waiting cycles. -/
def State.countCycle (s : State) : State :=
  let gs := (s.gangs.filter fun (e : Nat × Gang) => s.gangWaits e.2).map (·.1)
  let s := gs.foldl (fun s g => s.modGang g fun y => { y with wsum := min (y.wsum + 1) 0xFFFFFFFF }) s
  s.busyCores.foldl (fun s k =>
    let s := if s.frozenNow k then s.modCore k fun c => { c with frz := c.frz + 1 } else s
    (List.range 4).foldl (fun s i => if (s.strand k i).waiting then s.modStrand k i fun x => { x with cWait := x.cWait + 1 } else s) s) s

/-- Results land on the cores `live`, and those in flight come one cycle nearer (R71, R77); variable-latency results land on every core. -/
def State.landCycle (s : State) (live : List Nat) : State :=
  let s := live.foldl (fun s k => (List.range 4).foldl (fun s i =>
    let s := s.rerun (execResultLanding (k / 16) (k % 16) i) (s.strand k i).inflight.length
    s.modStrand k i fun x => { x with inflight := x.inflight.map fun l => { l with left := l.left - 1 } }) s) s
  s.busyCores.foldl (fun s k => (List.range 4).foldl (fun s i =>
    s.rerun (execPendingResultLands (k / 16) (k % 16) i) (s.strand k i).pend.length) s) s

/-- The engines of core k (R221 to R232, R242, R274, R275). -/
def State.enginesEnd (s : State) (k : Nat) : State :=
  let t := k / 16
  let f := k % 16
  let n (e : Nat) : Nat := ((s.core k).cmdsOf e).length
  let s := s.run (execDecompressBlock t f)
  let s := s.rerun (fun s => .next (((s.run (execPlaneLoadComplete t f)).run (execScaleLoadComplete t f)).run (execWswapEffect t f))) (n 1)
  let s := s.rerun (execMrdComplete t f) (n 2)
  let s := s.rerun (execStateEngineComplete t f) (n 3)
  let s := (s.run (execCopyOnWriteComplete t f)).transferMove k
  (s.rerun (execCopyComplete t f) (n 4)).rerun (execPushComplete t f) (n 5)

/-- What of core k's store queue performs in this cycle: one entry or none, a choice that the spec leaves open (R261), and those whose time has come
(R52). -/
def State.perform (s : State) (k : Nat) : State :=
  let n := (s.core k).sq.length
  if n = 0 then s
  else
    let s := (s.run (execPostedWritePerform (k / 16) (k % 16) (Config.pick s.freeCtr (n + 1) % (n + 1)))).spend
    ((s.core k).sq.filter fun e => decide (e.latest ≤ s.now)).foldl (fun s e =>
      match (s.core k).sq.findIdx? fun a => a.uid == e.uid with
      | some j => s.run (execPostedWritePerform (k / 16) (k % 16) j)
      | none => s) s

/-- Whether what a strand blocks on has cleared (R33). -/
def State.unblocked (s : State) (k : Nat) (x : Strand) : Block → Bool
  | .queueEmpty q => s.canPop k q
  | .queueFull q => decide (((s.core k).port q).length < 16)
  | .pending r => !x.isPending r
  | .engines m => (List.range 6).all fun e => !m.testBit e || x.engineCount e == 0
  | .rowFull n => decide (x.rows.length + n ≤ 256)
  | .engineFull e => !(s.core k).engineFull e
  | .poolFull p head => match s.pool? (towerOf k) p with | some y => !y.blocked head | none => true
  | .dup => x.dupOut == 0

/-- Blocked strands whose condition has cleared become ready; recovered ones are rewound (R33, R368). -/
def State.strandsEnd (s : State) (k : Nat) : State :=
  (List.range 4).foldl (fun s i =>
    let x := s.strand k i
    match x.st with
    | .blocked b => if s.unblocked k x b then s.setStrand k i { x with st := .ready, landFirst := true } else s
    | .recovering _ _ => s.run (execRecoveryRewind (k / 16) (k % 16) i)
    | _ => s) s

/-- What core k's strands wait for in memory (R263, R264, R333, R337, R366). -/
def State.memoryEnd (s : State) (k : Nat) : State :=
  let t := k / 16
  let f := k % 16
  let s := (s.perform k).run (execShadeMissService t f)
  (List.range 4).foldl (fun s i =>
    let s := (s.run (execFenceActionsComplete t f i)).run (execTranslationDropAck t f i)
    if s.now % Config.recheck = 0 ∨ (s.strand k i).recheckDue then s.run (execWaitRecheck t f i) else s) s

/-- A task that has issued TDONE has its sealed rows drained, its accesses performed at L2 and its commands ended. -/
def State.taskOver (s : State) (k i : Nat) (r : TaskRun) : Bool :=
  let x := s.strand k i
  r.retiring && !(x.rows.any fun l => decide (l.row < x.rown)) && !((s.waiting k).any fun e => e.strand == i) && (List.range 6).all fun e => x.engineCount e == 0

/-- A write on its way home that the retirement of strand i's task waits for: the strand's own, its commands', or a line's written back for it, before
the ticket u. -/
def taskWrite (k i u : Nat) (e : Nat × SqEntry) : Bool := e.1 == k && decide (e.2.uid < u) && (e.2.strand == i || e.2.strand == 4 || e.2.strand == 8 + i)

/-- Such a task retires once all of that is performed at device scope (R292, R315, R330, R331). -/
def State.endTask (s : State) (k i : Nat) : State :=
  match (s.strand k i).task with
  | none => s
  | some r =>
    if !s.taskOver k i r then s
    else
      let t := towerOf k
      let s := if r.wb.isNone then s.writeBack k else s
      let u := r.wb.getD s.uid
      let s := (s.modStrand k i fun x => { x with task := some { r with wb := some u } }).pushHome t (taskWrite k i u)
      if (s.tower t).out.any (taskWrite k i u) then s
      else (s.modStrand k i fun x => { x with task := none }).retireTask t r.pool (s.jobOf k) r.uid r.words

/-- The pools of tower t: registrations that waited, discards, refills, ends (R310, R311, R316, R329); a strand that parks in a finished pool goes on
(R315). -/
def State.poolsEnd (s : State) (t : Nat) : State :=
  let s := s.registerTower t
  let s := ((s.launches.filter fun (e : Nat × Launch) => e.2.tower == t && e.2.poolOver).map (·.1)).foldl (fun s l => s.wakeDone l) s
  ((s.tower t).pools.map (·.1)).foldl (fun s p =>
    let s := (s.serveDiscards t p).run (execRingRefill t p)
    match s.pool? t p with
    | some x =>
      if x.finished then s
      else if s.poolDone t p x then (s.finishPool t p).completeLaunch x.launch
      else s
    | none => s) s

/-- A request of a mover is admitted under gauge g, or the one in transfer comes a cycle nearer (R355, R357). -/
def State.moverTick (s : State) (t job g : Nat) (reqs : List Request) (busy : Nat) : State × List Request × Nat :=
  if busy ≠ 0 then (s, reqs, busy - 1)
  else match reqs with
    | [] => (s, [], 0)
    | r :: rest => if s.admits job t g then (s.charge job t g r.units, rest, r.cycles - 1) else (s, reqs, 0)

/-- The moves of tower t's pager, one request in transfer at a time: a job's waits on its own gauge alone (R318, R357, R439). -/
def State.movesTick (s : State) (t : Nat) : State :=
  match (s.tower t).moves.find? fun m => m.busy != 0 || (!m.reqs.isEmpty && !((s.tower t).moves.any fun n => n.busy != 0) && s.admits m.forJob t 2) with
  | none => s
  | some m =>
    let (s, r, b) := s.moverTick t m.forJob 2 m.reqs m.busy
    s.modTower t fun x => { x with moves := x.moves.map fun y => if y.handle = m.handle then { m with reqs := r, busy := b } else y }

/-- Those of the gangs that return there (R246), and its SMOVEs (R347): a remote one takes the fabric's gauge. -/
def State.pagerTick (s : State) (t : Nat) : State :=
  let s := (s.gangs.filter fun (e : Nat × Gang) => e.2.tower == t && (match e.2.phase with | .moving _ => true | _ => false)).foldl (fun s e =>
    let (s, r, b) := s.moverTick t e.2.job 2 e.2.reqs e.2.busy
    s.modGang e.1 fun y => { y with reqs := r, busy := b }) (s.movesTick t)
  (s.tower t).stateq.foldl (fun s o =>
    if !o.started then s
    else
      let g := match o.kind with | .move _ dst => if bitOf dst 4 then 4 else 2 | _ => 2
      let (s, r, b) := s.moverTick t o.job g o.reqs o.busy
      s.modTower t fun x => { x with stateq := x.stateq.map fun y => if y.uid = o.uid then { y with reqs := r, busy := b } else y }) s

/-! ## Memory beyond the cores -/

/-- Writes of tower t on their way home get there at free moments, and at the latest when their time has come, as far as they may (R52, R279). -/
def State.outTick (s : State) (t : Nat) : State :=
  (s.tower t).out.foldl (fun s e =>
    if s.outMay t e && (decide (e.2.latest ≤ s.now) || Config.pick s.freeCtr 2 % 2 == 1) then (s.sendHome t e).spend else s.spend) s

/-- The lines of tower t's memory-port write queue leave it at free moments; the oldest does where the queue is full, and a line with 32 steps
does, so that no access waits for its room for ever (R52, R262, R294). -/
def State.wqTick (s : State) (t : Nat) : State :=
  let l := (s.tower t).wq.map (·.1)
  let full := ((s.tower t).wq.filter fun e => decide (32 ≤ e.2.length)).map (·.1)
  let go := chosenOf s.freeCtr l ++ full ++ if 512 ≤ l.length then l.getLast?.toList else []
  ({ s with freeCtr := s.freeCtr + l.length }).modTower t fun x => { x with wq := x.wq.filter fun e => !go.contains e.1 }

/-! ## Errors that arise in SRAM (R217) -/

/-- The SRAM of a core, or of a tower, that a number names. -/
def coreSram (n : Nat) : Option Sram :=
  if n < 4 then some (.row n) else [Sram.l1, .active, .shadow, .fifo, .shade][n - 4]?
def towerSram (n : Nat) : Option Sram := [Sram.l2, .umbra, .state][n]?

/-- Whether core c holds data in the word that an error names. -/
def Core.holds (c : Core) (e : SramErr) : Bool :=
  match e.sram with
  | .row i => decide (e.word / 8 < (c.strand i).rows.length)
  | .l1 => (mfind c.l1 (e.word / 8)).isSome
  | .fifo => !c.fifo.isEmpty
  | .active => true
  | .shadow => true
  | .shade => decide (e.word < 8192)
  | _ => false

/-- Whether tower x does. -/
def Tower.holds (x : Tower) (e : SramErr) : Bool :=
  match e.sram with
  | .l2 => (mfind x.l2 (e.word / 16)).isSome
  | .umbra => (mfind x.umbra (e.word / 16)).isSome
  | .state => (mfind x.slots (e.word / 4096)).isSome
  | _ => false

/-- Wrong bits arise: of a core's SRAM 9, the near array's scratchpad; else in the SRAM that the number names. -/
def State.strike (s : State) (u : Nat × Nat × Nat × Bool) : State :=
  let (k, n, w, dbl) := u
  if 192 ≤ k then
    match towerSram n with
    | some r => s.modTower (k - 192) fun x => { x with errs := x.errs ++ [⟨r, w, dbl⟩] }
    | none => s
  else if n = 9 then s.modCore k fun c => if w * 8 < c.scrSize then { c with nearErr := c.nearErr ++ [(w, dbl)] } else c
  else match coreSram n with
    | some r => s.modCore k fun c => { c with errs := c.errs ++ [⟨r, w, dbl⟩] }
    | none => s

/-- The wrong bits of a cycle; those of words that hold nothing are of no account. -/
def State.upsetsEnd (s : State) : State :=
  let s := ((Config.upsets s.freeCtr).filter fun u => decide (u.1 < 204)).foldl State.strike s
  ({ s with cores := s.cores.map fun (e : Nat × Core) => (e.1, { e.2 with errs := e.2.errs.filter e.2.holds })
            towers := s.towers.map fun (e : Nat × Tower) => (e.1, { e.2 with errs := e.2.errs.filter e.2.holds }) }).spend

/-- The banks of tower t's slabs that may enter or leave retention in this cycle (R218). -/
def State.banksEnd (s : State) (t : Nat) : State :=
  let x := s.tower t
  let due (b : Bank) : Bool := if b.mode = 0 then decide (b.lastUse + s.idleLimit ≤ s.now) else b.mode != 2 && decide (b.due ≤ s.now)
  let keys := if s.now = s.idleLimit then x.allSlabs.flatMap bankKeys else (x.banks.filter fun (e : Nat × Bank) => due e.2).map (·.1)
  keys.foldl (fun s b =>
    ((s.run (execRetentionEntry t (b / 16) (b % 16))).run (execRetentionEntryEnd t (b / 16) (b % 16))).run (execRetentionExit t (b / 16) (b % 16))) s

/-- The units of tower t: writes on their way home, the memory port, pager, banks, state moves, migrations (R214, R218, R236, R318, R347). -/
def State.towerEnd (s : State) (t : Nat) : State :=
  let n := (s.tower t).moves.length
  let s := (((s.outTick t).heldTick t).wqTick t).pagerTick t
  let s := s.rerun (fun s => .next ((s.run (execPageInComplete t)).run (execPageOutComplete t))) n
  let s := s.run (execPagerServe t)
  let s := (s.banksEnd t).serveStates t
  let s := (s.tower t).stateq.foldl (fun s o => s.run (execStateMoveComplete t (o.core % 16) o.strand)) s
  let n := (s.tower t).migr.length
  let s := (List.range n).foldl (fun s k => s.run (execMigrationFreeze t k)) s
  ((List.range n).foldl (fun s k => s.run (execMigrationCopyComplete t (n - 1 - k))) s).proposeNext t

/-- The tasks of tower t: retirements, the pools, one assignment, starts (R312 to R315). -/
def State.tasksEnd (s : State) (t : Nat) : State :=
  let ks := s.busyCores.filter fun k => towerOf k == t
  let s := ks.foldl (fun s k => (List.range 4).foldl (fun s i => s.endTask k i) s) s
  let s := (s.poolsEnd t).run (execTaskDispatch t)
  ks.foldl (fun s k => s.run (execTaskStart t (k % 16))) s

/-- The gangs: rows, barriers, moves that end, pre-emptions, retirements (R38, R39, R246, R285, R374). -/
def State.gangsEnd (s : State) : State :=
  (s.gangs.map (·.1)).foldl (fun s g =>
    let s := (s.run (execRowDrain g)).run (execGbarCompletion g)
    let s := s.run (execReturnTileMovesComplete g)
    let s := match (s.gang? g).map (·.phase) with | some (.preempting _) => s.run (execPreemption g) | _ => s
    s.run (execGangRetirement g)) s

/-- Returns, then the placers (R37, R49, R304). -/
def State.placersEnd (s : State) : State :=
  let s := (s.gangs.map (·.1)).foldl (fun s g => s.run (execGangReturn g)) s
  (List.range 12).foldl (fun s t => s.run (execGangPlacement t)) s

/-- Deadlines and wait budgets (R50, R51, R358). -/
def State.budgetsEnd (s : State) : State :=
  let count (j : Job) : Job := if !j.latency && j.started then { j with dcnt := min (j.dcnt + 1) 0xFFFFFFFFFFFF } else j
  let s := { s with jobs := s.jobs.map fun (e : Nat × Job) => (e.1, count e.2) }
  let s := (s.jobs.map (·.1)).foldl (fun s j => s.run (execDeadlineHalt j)) s
  (s.gangs.map (·.1)).foldl (fun s g => s.run (execWaitBudgetPreemption g)) s

/-- What another device does is seen by the watches of its lines at free moments (R266). -/
def State.peerWatches (s : State) : State :=
  let lines := (s.cores.flatMap fun e => e.2.strands.filterMap fun x => x.2.watch.map (·.line)).eraseDups.filter fun l => region (l * 64) == 1
  ({ s with freeCtr := s.freeCtr + lines.length }).trigger (chosenOf s.freeCtr lines)

/-- Failures that this cycle's events brought about take effect in it (R365, R367). -/
def State.failures (s : State) : State :=
  let mine (e : Nat × Instr) : Bool := decide (e.1 ≤ s.now) && (match e.2 with | .gangFailure _ _ _ => true | _ => false)
  (s.agenda.filter mine).foldl (fun s e => s.run (exec e.2)) { s with agenda := s.agenda.filter fun e => !mine e }

/-- The host side and the links (R380, R393, R397, R405). -/
def State.outsideEnd (s : State) : State :=
  let s := ({ s with hostAcks := s.hostAcks.filter fun a => decide (s.now < a.2.2.2) }).peerWatches.serveLinks.serveInbound
  let s := match s.ckpt with | j :: _ => s.run (execJobCheckpoint j) | [] => s
  let s := (s.fns.map (·.1)).foldl (fun s n => ((List.range (s.fn n).held.length).foldl (fun s _ => s.run (execHeldEventDelivery n)) s).run (execMsixMessage n)) s
  s.run execPowerRemoval

/-- The next cycle begins: CYC, the engines' passes and starts, snapshots of the cycle that ended (R350, R354). `fz`: the cores
that were frozen. -/
def State.tick (s : State) (fz : List Nat) : State :=
  let s := { s with now := s.now + 1, turn := .start }
  s.busyCores.foldl (fun s k =>
    let s := (s.engineTick k (fz.contains k)).modCore k fun c => { c with issued := false, bubble := false }
    (List.range 4).foldl (fun s i => if (s.strand k i).snapReq then s.takeSnap k i else s) s) s

/-- Everything that happens at the end of a cycle, in its order. -/
def State.endCycle (s : State) : State :=
  let fz := s.busyCores.filter fun k => s.frozenNow k
  let s := s.countCycle
  let s := (s.landCycle (s.busyCores.filter fun k => !fz.contains k)).upsetsEnd
  let s := s.busyCores.foldl (fun s k => ((s.enginesEnd k).memoryEnd k).strandsEnd k) s
  let s := (List.range 12).foldl (fun s t => (s.towerEnd t).tasksEnd t) s
  (((s.gangsEnd.placersEnd.budgetsEnd).outsideEnd).failures).tick fz

/-! ## Turns -/

/-- The first core at or after k that a gang holds. -/
def State.nextCore (s : State) (k : Nat) : Option Nat := s.busyCores.find? fun c => decide (k ≤ c)

/-- The first entry of a list that f selects, and the list without it. -/
def takeFirst {α : Type} (f : α → Bool) : List α → Option (α × List α)
  | [] => none
  | x :: r => if f x then some (x, r) else (takeFirst f r).map fun e => (e.1, x :: e.2)

/-- What one step does. At the end of a cycle inputs and scheduled events come first, one a step, then a mailbox command, then everything else. -/
def stepCycle (s : State) : Out :=
  if !s.powered then
    match takeFirst (fun (e : Nat × Instr) => match e.2 with | .coldStart _ => true | _ => false) s.agenda with
    | some (e, r) => exec e.2 { s with agenda := r }
    | none => .fault .poweredOff
  else match s.turn with
    | .start =>
      if s.startNext.isEmpty then .next { s.startCycle with turn := .core 0 }
      else match takeFirst (fun (e : Nat × Instr) => decide (e.1 ≤ s.now)) s.agenda with
        | some (e, r) => if Config.pick s.freeCtr 2 % 2 = 0 then exec e.2 { s with agenda := r, freeCtr := s.freeCtr + 1 } else .next s.spend.startGoesOn
        | none => .next s.startGoesOn
    | .core k =>
      match s.nextCore k with
      | none => .next { s with turn := .ending }
      | some c => coreTurn c { s with turn := .core (c + 1) }
    | .ending =>
      match takeFirst (fun (e : Nat × Instr) => decide (e.1 ≤ s.now)) s.agenda with
      | some (e, r) => exec e.2 { s with agenda := r }
      | none => if s.mailbox.busy then execMailbox s else .next s.endCycle

end Sys2Proof.Machine
end

