-- ==== Sys2Proof/Machine/Step.lean ====
section
/-! DEFINITION. One step of the machine, and the placing of one instruction where the next step fetches. -/

namespace Sys2Proof.Machine

/-- One step: a turn of the cycle (Cycle.lean). -/
def step (s : State) : Host.Outcome State Fault Refusal := stepCycle s

/-! ## Placing one instruction (log entry 60) -/

/-- The bundle that holds one syllable: s0 is a header with the restart mark, the syllable stands at s1, or at s3 when it is of class 3. Its T
bit, which ends the group, is set. -/
def fetchBundle (w : Nat) : List Nat :=
  let y := w % 2147483648 + 2147483648
  if w / 2 ^ 27 % 16 = 3 then [0x78000000, 0, 0, y] else [0x7C000000, y, 0, 0]

/-- The address of the syllable in the bundle at 65536. -/
def fetchAddr (w : Nat) : Word := if w / 2 ^ 27 % 16 = 3 then 65548 else 65540

/-- The translation of the page at 65536. -/
def fetchTlb : Tlb := { job := 1, bits := 16, vpn := 1, pfn := 1, w := true, x := true, dup := false, pin := false, nc := false }

/-- Job 1, of throughput class, without limits. -/
def fetchJob : Job :=
  { num := 1, latency := false, fn := 1, part := List.replicate 12 0xFFFF, slice := 0, wbud := 0, dline := 0
    gbud := List.replicate 6 0xFFFFF, root := 0, arenaBase := 0, arenaSize := 0, started := true }

/-- Launch 1 of job 1: one gang of one core with the one strand 0. -/
def fetchLaunch : Launch :=
  { words := [65536, 0, 0, 1, 0, 0, 0x0000840000000000, 0], table := [], job := 1, child := none, depth := 0, limit := 8, tower := 0, placed := 1 }

/-- Its gang, on front end 0 of tower 0. -/
def fetchGang : Gang :=
  { launch := 1, num := 0, tower := 0, job := 1, cores := [0], ganged := false, smask := 1, tmask := 0 }

/-- The machine with one instruction in memory and a strand about to fetch it: what an accepted launch, its placement and the selection of
its strand leave (R37, R34, R138), in the turn of the strand's core. -/
def State.withFetchWord (s : State) (nbits w : Nat) : State :=
  let y := if nbits ≤ 32 then w % 2 ^ 32 else w
  let x : Strand := { st := .running, spc := fetchAddr y, scfg := shapeScfg false, sst := identSst 0 0 0 1 0, fresh := true }
  { s with
    mem := wrBytes s.mem 65536 ((fetchBundle y).flatMap fun v => toLE 4 v)
    cores := mput s.cores 0 { gang := some 1, run := some 0, last := 0, tlb1 := [fetchTlb], strands := [(0, x)] }
    jobs := mput s.jobs 1 fetchJob
    launches := mput s.launches 1 fetchLaunch
    gangs := mput s.gangs 1 fetchGang
    powered := true
    agenda := []
    turn := .core 0 }

end Sys2Proof.Machine
end

