-- ==== Sys2Proof/Safety.lean ====
section
/-! DEFINITION. The terms in which claims speak of a run: when an instruction can issue alone, the state in which it reads, the state that its
issue leaves around its own effect, and what stays as it was. -/

namespace Sys2Proof.Machine

/-! ## One instruction as a group -/

/-- What instruction i uses when it is the whole group (R57, R62); an event uses nothing. -/
def State.infoOf (s : State) (i : Instr) : Info := match gopOf i s with | some g => g.info | none => { kind := .scalar }

/-- The state in which the operation of i reads its operands: that of the cycle's begin, with the restart record and the landing point of its
group noted (R76, R80). -/
def State.opened (s : State) (i : Instr) : State := s.openGroup [s.infoOf i]

/-- Whether a variable-latency result of operation g, run in state s, would land in one register together with a result in flight (R74). -/
def State.collides (s : State) (g : GOp) : Bool :=
  match g.op s with
  | .ok u => lateCollision s.now (u.strand s.cur.core s.cur.strand) (s.strand s.cur.core s.cur.strand).pend.length
  | .error _ => false

/-- Nothing keeps the instruction i, alone in its group, from issuing: no condition of R84, no schedule condition (R73, R74), no operand that is
pending or poisoned and no queue port that it must wait for (R33, R123, R371); and its guard is true (R63). -/
def State.ready (s : State) (i : Instr) : Bool :=
  let n := s.infoOf i
  let x := s.strand s.cur.core s.cur.strand
  (gopOf i s).isSome && (encBad s.cur [n]).isEmpty && (schedStops x n).isEmpty && (s.operandBlock s.cur.core x n).isNone
    && !x.poisonRead n && (s.opened i).guardOk n && !(gopOf i s).any (s.opened i).collides

/-- The state after the issue of i, alone in its group, whose effect left u: heads popped, the strand at its next group, counters and restart
point (R75, R80, R123, R155, R350). -/
def State.after (s : State) (i : Instr) (u : State) : State :=
  ((u.popReads s.cur.core (s.infoOf i).reads).advance).closeGroup (s.infoOf i).seals

/-- What the instruction i does: whenever it can issue alone, it completes, and its effect on the state in which it reads is e. -/
def Does (i : Instr) (e : State → State) : Prop := ∀ s : State, s.ready i = true → exec i s = .next (s.after i (e (s.opened i)))

/-- The same where a further condition c on the state in which it reads holds. -/
def DoesWhen (i : Instr) (c : State → Prop) (e : State → State) : Prop :=
  ∀ s : State, s.ready i = true → c (s.opened i) → exec i s = .next (s.after i (e (s.opened i)))

/-- The instruction i completes from s with a next state of which p holds. -/
def Ends (i : Instr) (s : State) (p : State → Prop) : Prop := ∃ t, exec i s = .next t ∧ p t

/-! ## The issuing strand's operands and results -/

/-- Its X, F, P, L, V and A operands, a queue port's head standing for X56 to X63. -/
def State.xOp (s : State) (n : Nat) : Word := s.readX s.cur.core s.cur.strand n
def State.fOp (s : State) (n : Nat) : Word := s.readF s.cur.core s.cur.strand n
def State.pOp (s : State) (n : Nat) : Bool := s.readP s.cur.core s.cur.strand n
def State.lOp (s : State) (n : Nat) : LaneMask := s.readL s.cur.core s.cur.strand n
def State.vOp (s : State) (n : Nat) : Row := s.readV s.cur.core s.cur.strand n
def State.aOp (s : State) (n : Nat) : Word := s.readA s.cur.core s.cur.strand n

/-- Its result v for a register, landing with latency l. -/
def State.gives (s : State) (r : Reg) (l : Nat) (v : Val) : State := s.result s.cur.core s.cur.strand r l v

/-- The same with flags. -/
def State.givesFl (s : State) (r : Reg) (l : Nat) (v : Val) (fl : BitVec 5) : State := s.result s.cur.core s.cur.strand r l v fl

/-- Its variable-latency result v for a register, landing with latency l. -/
def State.owes (s : State) (r : Reg) (l : Nat) (v : Val) (fl : BitVec 5) : State := s.resultVar s.cur.core s.cur.strand r v (some (s.now + l - 1)) 0 fl

/-- The address of an access through pointer p with offset field f in units of u bytes (R251). -/
def State.accessAt (s : State) (p : Nat) (u : Upd) (f : Int) (unit : Nat) : Word :=
  if u = .none then s.aOp p + BitVec.ofInt 64 (f * unit) else s.aOp p

/-- The pointer's update by such an access (R250, R251): it lands at the end of the issue cycle. -/
def State.pointerMoves (s : State) (p : Nat) (u : Upd) (f : Int) (unit : Nat) (a : Word) (t : State) : State :=
  match u with
  | .none => t
  | .post => t.result s.cur.core s.cur.strand (.a p) 1 (.w (stepPtr (s.readAM s.cur.core s.cur.strand p) a))
  | .add => t.result s.cur.core s.cur.strand (.a p) 1 (.w (s.aOp p + BitVec.ofInt 64 (f * unit)))

/-! ## Numbers of the integer operations -/

/-- Quotient and remainder of R146: truncated toward zero; a division by zero gives all ones and the dividend. -/
def quoRem (sgn : Bool) (x y : Word) : Word × Word :=
  if y = 0 then (BitVec.allOnes 64, x)
  else if sgn then (BitVec.ofInt 64 (x.toInt.tdiv y.toInt), BitVec.ofInt 64 (x.toInt.tmod y.toInt))
  else (BitVec.ofNat 64 (x.toNat / y.toNat), BitVec.ofNat 64 (x.toNat % y.toNat))

/-- Bits of the magnitude of the quotient, by which the latency of a division counts (R146). -/
def quoBits (sgn : Bool) (x y : Word) : Nat :=
  if y = 0 then 0 else if sgn then (x.toInt.tdiv y.toInt).natAbs.size else (x.toNat / y.toNat).size

/-- The integer conditions of R149. -/
def holdsInt (cc : Cond) (x y : Word) : Bool :=
  match cc with
  | .eq => decide (x = y)
  | .ne => decide (x ≠ y)
  | .lt => decide (x.toInt < y.toInt)
  | .ge => decide (y.toInt ≤ x.toInt)
  | .le => decide (x.toInt ≤ y.toInt)
  | .gt => decide (y.toInt < x.toInt)
  | .ltu => decide (x.toNat < y.toNat)
  | .geu => decide (y.toNat ≤ x.toNat)
  | .leu => decide (x.toNat ≤ y.toNat)
  | .gtu => decide (y.toNat < x.toNat)
  | .bs => decide (x &&& y ≠ 0)
  | .bc => decide (x &&& y = 0)
  | .un => false
  | .or => false

end Sys2Proof.Machine
end

