-- ==== Sys2Proof/Certificates/Slice0/Obligations.lean ====
section
/-! DEFINITION. The statements for the provers. `Does i e` says that the instruction i, alone in its group, completes with the effect e whenever
nothing keeps it from issuing (Safety.lean); groups of several instructions have a statement of their own. -/

open Sys2Proof Sys2Proof.Machine

/-! ## Integers, predicates, compares -/

/-- R145: an operation on two X registers completes, and the number that the rule gives lands in Xd with the rule's latency.
R146: a division marks Xd pending and delivers the quotient or the remainder after 6 + ⌈n / 2⌉ cycles. -/
def Obligations.IntegerTwoOperandsAndDivision : Prop :=
  (∀ g d a b : Nat,
     let gives (i : Instr) (l : Nat) (f : Word → Word → Word) : Prop := Does i fun o => o.gives (.x d) l (.w (f (o.xOp a) (o.xOp b)))
     gives (.add g d a b) 1 (fun x y => BitVec.ofNat 64 (x.toNat + y.toNat)) ∧
     gives (.sub g d a b) 1 (fun x y => BitVec.ofInt 64 (x.toInt - y.toInt)) ∧
     gives (.and_ g d a b) 1 (fun x y => BitVec.ofNat 64 (x.toNat &&& y.toNat)) ∧
     gives (.or_ g d a b) 1 (fun x y => BitVec.ofNat 64 (x.toNat ||| y.toNat)) ∧
     gives (.xor g d a b) 1 (fun x y => BitVec.ofNat 64 (x.toNat ^^^ y.toNat)) ∧
     gives (.andn g d a b) 1 (fun x y => x &&& ~~~ y) ∧
     gives (.shl g d a b) 1 (fun x y => BitVec.ofNat 64 (x.toNat * 2 ^ (y.toNat % 64))) ∧
     gives (.shr g d a b) 1 (fun x y => BitVec.ofNat 64 (x.toNat / 2 ^ (y.toNat % 64))) ∧
     gives (.sra g d a b) 1 (fun x y => BitVec.ofInt 64 (x.toInt / ((2 ^ (y.toNat % 64) : Nat) : Int))) ∧
     gives (.rot g d a b) 1 (fun x y => x <<< (y.toNat % 64) ||| x >>> (64 - y.toNat % 64)) ∧
     gives (.mul g d a b) 3 (fun x y => BitVec.ofNat 64 (x.toNat * y.toNat)) ∧
     gives (.mulh g d a b) 3 (fun x y => BitVec.ofInt 64 (x.toInt * y.toInt / 2 ^ 64)) ∧
     gives (.mulhu g d a b) 3 (fun x y => BitVec.ofNat 64 (x.toNat * y.toNat / 2 ^ 64)) ∧
     gives (.min g d a b) 1 (fun x y => if y.toInt < x.toInt then y else x) ∧
     gives (.max g d a b) 1 (fun x y => if x.toInt < y.toInt then y else x) ∧
     gives (.minu g d a b) 1 (fun x y => if y.toNat < x.toNat then y else x) ∧
     gives (.maxu g d a b) 1 (fun x y => if x.toNat < y.toNat then y else x)) ∧
  (∀ g d a b : Nat,
     let gives (i : Instr) (sgn : Bool) (f : Word × Word → Word) : Prop :=
       Does i fun o => o.owes (.x d) (6 + (quoBits sgn (o.xOp a) (o.xOp b) + 1) / 2) (.w (f (quoRem sgn (o.xOp a) (o.xOp b)))) 0
     gives (.div g d a b) true (·.1) ∧ gives (.divu g d a b) false (·.1) ∧ gives (.rem g d a b) true (·.2) ∧ gives (.remu g d a b) false (·.2))

/-- R145, R147: the operations on one X register, with an immediate where they have one.
R145: SEL writes Xa where Pk is true and Xb where it is false. R148: MOVI writes its immediate, MOVW sixteen bits at halfword h. -/
def Obligations.IntegerOneOperandAndConstants : Prop :=
  (∀ (g d a n : Nat) (v : Int),
     let gives (i : Instr) (l : Nat) (f : Word → Word) : Prop := Does i fun o => o.gives (.x d) l (.w (f (o.xOp a)))
     let imm : Word := BitVec.ofInt 64 v
     gives (.clz g d a) 1 (fun x => BitVec.ofNat 64 (64 - x.toNat.size)) ∧
     gives (.ctz g d a) 1 (fun x => BitVec.ofNat 64 (((List.range 64).takeWhile fun i => !x.toNat.testBit i).length)) ∧
     gives (.popc g d a) 1 (fun x => BitVec.ofNat 64 ((List.range 64).countP fun i => x.toNat.testBit i)) ∧
     gives (.brev g d a) 1 (fun x => x.reverse) ∧
     gives (.sext g d a n) 1 (fun x => BitVec.ofInt 64 (Int.bmod x.toNat (2 ^ (n + 1)))) ∧
     gives (.zext g d a n) 1 (fun x => BitVec.ofNat 64 (x.toNat % 2 ^ (n + 1))) ∧
     gives (.addi g d a v) 1 (fun x => BitVec.ofInt 64 (x.toInt + v)) ∧
     gives (.andi g d a v) 1 (fun x => x &&& imm) ∧
     gives (.ori g d a v) 1 (fun x => x ||| imm) ∧
     gives (.xori g d a v) 1 (fun x => x ^^^ imm) ∧
     gives (.shli g d a n) 1 (fun x => BitVec.ofNat 64 (x.toNat * 2 ^ (n % 64))) ∧
     gives (.shri g d a n) 1 (fun x => BitVec.ofNat 64 (x.toNat / 2 ^ (n % 64))) ∧
     gives (.srai g d a n) 1 (fun x => BitVec.ofInt 64 (x.toInt / ((2 ^ (n % 64) : Nat) : Int))) ∧
     gives (.muli g d a v) 3 (fun x => BitVec.ofInt 64 (x.toInt * v)) ∧
     gives (.mini g d a v) 1 (fun x => if imm.toInt < x.toInt then imm else x) ∧
     gives (.maxi g d a v) 1 (fun x => if x.toInt < imm.toInt then imm else x)) ∧
  (∀ (g d a b k data h : Nat) (v : Int),
     Does (.sel g d a b k) (fun o => o.gives (.x d) 1 (.w (if o.pOp k then o.xOp a else o.xOp b))) ∧
     Does (.movi g d v) (fun o => o.gives (.x d) 1 (.w (BitVec.ofInt 64 v))) ∧
     Does (.movw g d data h) (fun o => o.gives (.x d) 1 (.w (BitVec.ofNat 64 (data % 2 ^ 16 * 2 ^ (16 * h))))))

/-- R149: CMP and CMPI write the condition to P[2k] and its negation to P[2k + 1], with latency 1.
R150: a predicate operation writes its function of Pa and Pb to Pd, with latency 1. -/
def Obligations.ComparesAndPredicates : Prop :=
  (∀ (g k a b : Nat) (v : Int) (cc : Cond),
     let pair (o : State) (c : Bool) : State := (o.gives (.p (2 * k)) 1 (.b c)).gives (.p (2 * k + 1)) 1 (.b !c)
     Does (.cmp g cc k a b) (fun o => pair o (holdsInt cc (o.xOp a) (o.xOp b))) ∧
     Does (.cmpi g cc k a v) (fun o => pair o (holdsInt cc (o.xOp a) (BitVec.ofInt 64 v)))) ∧
  (∀ g d a b : Nat,
     let gives (i : Instr) (f : Bool → Bool → Bool) : Prop := Does i fun o => o.gives (.p d) 1 (.b (f (o.pOp a) (o.pOp b)))
     gives (.pand g d a b) (fun x y => x && y) ∧ gives (.por g d a b) (fun x y => x || y) ∧ gives (.pxor g d a b) (fun x y => x != y) ∧
     gives (.pandn g d a b) (fun x y => x && !y) ∧ gives (.pnot g d a) (fun x _ => !x) ∧ gives (.pmov g d a) (fun x _ => x))

/-! ## Control transfers and loops -/

/-- R75, R129, R144, R152: BR, CALL, BRX and RET go to the first group of their target, one cycle without issue between; CALL puts the return address in Xd. A target
with bits 3 to 0 or 63 to 57 set is the trap of cause 0x05, and no link is written. -/
def Obligations.BranchesTransfer : Prop :=
  ∀ (g d a : Nat) (off : Int) (s : State),
    let k := s.cur.core
    let j := s.cur.strand
    let goes (i : Instr) (t : Word) (link : List (Reg × Nat × Val)) : Prop :=
      s.ready i = true →
        (t.toNat % 16 = 0 → t.toNat < 2 ^ 57 → Ends i s fun u =>
          (u.strand k j).spc = s.spcAt k t ∧ (u.core k).gap = 1 ∧ (u.core k).run = (s.core k).run ∧
            ((u.strand k j).inflight.drop (s.strand k j).inflight.length).map (fun l => (l.dest, l.left, l.val)) = link) ∧
        ((t.toNat % 16 ≠ 0 ∨ 2 ^ 57 ≤ t.toNat) → (s.strand k j).th = false → Ends i s fun u =>
          (u.strand k j).sepc = s.cur.start ∧ (u.strand k j).sinfo = t ∧ (u.strand k j).spc = s.spcAt k ((s.strand k j).shv &&& 0xFFFFFFFFFFFFFFF0) ∧
            (u.strand k j).scause = (if t.toNat % 16 ≠ 0 then 0x050100 else 0x050200) ∧ (u.strand k j).inflight = (s.strand k j).inflight)
    goes (.br g off) (s.cur.bundle + BitVec.ofInt 64 (16 * off)) [] ∧
    goes (.call g d off) (s.cur.bundle + BitVec.ofInt 64 (16 * off)) [(.x d, 1, .w (s.cur.bundle + 16))] ∧
    goes (.brx g a) ((s.opened (.brx g a)).xOp a) [] ∧
    goes (.ret g a) ((s.opened (.ret g a)).xOp a) []

/-- R154: LOOP and LOOPI write LS, LE and LC of their level and go on at the next bundle where no other level ends at theirs; a count of zero leaves the loop at once, with
the body skipped; a count above 2^32 − 1 is the trap of cause 0x04 and writes none of the three. R156: LBRK clears the level's count and
goes on after the loop's last bundle, unless a lower level that ends there branches back.
R155, seen on a NOP that ends its group at s3 of bundle e: a level that ends at e counts down; the highest one that is not exhausted sends
the strand back to its LS, without a gap; if none is left the strand falls through. -/
def Obligations.HardwareLoops : Prop :=
  (∀ (g lvl c e n : Nat) (s : State),
     let k := s.cur.core
     let j := s.cur.strand
     let set (i : Instr) (m : Nat) : Prop :=
       s.ready i = true → m ≠ 0 → Ends i s fun u =>
         (u.strand k j).getLS lvl = (s.opened i).firstOf k (s.cur.bundle + 16) ∧ (u.strand k j).getLE lvl = s.cur.bundle + BitVec.ofNat 64 (16 * e) ∧
           (e < 2 ^ 20 → (∀ h, h < 4 → h ≠ lvl → (s.strand k j).getLC h = 0 ∨ (s.strand k j).getLE h ≠ s.cur.bundle) →
             (u.strand k j).getLC lvl = BitVec.ofNat 32 m ∧ (u.strand k j).spc = s.spcAt k s.cur.next)
     (((s.opened (.loop lvl c e)).xOp c).toNat < 2 ^ 32 → set (.loop lvl c e) ((s.opened (.loop lvl c e)).xOp c).toNat) ∧
     set (.loopi lvl n e) n ∧
     (let skips (i : Instr) : Prop :=
        s.ready i = true → (∀ m, m < lvl → (s.strand k j).getLC m = 0 ∨ (s.strand k j).getLE m ≠ s.cur.bundle + BitVec.ofNat 64 (16 * e)) → Ends i s fun u =>
          (u.strand k j).getLC lvl = 0 ∧ (u.strand k j).spc = s.spcAt k (s.cur.bundle + BitVec.ofNat 64 (16 * e) + 16) ∧ (u.core k).gap = 1
      skips (.loopi lvl 0 e) ∧ ((s.opened (.loop lvl c e)).xOp c = 0 → skips (.loop lvl c e))) ∧
     (s.ready (.loop lvl c e) = true → 2 ^ 32 ≤ ((s.opened (.loop lvl c e)).xOp c).toNat → (s.strand k j).th = false → Ends (.loop lvl c e) s fun u =>
       (u.strand k j).scause = 0x040100 ∧ (u.strand k j).sinfo = (s.opened (.loop lvl c e)).xOp c ∧ (u.strand k j).sepc = s.cur.start ∧
         (u.strand k j).ls = (s.strand k j).ls ∧ (u.strand k j).le = (s.strand k j).le ∧ (u.strand k j).lc = (s.strand k j).lc) ∧
     (s.ready (.lbrk g lvl) = true → (∀ m, m < lvl → (s.strand k j).getLC m = 0 ∨ (s.strand k j).getLE m ≠ (s.strand k j).getLE lvl) →
       Ends (.lbrk g lvl) s fun u =>
         (u.strand k j).getLC lvl = 0 ∧ (u.strand k j).spc = s.spcAt k ((s.strand k j).getLE lvl + 16) ∧ (u.core k).gap = 1)) ∧
  (∀ (g : Nat) (s : State), s.ready (.nop g) = true → s.cur.atS3 = true →
     let k := s.cur.core
     let j := s.cur.strand
     let x := s.strand k j
     let ends (m : Nat) : Prop := x.getLC m ≠ 0 ∧ x.getLE m = s.cur.bundle
     (∀ m, m < 4 → ends m → x.getLC m ≠ 1 → (∀ h, m < h → h < 4 → ¬ ends h ∨ x.getLC h = 1) →
       Ends (.nop g) s fun u => (u.strand k j).spc = s.spcAt k (x.getLS m) ∧ (u.strand k j).getLC m = x.getLC m - 1 ∧ (u.core k).gap = (s.core k).gap) ∧
     ((∀ h, h < 4 → ¬ ends h ∨ x.getLC h = 1) → Ends (.nop g) s fun u => (u.strand k j).spc = s.spcAt k s.cur.next))

/-! ## Floating point -/

/-- R159: in IEEE mode FADD, FSUB, FMUL and FFMA round the exact result of the operands once by IRM into the precision named, with latency 4;
the flags of the reads, of the operation and of the rounding come with it; that infinity times zero raises invalid beside a quiet NaN addend is the model's
choice (log entry 88). -/
def Obligations.IeeeArithmetic : Prop :=
  ∀ (g d a b : Nat) (dbl : Bool),
    let at_ (o : State) (n : Nat) : FVal := (ieeeOf dbl).decode (o.fOp n).toNat
    let gives (i : Instr) (reads : List Nat) (f : State → FVal × BitVec 5) : Prop :=
      DoesWhen i (fun o => o.me.rat = false) fun o =>
        let e := (ieeeOf dbl).encode o.me.irm (f o).1
        o.givesFl (.f d) 4 (.w (BitVec.ofNat 64 e.1)) (reads.foldl (fun fl n => fl ||| sigFlag (at_ o n)) ((f o).2 ||| e.2))
    gives (.fadd g d a b dbl) [a, b] (fun o => (at_ o a).add o.me.irm (at_ o b)) ∧
    gives (.fsub g d a b dbl) [a, b] (fun o => (at_ o a).add o.me.irm (at_ o b).neg) ∧
    gives (.fmul g d a b dbl) [a, b] (fun o => (at_ o a).mul (at_ o b)) ∧
    gives (.ffma g d a b dbl) [a, b, d] (fun o => FVal.fma o.me.irm (at_ o a) (at_ o b) (at_ o d))

/-- R165: in rational mode they, FDIV and FSQRT form the exact result of the fractions that R114 reads and round it once by RRM to FS64 (R115); Fd is
pending for the latency that the rounding gives (R117); the root of zero, of +∞ and of NaN is that value, of a negative value or −∞ the canonical NaN, each after 6
cycles. How a tie of mediant rounding between equal denominators falls is the model's choice (log entry 89). -/
def Obligations.RationalArithmetic : Prop :=
  ∀ (g d a b : Nat) (dbl : Bool),
    let gives (i : Instr) (reads : List Nat) (f : State → FVal × BitVec 5) : Prop :=
      DoesWhen i (fun o => o.me.rat = true) fun o =>
        let e := fsOf fsRep o.me.rrm (f o).1
        o.owes (.f d) e.2.2 (.w e.1) (reads.foldl (fun fl n => fl ||| (fsRead (o.fOp n)).2) ((f o).2 ||| e.2.1))
    let at_ (o : State) (n : Nat) : FVal := (fsRead (o.fOp n)).1
    gives (.fadd g d a b dbl) [a, b] (fun o => (at_ o a).add .rne (at_ o b)) ∧
    gives (.fsub g d a b dbl) [a, b] (fun o => (at_ o a).add .rne (at_ o b).neg) ∧
    gives (.fmul g d a b dbl) [a, b] (fun o => (at_ o a).mul (at_ o b)) ∧
    gives (.ffma g d a b dbl) [a, b, d] (fun o => if (at_ o d).isNan then (.nan false, 0) else FVal.fma .rne (at_ o a) (at_ o b) (at_ o d)) ∧
    DoesWhen (.fdiv g d a b dbl) (fun o => o.me.rat = true) (fun o =>
      let r := (at_ o a).div (at_ o b)
      let e := fsOf fsRep o.me.rrm r.1
      o.owes (.f d) e.2.2 (.w e.1) ((fsRead (o.fOp a)).2 ||| (fsRead (o.fOp b)).2 ||| r.2 ||| e.2.1)) ∧
    (∀ q : Quo, q.isZero = false →
      DoesWhen (.fsqrt g d a dbl) (fun o => o.me.rat = true ∧ at_ o a = .num false q) (fun o =>
        let e := roundFs fsRep o.me.rrm false (.root q)
        o.owes (.f d) e.2.2 (.w e.1) ((fsRead (o.fOp a)).2 ||| e.2.1)) ∧
      DoesWhen (.fsqrt g d a dbl) (fun o => o.me.rat = true ∧ at_ o a = .num true q) (fun o =>
        o.owes (.f d) 6 (.w fsNaN) ((fsRead (o.fOp a)).2 ||| flagNV))) ∧
    (∀ (neg : Bool) (q : Quo), q.isZero = true →
      DoesWhen (.fsqrt g d a dbl) (fun o => o.me.rat = true ∧ at_ o a = .num neg q) (fun o => o.owes (.f d) 6 (.w fsZero) (fsRead (o.fOp a)).2)) ∧
    DoesWhen (.fsqrt g d a dbl) (fun o => o.me.rat = true ∧ at_ o a = .inf false) (fun o => o.owes (.f d) 6 (.w (fsInf false)) (fsRead (o.fOp a)).2) ∧
    DoesWhen (.fsqrt g d a dbl) (fun o => o.me.rat = true ∧ at_ o a = .inf true) (fun o => o.owes (.f d) 6 (.w fsNaN) ((fsRead (o.fOp a)).2 ||| flagNV)) ∧
    (∀ sig : Bool, DoesWhen (.fsqrt g d a dbl) (fun o => o.me.rat = true ∧ at_ o a = .nan sig) (fun o => o.owes (.f d) 6 (.w fsNaN) (fsRead (o.fOp a)).2))

/-- R164: in IEEE mode FDIV rounds the exact quotient; 12 cycles in .S, 22 in .D, 6 where an operand is zero, infinite or NaN. FSQRT does so for
a positive finite operand; a negative one and −∞ give the canonical NaN and invalid after 6 cycles, +0 gives +0 and −0 gives −0. -/
def Obligations.IeeeDivideAndRoot : Prop :=
  ∀ (g d a b : Nat) (dbl : Bool),
    let at_ (o : State) (n : Nat) : FVal := (ieeeOf dbl).decode (o.fOp n).toNat
    let full : Nat := if dbl then 22 else 12
    DoesWhen (.fdiv g d a b dbl) (fun o => o.me.rat = false) (fun o =>
      let x := at_ o a
      let y := at_ o b
      let odd := x.isZero || x.isInf || x.isNan || (y.isZero || y.isInf || y.isNan)
      let e := (ieeeOf dbl).encode o.me.irm (x.div y).1
      o.owes (.f d) (if odd then 6 else full) (.w (BitVec.ofNat 64 e.1)) (sigFlag x ||| sigFlag y ||| (x.div y).2 ||| e.2)) ∧
    (∀ q : Quo, q.isZero = false →
      DoesWhen (.fsqrt g d a dbl) (fun o => o.me.rat = false ∧ at_ o a = .num false q) (fun o =>
        let e := (ieeeOf dbl).encode o.me.irm (.num false (quoSqrt q))
        o.owes (.f d) full (.w (BitVec.ofNat 64 e.1)) e.2) ∧
      DoesWhen (.fsqrt g d a dbl) (fun o => o.me.rat = false ∧ at_ o a = .num true q) (fun o =>
        o.owes (.f d) 6 (.w (BitVec.ofNat 64 ((ieeeOf dbl).encode .rne (.nan false)).1)) flagNV)) ∧
    (∀ (neg : Bool) (q : Quo), q.isZero = true →
      DoesWhen (.fsqrt g d a dbl) (fun o => o.me.rat = false ∧ at_ o a = .num neg q) (fun o =>
        o.owes (.f d) 6 (.w (BitVec.ofNat 64 (if neg then (ieeeOf dbl).sign else 0))) 0)) ∧
    DoesWhen (.fsqrt g d a dbl) (fun o => o.me.rat = false ∧ at_ o a = .inf true) (fun o => o.owes (.f d) 6 (.w (BitVec.ofNat 64 (ieeeOf dbl).qnan)) flagNV) ∧
    (∀ v : FVal, v.isNan = true ∨ v = .inf false →
      DoesWhen (.fsqrt g d a dbl) (fun o => o.me.rat = false ∧ at_ o a = v) (fun o =>
        o.owes (.f d) 6 (.w (BitVec.ofNat 64 ((ieeeOf dbl).encode .rne v).1)) (sigFlag v)))

/-- R160: in IEEE mode FMIN and FMAX return the smaller and the larger operand with latency 4. R161: FABS clears the sign, FNEG inverts it, a NaN
gives the canonical NaN; FMOV copies. R162: FCLASS writes the class mask. R166: FNUM and FDEN write the fields of FS64 as stored.
R165, R161, R162: the same in rational mode: FMIN and FMAX write the chosen value in canonical form after 6 cycles, a NaN giving way to the other
operand; FABS and FNEG act on bit 63 alone, but replace a word that reads as zero or NaN with the canonical one; FMOV copies; FCLASS reads FS64. -/
def Obligations.FloatSelectAndSign : Prop :=
  (∀ (g d a b : Nat) (dbl : Bool),
     let f := ieeeOf dbl
     let code (o : State) (n : Nat) : Nat := (o.fOp n).toNat % 2 ^ f.bits
     let sig (o : State) (n : Nat) : BitVec 5 := sigFlag (f.decode (o.fOp n).toNat)
     let less (o : State) (n m : Nat) : Bool :=
       let x := f.decode (o.fOp n).toNat
       let y := f.decode (o.fOp m).toNat
       x.lt y || (x.eqv y && x.sign && !y.sign)
     let nan (o : State) (n : Nat) : Bool := (f.decode (o.fOp n).toNat).isNan
     let chosen (o : State) (first : Bool) : Nat :=
       if nan o a && nan o b then f.qnan else if nan o a then code o b else if nan o b then code o a else if first then code o a else code o b
     let ieee (i : Instr) (e : State → State) : Prop := DoesWhen i (fun o => o.me.rat = false) e
     ieee (.fmin g d a b dbl) (fun o => o.givesFl (.f d) 4 (.w (w64 (chosen o (less o a b)))) (sig o a ||| sig o b)) ∧
     ieee (.fmax g d a b dbl) (fun o => o.givesFl (.f d) 4 (.w (w64 (chosen o (!less o a b)))) (sig o a ||| sig o b)) ∧
     ieee (.fabs g d a dbl) (fun o => o.gives (.f d) 1 (.w (w64 (if (f.decode (code o a)).isNan then f.qnan else code o a % f.sign)))) ∧
     ieee (.fneg g d a dbl) (fun o => o.gives (.f d) 1 (.w (w64 (if (f.decode (code o a)).isNan then f.qnan
       else if code o a < f.sign then code o a + f.sign else code o a - f.sign)))) ∧
     ieee (.fmov g d a dbl) (fun o => o.gives (.f d) 1 (.w (if dbl then o.fOp a else o.fOp a &&& 0xFFFFFFFF))) ∧
     ieee (.fclass g d a dbl) (fun o => o.gives (.x d) 1 (.w (w64 (classMask false dbl (o.fOp a))))) ∧
     Does (.fnum g d a dbl) (fun o => o.gives (.x d) 1 (.w (
       let (neg, e, n, _) := fsFields (o.fOp a)
       if e = 0 ∨ 57 ≤ e then 0 else if neg then BitVec.ofInt 64 (-(n : Int)) else BitVec.ofNat 64 n))) ∧
     Does (.fden g d a dbl) (fun o => o.gives (.x d) 1 (.w (
       let (_, e, _, m) := fsFields (o.fOp a)
       if e = 0 ∨ 57 ≤ e then 0 else BitVec.ofNat 64 m))) ∧
     ∀ s : State, (s.infoOf (.fnum g d a dbl)).kind = .scalar ∧ (s.infoOf (.fden g d a dbl)).kind = .scalar) ∧
  (∀ (g d a b : Nat) (dbl : Bool),
     let rat (i : Instr) (e : State → State) : Prop := DoesWhen i (fun o => o.me.rat = true) e
     let at_ (o : State) (n : Nat) : FVal := (fsRead (o.fOp n)).1
     let pick (x y : FVal) (first : Bool) : FVal := if x.isNan then y else if y.isNan then x else if first then x else y
     let fl (o : State) : BitVec 5 := (fsRead (o.fOp a)).2 ||| (fsRead (o.fOp b)).2
     let sign (o : State) (w : Word) : Word :=
       match at_ o a with
       | .nan _ => fsNaN
       | .num _ q => if q.isZero then fsZero else w
       | .inf _ => w
     rat (.fmin g d a b dbl) (fun o => o.owes (.f d) 6 (.w (fsOf fsRep .tz (pick (at_ o a) (at_ o b) ((at_ o a).lt (at_ o b)))).1) (fl o)) ∧
     rat (.fmax g d a b dbl) (fun o => o.owes (.f d) 6 (.w (fsOf fsRep .tz (pick (at_ o a) (at_ o b) (!(at_ o a).lt (at_ o b)))).1) (fl o)) ∧
     rat (.fabs g d a dbl) (fun o => o.gives (.f d) 1 (.w (sign o (o.fOp a &&& 0x7FFFFFFFFFFFFFFF)))) ∧
     rat (.fneg g d a dbl) (fun o => o.gives (.f d) 1 (.w (sign o (o.fOp a ^^^ 0x8000000000000000)))) ∧
     rat (.fmov g d a dbl) (fun o => o.gives (.f d) 1 (.w (o.fOp a))) ∧
     rat (.fclass g d a dbl) (fun o => o.gives (.x d) 1 (.w (w64 (classMask true dbl (o.fOp a))))))

/-- R167: FMAKE rounds the quotient of two signed integers to FS64. R168: FRND rounds a fraction onto denominators of at most Xb. R163: FCVT rounds
once by IRM, or by RRM into FS64: latency 4, 6 out of FS64, that of R117 into FS64. A tie between equal denominators (log entry 89) and the invalid flag of a signalling
NaN that goes into FS64 (log entry 90) are the model's choices. -/
def Obligations.FloatConversions : Prop :=
  ∀ (g d a b : Nat) (dbl : Bool),
    Does (.fmake g d a b dbl) (fun o =>
      let r := (fvalOfInt (o.xOp a).toInt).div (fvalOfInt (o.xOp b).toInt)
      let e := fsOf fsRep o.me.rrm r.1
      o.owes (.f d) e.2.2 (.w e.1) (r.2 ||| e.2.1)) ∧
    Does (.frnd g d a b dbl) (fun o =>
      let x := fsRead (o.fOp a)
      let m := (o.xOp b).toNat
      let e := fsOf (if m = 0 ∨ 2 ^ 56 - 1 ≤ m then fsRep else fun n k => fsRep n k && decide (k ≤ m)) o.me.rrm x.1
      o.owes (.f d) e.2.2 (.w e.1) (x.2 ||| e.2.1)) ∧
    (∀ src dst : Nat,
      let isInt (t : Nat) : Bool := decide (2 ≤ t) && decide (t ≤ 5)
      let rd : Reg := if isInt dst then .x d else .f d
      let x (o : State) : FVal × BitVec 5 := cvtIn src (if isInt src then o.xOp a else o.fOp a)
      (dst = 6 → Does (.fcvt g d a src dst) fun o => let e := fsOf fsRep o.me.rrm (x o).1; o.owes rd e.2.2 (.w e.1) ((x o).2 ||| e.2.1)) ∧
      (dst ≠ 6 → Does (.fcvt g d a src dst) fun o =>
        let e := if isInt dst then cvtToInt dst o.me.irm (x o).1 else (w64 ((ieeeOf (dst == 1)).encode o.me.irm (x o).1).1, ((ieeeOf (dst == 1)).encode o.me.irm (x o).1).2)
        if src = 6 then o.owes rd 6 (.w e.1) ((x o).2 ||| e.2) else o.givesFl rd 4 (.w e.1) ((x o).2 ||| e.2)))

/-- R151: FCMP writes the pair of a comparison of two floating data, unordered where either is NaN, with latency 2 in IEEE mode and 4 in rational
mode; the ordering conditions raise invalid for any NaN, the others for a signalling one or one that R114 reads as invalid. -/
def Obligations.FloatCompare : Prop :=
  ∀ (g k a b : Nat) (cc : Cond),
    let pair (o : State) (l : Nat) (c : Bool) (fl : BitVec 5) : State := (o.givesFl (.p (2 * k)) l (.b c) fl).gives (.p (2 * k + 1)) l (.b !c)
    let holds (x y : FVal) : Bool :=
      if x.isNan || y.isNan then cc == .un || cc == .ne
      else match cc with
        | .eq => x.eqv y | .ne => !x.eqv y | .lt => x.lt y | .ge => !x.lt y | .le => !y.lt x | .gt => y.lt x | .or => true | _ => false
    let inv (x y : FVal) : BitVec 5 := if (cc == .lt || cc == .ge || cc == .le || cc == .gt) && (x.isNan || y.isNan) then flagNV else 0
    DoesWhen (.fcmp g cc k a b) (fun o => o.me.rat = false) (fun o =>
      let x := ieee64.decode (o.fOp a).toNat
      let y := ieee64.decode (o.fOp b).toNat
      pair o 2 (holds x y) (sigFlag x ||| sigFlag y ||| inv x y)) ∧
    DoesWhen (.fcmp g cc k a b) (fun o => o.me.rat = true) (fun o =>
      let x := fsRead (o.fOp a)
      let y := fsRead (o.fOp b)
      pair o 4 (holds x.1 y.1) (x.2 ||| y.2 ||| inv x.1 y.1))

/-! ## Pointers, registers by number, counters -/

/-- R249: AADD adds Xb to a pointer, ASET loads one, and AMSET writes a descriptor whose control word is legal; an illegal one is the access operand
fault with detail 1, and the descriptor stays. No update faults: whatever pointer and descriptor hold, a load whose byte can be read moves its pointer by
R250 or R251 and traps nowhere. -/
def Obligations.PointersAndDescriptors : Prop :=
  ∀ g d a b : Nat,
    let legal (c : Word) : Prop :=
      bits c 63 62 ≠ 3 ∧ bits c 61 56 = 0 ∧
        (bits c 63 62 = 2 → bits c 55 37 = 0 ∧ 1 ≤ bits c 36 32 ∧ bits c 36 32 ≤ 24 ∧ ∃ z, z ≤ 20 ∧ bits c 31 0 = 2 ^ z)
    Does (.aadd g d a b) (fun o => o.gives (.a d) 1 (.w (o.aOp a + o.xOp b))) ∧
    Does (.aset g d a) (fun o => o.gives (.a d) 1 (.w (o.xOp a))) ∧
    DoesWhen (.amset g d a b) (fun o => legal (o.xOp a)) (fun o => o.gives (.am d) 1 (.am (o.xOp a) (o.xOp b))) ∧
    (∀ s : State, s.ready (.amset g d a b) = true → ¬ legal ((s.opened (.amset g d a b)).xOp a) →
      Ends (.amset g d a b) s fun u =>
        (u.strand s.cur.core s.cur.strand).am = (s.strand s.cur.core s.cur.strand).am ∧
        ((s.strand s.cur.core s.cur.strand).th = false →
          (u.strand s.cur.core s.cur.strand).scause = 0x0C0100 ∧ (u.strand s.cur.core s.cur.strand).sepc = s.cur.start ∧
            (u.strand s.cur.core s.cur.strand).sinfo = (s.opened (.amset g d a b)).xOp a)) ∧
    (∀ (oc p n : Nat) (u : Upd) (f : Int) (s v : State) (bs : List Byte) (po : Bool),
      let i : Instr := .ldB g oc p n u f
      let o := s.opened i
      let at_ := o.accessAt p u f 1
      s.ready i = true → o.loadBytes s.cur.core s.cur.strand oc at_ 1 = .ok (v, bs, po) →
        exec i s = .next (s.after i (o.pointerMoves p u f 1 at_
          (v.result s.cur.core s.cur.strand (.x n) (if spaceOf at_ = .scr then 5 else 7) (.w (BitVec.ofNat 64 (ofLE bs))) 0 po))))

/-- R136, R169: SYSRD delivers, with latency 2, the register that the number names: each register of the table, as it stands.
R351, R353: CNTRD and CNTRDC deliver, with latency 2, the counter as the last cycle left it, or with bit 11 of the number the snapshot's value;
CNTRDC adds CYC. R354: CNTSNAP has its snapshot taken when its cycle has ended. R173: NOP does nothing. R172: CMPT of equal registers does nothing. -/
def Obligations.RegisterAndCounterReads : Prop :=
  (∀ (g d n : Nat),
     let gives (m : Nat) (f : State → Word) : Prop := n = m → Does (.sysrd g d n) fun o => o.gives (.x d) 2 (.w (f o))
     gives 0 (fun o => o.cur.start) ∧ gives 1 (fun o => o.me.sst) ∧ gives 2 (fun o => o.me.scfg) ∧ gives 3 (fun o => o.me.scause) ∧
     gives 4 (fun o => o.me.sepc) ∧ gives 5 (fun o => o.me.sinfo) ∧ gives 6 (fun o => o.me.shv) ∧
     (∀ k, k < 4 → gives (0x10 + k) (fun o => o.me.getLS k) ∧ gives (0x14 + k) (fun o => o.me.getLE k) ∧
       gives (0x18 + k) (fun o => (o.me.getLC k).zeroExtend 64)) ∧
     (∀ k, k < 16 → gives (0x30 + k) (fun o => o.me.getA k) ∧ gives (0x40 + k) (fun o => (o.me.getAM k).1) ∧ gives (0x50 + k) (fun o => (o.me.getAM k).2)) ∧
     (∀ k, k < 32 → gives (0x100 + k) (fun o => (mget (o.core o.cur.core).bfmt k 0).zeroExtend 64)) ∧
     gives 0x120 (fun o => (o.core o.cur.core).gtol)) ∧
  (∀ g d n a b : Nat,
     let snapped (o : State) : Word := match o.me.snap with | some m => mget m (n - 0x800) 0 | none => 0
     let value (o : State) : Word := if 0x800 ≤ n ∧ n ≠ 0xFFF then snapped o else o.counter false o.cur.core o.cur.strand n
     Does (.cntrd g d n) (fun o => o.gives (.x d) 2 (.w (value o))) ∧
     Does (.cntrdc g d n) (fun o => (o.gives (.x d) 2 (.w (value o))).gives (.x (d + 1)) 2 (.w (BitVec.ofNat 64 o.now))) ∧
     Does (.cntsnap g) (fun o => o.modStrand o.cur.core o.cur.strand fun x => { x with snapReq := true }) ∧
     Does (.nop g) (fun o => o) ∧
     DoesWhen (.cmpt g 0 a b) (fun o => o.xOp a = o.xOp b) (fun o => o) ∧
     DoesWhen (.cmpt g 1 a b) (fun o => o.fOp a = o.fOp b) (fun o => o) ∧
     DoesWhen (.cmpt g 2 a b) (fun o => ∀ i, i < 8 * o.me.rowb → (o.vOp a).toNat.testBit i = (o.vOp b).toNat.testBit i) (fun o => o))

/-! ## Traps, returns, the end of a strand -/

/-- R130, R131, R136, R137: SYSWR has written, when its cycle's issue ends, the bits that the register lets software write, and nothing where the
register is read-only. -/
def Obligations.SystemRegisterWrite : Prop :=
  ∀ (g d n : Nat) (s : State), s.ready (.syswr g d n) = true →
    let k := s.cur.core
    let j := s.cur.strand
    let w := (s.opened (.syswr g d n)).xOp d
    let x := s.strand k j
    let sets (m : Nat) (p : State → Prop) : Prop := n = m → Ends (.syswr g d n) s p
    sets 1 (fun u => (u.strand k j).sst = setBits x.sst 4 0 (w.toNat % 32)) ∧
    sets 2 (fun u => bits (u.strand k j).scfg 63 16 = bits x.scfg 63 16 ∧ bits (u.strand k j).scfg 3 0 = bits x.scfg 3 0 ∧
      bits (u.strand k j).scfg 15 15 = bits w 15 15 ∧ bits (u.strand k j).scfg 11 10 = bits w 11 10 ∧
      bits (u.strand k j).scfg 14 12 = (if bits w 14 12 ≤ 4 then bits w 14 12 else bits x.scfg 14 12) ∧
      bits (u.strand k j).scfg 9 4 = (if acctCode (bits w 9 4) then bits w 9 4 else bits x.scfg 9 4)) ∧
    sets 3 (fun u => (u.strand k j).scause = w &&& 0xFFFF07) ∧
    sets 4 (fun u => (u.strand k j).sepc = w &&& 0x1FFFFFFFFFFFFFC) ∧
    sets 5 (fun u => (u.strand k j).sinfo = w) ∧
    sets 6 (fun u => (u.strand k j).shv = w &&& 0xFFFFFFFFFFFFFFF0) ∧
    (∀ m, m < 4 → sets (0x10 + m) (fun u => (u.strand k j).getLS m = w) ∧ sets (0x14 + m) (fun u => (u.strand k j).getLE m = w) ∧
      sets (0x18 + m) (fun u => (u.strand k j).getLC m = w.setWidth 32)) ∧
    (∀ m, m < 32 → sets (0x100 + m) (fun u => fmtOk (w.toNat % 64) = true → mget (u.core k).bfmt m 0 = w.setWidth 32 &&& 0xFFFF00BF)) ∧
    sets 0x120 (fun u => (u.core k).gtol = w &&& 0xFFFFFFFF) ∧
    ((n = 0 ∨ (0x30 ≤ n ∧ n < 0x60)) → Ends (.syswr g d n) s fun u =>
      (u.strand k j).a = x.a ∧ (u.strand k j).am = x.am ∧ (s.cur.atS3 = false → (u.strand k j).spc = s.spcAt k s.cur.next))

/-- R133, R170: TRAP n takes cause 0x06 with detail n: SEPC names its group, TH is set, the handler's address is SHV, and SINFO names the group after
it; where it ends at s3 of a bundle in which no loop ends, that is the first group of the next bundle. -/
def Obligations.SoftwareTrap : Prop :=
  ∀ (g n : Nat) (s : State), s.ready (.trap g n) = true → n < 256 → (s.strand s.cur.core s.cur.strand).th = false →
    (s.cur.atS3 = true → ∀ m, m < 4 → (s.strand s.cur.core s.cur.strand).getLC m = 0 ∨ (s.strand s.cur.core s.cur.strand).getLE m ≠ s.cur.bundle) →
    Ends (.trap g n) s fun u =>
      let x := s.strand s.cur.core s.cur.strand
      let y := u.strand s.cur.core s.cur.strand
      y.sepc = s.cur.start ∧ y.scause = BitVec.ofNat 64 (0x060000 + n * 256) ∧ y.th = true ∧ y.spc = s.spcAt s.cur.core (x.shv &&& 0xFFFFFFFFFFFFFFF0) ∧
        y.sinfo = s.spcAt s.cur.core s.cur.next ∧ y.st = .ready ∧ y.landFirst = true ∧ (u.core s.cur.core).run = none ∧
        y.x = x.x ∧ y.f = x.f ∧ y.p = x.p ∧ y.v = x.v ∧ y.l = x.l ∧ y.a = x.a ∧ u.mem = s.mem ∧ y.cTrpc = x.cTrpc + 1

/-- R133, R171: ERET with TH = 1 clears TH and goes to SEPC with the timing of a taken branch; with TH = 0 it is the trap of cause 0x07, detail 1.
R174: EXIT outside task mode seals the row and leaves the strand inactive; in task mode it is the trap of cause 0x07, detail 2. -/
def Obligations.ReturnAndExit : Prop :=
  ∀ (g : Nat) (s : State),
    let k := s.cur.core
    let j := s.cur.strand
    let x := s.strand k j
    (s.ready (.eret g) = true → x.th = true → Ends (.eret g) s fun u =>
      (u.strand k j).spc = s.spcAt k x.sepc ∧ (u.strand k j).sst = setBits x.sst 30 30 0 ∧ (u.core k).gap = 1 ∧ (u.core k).run = (s.core k).run ∧ (u.strand k j).x = x.x) ∧
    (s.ready (.eret g) = true → x.th = false → Ends (.eret g) s fun u =>
      (u.strand k j).sepc = s.cur.start ∧ (u.strand k j).scause = 0x070100 ∧ (u.strand k j).th = true) ∧
    (s.ready (.exit g) = true → x.tm = false → Ends (.exit g) s fun u =>
      (u.strand k j).st = .inactive ∧ (u.strand k j).rown = x.rown + 1 ∧ (u.strand k j).watch = none ∧ (u.strand k j).x = x.x ∧ (u.core k).run = none) ∧
    (s.ready (.exit g) = true → x.tm = true → x.th = false → Ends (.exit g) s fun u =>
      (u.strand k j).sepc = s.cur.start ∧ (u.strand k j).scause = 0x070200 ∧ (u.strand k j).th = true)

/-! ## Loads, stores, the constant path, atomics -/

/-- R251, R252: a load whose bytes can be read (R253: its address is mapped, nothing of its class is held back, its line is at hand) delivers them
zero-extended, least significant first, with latency 5 from scratchpad and 7 otherwise; the pointer moves as its form says.
R199, R253: what a load reads in scratchpad: the bytes of the near array, where no store or atomic of the strand is buffered or on its way and no latent
error is met. R207: of a byte that the strand's row buffer holds a store to, a load within one line takes the youngest such store, whatever memory has. -/
def Obligations.LoadsDeliverBytes : Prop :=
  (∀ (g oc p d : Nat) (dbl : Bool) (u : Upd) (f : Int) (s v : State) (bs : List Byte) (po : Bool),
     let loads (i : Instr) (n : Nat) (r : Reg) : Prop :=
       let o := s.opened i
       let a := o.accessAt p u f n
       s.ready i = true → o.loadBytes s.cur.core s.cur.strand oc a n = .ok (v, bs, po) →
         exec i s = .next (s.after i (o.pointerMoves p u f n a
           (v.result s.cur.core s.cur.strand r (if spaceOf a = .scr then 5 else 7) (.w (BitVec.ofNat 64 (ofLE bs))) 0 po)))
     loads (.ldB g oc p d u f) 1 (.x d) ∧ loads (.ldH g oc p d u f) 2 (.x d) ∧ loads (.ldW g oc p d u f) 4 (.x d) ∧
     loads (.ldD g oc p d u f) 8 (.x d) ∧ loads (.ldf g oc p dbl d u f) (if dbl then 8 else 4) (.f d)) ∧
  (∀ (s : State) (k i c n off : Nat) (a : Word),
     spaceOf a = .scr → (s.core k).scrOff a n = some off → 0 < n → (s.strand k i).heldBack c = [] → (s.strand k i).rows = [] → (s.core k).nearErr = [] →
     (∀ e ∈ s.waiting k, e.strand ≠ i) → (∀ e ∈ (s.tower (towerOf k)).out, e.1 = k → e.2.strand ≠ i) →
       ∃ po, s.loadBytes k i c a n = .ok (s, rdBytes (s.core k).near off n, po)) ∧
  (∀ (s v : State) (k i c n : Nat) (a : Word) (p : Part) (bs : List Byte) (po : Bool),
     s.parts k a n false = .ok [p] → (s.strand k i).heldBack c = [] → s.readPart k i c p = .ok (v, bs, po) → (v.core k).errs = [] →
       ∃ bs' po', s.loadBytes k i c a n = .ok (v, bs', po') ∧ bs'.length = bs.length ∧ ∀ j, j < bs.length →
         let held := (v.strand k i).rows.filter fun l => l.phys == p.line && l.mask.getLsbD ((p.pa + j) % 64)
         bs'.getD j 0 = match held.getLast? with
           | some l => l.data.extractLsb' (8 * ((p.pa + j) % 64)) 8
           | none => bs.getD j 0)

/-- R251, R252, R253: a store that its class can take (R207: room in the row buffer; R253: room in the store queue) completes: the low bytes of its
register go to its address, least significant first, and the pointer moves. -/
def Obligations.StoresComplete : Prop :=
  ∀ (g oc p d : Nat) (dbl : Bool) (u : Upd) (f : Int) (s v : State),
    let stores (i : Instr) (n : Nat) (w : State → Word) : Prop :=
      let o := s.opened i
      let a := o.accessAt p u f n
      s.ready i = true → o.storeBytes s.cur.core s.cur.strand oc a ((List.range n).map fun j => BitVec.ofNat 8 ((w o).toNat / 256 ^ j)) = .ok v →
        exec i s = .next (s.after i (o.pointerMoves p u f n a v))
    stores (.stB g oc p d u f) 1 (·.xOp d) ∧ stores (.stH g oc p d u f) 2 (·.xOp d) ∧ stores (.stW g oc p d u f) 4 (·.xOp d) ∧
    stores (.stD g oc p d u f) 8 (·.xOp d) ∧ stores (.stf g oc p dbl d u f) (if dbl then 8 else 4) (·.fOp d)

/-- R253, the frame of a store: at its issue it is buffered or queued, so that no byte of the near array or of memory changes, nor a register; one of
classes 1 to 15 to scratchpad, with room in the queue, completes with its bytes queued, one by one, from the offset of its address on, as many as its size. A queued
scratchpad store that performs changes exactly the bytes it carries, at the offset it carries. R279, R280: a global store of this device's memory that leaves the queue is on
its tower's way home, with its bytes, and changes no byte of memory yet; one of host memory, and a write that reaches home (a drained line's among them), change exactly the
bytes they carry, at the address they carry; a peer's memory is not this one's. R261, R262: an atomic or a reduction of a word of this device, of which no copy and no write
is left anywhere, changes exactly that word, to what R259 gives. That a store performs in these stages is the model's reading (log entry 93). -/
def Obligations.StoreFrame : Prop :=
  (∀ (g oc p d : Nat) (u : Upd) (f : Int) (s : State),
    let k := s.cur.core
    let j := s.cur.strand
    let frame (i : Instr) (n : Nat) : Prop :=
      let o := s.opened i
      let a := o.accessAt p u f n
      (∀ t, s.ready i = true → exec i s = .next t →
        (∀ x, rdByte (t.core k).near x = rdByte (s.core k).near x) ∧ (∀ x, rdByte t.mem x = rdByte s.mem x) ∧
        (t.strand k j).x = (s.strand k j).x ∧ (t.strand k j).f = (s.strand k j).f ∧ (t.strand k j).p = (s.strand k j).p ∧
        (t.strand k j).l = (s.strand k j).l ∧ (t.strand k j).v = (s.strand k j).v ∧ (t.strand k j).a = (s.strand k j).a ∧ (t.strand k j).am = (s.strand k j).am) ∧
      (∀ off, s.ready i = true → oc ≠ 0 → spaceOf a = .scr → (s.core k).scrOff a n = some off → (s.strand k j).xlinv = none → (s.core k).sqLen ≤ 30 →
        Ends i s fun t => ∃ es, (t.core k).sq = (s.core k).sq ++ es ∧
          (∀ e ∈ es, e.kind = .store ∧ e.scr = true ∧ e.cls = oc ∧ e.strand = j ∧ e.pois = false) ∧
          es.flatMap (fun e => (List.range e.bytes.length).map fun x => (e.pa + x, e.bytes.getD x 0)) =
            (List.range n).map fun x => (off + x, BitVec.ofNat 8 ((o.xOp d).toNat / 256 ^ x)))
    frame (.stB g oc p d u f) 1 ∧ frame (.stH g oc p d u f) 2 ∧ frame (.stW g oc p d u f) 4 ∧ frame (.stD g oc p d u f) 8) ∧
  (∀ (s : State) (k : Nat) (e : SqEntry), e.scr = true → e.kind = .store → Memory.wf (s.core k).near = true →
    (∀ x, rdByte ((s.performEntry k e).core k).near x = (if e.pa ≤ x ∧ x < e.pa + e.bytes.length then e.bytes.getD (x - e.pa) 0 else rdByte (s.core k).near x)) ∧
    (s.performEntry k e).mem = s.mem ∧ ∀ i, (s.performEntry k e).strand k i = s.strand k i) ∧
  (∀ (s : State) (k : Nat) (e : SqEntry), e.scr = false → e.kind = .store → Memory.wf s.mem = true →
    (region e.pa = 0 → (∃ z ∈ ((s.performEntry k e).tower (towerOf k)).out, z.1 = k ∧ z.2.pa = e.pa ∧ z.2.bytes = e.bytes ∧ z.2.cls = e.cls ∧ z.2.strand = e.strand) ∧
      (s.performEntry k e).mem = s.mem) ∧
    (region e.pa = 1 → (s.performEntry k e).mem = s.mem) ∧
    (region e.pa = 2 → ∀ x, rdByte (s.performEntry k e).mem x = (if e.pa ≤ x ∧ x < e.pa + e.bytes.length then e.bytes.getD (x - e.pa) 0 else rdByte s.mem x))) ∧
  (∀ (s : State) (t : Nat) (e : Nat × SqEntry), Memory.wf s.mem = true → ∀ x,
    rdByte (s.sendHome t e).mem x =
      (if region e.2.pa ≠ 1 ∧ e.2.pa ≤ x ∧ x < e.2.pa + e.2.bytes.length then e.2.bytes.getD (x - e.2.pa) 0 else rdByte s.mem x)) ∧
  (∀ (s : State) (k : Nat) (e : SqEntry),
    let n : Nat := if e.dbl then 8 else 4
    let new := aopNew e.op (8 * n) (ofLE (rdBytes s.mem e.pa n)) (e.operand.toNat % 256 ^ n) (e.comparand.toNat % 256 ^ n)
    e.scr = false → e.kind ≠ .store → region e.pa = 0 → s.migrating e.pa = false → Memory.wf s.mem = true → (∀ c ∈ s.cores, c.2.l1 = []) → (∀ t ∈ s.towers, t.2.out = []) →
      (new = none → (s.performEntry k e).mem = s.mem) ∧
      ∀ w, new = some w → ∀ x,
        rdByte (s.performEntry k e).mem x = (if e.pa ≤ x ∧ x < e.pa + n then BitVec.ofNat 8 (w / 256 ^ (x - e.pa)) else rdByte s.mem x))

/-- R257: LDK of an aligned global doubleword that the constant path has delivered completes with latency 7; what it returns is a value that the doubleword held
since the strand's begin point. R258: KINV moves the begin point to the present once the strand's accesses, its core's drained lines and its tower's writes are home.
That it freezes the core until then is the model's choice (log entry 93). -/
def Obligations.ConstantPath : Prop :=
  ∀ (g p d : Nat) (u : Upd) (f : Int),
    (∀ (s : State) (e : Tlb) (fl : Fill),
      let i : Instr := .ldk g p d u f
      let o := s.opened i
      let a := o.accessAt p u f 8
      s.ready i = true → spaceOf a = .glob → a.toNat % 8 = 0 → o.reached s.cur.core a = .ok e → (o.strand s.cur.core s.cur.strand).heldBack 16 = [] →
        (o.core s.cur.core).fill? (.konst (e.pa a.toNat)) = some fl →
          let far := decide (region (e.pa a.toNat) = 1)
          let bs := if far then fl.bytes else o.constBytes s.cur.core s.cur.strand (e.pa a.toNat)
          let po := if far then fl.poison else o.poisoned (e.pa a.toNat) 8
          exec i s = .next (s.after i (o.pointerMoves p u f 8 a (o.result s.cur.core s.cur.strand (.x d) 7 (.w (BitVec.ofNat 64 (ofLE bs))) 0 po)))) ∧
    (∀ (s : State) (k i pa : Nat), ∃ w, w ≤ s.past.length - s.beginAt k i ∧ s.constBytes k i pa = s.backBytes w pa 8) ∧
    (∀ (s : State) (pa n : Nat), s.backBytes 0 pa n = rdBytes s.mem pa n) ∧
    (let home (o : State) : State := (o.release o.cur.core o.cur.strand).pushHome (towerOf o.cur.core) fun _ => true
     let got (o : State) : Prop := (home o).released o.cur.core o.cur.strand = true ∧ ((home o).tower (towerOf o.cur.core)).out = []
     DoesWhen (.kinv g) got (fun o => (home o).modStrand o.cur.core o.cur.strand fun x => { x with kmem := some (home o).past.length }) ∧
     ∀ s : State, s.ready (.kinv g) = true → ¬ got (s.opened (.kinv g)) → Ends (.kinv g) s fun t =>
       (t.core s.cur.core).frozen.isSome = true ∧ (t.strand s.cur.core s.cur.strand).kmem = (s.strand s.cur.core s.cur.strand).kmem)

/-- R259, R261: an atomic on a scratchpad word that performs delivers the old value to its register, and the word receives the new one: the row of the table that
its code names; no other byte changes. R260: a reduction does the same without the delivery. -/
def Obligations.ScratchpadAtomics : Prop :=
  ∀ (s : State) (k : Nat) (e : SqEntry),
    let n : Nat := if e.dbl then 8 else 4
    let old : Nat := ofLE (rdBytes (s.core k).near e.pa n)
    let put : State := match aopNew e.op (8 * n) old (e.operand.toNat % 256 ^ n) (e.comparand.toNat % 256 ^ n) with
      | some w => s.modCore k fun y => { y with near := wrBytes y.near e.pa (toLE n w) }
      | none => s
    e.scr = true → (s.core k).nearErr = [] → (s.core k).nearPois = [] →
      (e.kind = .red → s.performEntry k e = put) ∧
      (e.kind = .amo → s.performEntry k e = put.resolve k e.strand e.tag (BitVec.ofNat 64 old) (max s.now e.due) false) ∧
      (∀ w, e.kind = .amo ∨ e.kind = .red → Memory.wf (s.core k).near = true → aopNew e.op (8 * n) old (e.operand.toNat % 256 ^ n) (e.comparand.toNat % 256 ^ n) = some w →
        ∀ x, rdByte ((s.performEntry k e).core k).near x = (if e.pa ≤ x ∧ x < e.pa + n then BitVec.ofNat 8 (w / 256 ^ (x - e.pa)) else rdByte (s.core k).near x))

/-- R253, R259 to R261: an atomic or a reduction on an aligned address, in scratchpad or global, whose page it may write, completes: it is posted to the store queue
with its operand and, for CAS, its comparand; Xd of an atomic is pending until it performs. A reduction needs room in the queue. Neither changes memory or
scratchpad at its issue. -/
def Obligations.PostedAtomics : Prop :=
  ∀ (g oc p d q : Nat) (op : Aop) (dbl : Bool) (s : State) (pt : Part),
    let n : Nat := if dbl then 8 else 4
    let k := s.cur.core
    let j := s.cur.strand
    (let i : Instr := .amo g oc p d q op dbl
     let o := s.opened i
     s.ready i = true → o.atomPart k j (o.aOp p) n = .ok pt → Ends i s fun t =>
      (∃ e ∈ (t.core k).sq, e.kind = .amo ∧ e.scr = pt.scr ∧ e.pa = pt.pa ∧ e.cls = oc ∧ e.op = op ∧ e.dbl = dbl ∧ e.operand = o.xOp q ∧
        (op = .cas → e.comparand = o.xOp d) ∧ ∃ z ∈ (t.strand k j).pend, z.tag = e.tag ∧ z.dests = [.x d] ∧ z.due = none) ∧
        t.mem = s.mem ∧ (t.core k).near = (s.core k).near) ∧
    (let i : Instr := .red g oc p q op dbl
     let o := s.opened i
     s.ready i = true → o.atomPart k j (o.aOp p) n = .ok pt → (o.core k).sqLen < 32 → Ends i s fun t =>
      (∃ e ∈ (t.core k).sq, e.kind = .red ∧ e.scr = pt.scr ∧ e.pa = pt.pa ∧ e.cls = oc ∧ e.op = op ∧ e.dbl = dbl ∧ e.operand = o.xOp q) ∧
        t.mem = s.mem ∧ (t.core k).near = (s.core k).near)

/-- R263, R264: a FENCE of a scope above strand, and FENCE.D, note a mark that holds back later accesses of the classes named until its actions end; a
FENCE of strand scope does nothing. R265: ROW closes the strand's row once: not again after a rewind to its group. -/
def Obligations.FencesAndRows : Prop :=
  ∀ g m sc : Nat,
    Does (.fence g m 0) (fun o => o) ∧
    (sc ≠ 0 → Does (.fence g m sc) fun o => o.fenceMark o.cur.core o.cur.strand m sc false) ∧
    Does (.fenceD g) (fun o => o.fenceMark o.cur.core o.cur.strand 0xFFFF 5 true) ∧
    DoesWhen (.row g) (fun o => o.me.rown = o.me.restart.row) (fun o => o.modStrand o.cur.core o.cur.strand fun x => { x with rown := x.rown + 1 }) ∧
    (∀ s : State, s.ready (.row g) = true → (s.opened (.row g)).me.rown ≠ (s.opened (.row g)).me.restart.row → Ends (.row g) s fun t =>
      (t.strand s.cur.core s.cur.strand).rown = (s.strand s.cur.core s.cur.strand).rown)

/-- R266: WATCH of a mapped global line of this device, which its gauge admits or whose bytes have come (R357), arms the strand's watch with the line's 64 bytes. R267: WAITW goes on, and disarms, where no watch
is armed or it has been triggered; it parks on an entered watch that has not. -/
def Obligations.WatchAndWait : Prop :=
  ∀ (g p : Nat) (u : Upd) (f : Int) (s : State),
    let k := s.cur.core
    let j := s.cur.strand
    (∀ e : Tlb,
      let i : Instr := .watch g p u f
      let o := s.opened i
      let a := o.accessAt p u f 64
      let line := e.pa a.toNat / 64
      s.ready i = true → spaceOf a = .glob → o.mapped k a false = .ok e → (o.strand k j).heldBack 0 = [] → region (line * 64) ≠ 1 →
        (o.umbraMay (o.jobOf k) (line * 64) 64 false = true ∨ ((o.core k).fill? (.direct (line * 64) 64 0)).isSome = true) → Ends i s fun t =>
        ∃ w, (t.strand k j).watch = some w ∧ w.line = line ∧ w.snap = rdBytes s.mem (line * 64) 64 ∧ w.triggered = false ∧
          (w.entered = true ↔ ((o.disarm k j).tower (towerOf k)).waits.length < 1024)) ∧
    (s.ready (.waitw g) = true → (s.strand k j).watch = none → exec (.waitw g) s = .next (s.after (.waitw g) (s.opened (.waitw g)))) ∧
    (∀ w : Watch, s.ready (.waitw g) = true → (s.strand k j).watch = some w → w.triggered = true → Ends (.waitw g) s fun t => (t.strand k j).watch = none) ∧
    (∀ w : Watch, s.ready (.waitw g) = true → (s.strand k j).watch = some w → w.triggered = false → w.entered = true → Ends (.waitw g) s fun t =>
      (t.strand k j).st = .parked .watch ∧ (t.strand k j).watch = some w)

/-- R327: TLOOK delivers the slot of the entry with key Xa, or 2^63, with latency 2; TSET enters a key with its slot, taking the slot from any other key, or meets the table
operand fault: detail 1 for a key of zero or a slot that the launch has not, 2 for a new key in a full table; TCLR removes the entry of a key, TINV every
entry. R337: XLINV first performs the strand's earlier direct accesses at device scope; then the job's mappings of the address in Xa, or all of them, are in no translation cache of the
device, and the strand waits for the drop's acknowledgement; an Xb above 1 is the table operand fault, detail 8. -/
def Obligations.TagsAndTranslations : Prop :=
  (∀ g d a b : Nat,
    let tag (o : State) (key : Word) : Option Nat := ((o.core o.cur.core).tags.find? fun e => e.1 == key).map (·.2)
    let slot (o : State) : Prop := o.xOp a ≠ 0 ∧ (o.xOp b).toNat < 256 ∧ (o.xOp b).toNat < (o.core o.cur.core).scr * 32768 / 4096
    let room (o : State) : Prop := (tag o (o.xOp a)).isSome ∨ (o.core o.cur.core).tags.length < 256
    let faults (i : Instr) (c : State → Prop) (n : Nat) (w : State → Word) : Prop :=
      ∀ s : State, s.ready i = true → c (s.opened i) → (s.strand s.cur.core s.cur.strand).th = false → Ends i s fun u =>
        (u.strand s.cur.core s.cur.strand).scause = BitVec.ofNat 64 (0x0F0000 + n * 256) ∧ (u.strand s.cur.core s.cur.strand).sinfo = w (s.opened i) ∧
          (u.strand s.cur.core s.cur.strand).sepc = s.cur.start ∧ (u.core s.cur.core).tags = (s.core s.cur.core).tags
    Does (.tlook g d a) (fun o => o.gives (.x d) 2 (.w (match tag o (o.xOp a) with | some n => BitVec.ofNat 64 n | none => 0x8000000000000000))) ∧
    DoesWhen (.tset g a b) (fun o => slot o ∧ room o) (fun o => o.modCore o.cur.core fun c =>
      { c with tags := (c.tags.filter fun e => e.1 != o.xOp a && e.2 != (o.xOp b).toNat) ++ [(o.xOp a, (o.xOp b).toNat)] }) ∧
    faults (.tset g a b) (fun o => ¬ slot o) 1 (·.xOp b) ∧
    faults (.tset g a b) (fun o => slot o ∧ ¬ room o) 2 (·.xOp a) ∧
    Does (.tclr g a) (fun o => o.modCore o.cur.core fun c => { c with tags := c.tags.filter fun e => e.1 != o.xOp a }) ∧
    Does (.tinv g) (fun o => o.modCore o.cur.core fun c => { c with tags := [] }) ∧
    (let i : Instr := .xlinv g a b
     let push (o : State) : State := o.loadPush o.cur.core o.cur.strand 15 0 0 false
     let drops (o : State) (e : Tlb) : Bool := e.job == o.jobOf o.cur.core && (o.xOp b == 1 || e.vpn == (o.xOp a).toNat / 2 ^ e.bits)
     DoesWhen i (fun o => (o.xOp b).toNat ≤ 1 ∧ o.me.xlinv = none ∧ (push o).loadClear o.cur.core o.cur.strand 15 0 0 false = true) (fun o =>
       (((push o).dropTlb (drops o)).modStrand o.cur.core o.cur.strand fun x => { x with xlinv := some (o.now + Config.extra o.freeCtr) }).spend) ∧
     (∀ s : State, s.ready i = true → ((s.opened i).xOp b).toNat ≤ 1 → (s.strand s.cur.core s.cur.strand).xlinv = none →
       (push (s.opened i)).loadClear s.cur.core s.cur.strand 15 0 0 false = false → Ends i s fun u => (u.core s.cur.core).frozen.isSome = true) ∧
     faults i (fun o => 1 < (o.xOp b).toNat) 8 (·.xOp b))) ∧
  (∀ (s : State) (f : Tlb → Bool),
    (∀ c ∈ (s.dropTlb f).cores, ∀ e ∈ c.2.tlb1, f e = false) ∧ (∀ t ∈ (s.dropTlb f).towers, ∀ e ∈ t.2.tlb2, f e = false) ∧
    (∀ (k : Nat) (e : Tlb), e ∈ (s.core k).tlb1 → f e = false → e ∈ ((s.dropTlb f).core k).tlb1) ∧ (s.dropTlb f).mem = s.mem)

/-! ## Rows -/

/-- R176, R177, R181, R182, R183: a lanewise operation writes, for each lane below N whose guard bit is set, its function of the lanes at that index:
integers modulo 2^w, floating lanes rounded once by RNE; VMUL and VFMA land after 4 cycles, the others after 2. -/
def Obligations.VectorLanes : Prop :=
  ∀ (g d a b n : Nat) (v : Int),
    let row (i : Instr) (l : Nat) (f : State → Ety → Nat → Nat) : Prop := Does i fun o =>
      o.gives (.v d) l (.row (packRow o.me.ety.w ((List.range o.me.ety.n).map (f o o.me.ety))) (maskRow o.me.ety.w o.me.ety.n (o.lOp g)))
    let one (i : Instr) (l : Nat) (f : Ety → Nat → Nat) : Prop := row i l fun o t j => f t (laneOf t.w (o.vOp a) j)
    let two (i : Instr) (l : Nat) (f : Ety → Nat → Nat → Nat) : Prop := row i l fun o t j => f t (laneOf t.w (o.vOp a) j) (laneOf t.w (o.vOp b) j)
    let num (t : Ety) (x : Nat) : FVal := t.ieee.decode x
    let ieee (t : Ety) (x : FVal × BitVec 5) : Nat := (t.ieee.encode .rne x.1).1
    two (.vadd g d a b) 2 (fun t x y => if t.int then (x + y) % 2 ^ t.w else ieee t ((num t x).add .rne (num t y))) ∧
    two (.vsub g d a b) 2 (fun t x y => if t.int then (((x : Int) - y) % ((2 ^ t.w : Nat) : Int)).toNat else ieee t ((num t x).add .rne (num t y).neg)) ∧
    two (.vmul g d a b) 4 (fun t x y => if t.int then x * y % 2 ^ t.w else ieee t ((num t x).mul (num t y))) ∧
    row (.vfma g d a b) 4 (fun o t j =>
      let x := laneOf t.w (o.vOp a) j
      let y := laneOf t.w (o.vOp b) j
      let z := laneOf t.w (o.vOp d) j
      if t.int then (x * y + z) % 2 ^ t.w else ieee t ((num t x).fma .rne (num t y) (num t z))) ∧
    two (.vmin g d a b) 2 (fun t x y => if t.int then (if sInt t.w x ≤ sInt t.w y then x else y) else minMax t.ieee false x y) ∧
    two (.vmax g d a b) 2 (fun t x y => if t.int then (if sInt t.w y ≤ sInt t.w x then x else y) else minMax t.ieee true x y) ∧
    one (.vabs g d a) 2 (fun t x => if t.int then (sInt t.w x).natAbs % 2 ^ t.w else if (num t x).isNan then t.ieee.qnan else x % t.ieee.sign) ∧
    one (.vneg g d a) 2 (fun t x => if t.int then ((-(x : Int)) % ((2 ^ t.w : Nat) : Int)).toNat else if (num t x).isNan then t.ieee.qnan
      else (x + t.ieee.sign) % 2 ^ t.w) ∧
    two (.vand g d a b) 2 (fun _ x y => x &&& y) ∧ two (.vor g d a b) 2 (fun _ x y => x ||| y) ∧ two (.vxor g d a b) 2 (fun _ x y => x ^^^ y) ∧
    one (.vnot g d a) 2 (fun t x => 2 ^ t.w - 1 - x) ∧
    two (.vshl g d a b) 2 (fun t x y => x * 2 ^ (y % t.w) % 2 ^ t.w) ∧ two (.vshr g d a b) 2 (fun t x y => x / 2 ^ (y % t.w)) ∧
    two (.vsra g d a b) 2 (fun t x y => (sInt t.w x / ((2 ^ (y % t.w) : Nat) : Int) % ((2 ^ t.w : Nat) : Int)).toNat) ∧
    one (.vshli g d a n) 2 (fun t x => x * 2 ^ (n % t.w) % 2 ^ t.w) ∧ one (.vshri g d a n) 2 (fun t x => x / 2 ^ (n % t.w)) ∧
    one (.vsrai g d a n) 2 (fun t x => (sInt t.w x / ((2 ^ (n % t.w) : Nat) : Int) % ((2 ^ t.w : Nat) : Int)).toNat) ∧
    one (.vaddi g d a v) 2 (fun t x => if t.int then (((x : Int) + v) % ((2 ^ t.w : Nat) : Int)).toNat
      else ieee t ((num t x).add .rne (fvalOfInt v))) ∧
    row (.vmovi g d v) 2 (fun _ t _ => if t.int then (v % ((2 ^ t.w : Nat) : Int)).toNat else ieee t (fvalOfInt v, 0))

/-- R184, R186, R187, R188, R192, R194: VSEL, VSHUF, VROT, VIDX, VBCAST, VINS and VCMX choose, move and write lanes; VEXT writes one lane, or zero, to an X
register in every case; VDOT4 adds four products of bytes to each 32-bit lane with one saturation. -/
def Obligations.VectorMoves : Prop :=
  ∀ (g d a b k n : Nat) (au bu : Bool),
    let out (o : State) (l w n : Nat) (f : Nat → Nat) : State := o.gives (.v d) l (.row (packRow w ((List.range n).map f)) (maskRow w n (o.lOp g)))
    let row (i : Instr) (l : Nat) (f : State → Ety → Nat → Nat) : Prop := Does i fun o => out o l o.me.ety.w o.me.ety.n (f o o.me.ety)
    let xl (o : State) (t : Ety) (j : Nat) : Nat := laneOf t.w (o.vOp a) j
    let yl (o : State) (t : Ety) (j : Nat) : Nat := laneOf t.w (o.vOp b) j
    row (.vsel g d a b k) 2 (fun o t j => if (o.lOp k).getLsbD j then xl o t j else yl o t j) ∧
    row (.vshuf g d a b) 3 (fun o t j => if t.n ≤ yl o t j % 1024 then 0 else xl o t (yl o t j % 1024)) ∧
    row (.vrot g d a n) 3 (fun o t j => xl o t ((j + n) % t.n)) ∧
    row (.vidx g d) 2 (fun _ t j => if t.int then j else (t.ieee.encode .rne (fvalOfInt j)).1) ∧
    row (.vbcast g d a) 2 (fun o t _ => (o.xOp a).toNat % 2 ^ t.w) ∧
    row (.vcmx g d a b) 3 (fun o t j =>
      let u := xl o t j
      let v := xl o t (yl o t j % 1024)
      if t.n ≤ yl o t j % 1024 then u
      else if yl o t j / 2 ^ (t.w - 1) % 2 = 1 then (if laneLess t u v then v else u) else (if laneLess t v u then v else u)) ∧
    Does (.vins g d a n) (fun o =>
      o.gives (.v d) 2 (.row (rowOf o.me.ety.w o.me.ety.n fun _ => (o.xOp a).toNat % 2 ^ o.me.ety.w)
        (maskRow o.me.ety.w o.me.ety.n (lanesOf 512 fun j => j == n && decide (j < o.me.ety.n) && (o.lOp g).getLsbD j)))) ∧
    Does (.vext g d a n) (fun o =>
      let t := o.me.ety
      let v := xl o t n
      o.result o.cur.core o.cur.strand (.x d) 2 (.w (if n < t.n ∧ (o.lOp g).getLsbD n then (if t.int then BitVec.ofInt 64 (sInt t.w v) else BitVec.ofNat 64 v) else 0))
        0 (o.me.poisonedReg (.v a))) ∧
    Does (.vdot4 g d a b au bu) (fun o => out o 4 32 (o.me.rowb / 4) fun j =>
      let byte (u : Bool) (r e : Nat) : Int :=
        let x := laneOf 32 (o.vOp r) j / 2 ^ (8 * e)
        if u then ((x % 256 : Nat) : Int) else if x % 256 < 128 then ((x % 256 : Nat) : Int) else ((x % 256 : Nat) : Int) - 256
      let sum := sInt 32 (laneOf 32 (o.vOp d) j) + byte au a 0 * byte bu b 0 + byte au a 1 * byte bu b 1 + byte au a 2 * byte bu b 2 + byte au a 3 * byte bu b 3
      ((max (-2147483648) (min sum 2147483647)) % 4294967296).toNat)

/-- R185: VCMP writes, where the guard is set, the condition of each pair of lanes to L[2k] and its negation to L[2k + 1], and zero to both at and above N.
R189, R190, R191: the conversions write elements of the destination's format, rounded once, governed by their guard bits. R193: VREDS and
VREDM reduce the guarded lanes by the fixed tree into lane 0. -/
def Obligations.VectorCompareConvertReduce : Prop :=
  ∀ (g d a b k src dst mode : Nat) (cc : Cond) (sat hi mn : Bool),
    Does (.vcmp g cc k a b) (fun o =>
      let t := o.me.ety
      let c (j : Nat) : Bool := laneCond t cc (laneOf t.w (o.vOp a) j) (laneOf t.w (o.vOp b) j)
      let up : LaneMask := lanesOf 512 fun j => decide (t.n ≤ j)
      let m : LaneMask := (o.lOp g &&& ~~~ up) ||| up
      (o.gives (.l (2 * k)) 2 (.lm (lanesOf t.n c) m)).gives (.l (2 * k + 1)) 2 (.lm (lanesOf t.n fun j => !c j) m)) ∧
    (let conv (i : Instr) (w : Nat) (n : State → Nat) (f : State → Nat → Nat) : Prop := Does i fun o =>
       o.gives (.v d) 3 (.row (packRow w ((List.range (n o)).map (f o)))
         (rowOf w (n o) fun e => if (o.lOp g).getLsbD (if w = 8 then e / 2 else e) then 2 ^ w - 1 else 0))
     let el (s t : Nat) (st : Bool) (r : Row) (e : Nat) : Nat := convertFmt t st (decodeFmt s (laneOf (fmtBits s) r e))
     conv (.vcvt g d a src dst sat) (fmtBits dst) (fun o => o.me.rowb / max (fmtBytes src) (fmtBytes dst)) (fun o e => el src dst sat (o.vOp a) e) ∧
     (let fm : Nat × Nat := match mode with | 0 => (33, 32) | 1 => (40, 38) | 2 => (38, 36) | _ => (38, 37)
      conv (.vpack g d a b mode sat) (fmtBits fm.2) (fun o => o.me.rowb / fmtBytes fm.2) (fun o e =>
        let n := o.me.rowb / fmtBytes fm.2
        if e < n / 2 then el fm.1 fm.2 sat (o.vOp a) e else el fm.1 fm.2 sat (o.vOp b) (e - n / 2)) ∧
      conv (.vunpk g d a mode hi) (fmtBits fm.1) (fun o => o.me.rowb / fmtBytes fm.1) (fun o e =>
        el fm.2 fm.1 false (o.vOp a) ((if hi then o.me.rowb / fmtBytes fm.1 else 0) + e)))) ∧
    (let lane0 (i : Instr) (f : Ety → List Nat → Nat) (z : Ety → Nat) : Prop := Does i fun o =>
       let t := o.me.ety
       o.gives (.v d) 8 (.row (packRow t.w [f t ((List.range t.n).map fun j => if (o.lOp g).getLsbD j then laneOf t.w (o.vOp a) j else z t)])
         (maskRow t.w 1 (BitVec.allOnes 512)))
     lane0 (.vreds g d a) (fun t l =>
         if t.int then patOf t.w (clamp (-((2 ^ (t.w - 1) : Nat) : Int)) (((2 ^ (t.w - 1) : Nat) : Int) - 1) (l.foldl (fun acc x => acc + sInt t.w x) 0))
         else (reduceTree (addF t.ieee) 9 l).headD 0) (fun _ => 0) ∧
     (let z (t : Ety) : Nat := if t.int then (if mn then 2 ^ (t.w - 1) - 1 else 2 ^ (t.w - 1)) else if mn then t.ieee.inf else t.ieee.sign + t.ieee.inf
      lane0 (.vredm g d a mn) (fun t l => (reduceTree (fun x y => if mn then laneMin t x y else laneMax t x y) 9 l).headD (z t)) z))

/-- R180, R195: a special function completes under a floating element type, with the fixed latency 12: every guarded lane holds its value of the source's lane,
NaN for NaN and the table's value at zero, the infinities and negative numbers; VRCP and VRSQ round the exact reciprocal once. -/
def Obligations.SpecialFunctions : Prop :=
  ∀ g d a : Nat,
    let special (i : Instr) (op : Nat) (at0 atM0 : Ieee → Nat) (atInf atMInf : Ieee → Nat) : Prop :=
      Does i (fun o => o.gives (.v d) 12 (.row
        (packRow o.me.ety.w ((List.range o.me.ety.n).map fun j => specialFn op o.me.ety.ieee (laneOf o.me.ety.w (o.vOp a) j)))
        (maskRow o.me.ety.w o.me.ety.n (o.lOp g)))) ∧
      ∀ f ∈ [ieee16, ieee32], specialFn op f f.qnan = f.qnan ∧ specialFn op f 0 = at0 f ∧ specialFn op f f.sign = atM0 f ∧
        specialFn op f f.inf = atInf f ∧ specialFn op f (f.sign + f.inf) = atMInf f
    let one (f : Ieee) : Nat := (f.encode .rne (.num false ⟨1, 1⟩)).1
    let half (f : Ieee) : Nat := (f.encode .rne (.num false ⟨1, 2⟩)).1
    special (.vexp g d a) 0 one one (·.inf) (fun _ => 0) ∧
    special (.vlog g d a) 1 (fun f => f.sign + f.inf) (fun f => f.sign + f.inf) (·.inf) (·.qnan) ∧
    special (.vrcp g d a) 2 (·.inf) (fun f => f.sign + f.inf) (fun _ => 0) (·.sign) ∧
    special (.vrsq g d a) 3 (·.inf) (fun f => f.sign + f.inf) (fun _ => 0) (·.qnan) ∧
    special (.vtanh g d a) 4 (fun _ => 0) (·.sign) one (fun f => f.sign + one f) ∧
    special (.vsig g d a) 5 half half one (fun _ => 0) ∧
    special (.vsin g d a) 6 (fun _ => 0) (·.sign) (·.qnan) (·.qnan) ∧
    special (.vcos g d a) 7 one one (·.qnan) (·.qnan) ∧
    special (.verf g d a) 8 (fun _ => 0) (·.sign) one (fun f => f.sign + one f) ∧
    ∀ (f : Ieee) (b : Nat) (neg : Bool) (q : Quo), f.decode b = .num neg q → q.isZero = false →
      specialFn 2 f b = (f.encode .rne (.num neg ((Quo.ofInt 1).div q))).1 ∧
      specialFn 3 f b = (if neg then f.qnan else (f.encode .rne (.num false (quoSqrt ((Quo.ofInt 1).div q)))).1) ∧
      (neg = true → specialFn 1 f b = f.qnan)

/-- R254, R255: a row access none of whose lanes is guarded on reads and writes nothing and moves its pointer; a row load whose parts can be read delivers each
guarded lane's element converted into the element type, and a row store puts each guarded lane, converted into the memory
format, at its element's address: into the strand's rows in class 0 where they have room, into the store queue otherwise. -/
def Obligations.RowAccesses : Prop :=
  ∀ (g oc p d : Nat) (u : Upd) (f : Int) (s : State),
    let k := s.cur.core
    let j := s.cur.strand
    let form (i : Instr) (strided : Bool) : State × RowAcc := (s.opened i, (s.opened i).rowAcc g p u f strided)
    let empty (i : Instr) (strided : Bool) (e : State → Nat → State) : Prop :=
      s.ready i = true → (form i strided).2.lanes = [] →
        exec i s = .next (s.after i ((e (form i strided).1 (loadLatency (form i strided).2.addr)).updatePtr k j p (form i strided).2.next))
    let load (i : Instr) (strided : Bool) : Prop :=
      let o := (form i strided).1
      let r := (form i strided).2
      ∀ (v : State) (ps : List Part) (bs : List Byte) (po : Bool),
        s.ready i = true → r.lanes ≠ [] → o.rowParts k r strided false = .ok ps → o.me.heldBack oc = [] → o.readParts k j oc ps = .ok (v, bs, po) →
          exec i s = .next (s.after i (((v.result k j (.v d) (if spaceOf r.addr = .scr then 5 else 7)
            (.row (rowAt r.t.w r.t.n r.lanes ((elemsOf (fmtBytes r.fmt) r.lanes.length bs).map fun e =>
              if r.fmt = v.me.acct then e else convertFmt v.me.acct false (decodeFmt r.fmt e))) (maskRow r.t.w r.t.n (v.lOp g))) 0 po).updatePtr k j p r.next).wideFreeze k ps))
    let store (i : Instr) (strided : Bool) : Prop :=
      let o := (form i strided).1
      let r := (form i strided).2
      let bs := r.lanes.flatMap fun e =>
        toLE (fmtBytes r.fmt) (if o.me.acct = r.fmt then laneOf r.t.w (o.vOp d) e else convertFmt r.fmt r.sat (decodeFmt o.me.acct (laneOf r.t.w (o.vOp d) e)))
      ∀ ps : List Part, s.ready i = true → r.lanes ≠ [] → o.rowParts k r strided true = .ok ps → (o.strand k j).xlinv = none →
        (oc = 0 → (o.strand k j).rows.length + (o.strand k j).newLines ps ≤ 256 →
          exec i s = .next (s.after i (((o.storeRows k j ps bs).updatePtr k j p r.next).wideFreeze k ps))) ∧
        (oc ≠ 0 → o.sqRoom k j ps.length = true →
          exec i s = .next (s.after i (((o.storeDirect k j oc ps bs).updatePtr k j p r.next).wideFreeze k ps)))
    empty (.vld g oc p d u f) false (fun o l => o.gives (.v d) l (.row 0 0)) ∧ empty (.vlds g oc p d u f) true (fun o l => o.gives (.v d) l (.row 0 0)) ∧
    empty (.vst g oc p d u f) false (fun o _ => o) ∧ empty (.vsts g oc p d u f) true (fun o _ => o) ∧
    load (.vld g oc p d u f) false ∧ load (.vlds g oc p d u f) true ∧ store (.vst g oc p d u f) false ∧ store (.vsts g oc p d u f) true

/-! ## Weights, the array, fast weights -/

/-- R222: WSTR of an aligned address, with room in engine 0, queues a stream of its T tiles; T of zero completes at once. R224: WLD claims the oldest whole
tile of the FIFO; with no whole tile it is the recovered cause 0x03, detail 1. R226: WSCL of an aligned address queues the load of the shadow plane's scales, and
clears that plane's scale-resident bit: that its acquire takes place at issue is the model's reading (log entry 21), and so is which plane that is, by the
parity of the exchanges queued (log entry 22). R227: WSWAP queues an exchange, unless a WLD is outstanding: cause 0x03, detail 2. R233: ACFG sets ACCT. -/
def Obligations.WeightPath : Prop :=
  ∀ (g f a b sc : Nat) (acq : Bool) (s : State),
    let k := s.cur.core
    let j := s.cur.strand
    let traps (i : Instr) (d : Nat) : Prop := s.ready i = true → (s.strand k j).th = false → (s.strand k j).recov < 2 → Ends i s fun t =>
      (t.strand k j).st = .recovering 3 d ∧ (t.strand k j).scause = BitVec.ofNat 64 (0x030000 + d * 256) ∧ (t.strand k j).sepc = s.cur.start ∧ (t.core k).cmds = (s.core k).cmds ∧ (t.core k).fifo = (s.core k).fifo
    (let i : Instr := .wstr g f a b acq sc
     let o := s.opened i
     let va := o.xOp a
     s.ready i = true → bits va 63 57 = 0 → va.toNat % 8 = 0 → (o.core k).engineFull 0 = false →
       (bits (o.xOp b) 31 0 = 0 → exec i s = .next (s.after i ((o.modStrand k j fun x => x.issueTo 0).complete k j 0 0))) ∧
       (bits (o.xOp b) 31 0 ≠ 0 → Ends i s fun t => ∃ z, (t.core k).streams.getLast? = some z ∧ z.fmt = f ∧ z.next = va ∧ z.tiles = bits (o.xOp b) 31 0 ∧
         z.strand = j ∧ z.job = s.jobOf k ∧ z.started = false)) ∧
    (∀ (z : FifoTile) (r : List FifoTile), (s.core k).fifo = z :: r → z.fail = none →
      (z.remaining = 0 → (s.core k).engineFull 1 = false → s.ready (.wld g) = true → Ends (.wld g) s fun t =>
        (t.core k).fifo = r ∧ ∃ c, ((t.core k).cmdsOf 1).getLast? = some c ∧ c.strand = j ∧ ∃ po, c.kind = .wld { z with pois := po }) ∧
      (z.remaining ≠ 0 → traps (.wld g) 1)) ∧
    ((s.core k).fifo = [] → traps (.wld g) 1) ∧
    (∀ ps : List Part,
      let i : Instr := .wscl g a acq sc
      let o := s.opened i
      let n := 4 * o.me.ncols
      s.ready i = true → (o.xOp a).toNat % 64 = 0 → o.parts k (o.xOp a) n false = .ok ps → (o.core k).engineFull 1 = false →
        let p := if acq then o.scopePush k j o.uid sc else o
        let cleared := p.modCore k fun c =>
          if c.swapsOdd then { c with active := { c.active with resident := false } } else { c with shadow := { c.shadow with resident := false } }
        exec i s = .next (s.after i (((cleared.enqueue 1 (.wscl (ps.map fun q => (q.scr, q.pa, q.len)) n (spaceOf (o.xOp a) == .scr)) (if acq then sc + 1 else 0)).beginAll k).spend))) ∧
    ((∀ c ∈ (s.core k).cmdsOf 1, ∀ z, c.kind ≠ .wld z) → (s.core k).engineFull 1 = false →
      s.ready (.wswap g) = true → exec (.wswap g) s = .next (s.after (.wswap g) ((s.opened (.wswap g)).enqueue 1 .wswap))) ∧
    (∀ (c : Cmd) (z : FifoTile), c ∈ (s.core k).cmdsOf 1 → c.kind = .wld z → traps (.wswap g) 2) ∧
    Does (.acfg g f) (fun o => o.modStrand o.cur.core o.cur.strand fun x => { x with scfg := setBits x.scfg 9 4 f })

/-- R107, R110, R134, R228 to R231: MMA from a scratchpad bank and an active plane without recorded errors gives, for each row r, a row result landing after 25 + r cycles at one
pass, 26 + 2r at two: in each column the blocks' scaled dots of that activation row with the active plane, or the integer sums. -/
def Obligations.ArrayMultiplies : Prop :=
  ∀ (g d a n : Nat) (zs : Bool),
    let i : Instr := .mma g d a n zs
    let bank (o : State) : Nat := bits (o.xOp a) 19 15
    let bf (o : State) : Half := mget (o.core o.cur.core).bfmt (bank o) 0
    let fmt (o : State) : Nat := (bf o).toNat % 64
    let row (o : State) : Nat := 128 * fmtBytes (fmt o)
    let act (o : State) (r : Nat) : List Nat :=
      (List.range 128).map fun e => ofLE (((rdBytes (o.core o.cur.core).near (bank o * 32768 + (bits (o.xOp a) 14 0 / row o + r) * row o) (row o)).drop (e * fmtBytes (fmt o))).take
        (fmtBytes (fmt o)))
    let scales (o : State) (r : Nat) : List Nat :=
      if (bf o).getLsbD 31 then
        (rdBytes (o.core o.cur.core).near (fld (bf o).toNat 26 5 * 32768 + (32 * fld (bf o).toNat 16 10 + 4 * (bits (o.xOp a) 14 0 / row o + r)) % 32768) 4).map (·.toNat)
      else [127, 127, 127, 127]
    let left (o : State) (r : Nat) : Nat := if (mmaShape (o.core o.cur.core).active.fmt (fmt o)).map (·.1) = some 1 then 25 + r else 26 + 2 * r
    let runs (o : State) (p w : Nat) : Prop :=
      let c := o.core o.cur.core
      spaceOf (o.xOp a) = .scr ∧ (c.scrOff (o.xOp a) 1).isSome ∧ mmaShape c.active.fmt (fmt o) = some (p, w) ∧ o.me.acct = w ∧
        (∀ r, r < n → ∀ l ∈ o.me.inflight, l.dest = .v (d + r) → l.left ≠ left o r) ∧
        bits (o.xOp a) 14 0 % row o = 0 ∧ bits (o.xOp a) 14 0 + n * row o ≤ 32768 ∧ ((bf o).getLsbD 31 = true → fld (bf o).toNat 26 5 < c.scr) ∧
        c.active.resident = true ∧ c.mmaLeft = 0 ∧ (∀ y ∈ c.cmdsOf 6, y.reading o.now = false) ∧ (∀ y ∈ c.cmdsOf 1, y.kind ≠ .wswap) ∧
        (∀ e ∈ c.errs, e.sram ≠ .active) ∧ c.nearErr = [] ∧ c.nearPois = []
    let gives (o : State) (p : Nat) (v : Nat → Val) : State :=
      ((List.range n).foldl (fun t r => t.result o.cur.core o.cur.strand (.v (d + r)) (left o r) (v r) 0 ((o.core o.cur.core).active.poison || (o.core o.cur.core).active.scalePois)) o).modCore o.cur.core
        fun c => { c with mmaLeft := n * p, mmaBy := some (o.cur.strand, o.me.seg, o.cur.start, bank o) }
    let dots (o : State) (x : Nat) (r : Nat) : List (List FVal) :=
      (List.range o.me.ncols).map fun col => rowDots (o.core o.cur.core).active x (fmt o) (act o r) (scales o r) col
    ∀ p : Nat,
      DoesWhen i (fun o => runs o p 33) (fun o => gives o p fun r => .macc zs (dots o o.me.ncols r)) ∧
      DoesWhen i (fun o => runs o p 40) (fun o => gives o p fun r =>
        .iacc zs ((List.range o.me.ncols).map fun col => rowSums (o.core o.cur.core).active o.me.ncols (fmt o) (act o r) col))

/-- R111, R232: MRD with its rows' elements in one bank, and room in engine 2, queues the bytes of the converted elements: each accumulator element times the
scale, rounded once to binary32, then converted into the bank's format; they come into scratchpad at a
free moment within n + 8 cycles of its issue (log entry 23). -/
def Obligations.ResultWriter : Prop :=
  ∀ (g d a b n : Nat),
    let i : Instr := .mrd g d a b n
    let bf (o : State) : Half := mget (o.core o.cur.core).bfmt (bits (o.xOp d) 19 15) 0
    let fmt (o : State) : Nat := (bf o).toNat % 64
    ∀ s : State,
      let o := s.opened i
      let k := s.cur.core
      let num (v : Nat) : FVal := if o.me.acct = 40 then fvalOfInt (sInt 32 v) else ieee32.decode v
      let elem (v : Nat) : Nat :=
        convertFmt (fmt o) ((bf o).getLsbD 7) (ieee32.decode (ieee32.encode .rne ((num v).mul (ieee32.decode (bits (o.fOp b) 31 0))).1).1)
      s.ready i = true → spaceOf (o.xOp d) = .scr → ((o.core k).scrOff (o.xOp d) 1).isSome → bits (o.xOp d) 19 0 % fmtBytes (fmt o) = 0 →
        bits (o.xOp d) 14 0 + n * o.me.ncols * fmtBytes (fmt o) ≤ 32768 → (o.core k).engineFull 2 = false → Ends i s fun t =>
          ∃ c, ((t.core k).cmdsOf 2).getLast? = some c ∧ c.strand = s.cur.strand ∧ c.started = true ∧ s.now < c.due ∧ c.due ≤ s.now + n + 8 ∧
            c.kind = .mrd (bits (o.xOp d) 19 0) (fmtBytes (fmt o)) ((List.range n).flatMap fun r => (List.range o.me.ncols).flatMap fun col =>
              toLE (fmtBytes (fmt o)) (elem (laneOf 32 (o.vOp (a + r)) col))) ((List.range n).any fun r => o.me.poisonedReg (.v (a + r))) ∧
            (t.core k).near = (s.core k).near

/-- R235 to R242: an FWD of a resident tile bound to its core (a write needs room in engine 3, and its tile its own place) marks its output rows pending with the rows read
through the shadow plane from the tile as a reader finds it, and leaves the tile faded and updated step by step (FWD.READ leaves it as it was); OPU applies its rank-1
updates. A form that state instructions accepted before on the handle are to precede freezes its core until they are performed: that, and that the write takes effect in the
issue order of the groups, are the model's choices (log entries 97 and 27). -/
def Obligations.FastWeights : Prop :=
  ∀ (g d a b c : Nat) (s v : State) (w w' : Word),
    let k := s.cur.core
    let t := towerOf k
    let form (o : State) (ref : Word) : Ieee := tileIeee (o.handle (bits ref 23 0)).fmt16
    let own (o r : State) (ref : Word) : Option (State × Word) := if (o.core k).engineFull 3 then none else r.ownTile (bits ref 23 0) (bits ref 47 32)
    let fwd (i : Instr) (first : Nat) (place : State → State → Word → Option (State × Word)) (p : Ieee → Tile → State → Prop) : Prop :=
      let o := s.opened i
      let ref := o.xOp b
      let r := (o.readTile t w).1
      let tile := (o.readTile t w).2
      s.ready i = true → o.fwdLookup ref = .ok w → place o r ref = some (v, w') → Ends i s fun u =>
        let at_ := 128 * (r.slabsOf k).findIdx (· == twSlab w)
        let plane := fillPlane (r.core k).shadow (form o ref) r.me.ncols at_ tile.rows tile.poison
        p (form o ref) tile u ∧ ∃ z ∈ (u.strand k s.cur.strand).pend, z.dests = (List.range c).map (fun n => Reg.v (d + n)) ∧
          z.vals = (List.range c).map (fun n => row128 (readRow plane r.me.ncols at_ (r.vec (a + first + n)))) ∧ z.poison = tile.poison
    let after (u : State) (rows : List (List Nat)) : Prop := ((u.tower t).tileOf w').rows = rows.map fun l => l.map fun e => e % 2 ^ 32
    let faded (f : Ieee) (tile : Tile) : List (List Nat) := fadeRows f ((v.vec (a + 3 * c)).getD 64 0) tile.rows
    fwd (.fwdRead g d a b c) 0 (fun _ r _ => some (r, w)) (fun _ tile u => (u.tower t).tileOf w = tile) ∧
    fwd (.fwdDelta g d a b c) (2 * c) own (fun f tile u => after u
      ((List.range c).foldl (fun acc n => deltaStep f ((v.vec (a + 3 * c)).getD n 0) acc (v.vec (a + n), v.vec (a + c + n))) (faded f tile))) ∧
    fwd (.fwdOuter g d a b c) (2 * c) own (fun f tile u => after u
      ((List.range c).foldl (fun acc n => outerStep f ((v.vec (a + 3 * c)).getD 65 0) acc (v.vec (a + n), v.vec (a + c + n))) (faded f tile))) ∧
    (let i : Instr := .opu g d a b c
     let o := s.opened i
     let ref := o.xOp d
     let r := (v.readTile t w').1
     s.ready i = true → o.fwdLookup ref = .ok w → own o o ref = some (v, w') → Ends i s fun u => after u
       ((List.range c).foldl (fun acc n => rankOne (form r ref) (r.vec (a + n)) (r.vec (b + n)) acc) (v.readTile t w').2.rows)) ∧
    (let i : Instr := .fwdRead g d a b c
     let o := s.opened i
     let ref := o.xOp b
     s.ready i = true → o.refLookup k ref = .ok w → o.statesAhead t (bits ref 23 0) = true → Ends i s fun u =>
       ∃ z, (u.core k).frozen = some z ∧ z.needs = [.states (bits ref 23 0)])

/-! ## States, queues, tasks, launches, copies -/

/-- R341 to R348: a state instruction whose handles are live, of this job and tower, and whose operands are legal is accepted: SFORK and SMOVE mark Xd pending;
SSNAP, SROLL, SAVG and SFREE take an entry of engine 3; SQRY delivers the status word after about 8 cycles. An SFORK, or an SSNAP that takes a new tile array, has
had it allocated by the shade context (R366); before that it freezes the core. A handle that is not live is the trap
0x0A, detail 1. -/
def Obligations.StateInstructions : Prop :=
  ∀ (g d a b w : Nat) (fs : Bool) (s : State),
    let k := s.cur.core
    let j := s.cur.strand
    let live (o : State) (x n : Nat) : Prop := o.handleLookup k (o.xOp x) = .ok n
    let alloc (o : State) : Prop := ((o.core k).fill? .alloc).isSome = true
    let accepts (i : Instr) (c : State → Prop) (e : State → State) : Prop := s.ready i = true → c (s.opened i) → exec i s = .next (s.after i (e (s.opened i)))
    accepts (.sfork g d a b) (fun o => bits (o.xOp a) 23 0 = 0 ∧ bits (o.xOp b) 15 0 ≠ 0 ∧ bits (o.xOp b) 63 17 = 0 ∧ alloc o) (fun o => o.acceptResult d (.fork 0 (o.xOp b))) ∧
    (∀ n : Nat,
      accepts (.sfork g d a b) (fun o => bits (o.xOp a) 23 0 ≠ 0 ∧ live o a n ∧ alloc o) (fun o => o.acceptResult d (.fork (o.xOp a &&& 0xFFFFFFFF) (o.xOp b))) ∧
      (∀ arr : Nat, accepts (.ssnap g a b)
        (fun o => live o a n ∧ bits (o.xOp b) 63 2 = 0 ∧ mfind (o.handle n).snaps (bits (o.xOp b) 1 0) = some arr ∧ (o.core k).engineFull 3 = false)
        (fun o => o.acceptEngine (.snap n (bits (o.xOp b) 1 0) arr) (1 + Config.extra o.freeCtr))) ∧
      (∀ (arr : Nat) (v : State), accepts (.ssnap g a b)
        (fun o => live o a n ∧ bits (o.xOp b) 63 2 = 0 ∧ mfind (o.handle n).snaps (bits (o.xOp b) 1 0) = none ∧ alloc o ∧
          o.arenaAlloc (o.jobOf k) (arrayBytes (o.handle n).nt) = some (arr, v) ∧ (v.core k).engineFull 3 = false)
        (fun o => v.acceptEngine (.snap n (bits (o.xOp b) 1 0) arr) (1 + Config.extra v.freeCtr))) ∧
      accepts (.sroll g a b)
        (fun o => live o a n ∧ bits (o.xOp b) 63 2 = 0 ∧ o.snapHeld (towerOf k) n (bits (o.xOp b) 1 0) = true ∧ (o.core k).engineFull 3 = false)
        (fun o => o.acceptEngine (.roll n (bits (o.xOp b) 1 0)) (1 + Config.extra o.freeCtr)) ∧
      accepts (.sfree g a) (fun o => live o a n ∧ (o.core k).engineFull 3 = false) (fun o => o.acceptEngine (.free n) (1 + Config.extra o.freeCtr)) ∧
      accepts (.smove g d a b)
        (fun o => live o a n ∧ bits (o.xOp b) 63 15 = 0 ∧ bits (o.xOp b) 3 0 ≤ 11 ∧ (bitOf (o.xOp b) 4 = true ∨ bits (o.xOp b) 3 0 ≠ (o.handle n).twr))
        (fun o => o.acceptResult d (.move n (o.xOp b))) ∧
      (∀ x y : Nat, accepts (.savg g d a b w fs)
        (fun o => live o d n ∧ live o a x ∧ live o b y ∧ (o.core k).engineFull 3 = false ∧
          (∀ m ∈ [x, y], (o.handle m).nt = (o.handle n).nt ∧ (o.handle m).fmt16 = (o.handle n).fmt16) ∧ (∀ m ∈ [n, x, y], (o.handle m).away = false))
        (fun o =>
          let wv := if fs then (ieee32.encode .rne (fsRead (o.fOp w)).1).1 else bits (o.fOp w) 31 0
          o.acceptEngine (.avg n x y (BitVec.ofNat 32 wv) (BitVec.ofNat 32 (subF ieee32 0x3F800000 wv))) (o.avgCycles n x y))) ∧
      accepts (.sqry g d a) (fun o => live o a n)
        (fun o => (o.resultVar k j (.x d) (.w (BitVec.ofNat 64 (
          let h := o.handle n
          2 ^ 63 + h.res * 2 ^ 61 + h.fmt16.toNat * 2 ^ 60 + h.twr * 2 ^ 56 + h.snap.toNat * 2 ^ 52 + h.keep.toNat * 2 ^ 51 +
            ((o.tileWords h.tiles h.nt).any fun z => decide (1 < (o.tower h.twr).refs z)).toNat * 2 ^ 50 + h.nt * 2 ^ 32 + bits (o.xOp a) 31 0)))
          (some (o.now + 7 + Config.extra o.freeCtr))).spend)) ∧
    (s.ready (.sfork g d a b) = true → bits ((s.opened (.sfork g d a b)).xOp a) 23 0 = 0 → bits ((s.opened (.sfork g d a b)).xOp b) 15 0 ≠ 0 →
      bits ((s.opened (.sfork g d a b)).xOp b) 63 17 = 0 → ¬ alloc (s.opened (.sfork g d a b)) → Ends (.sfork g d a b) s fun u =>
        ∃ z, (u.core k).frozen = some z ∧ z.needs = [.alloc]) ∧
    (∀ x : Nat, ∀ i ∈ [Instr.ssnap g x b, .sroll g x b, .sfree g x, .smove g d x b],
      let o := s.opened i
      s.ready i = true → (s.strand k j).th = false → o.handleHit k (bits (o.xOp x) 23 0) = true →
        ((o.handle (bits (o.xOp x) 23 0)).v = false ∨ (o.handle (bits (o.xOp x) 23 0)).gen ≠ bits (o.xOp x) 31 24) → Ends i s fun u =>
          (u.strand k j).scause = 0x0A0100 ∧ (u.strand k j).sepc = s.cur.start ∧ u.handles = s.handles)

/-- R297, R299, R300, R317: EWAIT goes on when the strand has no command on the engines named; QCNT delivers with latency 2 a queue's occupancy; GBAR and YIELD give up the slot, GBAR after arriving at the gang's barrier; SPAGE leaves a hint while there is room. -/
def Obligations.QueueInstructions : Prop :=
  ∀ g d a b m : Nat,
    let upTo (o : State) (p : State → State) : State := { p o with cur := { (p o).cur with give := true } }
    DoesWhen (.ewait g m) (fun o => ∀ e, e < 6 → m.testBit e = true → o.me.engineCount e = 0) (fun o => o) ∧
    (∀ n : Nat, DoesWhen (.qcnt g d a) (fun o => bits (o.xOp a) 63 8 = 0 ∧ o.queueCount o.cur.core o.cur.strand (bits (o.xOp a) 7 0) = some n)
      (fun o => o.gives (.x d) 2 (.w (BitVec.ofNat 64 n)))) ∧
    Does (.yield_ g) (fun o => upTo o fun o => o) ∧
    DoesWhen (.gbar g) (fun o => o.me.tm = false) (fun o => upTo o fun o =>
      let p := o.modStrand o.cur.core o.cur.strand fun x => { x with st := .atBarrier }
      match (p.core o.cur.core).gang with
      | some n => p.modGang n fun y => { y with arrived := y.arrived ++ [y.gsi o.cur.core o.cur.strand], lastAt := p.now }
      | none => p) ∧
    DoesWhen (.spage g a b)
      (fun o => bits (o.xOp b) 63 2 = 0 ∧ o.handleFault (towerOf o.cur.core) (o.jobOf o.cur.core) (o.xOp a) = none ∧ (o.tower (towerOf o.cur.core)).hints.length < 64)
      (fun o => o.modTower (towerOf o.cur.core) fun t => { t with hints := t.hints ++ [(bits (o.xOp a) 23 0, bits (o.xOp b) 1 0)] }) ∧
    DoesWhen (.spage g a b)
      (fun o => bits (o.xOp b) 63 2 = 0 ∧ o.handleFault (towerOf o.cur.core) (o.jobOf o.cur.core) (o.xOp a) ≠ none) (fun o => o)

/-- R298: EPOLL delivers bits 63 to 8 of the strand's error word of engine e, zeros, and its count, as the state of its issue cycle has them. It reads no register and names no port but Xd, so that
nothing but Xd can keep it; and it changes nothing else. -/
def Obligations.EnginePoll : Prop :=
  ∀ g d e : Nat,
    Does (.epoll g d e) (fun o => o.gives (.x d) 2 (.w (BitVec.ofNat 64 (bits (o.me.engineError e) 63 8 * 256 + o.me.engineCount e % 16)))) ∧
    ∀ s : State, (s.infoOf (.epoll g d e)).reads = [] ∧ (s.infoOf (.epoll g d e)).pends = [] ∧ (s.infoOf (.epoll g d e)).writes = [(.x d, 2)]

/-- R305 to R310, R315, R438: RANGE with INIT sets its counter, without it takes a chunk of min(left, max(m, ⌈left / kw⌉)); LJOIN of a completed child goes on with
an acquire (R292), whether or not it parked, as the model reads it (log entry 33); LAUNCH answers with the child's identity, or with its code where the record, the depth or the pool refuses; TSUB that closes closes its
pool, and another accepted record enters it; TDONE of a task strand with no task parks for one. -/
def Obligations.TasksAndLaunches : Prop :=
  ∀ (g d a b : Nat) (s : State),
    let k := s.cur.core
    let j := s.cur.strand
    let t := towerOf k
    (let i : Instr := .range g d a b
     let o := s.opened i
     let li := match o.gangOf k with | some y => y.launch | none => 0
     let l := o.launch? li
     let c := bits (o.xOp a) 3 0
     let e := mget ((l.map (·.range)).getD []) c (0, 0, 1, 1)
     let n := min e.2.1 (max e.2.2.1 ((e.2.1 + e.2.2.2 - 1) / e.2.2.2))
     let due := max (o.now + 15 + Config.extra o.freeCtr) (mget ((l.map (·.rangeBusy)).getD []) c 0 + 4)
     let goes (v : Word) (e' : Nat × Nat × Nat × Nat) : Prop := exec i s = .next (s.after i
       (((o.modLaunch li fun l => { l with range := mput l.range c e', rangeBusy := mput l.rangeBusy c due }).resultVar k j (.x d) (.w v) (some due)).spend))
     s.ready i = true → bits (o.xOp a) 63 5 = 0 →
       (bitOf (o.xOp a) 4 = true → bits (o.xOp b) 47 32 ≠ 0 → bits (o.xOp b) 55 48 ≠ 0 → bits (o.xOp b) 63 56 ≠ 0 →
         goes 0 (0, bits (o.xOp b) 31 0, bits (o.xOp b) 47 32, bits (o.xOp b) 55 48 * bits (o.xOp b) 63 56)) ∧
       (bitOf (o.xOp a) 4 = false → goes (BitVec.ofNat 64 (n * 2 ^ 32 + e.1 % 2 ^ 32)) (e.1 + n, e.2.1 - n, e.2.2.1, e.2.2.2))) ∧
    (let i : Instr := .ljoin g a
     let o := s.opened i
     let id := o.xOp a
     let e := (o.tower t).pendEntry (bits id 7 0)
     s.ready i = true → bits id 63 33 = 0 → bitOf id 32 = true → bits id 31 20 = 0 → bits id 19 16 = t → (e.live && e.gen == bits id 15 8) = false →
       exec i s = .next (s.after i (o.acquire k))) ∧
    (∀ (v : State) (w : List Word) (par : Launch) (jb : Job),
      let i : Instr := .launch g d a
      let o := s.opened i
      let u := v.release k j
      let due := if spaceOf (o.xOp a) = .scr then u.now + Config.pick u.freeCtr 40 % 40 else u.now + 46 + Config.extra u.freeCtr
      let answers (p : State) (x : Word) : Prop := exec i s = .next (s.after i ((p.resultVar k j (.x d) (.w x) (some due)).spend))
      s.ready i = true → o.readRecord k j (o.xOp a) = .ok (v, w) → u.released k j = true → u.launchOf k = some par → u.job? (u.jobOf k) = some jb →
        (∀ e, u.checkRecord t u.uid jb w = .error e → answers u 0x8000000000000003) ∧
        (∀ tb, u.checkRecord t u.uid jb w = .ok tb →
          (par.limit < par.depth + 1 → answers u 0x8000000000000002) ∧
          (par.depth + 1 ≤ par.limit → (u.tower t).pendFree = [] → answers u 0x8000000000000001) ∧
          (par.depth + 1 ≤ par.limit → (u.tower t).pendFree ≠ [] → Ends i s fun p => ∃ e ∈ (u.tower t).pendFree,
            (∃ z ∈ (p.strand k j).pend, z.dests = [.x d] ∧ z.vals = [.w (launchId t e ((u.tower t).pendEntry e).gen)]) ∧
            ∃ l, p.launch? u.uid = some l ∧ l.words = w ∧ l.depth = par.depth + 1 ∧ l.limit = min par.limit (recDlim w) ∧ l.child = some (t, e)))) ∧
    (∀ (v : State) (w : List Word) (x : Pool),
      let i : Instr := .tsub g a
      let o := s.opened i
      let p := bits (tCtl w) 3 0
      s.ready i = true → o.readRecord k j (o.xOp a) = .ok (v, w) → v.pool? t p = some x → x.finished = false → x.job = v.jobOf k → x.closed = false →
        taskBad w x.guarded = false →
          (bitOf (tCtl w) 7 = true → exec i s = .next (s.after i (v.modPool t p fun x => { x with closed := true }))) ∧
          (∀ u, bitOf (tCtl w) 7 = false → (v.release k j).released k j = true → (v.release k j).acceptTask t p w = some u → exec i s = .next (s.after i u))) ∧
    (s.ready (.tdone g) = true → (s.opened (.tdone g)).isTaskStrand k j = true → (s.strand k j).task = none → Ends (.tdone g) s fun u =>
      (u.strand k j).st = .parked .task ∧ (u.core k).run = none ∧ (u.strand k j).x = (s.strand k j).x) ∧
    (∀ r : TaskRun, s.ready (.tdone g) = true → (s.opened (.tdone g)).isTaskStrand k j = true → (s.strand k j).task = some r → (s.strand k j).tm = true →
      r.guarded = false → Ends (.tdone g) s fun u =>
        (u.strand k j).st = .parked .task ∧ (u.strand k j).tm = false ∧ (u.strand k j).rown = (s.strand k j).rown + 1 ∧
        (u.strand k j).task = some { r with retiring := true })

/-- R269, R274: CPY and PUSH with a descriptor that can be read, with room in engine 4 or 5, queue their command: the engine
reads the formats of the banks as they stand at issue, a bank that serves L1 having none. A descriptor address that is not aligned to 16 is the alignment trap, detail 2. -/
def Obligations.CopiesAndPushes : Prop :=
  ∀ (g a b : Nat) (s : State),
    let k := s.cur.core
    let j := s.cur.strand
    (let i : Instr := .cpy g a
     let o := s.opened i
     (s.ready i = true → o.descCheck k (o.xOp a) = none → (o.core k).engineFull 4 = false →
       exec i s = .next (s.after i (o.enqueue 4 (.cpy (o.xOp a) (o.core k).bankFmts)))) ∧
     (s.ready i = true → spaceOf (o.xOp a) = .glob → (o.xOp a).toNat % 16 ≠ 0 → (s.strand k j).th = false → Ends i s fun t =>
       (t.strand k j).scause = 0x120200 ∧ (t.strand k j).sinfo = o.xOp a ∧ (t.strand k j).sepc = s.cur.start ∧ (t.core k).cmds = (s.core k).cmds)) ∧
    (∀ pa : Nat,
      let i : Instr := .push g a b
      let o := s.opened i
      s.ready i = true → o.pushCheck k (o.xOp a) (o.xOp b) = .ok pa → (o.core k).engineFull 5 = false →
        exec i s = .next (s.after i (o.enqueue 5 (.push (o.xOp a) (if region pa = 1 then BitVec.ofNat 64 pa else o.xOp b) (o.core k).bankFmts (region pa == 1)))))

/-! ## What happens without an instruction: results, traps, recoveries -/

/-- R71, R73, R77: on a core that is not frozen the oldest result in flight whose last cycle this is leaves the list and lands; on a frozen one nothing lands. A
variable-latency result lands, frozen core or not, once its cycle has come.
R71, R122: landing a word in X, F, A, AM or P, or the guarded bits of a lane predicate or a row, makes that register hold it and leaves the others: X0, P0 and L0 keep
their constants, a row and a lane predicate take the masked bits only. R130: the flags of a result that is no row are set in SST beside those that stand there. R123: a word for
X56 to X63 fills the place that its issue took in the queue, and no register changes. -/
def Obligations.ResultsLandInRegisters : Prop :=
  (∀ (t f st : Nat) (s : State),
     let k := 16 * t + f
     let x := s.strand k st
     (s.frozenNow k = true → exec (.resultLanding t f st) s = .next s) ∧
     (∀ (a b : List Landing) (l : Landing), s.frozenNow k = false → x.inflight = a ++ l :: b → l.left = 1 → (∀ z ∈ a, z.left ≠ 1) →
       exec (.resultLanding t f st) s = .next ((s.setStrand k st { x with inflight := a ++ b }).land k st l)) ∧
     (∀ (a b : List Pending) (p : Pending) (d : Nat), x.pend = a ++ p :: b → p.due = some d → d ≤ s.now → (∀ z ∈ a, ∀ e, z.due = some e → s.now < e) →
       exec (.pendingResultLands t f st) s = .next ((s.setStrand k st { x with pend := a ++ b }).landPend k st p))) ∧
  (∀ (s : State) (k i n tk : Nat) (w w2 : Word) (b : Bool) (v m : Row) (p q : LaneMask) (fl : BitVec 5) (po : Bool),
     let at_ (r : Reg) (y : Val) : Strand := (s.landVal k i r y tk fl po).strand k i
     let x := s.strand k i
     (∀ l : Landing, s.land k i l = s.landVal k i l.dest l.val l.ticket l.flags l.poison) ∧
     (∀ (z : Pending) (r : Reg) (y : Val), z.dests = [r] → z.vals = [y] → s.landPend k i z = s.landVal k i r y z.ticket z.flags z.poison) ∧
     (n < 56 → n ≠ 0 → (at_ (.x n) (.w w)).getX n = w ∧ ∀ e, e ≠ n → (at_ (.x n) (.w w)).getX e = x.getX e) ∧
     (at_ (.x 0) (.w w)).getX 0 = 0 ∧
     (at_ (.f n) (.w w)).getF n = w ∧ (∀ e, e ≠ n → (at_ (.f n) (.w w)).getF e = x.getF e) ∧
     (n < 16 → n ≠ 0 → (at_ (.p n) (.b b)).getP n = b ∧ ∀ e, e ≠ n → (at_ (.p n) (.b b)).getP e = x.getP e) ∧
     (at_ (.p 0) (.b b)).getP 0 = true ∧
     (n < 16 → n ≠ 0 → (at_ (.l n) (.lm p q)).getL n = (x.getL n &&& ~~~ q) ||| (p &&& q) ∧ ∀ e, e ≠ n → (at_ (.l n) (.lm p q)).getL e = x.getL e) ∧
     (at_ (.l 0) (.lm p q)).getL 0 = x.getL 0 ∧
     (at_ (.v n) (.row v m)).getV n = (x.getV n &&& ~~~ m) ||| (v &&& m) ∧ (∀ e, e ≠ n → (at_ (.v n) (.row v m)).getV e = x.getV e) ∧
     (∀ z ∈ [(Reg.x n, Val.w w), (.f n, .w w), (.p n, .b b), (.a n, .w w), (.am n, .am w w2), (.l n, .lm p q)], (at_ z.1 z.2).sst = x.sst ||| fl.setWidth 64) ∧
     (at_ (.am n) (.am w w2)).getAM n = (w, w2) ∧ (∀ e, e ≠ n → (at_ (.am n) (.am w w2)).getAM e = x.getAM e) ∧
     (56 ≤ n → (at_ (.x n) (.w w)).x = x.x ∧
       (∀ m, m ≠ n - 56 → ((s.landVal k i (.x n) (.w w) tk fl po).core k).port m = (s.core k).port m) ∧
       ((s.landVal k i (.x n) (.w w) tk fl po).core k).port (n - 56) =
         ((s.core k).port (n - 56)).map fun e => if e.ticket = tk then { e with landed := true, val := w } else e) ∧
     (at_ (.a n) (.w w)).getA n = w ∧ (∀ e, e ≠ n → (at_ (.a n) (.w w)).getA e = x.getA e) ∧ (∀ r y, (at_ r y).spc = x.spc ∧ (at_ r y).sepc = x.sepc ∧ (at_ r y).scause = x.scause ∧ (at_ r y).shv = x.shv) ∧
     (∀ r y, (s.landVal k i r y tk fl po).mem = s.mem))

/-- R133, R362, R368: a cause met by the running strand: one that is not recovered is a trap, with SEPC, SCAUSE and SINFO noted, TH set and control at SHV; a recovered one, 0x03, 0x08 or
0x15, leaves TH and waits for its rewind, which happens once every result has landed and its condition has cleared. Under TH any cause makes the gang fail with reason 1 and writes none of
the strand's registers (as the model reads it: log entry 14); R369: the third recovery since the restart point makes it fail with reason 2. That an event whose condition does not hold leaves the
state as it was is the model's choice (log entry 8); a group after an irrevocable operation counts as a restart point here (log entry 109). -/
def Obligations.TrapsAndRewinds : Prop :=
  ∀ (t f st code detail syl : Nat) (w : Word) (s : State),
    let k := 16 * t + f
    let x := s.strand k st
    let at_ (u : State) : Strand := u.strand k st
    let fails (reason : Nat) : Prop := ∀ (n : Nat) (g : Gang), (s.core k).gang = some n → s.gang? n = some g → Ends (.trapEntry t f st code detail syl w) s fun u =>
      (s.now, Instr.gangFailure n (g.gsi k st) reason) ∈ u.agenda ∧ at_ u = x ∧ (u.core k).run = none ∧ u.mem = s.mem
    (x.st = .running → x.th = false → code < 256 → detail < 256 → syl < 8 → code ≠ 3 → code ≠ 8 → code ≠ 0x15 → Ends (.trapEntry t f st code detail syl w) s fun u =>
      (at_ u).sepc = x.spc ∧ (at_ u).scause = BitVec.ofNat 64 (code * 65536 + detail * 256 + syl) ∧ (at_ u).sinfo = w ∧ (at_ u).th = true ∧
        (at_ u).spc = s.spcAt k (x.shv &&& 0xFFFFFFFFFFFFFFF0) ∧ (at_ u).st = .ready ∧ (u.core k).run = none ∧ (at_ u).x = x.x ∧ (at_ u).f = x.f ∧ (at_ u).v = x.v ∧ u.mem = s.mem) ∧
    (x.st = .running → x.th = false → x.sealed.recov < 2 → detail < 256 → syl < 8 → code = 3 ∨ code = 8 ∨ code = 0x15 → Ends (.trapEntry t f st code detail syl w) s fun u =>
      (at_ u).st = .recovering code detail ∧ (at_ u).th = false ∧ (at_ u).sepc = x.spc ∧ (at_ u).scause = BitVec.ofNat 64 (code * 65536 + detail * 256 + syl) ∧
        (at_ u).sinfo = (if code = 3 then 0 else w) ∧ (at_ u).recov = x.sealed.recov + 1 ∧ (at_ u).spc = x.spc ∧ (u.core k).run = none) ∧
    (x.st = .running → x.th = true → fails 1) ∧
    (x.st = .running → x.th = false → 2 ≤ x.sealed.recov → code = 3 ∨ code = 8 ∨ code = 0x15 → fails 2) ∧
    (x.st ≠ .running → exec (.trapEntry t f st code detail syl w) s = .next s) ∧
    (x.st = .recovering code detail → x.inflight = [] → x.pend = [] → s.causeCleared k x code detail = true → Ends (.recoveryRewind t f st) s fun u =>
      (at_ u).st = .ready ∧ (at_ u).spc = x.restart.addr ∧ (at_ u).a = x.restart.a ∧ (at_ u).lc = x.restart.lc ∧ (at_ u).rows = x.rows.take x.restart.fill ∧
        (at_ u).cRewc = x.cRewc + 1 ∧ (at_ u).x = x.x ∧ (at_ u).rown = x.rown)

/-! ## Gangs -/

/-- R37 to R39, R285: a launch's gang of one core is placed in launch state; a barrier at which every active strand has arrived makes them ready; the next row drains, in portions whose size is open, once every
active strand has sealed it, and is passed when nothing of it is left; the sealed lines of a task strand drain as well; a gang that is done, with its writes home, frees its cores. That an event whose condition does not hold leaves the state as it was, and
how much of a row drains in a cycle, are the model's choices (log entries 8 and 78). -/
def Obligations.GangsLive : Prop :=
  ∀ (t gang l k : Nat) (x : Launch) (r : List Unit3) (g : Gang) (s : State),
    (s.startReady = true → s.unitsOf t = .launch l :: r → s.launch? l = some x → s.mayPlace l x = true → s.coresFor x = some [k] → Ends (.gangPlacement t) s fun u =>
      (u.core k).gang = some s.uid ∧ (u.core k).near = [] ∧ (u.gang? s.uid).map (·.cores) = some [k] ∧ ∀ i, i < 4 →
        let y := u.strand k i
        y.spc = recEntry x.words ∧ y.shv = recTrap x.words ∧ y.getX 1 = recArg x.words ∧ y.th = false ∧ y.tm = false ∧
          y.st = (if (recSmask x.words).testBit i then .ready else .inactive)) ∧
    (s.gang? gang = some g →
      (s.barrierDone g = true → Ends (.gbarCompletion gang) s fun u =>
        (u.gang? gang).map (·.arrived) = some [] ∧
          ∀ n ∈ g.arrived, (s.strand (g.ofGsi n).1 (g.ofGsi n).2).st = .atBarrier → (u.strand (g.ofGsi n).1 (g.ofGsi n).2).st = .ready) ∧
      (∀ n, 0 < n → 0 < s.drainCount n ∧ s.drainCount n ≤ n) ∧
      (g.phase = .running → s.rowAdvances g = true → s.tasksToDrain g = [] →
        let d := (s.drainRow g (s.drainCount (s.rowUnits g))).spend
        exec (.rowDrain gang) s = .next (if d.rowUnits g = 0 then d.modGang gang fun h => { h with gadv := h.gadv + 1 } else d)) ∧
      (g.phase = .running → s.rowAdvances g = false →
        (s.tasksToDrain g = [] → exec (.rowDrain gang) s = .next s) ∧
        (∀ n, s.tasksToDrain g = [n] →
          let x := s.gsiStrand g n
          exec (.rowDrain gang) s =
            .next ((s.drainUnits g (g.ofGsi n).1 (g.ofGsi n).2 x.taskDrain (s.drainCount (x.unitsIn x.taskDrain))).1.spend))) ∧
      (let v := (s.writeBack k).pushHome (towerOf k) fun e => e.1 == k
       ∀ y, s.gangDone g = true → g.cores = [k] → v.launch? g.launch = some y →
        (v.coreHome k y.child.isNone = true → y.retired + 1 < recGangs y.words → Ends (.gangRetirement gang) s fun u =>
          u.gang? gang = none ∧ (u.core k).gang = none ∧ (u.core k).near = [] ∧ (u.launch? g.launch).map (·.retired) = some (y.retired + 1)) ∧
        (v.coreHome k y.child.isNone = false → exec (.gangRetirement gang) s = .next v)))

/-- R49 to R51, R246, R372, R374: a running gang begins to stop, and is saved once everything of it has ended; a waiting latency gang beyond its budget posts its
snapshot and begins to stop; a throughput job beyond its deadline is halted; a saved gang whose cores are free returns, or fails where its save area cannot be read;
a failing gang writes its record, posts event 7 and halts its launch. That an event whose condition does not hold leaves the state as it was is the model's choice (log entry 8). -/
def Obligations.GangsStop : Prop :=
  ∀ (gang gsi reason job : Nat) (g : Gang) (s : State), s.gang? gang = some g →
    (g.phase = .running → Ends (.preemption gang) s fun u =>
      (u.gang? gang).map (·.phase) = some (.preempting 2) ∧ u.cores = s.cores ∧ u.mem = s.mem) ∧
    (∀ r, g.phase = .preempting r → exec (.preemption gang) s =
      .next (let u := g.cores.foldl (fun u k => (u.stopCore g k).pushHome (towerOf k) fun e => e.1 == k) s; if u.readyToSave g then u.saveGang gang g else u)) ∧
    (∀ j, s.job? g.job = some j → j.latency = true → g.phase = .running → j.wbud < g.wsum → g.exceeded = false → exec (.waitBudgetPreemption gang) s =
      .next (((s.postJob 3 g.job g.tower (match s.launch? g.launch with | some l => l.htag | none => 0)
        [w64 (numMask g.arrived), w64 (numMask ((List.range (4 * g.cores.length)).filter fun n => match (s.gsiStrand g n).st with | .parked _ => true | _ => false)),
          w64 (s.portBits g), w64 (s.portBits g / 2 ^ 64), w64 (s.saveBase g)]).modGang gang fun y => { y with exceeded := true }).beginPreempt gang 3)) ∧
    (∀ j, s.job? g.job = some j → j.wbud ≥ g.wsum ∨ g.exceeded = true → exec (.waitBudgetPreemption gang) s = .next s) ∧
    (∀ j, s.job? job = some j → j.latency = false → j.halted = false → j.dline < j.dcnt → exec (.deadlineHalt job) s = .next (s.haltJob job true true)) ∧
    (∀ j, s.job? job = some j → j.dcnt ≤ j.dline → exec (.deadlineHalt job) s = .next s) ∧
    (s.mayReturn g = true → ∀ (cs : List Nat) (l : Launch), s.returnCores g = some cs → s.launch? g.launch = some l →
      let v := s.vfetch g.tower g.job (s.saveBase g) g.imageLen
      ((v.2 = true ∨ (∃ e, v.1.vread g.job (s.saveBase g) g.imageLen = .error e) ∨ ∃ bs, v.1.vread g.job (s.saveBase g) g.imageLen = .ok (bs, true)) →
        exec (.gangReturn gang) s = .next (v.1.sched (.gangFailure gang 0 4))) ∧
      (∀ bs, v.2 = false → v.1.vread g.job (s.saveBase g) g.imageLen = .ok (bs, false) → Ends (.gangReturn gang) s fun u =>
        ∃ h, u.gang? gang = some h ∧ h.cores = cs ∧ (h.phase = .running ∨ ∃ d, h.phase = .moving d) ∧ h.hidden = [])) ∧
    (∀ d, g.phase = .moving d → d ≤ s.now → g.reqs = [] → g.busy = 0 → g.follows.all s.stateAwake = true →
      (∀ p ∈ s.slabPairs gang g g.former g.cores, (s.tower g.tower).slabAwake p.2 = true) → g.late = [] → g.stopAfter = none → (s.tower g.tower).stateq = [] → Ends (.returnTileMovesComplete gang) s fun u =>
      (u.gang? gang).map (·.phase) = some .running) ∧
    (let tag := match s.launch? g.launch with | some l => l.htag | none => 0
     let o := if g.phase = .saved then s else s.undoCauses g
     let u := if g.phase = .saved then o else (o.writeItems g.tower g.job (o.saveBase g) (o.gangImage g true)).1
     let x := if g.phase = .saved then g.hidden.getD gsi {} else o.gsiStrand g gsi
     let v := if reason = 3 then { u with selfTestDue := true } else u
     exec (.gangFailure gang gsi reason) s =
       .next ((v.postJob 7 g.job g.tower tag [x.scause, x.sepc, x.sinfo, w64 (gsi % 64 + reason * 256), w64 (s.saveBase g)]).haltLaunch g.launch))

/-! ## Engines, memory, tasks -/

/-- R121, R223, R224, R226, R227, R232, R242, R272, R274, R275, R331: the engines' completions: a decoded block enters the FIFO, a bad one fails its stream; a loaded tile and scales are in the
shadow plane; an exchange exchanges the planes; the result writer's bytes are in scratchpad; an element of a copy is read where its enumeration puts it, converted, and written likewise; a copy posts its
word once the writes of its release are home, a push once its writes are performed and its key is registered, where the table has room. The moments of single elements are free (log entries 23 to 26); that
a key of 0 registers nothing, and that a failed transfer ends with its first failing element, are the model's choices (log entries 118 and 25). -/
def Obligations.EnginesComplete : Prop :=
  ∀ (t f : Nat) (s : State) (x : Cmd),
    let k := 16 * t + f
    (∀ (st : Stream) (hd bs : List Byte),
      let len := bits (BitVec.ofNat 64 (ofLE hd)) 47 32
      let o := if !st.started && (st.acq.any fun sc => decide (4 ≤ sc)) then s.acquire k else s
      s.decompressReady k = some st → (o.engineView k).vread st.job st.next.toNat 8 = .ok (hd, false) → (o.engineView k).vread st.job st.next.toNat (max 8 len) = .ok (bs, false) →
        (o.vfetch t st.job st.next.toNat bs.length).2 = false →
        (holigBlock (fmtBytes st.fmt) bs = none → Ends (.decompressBlock t f) s fun u => (u.core k).failed = true) ∧
        (∀ vals, holigBlock (fmtBytes st.fmt) bs = some vals → Ends (.decompressBlock t f) s fun u =>
          ∃ z, (u.core k).fifo.getLast? = some z ∧ ∃ pre, z.elems = pre ++ vals.map (BitVec.ofNat 32))) ∧
    (∀ z : FifoTile, s.headDone k 1 = some x → x.kind = .wld z → Ends (.planeLoadComplete t f) s fun u =>
      (u.core k).shadow.elems = sparse z.elems ∧ (u.core k).shadow.fmt = z.fmt ∧ (u.core k).active = (s.core k).active ∧
        (u.core k).shadow.flags = specialFlags z.fmt (s.colsOf k) z.elems) ∧
    (∀ ps n m, s.headDone k 1 = some x → x.kind = .wscl ps n m → Ends (.scaleLoadComplete t f) s fun u =>
      (u.core k).shadow.resident = true ∧ (u.core k).shadow.elems = (s.core k).shadow.elems ∧
        ∀ j, j < x.data.length → mget (u.core k).shadow.scales j 127 = (x.data.getD j 0).toNat) ∧
    (∀ r, (s.core k).cmdsOf 1 = x :: r → x.kind = .wswap → (s.core k).mmaLeft = 0 → (s.core k).readBefore (s.now + 1) x.uid = false → Ends (.wswapEffect t f) s fun u =>
      (u.core k).active = (s.core k).shadow ∧ (u.core k).shadow = (s.core k).active) ∧
    (∀ off e bs, s.headDone k 2 = some x → x.kind = .mrd off e bs false → e ∣ bs.length → Memory.wf (s.core k).near = true → Ends (.mrdComplete t f) s fun u =>
      (∀ j, j < bs.length → (∀ l, x.left = some l → j / e ∈ l) → rdByte (u.core k).near (off + j) = bs.getD j 0) ∧
        ∀ a, (a < off ∨ off + bs.length ≤ a) → (∀ l, x.left = some l → ∀ n ∈ l, n < bs.length / e) → rdByte (u.core k).near a = rdByte (s.core k).near a) ∧
    (((s.core k).cmdsOf 3).find? (fun y => y.started && decide (y.due ≤ s.now)) = some x → exec (.stateEngineComplete t f) s = .next (s.finishCmd k 3 x 0)) ∧
    Ends (.copyOnWriteComplete t f) s (fun u => ∀ e ∈ u.handles, e.2.v = true → e.2.twr = t → ∀ c ∈ e.2.cow, (s.slabsOf k).contains (c.2.1 / 256) = true → s.now < c.2.2) ∧
    (∀ w, s.transferDone k 4 = some x → x.status = some w → exec (.copyComplete t f) s = .next (s.finishCmd k 4 x w)) ∧
    (s.transferDone k 4 = some x → x.status = none →
      let d := parseDesc x.desc
      let p := if d.rel = true ∧ 4 ≤ d.scope then s.pushHome (towerOf k) fun e => e.1 == k && e.2.tag == x.uid && decide (8 ≤ e.2.strand) else s
      (p.relClear k x d = true → exec (.copyComplete t f) s = .next (p.finishCmd k 4 x 0)) ∧ (p.relClear k x d = false → exec (.copyComplete t f) s = .next p)) ∧
    (let u := s.pushKeys k
     u.transferDone k 5 = some x →
      (∀ w, x.status = some w → exec (.pushComplete t f) s = .next (u.finishCmd k 5 x w)) ∧
      (x.status = none → x.keyed = true → exec (.pushComplete t f) s = .next (u.finishCmd k 5 x 0)) ∧
      (x.status = none → x.keyed = false → exec (.pushComplete t f) s = .next u)) ∧
    (∀ (a r : Word) (bf : Map Half), (s.core k).cmdsOf 5 = [x] → x.kind = .push a r bf false → x.moved = true → x.status = none → x.keyed = false →
      let e := parseDesc x.rdesc
      let key := (parseDesc x.desc).key
      let ends (z : State) : Prop := exec (.pushComplete t f) s = .next ((z.modCmd k 5 x.uid fun y => { y with keyed := true }).finishCmd k 5 x 0)
      (s.pushClear x.uid e = false → exec (.pushComplete t f) s = .next s) ∧
      (s.pushClear x.uid e = true → key = 0 → ends s) ∧
      (s.pushClear x.uid e = true → key ≠ 0 → (∀ z, s.registerArrival e.rtwr e.rjob key = some z → ends z) ∧
        (s.registerArrival e.rtwr e.rjob key = none → exec (.pushComplete t f) s = .next s))) ∧
    (∀ (v : State) (r : Route) (n off : Nat),
      let a := r.d.srcAt n
      let e := fmtBytes r.sf
      r.d.sfb = false → spaceOf a = .scr → a.toNat % e = 0 → (s.core k).scrOff a e = some off → (s.core k).nearErr = [] → (s.core k).nearPois = [] →
        s.codesAt v k x.job r [n] = (s, [(n, ofLE (rdBytes (s.core k).near off e))], none)) ∧
    (∀ (y : Relay) (n c : Nat), y.scl = false → misplaced y.fb y.dst.dst (y.dst.dstAt n) (fmtBytes y.df) = false →
      y.items [(n, c)] = .ok [(y.dst.dstAt n, toLE (fmtBytes y.df) (moveFmt y.sf y.df y.sat c))]) ∧
    (∀ (r : Route) (a : Word) (bs : List Byte) (off : Nat), r.into = none → spaceOf a = .scr → (s.core k).scrOff a bs.length = some off →
      s.putItems k x r [(a, bs)] = (s.modCore k fun c => c.scrWrite off bs, none)) ∧
    (∀ (job : Nat) (key : Word), (s.tower t).arrivals.length < 1024 → Ends (.arrivalRegistration t job key) s fun u =>
      ∃ a ∈ (u.tower t).arrivals, a.job = job ∧ a.key = key ∧ a.registered = true)

/-- R218, R357, R359, R360: at a period start every gauge keeps its overshoot alone; a slice begins with every wait sum of its job at zero; a rate window begins with every windowed
count at 0, its threshold kept, and no layer errors counted; a bank idle for the threshold enters retention, stays retained, and leaves it. The threshold is firmware's (log entry 58); that an
event whose condition does not hold leaves the state as it was is the model's choice (log entry 8). -/
def Obligations.TimersTick : Prop :=
  ∀ (n t slab bank : Nat) (j : Job) (s : State),
    let b := s.bank t slab bank
    (s.now % Config.period = 0 → Ends .periodStart s fun u =>
      (s.job? n = some j → (u.job? n).map (·.guse) = some (j.guse.map fun e => (e.1, e.2 - j.gbud.getD (e.1 % 6) 0xFFFFF))) ∧
        (∀ e ∈ u.towers, e.2.paramNext = []) ∧ u.cores = s.cores ∧ u.mem = s.mem ∧ u.now = s.now) ∧
    (s.now % Config.period ≠ 0 → exec .periodStart s = .next s) ∧
    (s.job? n = some j → j.latency = true → s.now % Config.period = 0 → (if j.sliceOn then j.slice ≤ j.sper else j.created < s.now) → Ends (.sliceStart n) s fun u =>
      (∀ e ∈ u.gangs, e.2.job = n → e.2.wsum = 0) ∧ (u.job? n).map (·.sper) = some 0 ∧ u.cores = s.cores ∧ u.mem = s.mem) ∧
    (s.now % Config.rateWindow = 0 → Ends .rateWindowStart s fun u =>
      (∀ e ∈ u.towers, e.2.layerErr = [] ∧ e.2.requested = []) ∧
        (∀ z, mfind s.towers t = some z → ∀ m, m < 8 → (u.tower t).cntOf (0x130 + m) = BitVec.ofNat 64 ((z.cntOf (0x130 + m)).toNat % 2 ^ 16)) ∧ u.cores = s.cores ∧ u.mem = s.mem ∧ u.jobs = s.jobs) ∧
    (b.mode = 0 → b.lastUse + s.idleLimit ≤ s.now → Ends (.retentionEntry t slab bank) s fun u =>
      (u.bank t slab bank).mode = 1 ∧ (u.bank t slab bank).due = s.now + 2047 ∧ u.mem = s.mem) ∧
    (b.mode = 1 → b.due ≤ s.now → Ends (.retentionEntryEnd t slab bank) s fun u =>
      (u.bank t slab bank).mode = (if b.waiting then 3 else 2) ∧ (b.waiting = true → (u.bank t slab bank).due = s.now + 1024) ∧ u.mem = s.mem) ∧
    (b.mode = 3 → b.due ≤ s.now → Ends (.retentionExit t slab bank) s fun u => (u.bank t slab bank).mode = 0 ∧ u.mem = s.mem)

/-- R213, R214, R338: a page that a user's accesses made hot is proposed, with room for it, and waits where the table is full; its migration freezes while the page stands as it was; after its copy the new frame
holds the page's bytes where no dirty line, held access or table stands in the way. -/
def Obligations.PagesMigrate : Prop :=
  ∀ (t user job k : Nat) (va frame : Word) (e : Tlb) (m : Migration) (s : State),
    let base := e.pfn * 2 ^ e.bits
    let x := s.tower t
    (s.walk job va.toNat = .ok e → region base = 0 → homeTower base = t → user ≠ t → e.bits ≤ 21 → (x.cntOf 0x108).toNat ≤ x.hotOf base e.bits user → e.pin = false → e.dup = false →
      region frame.toNat = 0 → homeTower frame.toNat = user → frame.toNat % 2 ^ e.bits = 0 → Ends (.hotPageProposal t user job va frame) s fun u =>
        u.mem = s.mem ∧ (u.tower t).hotOf base e.bits user = 0 ∧
        (x.migr.length < 4 → (u.tower t).proposals = x.proposals ∧
          ∃ z, (u.tower t).migr = x.migr ++ [z] ∧ z.old = base ∧ z.new = frame.toNat ∧ z.job = job ∧ z.bits = e.bits ∧ z.frozen = false) ∧
        (4 ≤ x.migr.length → (u.tower t).migr = x.migr ∧ (u.tower t).proposals = x.proposals ++ [(user, job, va, frame)])) ∧
    (x.migr[k]? = some m → m.frozen = false → s.walk m.job m.va.toNat = .ok e → base = m.old → e.bits = m.bits → e.pin = false → e.dup = false →
      Ends (.migrationFreeze t k) s fun u => ∃ z, (u.tower t).migr[k]? = some z ∧ z.frozen = true ∧ z.old = m.old ∧ z.new = m.new ∧ u.mem = s.mem) ∧
    (x.migr[k]? = some m → m.frozen = true → m.due ≤ s.now → Ends (.migrationCopyComplete t k) s fun u =>
      (u.tower t).migr = x.migr.eraseIdx k ∧
      (Memory.wf s.mem = true → (∀ c ∈ s.cores, c.2.l1 = []) → (∀ c ∈ s.towers, c.2.held = [] ∧ c.2.out = []) → (m.new + 2 ^ m.bits ≤ m.old ∨ m.old + 2 ^ m.bits ≤ m.new) →
        let entry := (walkReads (m.copy s.mem) m.va.toNat 3 (match s.job? m.job with | some j => j.root | none => 0)).getLast?
        (∀ a, (∀ w, entry = some w → a < w ∨ w + 8 ≤ a) →
          rdByte u.mem a = if m.new ≤ a ∧ a < m.new + 2 ^ m.bits then rdByte s.mem (a - m.new + m.old) else rdByte s.mem a) ∧
        ∀ w, entry = some w → rdWord u.mem w = setBits (rdWord (m.copy s.mem) w) 47 8 (m.new / 256)))

/-- R236, R317, R318, R347, R366, R367: the shade context ends a freeze whose needs are met, and fails the gang where its store or a table is lost (that any uncorrectable word
of the store is met at any service is the model's choice: log entry 99); the pager serves a keep or release hint at once; a state that came in is resident, or absent for good
where the pager met an error that it could not correct, one that went out absent; a state moved within the device answers its new handle, once the banks that
receive it are awake, or the code of the failure and keeps the source. That an event whose condition does not hold leaves the state as it was is the model's choice (log entry 8). -/
def Obligations.PagerServes : Prop :=
  ∀ (t f st i c : Nat) (r : List (Nat × Nat)) (s : State),
    let k := 16 * t + f
    (∀ z : Freeze, (s.core k).frozen = some z → z.due ≤ s.now → s.frozenNow k = true →
      let o := s.coreErrs k fun e => decide (e.sram = .shade)
      let w := z.needs.foldl (fun w n => w.walkFetch k n) o.1
      let u := z.needs.foldl (fun u n => u.serveNeed k n) w
      (o.2 = true ∨ w.walkPoisoned k z.needs = true → exec (.shadeMissService t f) s =
        .next ((w.modCore k fun c => { c with frozen := none }).failAt k (w.frozenStrand k) 3)) ∧
      (o.2 = false → w.walkPoisoned k z.needs = false →
        (z.needs.all (fun n => u.needMet k n) = true → exec (.shadeMissService t f) s = .next (u.modCore k fun c => { c with frozen := none })) ∧
        (z.needs.all (fun n => u.needMet k n) = false → exec (.shadeMissService t f) s = .next u))) ∧
    ((s.tower t).faults = [] → (s.tower t).hints = (i, c) :: r → (s.handle i).v = true → (s.handle i).twr = t → (s.handle i).res ≠ 3 → c = 2 ∨ c = 3 →
      Ends (.pagerServe t) s fun u => (u.handle i).keep = decide (c = 2) ∧ (u.tower t).hints = r ∧ u.mem = s.mem ∧ u.cores = s.cores) ∧
    ((∀ u, s.serveFault t = some u → exec (.pagerServe t) s = .next u) ∧
      (∀ u, s.serveFault t = none → s.serveHints t = some u → exec (.pagerServe t) s = .next u) ∧
      (s.serveFault t = none → s.serveHints t = none → exec (.pagerServe t) s = .next s.spend)) ∧
    (∀ m : PagerMove, (s.tower t).moveDone true = some m → (s.tower t).faults = [] → (s.tower t).stateq = [] →
      let o := (s.endMove t m.handle).modTower t fun x => { x with faults := x.faults.filter fun e => e.1 != m.handle }
      let room := o.roomFor (s.handle m.handle) [] ((o.framesOf (s.handle m.handle)).length + o.zeroCount (s.handle m.handle))
      (Config.pagerError s.freeCtr = 2 → Ends (.pageInComplete t) s fun u =>
        (u.tower t).moves = (s.tower t).moves.filter (fun n => n.handle != m.handle) ∧ (u.handle m.handle).res = 1 ∧ (u.handle m.handle).lost = true) ∧
      (Config.pagerError s.freeCtr ≠ 2 → (∀ ps, room = some ps → o.slabsReady t ((ps.map (· / 256)).eraseDups) = true) → room.isSome = true → Ends (.pageInComplete t) s fun u =>
        (u.tower t).moves = (s.tower t).moves.filter (fun n => n.handle != m.handle) ∧ (u.handle m.handle).res = 0 ∧ (u.handle m.handle).used = s.now)) ∧
    (∀ m : PagerMove, (s.tower t).moveDone false = some m → (s.tower t).stateq = [] → (s.touchState m.handle).stateAwake m.handle = true → Ends (.pageOutComplete t) s fun u =>
      (u.handle m.handle).res = 1 ∧ (u.tower t).moves = (s.tower t).moves.filter fun n => n.handle != m.handle) ∧
    (∀ (o : StateOp) (h : Nat) (dst : Word),
      let drop (u : State) : State := u.modTower t fun x => { x with stateq := x.stateq.filter fun y => y.uid != o.uid }
      ((s.tower t).stateq.find? fun y => y.core == k && y.strand == st && y.started && y.reqs.isEmpty && y.busy == 0) = some o → o.kind = .move h dst → bitOf dst 4 = false →
        let r := s.tilesOf (s.handle h)
        let got := r.1.arriveState (bits dst 3 0) (s.handle h).job (s.handle h).fmt16 (s.handle h).snap r.2
        (∀ e, got = .error e → e < 8 → exec (.stateMoveComplete t f st) s =
          .next (((((drop s).modHandle h fun y => { y with res := o.res }).resolve k st o.tag (BitVec.ofNat 64 (2 ^ 63 + e)) s.now false).serveStates t).spend)) ∧
        (∀ u w, got = .ok (u, w) → bitOf w 63 = false →
          let slabs := u.slabsHeld (u.handle (bits w 23 0))
          let v := slabs.foldl (fun v b => v.touchSlab (bits dst 3 0) b) u
          (slabs.all (s.tower (bits dst 3 0)).slabAwake = true →
            exec (.stateMoveComplete t f st) s = .next (((((drop v).freeHandle h).resolve k st o.tag w v.now false).serveStates t).spend)) ∧
          (slabs.all (s.tower (bits dst 3 0)).slabAwake = false →
            exec (.stateMoveComplete t f st) s = .next (slabs.foldl (fun v b => v.touchSlab (bits dst 3 0) b) s).spend)))

/-- R139, R261, R263, R264, R310, R313, R314, R333, R337: a ready record is pushed into Q7 of the core that the dispatcher chose and staged there; a staged task starts with its
payload and control word in X1 and X2; a ring's head refills its pool's queue; a queued access performs; the oldest fence ends; a drop is acknowledged; a watched
line that differs wakes a strand parked without an entry. That an event whose condition does not hold leaves the state as it was is the model's choice (log entry 8). -/
def Obligations.TasksAndAccessesProceed : Prop :=
  ∀ (t f st k n p : Nat) (r : TaskRec) (q : List TaskRec) (s : State),
    let c := 16 * t + f
    (s.nextAssignment t = some (k, p, r, q) → Ends (.taskDispatch t) s fun u =>
      (u.core k).port 7 = (s.core k).port 7 ++ r.delivered.map (fun w => ⟨s.uid, true, w, 4⟩) ∧ ∃ z, (u.core k).staging = (s.core k).staging ++ [z] ∧
        z.words = r.delivered ∧ z.uid = r.uid ∧ z.pool = p ∧ z.guarded = bitOf (tCtl r.words) 6 ∧ u.mem = s.mem) ∧
    (∀ z : Staged, s.nextStart c = some (n, z) → Ends (.taskStart t f) s fun u =>
      let y := u.strand c n
      let v := (s.modCore c fun x => { x with staging := x.staging.filter fun e => e.uid != z.uid }).acquire c
      y.getX 1 = z.words.getD 7 0 ∧ y.getX 2 = tCtl z.words ∧ y.tm = true ∧ y.spc = v.spcAt c (z.words.getD 0 0 &&& 0x1FFFFFFFFFFFFF0) ∧ y.st = .ready ∧
        (y.task.map fun r => (r.uid, r.pool, r.guarded, r.retiring)) = some (z.uid, z.pool, z.guarded, false)) ∧
    (∀ (x : Pool) (h : TaskRec) (l : List TaskRec) (bs : List Byte), s.pool? t p = some x → x.queue.length < 32 → x.refillAt ≤ s.now → (s.tower t).discarding p = false → x.ringq = h :: l →
      s.vmay x.job (x.ringAddr x.ringHead) 64 = true → ∀ po, s.vread x.job (x.ringAddr x.ringHead) 64 = .ok (bs, po) →
        let v := (s.vfetch t x.job (x.ringAddr x.ringHead) 64).1
        let h' := if h.registered then h else { h with words := wordsOf 8 bs, delivered := wordsOf 8 bs }
        exec (.ringRefill t p) s = .next ((({ v with uid := v.uid + 1 } : State).setPool t p
          { x with ringq := l, ringHead := (x.ringHead + 1) % 2 ^ x.rlog, queue := x.queue ++ [h'.enter v], refillAt := v.now + 8 }).registerPool t p)) ∧
    (∀ e : SqEntry, (s.core c).sq[n]? = some e → s.mayPerform c e = true → exec (.postedWritePerform t f n) s = .next (s.performOne c e)) ∧
    (∀ e : SqEntry, (s.core c).sq[n]? = some e → s.mayPerform c e = false → exec (.postedWritePerform t f n) s = .next s) ∧
    (∀ (m : FenceMark) (l : List FenceMark), (s.strand c st).fences = m :: l → m.due ≤ s.now →
      let a := s.fenceActs c st m l
      (a.1.fenceClear c st a.2 = true → exec (.fenceActionsComplete t f st) s =
        .next ((if 4 ≤ m.scope then a.1.acquire c else a.1).modStrand c st fun x => { x with fences := l })) ∧
      (a.1.fenceClear c st a.2 = false → exec (.fenceActionsComplete t f st) s = .next a.1) ∧
      (m.scope < 3 → a.1 = ((s.flush c st fun e => e.strand == st && decide (e.uid < m.uid) && m.mask.getLsbD e.cls).modStrand c st fun x => { x with fences := m :: l })) ∧
      (a.1.fenceClear c st a.2 = true → ∀ e ∈ a.1.waiting c, e.strand = st → e.uid < m.uid → m.mask.getLsbD e.cls = false)) ∧
    (∀ d, (s.strand c st).xlinv = some d → d ≤ s.now → Ends (.translationDropAck t f st) s fun u => (u.strand c st).xlinv = none ∧ u.mem = s.mem) ∧
    (∀ w : Watch, (s.strand c st).st = .parked .watch → (s.strand c st).watch = some w → w.entered = false → region (w.line * 64) ≠ 1 →
      s.umbraMay (s.jobOf c) (w.line * 64) 64 false = true → rdBytes s.mem (w.line * 64) 64 ≠ w.snap → Ends (.waitRecheck t f st) s fun u =>
        (u.strand c st).st = .ready ∧ (u.strand c st).watch = some { w with triggered := true })

/-! ## The host, the links, starts -/

/-- R303, R395 to R398: what the host's accesses do: a launch record of the right class enters its queue with its job's number, one of the wrong class is answered with event 2 and the lowest reason among its
defects, one for a full queue with event 6; EQCFG, EQHEAD, EQBASE and the mailbox words are written as their rules say, and read back; an access that R395 does not allow reads zeros and is counted; held events
and messages go out once they may; the aperture reads and writes memory within its bounds, and a page under migration holds a write back. -/
def Obligations.HostAccesses : Prop :=
  ∀ (fn t q pool off : Nat) (words : List Word) (v : Half) (w : Word) (s : State),
    let x := s.fn fn
    let n := if fn = 0 then recJob words else x.bound.getD 0
    (∀ j : Job, t < 12 → q < 8 → fn ≤ 32 → words.length = 8 → (fn = 0 ∨ x.bound.isSome = true) → s.job? n = some j →
      (j.latency = decide (q < 4) → (mget (s.tower t).lq q []).length < 64 → Ends (.launchRecordSubmit fn t q words) s fun u =>
        ∃ e, mget (u.tower t).lq q [] = mget (s.tower t).lq q [] ++ [e] ∧ e.job = n ∧ e.fn = fn ∧ e.words = words.set 3 (setBits (words.getD 3 0) 5 0 n) ∧ u.mem = s.mem) ∧
      (j.latency = decide (q < 4) → 64 ≤ (mget (s.tower t).lq q []).length → exec (.launchRecordSubmit fn t q words) s = .next (s.submitDrop fn (some n) t (64 * q))) ∧
      (j.latency ≠ decide (q < 4) → ∃ why w, why ≤ 11 ∧ s.checkRecord t s.uid j words [(11, 3)] = .error (why, w) ∧
        exec (.launchRecordSubmit fn t q words) s = .next (s.postEvent j.fn 2 n t (bits (words.getD 7 0) 63 32) [w64 w, w64 why]))) ∧
    (∀ bs : List Byte, t < 12 → q < 8 → fn ≤ 32 → bs.length = 64 →
      exec (.registerWrite fn (4096 * t + 64 * q) (.write bs)) s = exec (.launchRecordSubmit fn t q (wordsOf 8 bs)) s) ∧
    (∀ y : Pool, t < 12 → pool < 16 → fn ≤ 32 → s.pool? t pool = some y → y.finished = false → (fn = 0 ∨ x.bound = some y.job) → words.length = 8 → taskBad words y.guarded = false →
      y.closed = false →
        (bitOf (tCtl words) 7 = true → Ends (.taskRecordSubmit fn t pool words) s fun u => (u.pool? t pool).map (·.closed) = some true ∧ u.mem = s.mem) ∧
        (∀ u, bitOf (tCtl words) 7 = false → s.acceptTask t pool words = some u → exec (.taskRecordSubmit fn t pool words) s = .next u) ∧
        (bitOf (tCtl words) 7 = false → s.acceptTask t pool words = none → exec (.taskRecordSubmit fn t pool words) s = .next (s.submitDrop fn (some y.job) t (0x400 + 64 * pool)))) ∧
    (let on := v.toNat.testBit 8 && decide (6 ≤ v.toNat % 32) && decide (v.toNat % 32 ≤ 16)
     Ends (.eqcfgWrite fn v) s fun u => (u.fn fn).eqcfg = (if v.toNat.testBit 8 && !on then v &&& 0x07FF021F else v &&& 0x07FF031F) ∧
       (x.en = false → on = true → (u.fn fn).eqhead = 0 ∧ (u.fn fn).eqtail = 0) ∧ (x.en = true ∨ on = false → (u.fn fn).eqhead = x.eqhead ∧ (u.fn fn).eqtail = x.eqtail)) ∧
    ((v - x.eqhead).toNat ≤ (x.eqtail - x.eqhead).toNat → Ends (.eqheadWrite fn v) s fun u => (u.fn fn).eqhead = v ∧ (u.fn fn).eqtail = x.eqtail) ∧
    ((x.eqtail - x.eqhead).toNat < (v - x.eqhead).toNat → exec (.eqheadWrite fn v) s = .next s) ∧
    (let put (v : Word) : HostAccess := .write (toLE 8 v.toNat)
     let reads (off : Nat) (v : Word) : Prop := fn ≤ 32 → exec (.registerWrite fn off (.read 8)) s = .next (s.setFn fn { x with readData := toLE 8 v.toNat })
     (fn ≤ 32 → x.en = false → Ends (.registerWrite fn 0xC000 (put w)) s fun u => (u.fn fn).eqbase = w &&& 0xFFFFFFFFFFFFF000) ∧
     (fn ≤ 32 → x.en = true → exec (.registerWrite fn 0xC000 (put w)) s = .next s) ∧
     (∀ m, m < 8 → Ends (.registerWrite 0 (0xD000 + 8 * m) (put w)) s fun u => mget u.mailbox.cmd m 0 = w ∧ u.mailbox.busy = s.mailbox.busy) ∧
     Ends (.registerWrite 0 0xD040 (put 1)) s (fun u => u.mailbox.busy = true) ∧
     reads 0xC000 x.eqbase ∧ reads 0xC010 (x.eqhead.zeroExtend 64) ∧ reads 0xC018 (x.eqtail.zeroExtend 64) ∧ reads 0xC040 s.start ∧ reads 0xC048 x.hflt ∧
     (∀ m, m < 8 → fn = 0 → reads (0xD000 + 8 * m) (mget s.mailbox.cmd m 0)) ∧
     (∀ l : Nat, fn ≤ 32 → (l ≠ 8 ∨ off % 8 ≠ 0 ∨ barRange fn off = false) → Ends (.registerWrite fn off (.read l)) s fun u =>
       (u.fn fn).readData = List.replicate l 0 ∧ (u.fn fn).hflt = satInc x.hflt ∧ u.mem = s.mem)) ∧
    (∀ r l, x.held = r :: l → x.en = true → x.full = false → exec (.heldEventDelivery fn) s = .next ((s.setFn fn { x with held := l }).pushEvent fn r)) ∧
    (x.msixDue = true → x.eqcfg.toNat.testBit 9 = true → (∀ n, x.msixLast = some n → n + 4096 ≤ s.now) → Ends (.msixMessage fn) s fun u =>
      (u.fn fn).msixDue = false ∧ (u.fn fn).msixLast = some s.now ∧ u.mem = s.mem) ∧
    (let pa := s.apbase.toNat + off
     region pa = 0 → frameOk pa = true →
       (∀ l, off + l ≤ 2 ^ 36 → frameOk (pa + (l - 1)) = true → region (pa + (l - 1)) = 0 → Ends (.hostApertureAccess off (.read l)) s fun u => u.mem = s.mem ∧
         ((∀ i, i < l → s.handleByte (pa + i) = none) → (u.fn 0).readData = rdBytes s.mem pa l)) ∧
       (∀ bs : List Byte, bs ≠ [] → off + bs.length ≤ 2 ^ 36 → pa % 65536 + bs.length ≤ 65536 →
         (s.migrating pa = false → exec (.hostApertureAccess off (.write bs)) s = .next (s.performHome (homeTower pa) 64 (cellsOf pa bs))) ∧
         (s.migrating pa = true → Ends (.hostApertureAccess off (.write bs)) s fun u => u.mem = s.mem ∧
           ∃ e, (u.tower (homeTower pa)).out = (s.tower (homeTower pa)).out ++ [e] ∧ e.2.pa = pa ∧ e.2.bytes = bs))) ∧
    (∀ bs : List Byte, 2 ^ 36 < off + bs.length → Ends (.hostApertureAccess off (.write bs)) s fun u => u.mem = s.mem ∧ (u.fn 0).hflt = satInc (s.fn 0).hflt) ∧
    (∀ l : Nat, 2 ^ 36 < off + l → Ends (.hostApertureAccess off (.read l)) s fun u =>
      u.mem = s.mem ∧ (u.fn 0).hflt = satInc (s.fn 0).hflt ∧ (u.fn 0).readData = List.replicate l 0)

/-- R380, R381, R382, R399, R400, R409, R410: the mailbox commands: CREATE makes the job of a good record and answers 0, a code otherwise; CLOSE ends a job without launches; a start with KEEP or without
leaves no job, and is answered with the last value that START takes; ATTEST writes its report; the parameters of PARAM and when each takes effect; POWER answers the reading; CHECKPOINT names the jobs to image,
each of which goes through its steps; RESTORE rebuilds the job of the best commit record, or is refused and leaves no job. That a command is performed in one step (log entry 62), START as values shown one at a time
(log entry 66), the image of a job and its words (log entry 54), the identities of a restored job (log entry 55), the device count (log entry 65) and the order of a record's checks (log entry 61) are the model's choices;
for what a failed checkpoint reports see log entry 64. -/
def Obligations.MailboxCommands : Prop :=
  ∀ (addr arg keep nonce dest v tower : Word) (gmask : List Byte) (job : Nat) (s : State),
    (∀ e, s.createCheck addr = .error e → exec (.create addr) s = .next (s.mailEnd e) ∧ exec (.restore addr) s = .next (s.mailEnd e)) ∧
    (∀ j, s.createCheck addr = .ok j → Ends (.create addr) s fun u =>
      u.job? j.num = some j ∧ (u.fn j.fn).bound = some j.num ∧ u.mailbox.result = 0 ∧ u.mailbox.busy = false ∧ u.mem = s.mem) ∧
    (bits arg 63 9 = 0 → bits arg 7 6 = 0 →
      (s.job? (bits arg 5 0) = none → exec (.close arg) s = .next (s.mailEnd 2)) ∧
      (∀ j, s.job? (bits arg 5 0) = some j → bitOf arg 8 = false → s.hasLaunches (bits arg 5 0) = true → exec (.close arg) s = .next (s.mailEnd 5)) ∧
      (∀ j, s.job? (bits arg 5 0) = some j → bitOf arg 8 = true ∨ s.hasLaunches (bits arg 5 0) = false → Ends (.close arg) s fun u =>
        u.job? (bits arg 5 0) = none ∧ u.mailbox.result = 0 ∧ u.mailbox.busy = false)) ∧
    (bits keep 63 1 = 0 → Ends (.warm keep gmask) s fun u =>
      u.jobs = [] ∧ u.gangs = [] ∧ u.launches = [] ∧ u.handles = [] ∧ u.cores = [] ∧ u.now = 0 ∧ u.turn = .start ∧
        (u.startNext = [] → u.mailbox.result = 0 ∧ u.mailbox.busy = false)) ∧
    (1 < keep.toNat → exec (.warm keep gmask) s = .next (s.mailEnd 1)) ∧
    (∀ w l, s.powered = true → s.turn = .start → s.startNext = w :: l → (∀ e ∈ s.agenda, s.now < e.1) → ∃ u, step s = .next u ∧ u.start = w ∧ u.startNext = l ∧ u.mem = s.mem ∧
      (l ≠ [] → u.mailbox = s.mailbox) ∧ (l = [] → s.mailbox.busy = true → u.mailbox.result = 0 ∧ u.mailbox.busy = false)) ∧
    (bits nonce 63 45 = 0 → bits dest 63 45 = 0 → exec (.attest nonce dest) s =
      .next ((s.poke (hostPa dest.toNat) (s.report (rdBytes s.mem (hostPa nonce.toNat) 32))).mailEnd 0)) ∧
    exec .checkpoint s = .next (s.requestCkpt.mailEnd 0) ∧
    (s.ckpt = [] → ∀ u, exec .checkpoint s = .next u → u.ckpt = (s.jobs.filter fun e => e.2.ckptLen != 0 && !e.2.halted).map (·.1)) ∧
    (∀ j, s.createCheck addr = .ok j → j.ckptLen = 0 → Ends (.restore addr) s fun u => u.job? j.num = none ∧ u.mailbox.result = 5) ∧
    (∀ (j : Job) (seq : Word) (dev : Nat) (bs : List Byte) (im : JobImage) (z : State),
      let u := (s.createJob j).areaRead j
      s.createCheck addr = .ok j → j.ckptLen ≠ 0 → u.commitBest j = some (seq, dev, bs) → dev % 16 = (u.deviceCount - 1) % 16 → dev / 2 ^ 28 = u.topology →
        (u.images.find? fun e => e.1 == bs) = some (bs, im) → u.rebuild j.num im = some z → Ends (.restore addr) s fun y =>
          y.launches = z.launches ∧ y.gangs = z.gangs ∧ y.handles = z.handles ∧ y.mem = z.mem ∧ y.mailbox.result = 0) ∧
    (∀ j, s.createCheck addr = .ok j → ((s.createJob j).areaRead j).commitBest j = none → Ends (.restore addr) s fun u => u.job? j.num = none ∧ u.mailbox.result = 5) ∧
    (tower.toNat ≤ 11 → 1 ≤ v.toNat → v.toNat < 2 ^ 20 → Ends (.param 1 tower v) s fun u =>
      mget (u.tower tower.toNat).paramNext 0x108 0 = v ∧ (u.tower tower.toNat).cnt = (s.tower tower.toNat).cnt ∧ u.mailbox.result = 0) ∧
    (let waits (num : Word) (c : Nat) : Prop := tower.toNat ≤ 11 → Ends (.param num tower v) s fun u =>
        mget (u.tower tower.toNat).paramNext c 0 = v ∧ (u.tower tower.toNat).cnt = (s.tower tower.toNat).cnt ∧ u.mailbox.result = 0
     let refused (num : Word) (r : Nat) : Prop := exec (.param num tower v) s = .next (s.mailEnd r)
     let at_ (num : Word) (p : State → Prop) : Prop := tower = 0 → Ends (.param num tower v) s fun u => p u ∧ u.towers = s.towers ∧ u.mailbox.result = 0
     (v.toNat ≤ 16 → waits 2 0x109) ∧ (∀ n : Nat, n < 8 → v.toNat < 65536 → waits (w64 (3 + n)) (0x130 + n)) ∧
     (∀ n : Nat, 1 ≤ n → n ≤ 10 → 11 < tower.toNat → refused (w64 n) 4) ∧ (∀ n : Nat, 11 ≤ n → n ≤ 13 → tower ≠ 0 → refused (w64 n) 4) ∧
     (v = 0 ∨ 2 ^ 20 ≤ v.toNat → refused 1 4) ∧ (16 < v.toNat → refused 2 4) ∧ (∀ n : Nat, 3 ≤ n → n ≤ 10 → 65536 ≤ v.toNat → refused (w64 n) 4) ∧
     (v.toNat % 65536 = 0 → v.toNat < 2 ^ 48 → region v.toNat = 0 → frameOk v.toNat = true → at_ 11 fun u => u.apbase = v) ∧
     (v.toNat < 16 → at_ 12 fun u => u.fabricNext = some v.toNat ∧ u.fabric = s.fabric) ∧ (v.toNat < 16 ∨ v = 0xFF → at_ 13 fun u => u.partner = v.toNat) ∧
     (16 ≤ v.toNat → refused 12 4) ∧ (16 ≤ v.toNat → v ≠ 0xFF → refused 13 4) ∧ refused 0 1 ∧ ∀ num : Word, 13 < num.toNat → refused num 1) ∧
    Ends .power s (fun u => u.mailbox.result = 0 ∧ u.mailbox.data.getD 0 0 = (if s.cfg.model = 1 then (Config.modulePower s.freeCtr).zeroExtend 64 else 0) ∧
      u.mailbox.data.getD 1 0 = w64 (s.tempDeci % 65536).toNat) ∧
    (∀ j, s.ckpt.head? = some job → s.job? job = some j → j.halted = false → j.ckptLen ≠ 0 →
      (s.ckptRun = none → Ends (.jobCheckpoint job) s fun u => (u.job? job).map (·.stopped) = some true ∧ (u.ckptRun.map (·.step)) = some 0) ∧
      (∀ r, s.ckptRun = some r → r.step = 0 → (∀ e ∈ s.gangs, e.2.job = job → e.2.phase = .saved) → exec (.jobCheckpoint job) s = .next (s.writeImage j)) ∧
      (∀ r, s.ckptRun = some r → 2 ≤ r.step → r.status = 0 → s.acksIn job = true → exec (.jobCheckpoint job) s =
        .next ((s.modJob job fun y => { y with ckptGen := 1 - j.ckptGen, ckptSeq := j.ckptSeq + 1 }).endCkpt job 0 (1 - j.ckptGen) (j.ckptSeq + 1))))

/-- R384 to R388, R393, R404 to R407, R410, R411: corrected and uncorrectable array errors of an address of the tower are logged and counted, the latter poison their sector; a retry of a burst that is the next of its row is
counted, up to four failures on a lane, after which the lane test swaps the lane or poisons the burst; links join the towers one hop apart (R18), and one that fails stops the device; a hot reading halts every job and sets the power-off, which then comes; a flit is checked before it is taken; links retrain or fail; a cold start leaves host memory alone. That an event whose condition does not hold
leaves the state as it was (log entry 8), and that START takes its values one at a time after a start (log entry 66), are the model's choices. -/
def Obligations.ErrorsLinksAndPower : Prop :=
  ∀ (t stack pc lane tries port a b die : Nat) (wr ok : Bool) (loc addr : Word) (syms : Nat) (mism : Half) (deci : Int) (raw : List Byte) (cfg : ConfigRecord) (s : State),
    let count (u : State) (e : Nat) : Word := (u.tower t).cntOf (0x120 + e)
    let last := (s.tower t).retries addr lane
    (ofTower t addr = true → Ends (.hbmArrayError t false loc addr syms) s fun u => count u 2 = satInc (count s 2) ∧ u.mem = s.mem ∧ u.memPois = s.memPois) ∧
    (ofTower t addr = false → ∀ unc, exec (.hbmArrayError t unc loc addr syms) s = .next s) ∧
    (ofTower t addr = true → mget (s.tower t).layerErr (stackOf addr.toNat * 16 + bits loc 44 41) 0 = 0 → Ends (.hbmArrayError t true loc addr syms) s fun u =>
      count u 3 = satInc (count s 3) ∧ (addr.toNat / 32) ∈ u.memPois ∧ u.mem = s.mem) ∧
    (ofChannel t stack pc addr = true → tries = last.2.2 + 1 → last.2.1 < 4 → Ends (.hbmParityRetry t stack pc lane tries wr addr mism ok) s fun u =>
      count u 4 = satInc (count s 4) ∧ u.mem = s.mem ∧
        ((u.tower t).retries addr lane).2.1 = (if ok then 0 else if last.1 = lane then last.2.1 + 1 else 1)) ∧
    (ofChannel t stack pc addr = true → last.1 = lane → 4 ≤ last.2.1 → tries = last.2.2 + 1 → mget (s.tower t).spares (stack * 64 + pc) 0 < 2 → Ends (.laneSwap t stack pc lane tries wr addr mism) s fun u =>
      mget (u.tower t).spares (stack * 64 + pc) 0 = mget (s.tower t).spares (stack * 64 + pc) 0 + 1 ∧ count u 5 = satInc (count s 5)) ∧
    (ofChannel t stack pc addr = true → last.1 = lane → 4 ≤ last.2.1 → tries = last.2.2 → 2 ≤ mget (s.tower t).spares (stack * 64 + pc) 0 → Ends (.laneSwap t stack pc lane tries wr addr mism) s fun u => (addr.toNat / 32) ∈ u.memPois ∧ u.mem = s.mem) ∧
    (deci < 1100 → Ends (.sensorRead deci t die) s fun u => u.tempDeci = deci ∧ u.tempAt = (t, die) ∧ u.jobs = s.jobs ∧ u.tripDue = s.tripDue) ∧
    (1100 ≤ deci → s.tripDue = none → exec (.sensorRead deci t die) s =
      .next { ({ s with tempDeci := deci, tempAt := (t, die) } : State).haltAll with tripDue := some (s.now + 18000000) }) ∧
    (s.tripDue.isSome = true → Ends .powerRemoval s fun u => u.powered = false ∧ u.tripDue = none ∧ bits u.start 63 60 = 2 ∧ bits u.start 59 56 = 7 ∧ bits u.start 55 48 = 1) ∧
    (s.tripDue = none → exec .powerRemoval s = .next s) ∧
    (port < 16 → (s.port port).up = true → flitIntact raw = false → Ends (.flitReceive port raw) s fun u => (u.port port).nakOut = true ∧ (u.port port).rxq = (s.port port).rxq ∧ u.mem = s.mem) ∧
    (port < 16 → (s.port port).up = false → exec (.flitReceive port raw) s = .next (s.trainFlit port raw)) ∧
    (let h := headerWord (w64 (ofLE (raw.take 8)))
     port < 16 → (s.port port).up = true → flitIntact raw = true → h.nak = false → exec (.flitReceive port raw) s =
       .next ((s.setPort port (Port.take { (s.port port).acked h.ack with stopTx := h.stop } s.fabric raw)).pumpPort port)) ∧
    ((s.port port).retrainDue.isSome = true → exec (.linkRetrain port true) s = .next ((s.setPort port { s.port port with retrainDue := none, retrained := true }).pumpPort port)) ∧
    ((s.port port).retrainDue.isSome = true → exec (.linkRetrain port false) s = .next (s.portDown port)) ∧
    (a < 12 → b < 12 → (meshLink a b = true ↔ hops a b = 1)) ∧
    exec (.meshLinkFailure a b true) s = .next s ∧
    (meshLink a b = false → exec (.meshLinkFailure a b false) s = .next s) ∧
    (meshLink a b = true → Ends (.meshLinkFailure a b false) s fun u => bits u.start 63 60 = 2 ∧ bits u.start 55 48 = 2 ∧ u.meshDown = s.meshDown ++ [(a, b)]) ∧
    (Ends (.coldStart cfg) s fun u => u.now = 0 ∧ u.jobs = [] ∧ u.gangs = [] ∧ u.handles = [] ∧ u.cores = [] ∧ u.cfg = cfg ∧ u.powered = true ∧
      (cfg.fwSigOk = false → bits u.start 63 60 = 0 ∧ bits u.start 59 56 = 1 ∧ ∃ w, u.startNext = [w] ∧ bits w 63 60 = 2 ∧ bits w 59 56 = 1 ∧ bits w 55 48 = 1) ∧
      ∀ x, rdByte u.mem x = if region x = 2 then rdByte s.mem x else 0)

/-! ## Encodings, the step, reset, the machine as a whole -/

/-- R54, R55, R65, R66, R67 and the bundle worked to the bit after R84: words written out from the encoding tables decode to their instructions; a header
gives s1 to s3 their lend bytes, and sub-code 6 of PLOG, op 10 of class 4 and a nonzero field that must be zero are refused by their detail. -/
def Obligations.SampleWords : Prop :=
  headerOf [0x7C000007, 0x080082E8, 0x000061C8, 0xB0302250] = some 0x7C000007 ∧ headerOf [0x080082E8, 0, 0, 0] = none ∧
  lendOf (some 0x7C000007) 1 = 7 ∧ lendOf (some 0x7C000007) 2 = 0 ∧ stopBit 0xB0302250 = true ∧ stopBit 0x080082E8 = false ∧
  decodeSyl 0x080082E8 7 = .ok (.addi 0 4 5 1000) ∧ decodeSyl 0x000061C8 0 = .ok (.add 0 6 7 8) ∧ decodeSyl 0xB0302250 0 = .ok (.ldD 0 0 2 9 .post 0) ∧
  decodeSyl 0xD00C614C 0x61 = .ok (.vcvt 0 6 5 33 12 true) ∧ decodeSyl 0xD0181080 0 = .ok (.vreds 0 1 2) ∧ decodeSyl 0xC8449214 0 = .ok (.vcmx 0 9 8 20) ∧
  decodeSyl 0xB8704140 0 = .ok (.tlook 0 4 5) ∧ decodeSyl 0xB87C0000 0 = .ok (.tinv 0) ∧ decodeSyl 0xA8240000 0 = .ok (.nop 0) ∧
  decodeSyl 0x10260000 0 = .error 1 ∧ decodeSyl 0x20280000 0 = .error 1 ∧ decodeSyl 0xA8240001 0 = .error 2 ∧ decodeSyl 0xF8000000 0 = .error 3

/-- R54, R56, R65 to R69: encoding a well-formed instruction and decoding the word with its lend byte, whichever the stop bit, gives the instruction back, with every
operand at every value that its field admits. -/
def Obligations.DecodeOfEncode : Prop :=
  ∀ (i : Instr) (w e : Nat), i.wf = true → encode i = some (w, e) →
    w < 2 ^ 31 ∧ e < 256 ∧ decodeSyl w e = .ok i ∧ decodeSyl (w + 2 ^ 31) e = .ok i

/-- R56, R65, R67: a word of 32 bits and a lend byte that decode have one meaning and leave no bit over: the instruction encodes to the word without its stop bit and to
the lend byte. -/
def Obligations.EncodeOfDecode : Prop :=
  ∀ (w e : Nat) (i : Instr), w < 2 ^ 32 → e < 256 → decodeSyl w e = .ok i → encode i = some (w % 2 ^ 31, e)

/-- R32, R54, R57, R84, R357: in the turn of a core that is neither frozen nor in a gap, whose running strand may issue, and for whose bundle the gauge of HBM4E admits what the fetch moves, a group of one syllable
that decodes is executed at its address, and the core's transfer starts; one that does not decode takes cause 0x01 with its detail, or a lower one that its codes meet as well. The syllable that a bundle without header gives, where its T bit is
set, is the word that memory holds at its address. -/
def Obligations.StepRunsDecoded : Prop :=
  ∀ (s : State) (n k j : Nat),
    let u : State := { s with turn := .core (k + 1) }
    let a := (s.strand k j).spc
    (∀ (f : Fetched) (y : Syl),
      let v := f.bundles.foldl (fun z b => z.bundleUse k b) u
      s.powered = true → s.turn = .core n → s.nextCore n = some k → s.frozenNow k = false → (s.core k).gap = 0 → (s.core k).run = some j → s.mayIssue k j = true →
      (s.strand k j).xlinv = none → (s.strand k j).stub = none → s.fetchGroup k a = .ok f → f.syls = [y] → f.enc = [] → (∀ b ∈ f.bundles, u.bundleMay k b = true) →
        (∀ i, decodeSyl y.word y.lend = .ok i →
          step s = Out.map (exec i (({ v with cur := f.ctx k j 1 } : State).modStrand k j fun x => { x with spc := y.addr })) fun t => t.transferStart k) ∧
        (∀ d o, decodeOp y.word y.lend = .error (d, o) → ∃ c, c ≤ d ∧ (o = none → c = d) ∧
          step s = .next ((((({ v with cur := f.ctx k j 1 } : State).modStrand k j fun x => { x with spc := y.addr }).takeCause k j 0x01 c 0 y.addr 0).spend).transferStart k))) ∧
    (∀ e : Tlb,
      let b := a &&& 0xFFFFFFFFFFFFFFF0
      let p := a.toNat / 4 % 4
      let word (m : Nat) : Nat := ofLE (rdBytes s.mem (e.pa b.toNat + 4 * m) 4)
      bits b 63 57 = 0 → s.xlate k (s.jobOf k) b.toNat = .ok e → region (e.pa b.toNat) = 0 → e.x = true → fld (word 0) 27 4 ≠ 15 → stopBit (word p) = true →
        s.fetchGroup k a = .ok { syls := [⟨word p, 0, b, p⟩], enc := [], mirror := [], marked := false })

/-- Every instruction and every event completes with a next state, whatever the state and the operands, and the machine stops only without power, which a cold start gives back. This is the model's own form:
that a part whose power the controller has removed (R393) is a fault and not a state is log entry 6, and that an event whose condition does not hold leaves the state as it was is log entry 8, both choices of the model;
what R362 orders, a cause, a failure or a freeze, is in every case a next state. -/
def Obligations.NoStopWhilePowered : Prop :=
  (∀ (i : Instr) (s : State), ∃ t, exec i s = .next t) ∧
  (∀ s : State, s.powered = true → ∃ t, step s = .next t) ∧
  (∀ s : State, s.powered = false → (∀ e ∈ s.agenda, ∀ c, e.2 ≠ .coldStart c) → step s = .fault .poweredOff) ∧
  (∀ s : State, s.powered = false → (∃ e ∈ s.agenda, ∃ c, e.2 = .coldStart c) → ∃ t, step s = .next t)

/-- R324, R350, R353, R396, R410, R411: after reset nothing is placed and no job exists, CYC is 0, START says ready after step 6 of a first attempt, each tower has the cast-on table of a part
without defects and its counters at their cold values; and, by log entries 2 to 5, memory reads as zero. -/
def Obligations.ResetValues : Prop :=
  let r := State.reset
  r.now = 0 ∧ r.powered = true ∧ r.start = 0x1600100000000000 ∧ bits r.start 63 60 = 1 ∧ bits r.start 59 56 = 6 ∧
  r.jobs = [] ∧ r.launches = [] ∧ r.gangs = [] ∧ r.handles = [] ∧ r.cores = [] ∧ r.memPois = [] ∧ r.dups = [] ∧ r.ckpt = [] ∧
  Memory.wf r.mem = true ∧ (∀ a, rdByte r.mem a = 0) ∧
  (∀ k i n, (r.strand k i).getX n = 0 ∧ (r.strand k i).getP n = decide (n = 0) ∧ (r.core k).gang = none) ∧
  ∀ t, t < 12 → (r.tower t).caston = List.replicate 16 0x4008 ∧ (r.tower t).cntOf 0x100 = 0x2000000000 ∧ (r.tower t).cntOf 0x108 = 4096 ∧
    (∀ n, n ≠ 0x100 → n ≠ 0x108 → (r.tower t).cntOf n = 0) ∧ (r.tower t).pools = [] ∧ (r.tower t).stateq = []

/-- R61, R71, R73, R81: the frame of the operations that only read and write registers, and of the branches, whether they complete, block or trap: no byte of memory or scratchpad, no other core, no other strand and no
register of the strand changes in the cycle of issue; what may land later lands in the destinations named. -/
def Obligations.RegisterFrame : Prop :=
  ∀ (g d a b c n : Nat) (v : Int) (dbl hi : Bool) (cc : Cond) (s t : State),
    ∀ e ∈ ([(.add g d a b, [.x d]), (.sub g d a b, [.x d]), (.and_ g d a b, [.x d]), (.or_ g d a b, [.x d]), (.xor g d a b, [.x d]), (.andn g d a b, [.x d]),
        (.shl g d a b, [.x d]), (.shr g d a b, [.x d]), (.sra g d a b, [.x d]), (.rot g d a b, [.x d]), (.mul g d a b, [.x d]), (.mulh g d a b, [.x d]),
        (.min g d a b, [.x d]), (.max g d a b, [.x d]), (.sel g d a b c, [.x d]), (.clz g d a, [.x d]), (.popc g d a, [.x d]), (.brev g d a, [.x d]),
        (.addi g d a v, [.x d]), (.andi g d a v, [.x d]), (.shli g d a n, [.x d]), (.muli g d a v, [.x d]), (.movi g d v, [.x d]), (.movw g d a n, [.x d]),
        (.div g d a b, [.x d]), (.remu g d a b, [.x d]), (.cmp g cc c a b, [.p (2 * c), .p (2 * c + 1)]), (.cmpi g cc c a v, [.p (2 * c), .p (2 * c + 1)]),
        (.pand g d a b, [.p d]), (.pnot g d a, [.p d]), (.fadd g d a b dbl, [.f d]), (.fmul g d a b dbl, [.f d]), (.ffma g d a b dbl, [.f d]),
        (.fdiv g d a b dbl, [.f d]), (.fsqrt g d a dbl, [.f d]), (.fmin g d a b dbl, [.f d]), (.fneg g d a dbl, [.f d]), (.fmov g d a dbl, [.f d]),
        (.fnum g d a dbl, [.x d]), (.fmake g d a b dbl, [.f d]), (.fcmp g cc c a b, [.p (2 * c), .p (2 * c + 1)]), (.aadd g d a b, [.a d]), (.aset g d a, [.a d]),
        (.amset g d a b, [.am d]), (.sysrd g d n, [.x d]), (.cntrd g d n, [.x d]), (.cntrdc g d n, [.x d, .x (d + 1)]), (.nop g, []),
        (.vadd g d a b, [.v d]), (.vmul g d a b, [.v d]), (.vfma g d a b, [.v d]), (.vsel g d a b c, [.v d]), (.vshl g d a b, [.v d]), (.vcmp g cc d a b, [.l (2 * d), .l (2 * d + 1)]),
        (.vshuf g d a b, [.v d]), (.vrot g d a n, [.v d]), (.vunpk g d a n hi, [.v d]), (.vreds g d a, [.v d]), (.vidx g d, [.v d]), (.vbcast g d a, [.v d]),
        (.vext g d a n, [.x d]), (.vins g d a n, [.v d]), (.vexp g d a, [.v d]), (.vrcp g d a, [.v d]), (.tlook g d a, [.x d]), (.epoll g d n, [.x d]),
        (.mulhu g d a b, [.x d]), (.minu g d a b, [.x d]), (.maxu g d a b, [.x d]), (.ctz g d a, [.x d]), (.sext g d a n, [.x d]), (.zext g d a n, [.x d]),
        (.ori g d a v, [.x d]), (.xori g d a v, [.x d]), (.shri g d a n, [.x d]), (.srai g d a n, [.x d]), (.mini g d a v, [.x d]), (.maxi g d a v, [.x d]),
        (.divu g d a b, [.x d]), (.rem g d a b, [.x d]), (.por g d a b, [.p d]), (.pxor g d a b, [.p d]), (.pandn g d a b, [.p d]), (.pmov g d a, [.p d]),
        (.fsub g d a b dbl, [.f d]), (.fmax g d a b dbl, [.f d]), (.fabs g d a dbl, [.f d]), (.fclass g d a dbl, [.x d]), (.fden g d a dbl, [.x d]),
        (.fcvt g d a b c, [.x d, .f d]), (.frnd g d a b dbl, [.f d]), (.cntsnap g, []), (.br g v, []), (.call g d v, [.x d]), (.brx g a, []), (.ret g a, []),
        (.vsub g d a b, [.v d]), (.vmin g d a b, [.v d]), (.vmax g d a b, [.v d]), (.vabs g d a, [.v d]), (.vneg g d a, [.v d]), (.vand g d a b, [.v d]),
        (.vor g d a b, [.v d]), (.vxor g d a b, [.v d]), (.vnot g d a, [.v d]), (.vshr g d a b, [.v d]), (.vsra g d a b, [.v d]), (.vshli g d a n, [.v d]),
        (.vshri g d a n, [.v d]), (.vsrai g d a n, [.v d]), (.vaddi g d a v, [.v d]), (.vmovi g d v, [.v d]), (.vcvt g d a b c dbl, [.v d]),
        (.vpack g d a b n dbl, [.v d]), (.vredm g d a dbl, [.v d]), (.vdot4 g d a b dbl hi, [.v d]), (.vcmx g d a b, [.v d]), (.vlog g d a, [.v d]),
        (.vrsq g d a, [.v d]), (.vtanh g d a, [.v d]), (.vsig g d a, [.v d]), (.vsin g d a, [.v d]), (.vcos g d a, [.v d]), (.verf g d a, [.v d]),
        (.qcnt g d a, [.x d])]
      : List (Instr × List Reg)),
    exec e.1 s = .next t →
      let k := s.cur.core
      let j := s.cur.strand
      let x := s.strand k j
      let y := t.strand k j
      t.mem = s.mem ∧ t.memPois = s.memPois ∧ (t.core k).near = (s.core k).near ∧ (∀ m, m ≠ k → t.core m = s.core m) ∧ (∀ m, m ≠ j → t.strand k m = s.strand k m) ∧
      y.x = x.x ∧ y.f = x.f ∧ y.p = x.p ∧ y.l = x.l ∧ y.v = x.v ∧ y.a = x.a ∧ y.am = x.am ∧ y.ls = x.ls ∧ y.le = x.le ∧ y.shv = x.shv ∧ y.scfg = x.scfg ∧
      y.rows = x.rows ∧ y.rown = x.rown ∧
      (∀ l ∈ y.inflight, l.dest ∈ e.2 ∨ ∃ m ∈ x.inflight, m.dest = l.dest ∧ m.left = l.left ∧ m.val = l.val) ∧
      (∀ p ∈ y.pend, p ∈ x.pend ∨ ∀ r ∈ p.dests, r ∈ e.2)

/-- R63, R73, R84, R133: an instruction whose scalar guard is false takes its place and does nothing; but a destination marked pending is cause 0x02 with detail 2 all the same
(log entry 13: the model's reading), and a condition of R84 is
cause 0x01 with its detail: with nothing issued, no register, result or byte changed, and control at SHV. -/
def Obligations.GuardAndEncodingChecks : Prop :=
  ∀ (i : Instr) (s : State),
    let k := s.cur.core
    let j := s.cur.strand
    let n := s.infoOf i
    let x := s.strand k j
    let trapped (scause : Word) (u : State) : Prop :=
      let y := u.strand k j
      y.scause = scause ∧ y.sepc = s.cur.start ∧ y.sinfo = 0 ∧ y.th = true ∧ y.spc = s.spcAt k (x.shv &&& 0xFFFFFFFFFFFFFFF0) ∧ y.st = .ready ∧ (u.core k).run = none ∧
        y.x = x.x ∧ y.f = x.f ∧ y.p = x.p ∧ y.v = x.v ∧ y.a = x.a ∧ y.inflight = x.inflight ∧ y.pend = x.pend ∧ u.mem = s.mem ∧ (u.core k).near = (s.core k).near
    (gopOf i s).isSome = true →
      (∀ d, lowest (encBad s.cur [n]) = some (0, d) → d < 256 → x.th = false → Ends i s (trapped (BitVec.ofNat 64 (0x010000 + d * 256)))) ∧
      (encBad s.cur [n] = [] → (s.opened i).guardOk n = false →
        (pendingStops x n = [] → exec i s = .next ((s.opened i).advance.closeGroup false)) ∧
        (n.dests.any (fun r => !r.isPort && !r.isNull && x.isPending r) = true → x.th = false → Ends i s (trapped 0x020200)))

/-- Memory keeps its one canonical form (addresses rising, no byte listed that reads as zero anyway) through every step, from every state that has it. The form is the model's choice (log entry 4); that an
unlisted byte of HBM4E reads as zero is R198's. -/
def Obligations.StepKeepsMemoryForm : Prop :=
  ∀ s t : State, Memory.wf s.mem = true → step s = .next t → Memory.wf t.mem = true
end

