-- ==== Sys2Proof/Laws/Issue.lean ====
section
/-! SUPPORT. What the issue of an instruction alone in its group comes to, said once. -/

set_option Elab.async false -- one proof at a time: many at once exhaust the memory of a build

namespace Sys2Proof.Machine

/-- An instruction is the issue of the group that holds its operation alone. -/
theorem exec_eq_issueGroup {i : Instr} {s : State} {g : GOp} (h : gopOf i s = some g) : exec i s = issueGroup [] [g] s := by
  cases i <;> simp only [gopOf, Option.some.injEq, reduceCtorEq] at h <;> subst h <;> rfl

theorem infoOf_eq {i : Instr} {s : State} {g : GOp} (h : gopOf i s = some g) : s.infoOf i = g.info := by simp [State.infoOf, h]

theorem phased_one (g : GOp) : phased [g] = [(0, g)] := by
  unfold phased
  by_cases h0 : g.info.phase = 0 <;> by_cases h1 : g.info.phase = 1 <;> by_cases h2 : g.info.phase = 2 <;> by_cases h3 : g.info.phase = 3 <;>
    by_cases h4 : 4 ≤ g.info.phase <;> simp_all
  omega

/-! ## Maps, cores and strands -/

@[simp] theorem mfind_mput_self {α : Type} (m : Map α) (k : Nat) (v : α) : mfind (mput m k v) k = some v := by
  induction m with
  | nil => simp [mput, mfind]
  | cons e r ih =>
    obtain ⟨j, w⟩ := e
    simp only [mput]
    split
    · simp [mfind]
    · split
      · simp [mfind]
      · simp_all [mfind]

theorem mfind_mput_ne {α : Type} (m : Map α) {j k : Nat} (v : α) (h : j ≠ k) : mfind (mput m k v) j = mfind m j := by
  induction m with
  | nil => simp [mput, mfind, Ne.symm h]
  | cons e r ih =>
    obtain ⟨i, w⟩ := e
    simp only [mput]
    split
    · next e => subst e; simp [mfind, Ne.symm h]
    · split
      · simp [mfind, Ne.symm h]
      · simp [mfind, ih]

@[simp] theorem mget_mput_self {α : Type} (m : Map α) (k : Nat) (v d : α) : mget (mput m k v) k d = v := by simp [mget]
theorem mget_mput_ne {α : Type} (m : Map α) {j k : Nat} (v d : α) (h : j ≠ k) : mget (mput m k v) j d = mget m j d := by
  simp [mget, mfind_mput_ne m v h]

@[simp] theorem core_setCore_self (s : State) (k : Nat) (c : Core) : (s.setCore k c).core k = c := by simp [State.core, State.setCore]
theorem core_setCore_ne (s : State) {j k : Nat} (c : Core) (h : j ≠ k) : (s.setCore k c).core j = s.core j := by
  simp [State.core, State.setCore, mget_mput_ne _ _ _ h]
@[simp] theorem strand_setStrand_self (c : Core) (i : Nat) (x : Strand) : (c.setStrand i x).strand i = x := by simp [Core.strand, Core.setStrand]
theorem strand_setStrand_ne (c : Core) {i j : Nat} (x : Strand) (h : j ≠ i) : (c.setStrand i x).strand j = c.strand j := by
  simp [Core.strand, Core.setStrand, mget_mput_ne _ _ _ h]
@[simp] theorem state_strand_setStrand_self (s : State) (k i : Nat) (x : Strand) : (s.setStrand k i x).strand k i = x := by
  simp [State.strand, State.setStrand]
@[simp] theorem core_setStrand (s : State) (k i : Nat) (x : Strand) : (s.setStrand k i x).core k = (s.core k).setStrand i x := by
  simp [State.setStrand]

/-! ## The opened group -/

@[simp] theorem crossed_fields (x : Strand) (b : Bool) :
    (x.crossed b).pend = x.pend ∧ (x.crossed b).xPois = x.xPois ∧ (x.crossed b).fPois = x.fPois ∧ (x.crossed b).vPois = x.vPois :=
  ⟨rfl, rfl, rfl, rfl⟩

theorem noted_eq (x : Strand) (c : GroupCtx) : ∃ r n q, x.noted c = { x with restart := r, recov := n, seg := q } := by
  unfold Strand.noted Strand.record
  split
  · exact ⟨_, _, _, rfl⟩
  · exact ⟨_, _, _, rfl⟩

/-- The strand of an opened group, seen by what keeps a group from issuing. -/
theorem openGroup_strand (s : State) (ns : List Info) :
    (s.openGroup ns).strand s.cur.core s.cur.strand =
      ((s.strand s.cur.core s.cur.strand).noted s.cur).crossed (landingPoint (s.strand s.cur.core s.cur.strand) s.cur ns) := by
  simp [State.openGroup, State.strand, State.core, State.setStrand, State.setCore, Core.strand, Core.setStrand]

theorem openGroup_core (s : State) (ns : List Info) :
    (s.openGroup ns).core s.cur.core = (s.core s.cur.core).setStrand s.cur.strand ((s.openGroup ns).strand s.cur.core s.cur.strand) := by
  rw [openGroup_strand]
  simp [State.openGroup, State.strand, State.core, State.setStrand, State.setCore, Core.strand, Core.setStrand]

@[simp] theorem openGroup_cur_core (s : State) (ns : List Info) : (s.openGroup ns).cur.core = s.cur.core := rfl
@[simp] theorem openGroup_cur_strand (s : State) (ns : List Info) : (s.openGroup ns).cur.strand = s.cur.strand := rfl

theorem schedStops_open (x : Strand) (c : GroupCtx) (b : Bool) (n : Info) : schedStops ((x.noted c).crossed b) n = schedStops x n := by
  obtain ⟨r, m, q, h⟩ := noted_eq x c
  rw [h]
  simp only [schedStops, pendingStops, Strand.crossed, Strand.isPending, List.any_map, Function.comp_def]
  rfl

theorem poisonRead_open (x : Strand) (c : GroupCtx) (b : Bool) (n : Info) : ((x.noted c).crossed b).poisonRead n = x.poisonRead n := by
  obtain ⟨a, m, q, h⟩ := noted_eq x c
  rw [h]
  unfold Strand.poisonRead
  rfl

/-- The heads that can be popped are those that could be before the group opened. -/
theorem canPop_open (s : State) (ns : List Info) (q : Nat) : (s.openGroup ns).canPop s.cur.core q = s.canPop s.cur.core q := by
  simp only [State.canPop, State.waiting, openGroup_core]
  rfl

theorem regBlock_open (s : State) (ns : List Info) (x : Strand) (g : GroupCtx) (b : Bool) :
    (s.openGroup ns).regBlock s.cur.core ((x.noted g).crossed b) = s.regBlock s.cur.core x := by
  obtain ⟨a, m, q, h⟩ := noted_eq x g
  funext r
  rw [h]
  cases r <;> simp only [State.regBlock, canPop_open] <;> rfl

theorem operandBlock_open (s : State) (ns : List Info) (x : Strand) (g : GroupCtx) (b : Bool) (n : Info) :
    (s.openGroup ns).operandBlock s.cur.core ((x.noted g).crossed b) n = s.operandBlock s.cur.core x n := by
  simp only [State.operandBlock, regBlock_open, openGroup_core]
  rfl

/-! ## Issue of one operation -/

/-- An operation that nothing keeps from issuing, and whose effect leaves u, completes with u (R57, R75). -/
theorem exec_ready {i : Instr} {s u : State} {g : GOp} (hg : gopOf i s = some g) (hr : s.ready i = true) (hu : g.op (s.opened i) = .ok u) :
    exec i s = .next (s.after i u) := by
  have hi := infoOf_eq hg
  simp only [State.ready, hg, hi, Option.isSome_some, Option.any_some, Bool.true_and, Bool.and_eq_true, List.isEmpty_iff, Option.isNone_iff_eq_none,
    Bool.not_eq_true'] at hr
  obtain ⟨⟨⟨⟨⟨henc, hsch⟩, hblk⟩, hpoi⟩, hgd⟩, hcol⟩ := hr
  have ho : s.opened i = s.openGroup [g.info] := by simp [State.opened, hi]
  rw [ho] at hu hgd hcol
  simp only [State.collides, hu, openGroup_cur_core, openGroup_cur_strand, openGroup_strand] at hcol
  have hrun : runOp (s.openGroup [g.info]) g = (u.popReads s.cur.core g.info.reads, []) := by
    simp only [runOp, hgd, openGroup_cur_core, openGroup_cur_strand, openGroup_strand, schedStops_open, operandBlock_open,
      poisonRead_open, hsch, hblk, hpoi, hu, hcol, Bool.not_true, Bool.false_eq_true, if_false, List.append_nil]
  rw [exec_eq_issueGroup hg]
  simp only [issueGroup, List.map_cons, List.map_nil, henc, phased_one, runOps, hrun, List.any_cons, List.any_nil, Bool.or_false,
    lowest, hgd, Bool.and_true, List.append_nil, List.isEmpty_nil, if_true, State.after, hi]

end Sys2Proof.Machine
end

