-- ==== Sys2Proof/Laws/After.lean ====
section
/-! SUPPORT. The state that an issue leaves, field by field: the strand's next group, its counters, the gap of its core. -/

set_option Elab.async false -- one proof at a time: many at once exhaust the memory of a build

namespace Sys2Proof.Machine

/-! ## Strands and cores under an update -/

@[simp] theorem strand_modStrand_self (s : State) (k i : Nat) (f : Strand → Strand) : (s.modStrand k i f).strand k i = f (s.strand k i) := by
  simp [State.modStrand]

theorem core_modStrand_self (s : State) (k i : Nat) (f : Strand → Strand) : (s.modStrand k i f).core k = (s.core k).setStrand i (f (s.strand k i)) := by
  simp [State.modStrand]

theorem core_setStrand_ne (s : State) {k j : Nat} (i : Nat) (x : Strand) (h : j ≠ k) : (s.setStrand k i x).core j = s.core j := by
  simp [State.setStrand, core_setCore_ne s _ h]

theorem core_modStrand_ne (s : State) {k j : Nat} (i : Nat) (f : Strand → Strand) (h : j ≠ k) : (s.modStrand k i f).core j = s.core j :=
  core_setStrand_ne s i _ h

theorem strand_modStrand_ne (s : State) (k : Nat) {i j : Nat} (f : Strand → Strand) (h : j ≠ i) : (s.modStrand k i f).strand k j = s.strand k j := by
  simp [State.modStrand, State.strand, strand_setStrand_ne _ _ h]

@[simp] theorem core_modCore_self (s : State) (k : Nat) (f : Core → Core) : (s.modCore k f).core k = f (s.core k) := by simp [State.modCore]
theorem core_modCore_ne (s : State) {j k : Nat} (f : Core → Core) (h : j ≠ k) : (s.modCore k f).core j = s.core j := core_setCore_ne s _ h

theorem strand_modCore_self (s : State) (k i : Nat) (f : Core → Core) : (s.modCore k f).strand k i = (f (s.core k)).strand i := by
  simp [State.strand]

@[simp] theorem cur_setCore (s : State) (k : Nat) (c : Core) : (s.setCore k c).cur = s.cur := rfl
@[simp] theorem cur_modCore (s : State) (k : Nat) (f : Core → Core) : (s.modCore k f).cur = s.cur := rfl
@[simp] theorem cur_setStrand (s : State) (k i : Nat) (x : Strand) : (s.setStrand k i x).cur = s.cur := rfl
@[simp] theorem cur_modStrand (s : State) (k i : Nat) (f : Strand → Strand) : (s.modStrand k i f).cur = s.cur := rfl
@[simp] theorem mem_modCore (s : State) (k : Nat) (f : Core → Core) : (s.modCore k f).mem = s.mem := rfl
@[simp] theorem mem_modStrand (s : State) (k i : Nat) (f : Strand → Strand) : (s.modStrand k i f).mem = s.mem := rfl
@[simp] theorem core_spend (s : State) (k : Nat) : s.spend.core k = s.core k := rfl
@[simp] theorem strand_spend (s : State) (k i : Nat) : s.spend.strand k i = s.strand k i := rfl

/-! ## Pops -/

/-- A pop of a queue port's head changes the queues of its core alone. -/
theorem popX_core (s : State) (k n : Nat) : ∃ q, (s.popX k n).core k = { s.core k with q := q } := by
  unfold State.popX
  split
  · exact ⟨_, core_modCore_self s k _⟩
  · exact ⟨_, rfl⟩

theorem popReads_core (s : State) (k : Nat) (l : List Reg) : ∃ q, (s.popReads k l).core k = { s.core k with q := q } := by
  unfold State.popReads
  induction l generalizing s with
  | nil => exact ⟨_, rfl⟩
  | cons r l ih =>
    simp only [List.foldl_cons]
    cases r with
    | x m =>
      obtain ⟨q, hq⟩ := ih (s.popX k m)
      obtain ⟨q', hq'⟩ := popX_core s k m
      exact ⟨q, by rw [hq, hq']⟩
    | _ => exact ih s

@[simp] theorem popX_cur (s : State) (k n : Nat) : (s.popX k n).cur = s.cur := by unfold State.popX; split <;> rfl

@[simp] theorem popReads_cur (s : State) (k : Nat) (l : List Reg) : (s.popReads k l).cur = s.cur := by
  unfold State.popReads
  induction l generalizing s with
  | nil => rfl
  | cons r l ih =>
    simp only [List.foldl_cons, ih]
    cases r <;> simp

@[simp] theorem popX_strand (s : State) (k n i : Nat) : (s.popX k n).strand k i = s.strand k i := by
  obtain ⟨q, h⟩ := popX_core s k n
  simp only [State.strand, h]; rfl

@[simp] theorem popReads_strand (s : State) (k : Nat) (l : List Reg) (i : Nat) : (s.popReads k l).strand k i = s.strand k i := by
  obtain ⟨q, h⟩ := popReads_core s k l
  simp only [State.strand, h]; rfl

@[simp] theorem popX_mem (s : State) (k n : Nat) : (s.popX k n).mem = s.mem := by unfold State.popX; split <;> rfl

@[simp] theorem popReads_mem (s : State) (k : Nat) (l : List Reg) : (s.popReads k l).mem = s.mem := by
  unfold State.popReads
  induction l generalizing s with
  | nil => rfl
  | cons r l ih =>
    simp only [List.foldl_cons, ih]
    cases r <;> simp

theorem popX_spcAt (s : State) (k n : Nat) (a : Word) : (s.popX k n).spcAt k a = s.spcAt k a := by
  obtain ⟨q, h⟩ := popX_core s k n
  have hm := popX_mem s k n
  have hg : (s.popX k n).gang? = s.gang? ∧ (s.popX k n).jobs = s.jobs ∧ (s.popX k n).portTo = s.portTo := by
    unfold State.popX; split <;> exact ⟨rfl, rfl, rfl⟩
  simp only [State.spcAt, State.firstOf, State.vaddr, State.walk, State.job?, State.jobOf, State.gangOf, h, hm, hg]

@[simp] theorem popReads_spcAt (s : State) (k : Nat) (l : List Reg) : (s.popReads k l).spcAt k = s.spcAt k := by
  unfold State.popReads
  induction l generalizing s with
  | nil => rfl
  | cons r l ih =>
    simp only [List.foldl_cons, ih]
    cases r with
    | x m => exact funext fun a => popX_spcAt s k m a
    | _ => rfl

/-! ## The end of an issue -/

/-- The strand at its next group, which f finds for an address (R75, R129, R155). -/
def Strand.moved (x : Strand) (c : GroupCtx) (f : Word → Word) : Strand :=
  match c.taken with
  | some t => { (if c.eret && c.atS3 then (x.bodyEnd c.bundle 4).1 else x) with spc := f t }
  | none => if c.atS3 then { (x.bodyEnd c.bundle 4).1 with spc := f ((x.bodyEnd c.bundle 4).2.getD c.next) } else { x with spc := f c.next }

theorem advance_strand (s : State) :
    (s.advance).strand s.cur.core s.cur.strand = (s.strand s.cur.core s.cur.strand).moved s.cur (s.spcAt s.cur.core) := by
  unfold State.advance Strand.moved
  cases h : s.cur.taken with
  | some t => simp [strand_modCore_self, core_modStrand_self, Core.strand, Core.setStrand]
  | none => dsimp only; split <;> simp

/-- The strand that an issue without SYSWR leaves, when it keeps the slot. -/
theorem after_strand {s u : State} {i : Instr} (hk : u.cur.core = s.cur.core) (hj : u.cur.strand = s.cur.strand) (hg : u.cur.give = false)
    (hw : u.cur.sysw = []) :
    (s.after i u).strand s.cur.core s.cur.strand =
      { (u.strand s.cur.core s.cur.strand).moved u.cur (u.spcAt s.cur.core) with
        cIssue := ((u.strand s.cur.core s.cur.strand).moved u.cur (u.spcAt s.cur.core)).cIssue + 1, fresh := (s.infoOf i).seals } := by
  have hc : ((u.popReads s.cur.core (s.infoOf i).reads).advance).cur = u.cur := by
    unfold State.advance
    simp only [popReads_cur]
    split
    · simp
    · split <;> simp
  have hs := advance_strand (u.popReads s.cur.core (s.infoOf i).reads)
  rw [popReads_cur, hk, hj, popReads_strand, popReads_spcAt] at hs
  simp only [State.after, State.closeGroup, hc, hg, hw, List.foldl_nil, strand_spend, cur_modCore, cur_modStrand, Bool.false_eq_true, if_false, hk, hj]
  rw [strand_modCore_self, core_modStrand_self, ← hs]
  simp [Core.strand, Core.setStrand, State.strand]

/-- The core that it leaves. -/
theorem after_core {s u : State} {i : Instr} (hk : u.cur.core = s.cur.core) (hj : u.cur.strand = s.cur.strand) (hg : u.cur.give = false)
    (hw : u.cur.sysw = []) :
    ∃ q st, (s.after i u).core s.cur.core =
      { u.core s.cur.core with q := q, strands := st, issued := true, fills := [], gap := if u.cur.taken.isSome then 1 else (u.core s.cur.core).gap } := by
  have hc : ((u.popReads s.cur.core (s.infoOf i).reads).advance).cur = u.cur := by
    unfold State.advance
    simp only [popReads_cur]
    split
    · simp
    · split <;> simp
  obtain ⟨q, hq⟩ := popReads_core u s.cur.core (s.infoOf i).reads
  have ha : ∃ st, ((u.popReads s.cur.core (s.infoOf i).reads).advance).core s.cur.core =
      { u.core s.cur.core with q := q, strands := st, gap := if u.cur.taken.isSome then 1 else (u.core s.cur.core).gap } := by
    unfold State.advance
    simp only [popReads_cur, hk, hj]
    cases h : u.cur.taken with
    | some t => exact ⟨_, by simp [core_modStrand_self, hq, Core.setStrand]; rfl⟩
    | none => dsimp only; split <;> exact ⟨_, by simp [core_modStrand_self, hq, Core.setStrand]; rfl⟩
  obtain ⟨st, ha⟩ := ha
  simp only [State.after, State.closeGroup, hc, hg, hw, List.foldl_nil, core_spend, cur_modCore, cur_modStrand, Bool.false_eq_true, if_false, hk, hj]
  rw [core_modCore_self, core_modStrand_self, ha]
  exact ⟨q, _, rfl⟩

end Sys2Proof.Machine
end

