-- ==== Sys2Proof/Laws/Memory.lean ====
section
/-! SUPPORT. Byte memories: what is written is read, other bytes stay, and every operation keeps the canonical form. -/

set_option Elab.async false -- one proof at a time: many at once exhaust the memory of a build

namespace Sys2Proof.Machine

/-! ## Read after write -/

theorem rdByte_above {m : Memory} {lo a : Nat} (h : memAbove lo m = true) (ha : a < lo) : rdByte m a = 0 := by
  induction m generalizing lo with
  | nil => rfl
  | cons e r ih =>
    obtain ⟨x, b⟩ := e
    simp only [memAbove, Bool.and_eq_true, decide_eq_true_eq] at h
    simp only [rdByte]
    rw [if_neg (by omega)]
    exact ih h.2 (by omega)

theorem rdByte_wrByte_above {m : Memory} {lo : Nat} (h : memAbove lo m = true) (a : Nat) (b : Byte) (x : Nat) :
    rdByte (wrByte m a b) x = if x = a then b else rdByte m x := by
  induction m generalizing lo with
  | nil =>
    simp only [wrByte]
    split
    · next hb => subst hb; simp [rdByte]
    · simp only [rdByte, eq_comm]
  | cons e r ih =>
    obtain ⟨y, c⟩ := e
    simp only [memAbove, Bool.and_eq_true, decide_eq_true_eq] at h
    have hr := @rdByte_above r (y + 1)
    simp only [wrByte]
    split
    · next ha =>
      split
      · next hb =>
        subst hb
        by_cases hx : x = a
        · subst hx; simp only [rdByte, if_true]; rw [if_neg (by omega)]; exact hr h.2 (by omega)
        · simp [hx]
      · by_cases hx : x = a
        · subst hx; simp [rdByte]
        · simp [rdByte, hx, Ne.symm hx]
    · split
      · next ha =>
        subst ha
        split
        · next hb =>
          subst hb
          by_cases hx : x = y
          · subst hx; simpa using hr h.2 (by omega)
          · simp [rdByte, hx, Ne.symm hx]
        · by_cases hx : x = y
          · subst hx; simp [rdByte]
          · simp [rdByte, hx, Ne.symm hx]
      · next h1 h2 =>
        simp only [rdByte]
        by_cases hx : y = x
        · subst hx; rw [if_pos rfl, if_pos rfl, if_neg h2]
        · rw [if_neg hx, if_neg hx]; exact ih h.2

/-- A byte written is read back, and no other byte changes. -/
theorem rdByte_wrByte {m : Memory} (h : Memory.wf m = true) (a : Nat) (b : Byte) (x : Nat) :
    rdByte (wrByte m a b) x = if x = a then b else rdByte m x := rdByte_wrByte_above h a b x

/-! ## The canonical form -/

theorem memAbove_mono {m : Memory} {lo hi : Nat} (h : memAbove hi m = true) (hl : lo ≤ hi) : memAbove lo m = true := by
  cases m with
  | nil => rfl
  | cons e r =>
    obtain ⟨x, b⟩ := e
    simp only [memAbove, Bool.and_eq_true, decide_eq_true_eq] at h ⊢
    exact ⟨⟨by omega, h.1.2⟩, h.2⟩

theorem memAbove_wrByte {m : Memory} {lo a : Nat} (b : Byte) (h : memAbove lo m = true) (ha : lo ≤ a) : memAbove lo (wrByte m a b) = true := by
  induction m generalizing lo with
  | nil =>
    simp only [wrByte]
    split
    · rfl
    · next hb => simpa [memAbove, ha] using hb
  | cons e r ih =>
    obtain ⟨y, c⟩ := e
    have h' := h
    simp only [memAbove, Bool.and_eq_true, decide_eq_true_eq] at h
    simp only [wrByte]
    split
    · next hay =>
      split
      · exact h'
      · next hb =>
        simp only [memAbove, Bool.and_eq_true, decide_eq_true_eq]
        exact ⟨⟨ha, by simpa using hb⟩, ⟨by omega, h.1.2⟩, h.2⟩
    · split
      · next hy =>
        subst hy
        split
        · exact memAbove_mono h.2 (by omega)
        · next hb => simp only [memAbove, Bool.and_eq_true, decide_eq_true_eq]; exact ⟨⟨ha, by simpa using hb⟩, h.2⟩
      · simp only [memAbove, Bool.and_eq_true, decide_eq_true_eq]
        exact ⟨⟨h.1.1, h.1.2⟩, ih h.2 (by omega)⟩

theorem wf_wrByte {m : Memory} (h : Memory.wf m = true) (a : Nat) (b : Byte) : Memory.wf (wrByte m a b) = true := memAbove_wrByte b h (Nat.zero_le a)

theorem wf_wrBytes {m : Memory} (h : Memory.wf m = true) (a : Nat) (bs : List Byte) : Memory.wf (wrBytes m a bs) = true := by
  induction bs generalizing m a with
  | nil => exact h
  | cons b bs ih => exact ih (wf_wrByte h a b) (a + 1)

theorem wf_wrWord {m : Memory} (h : Memory.wf m = true) (a : Nat) (w : Word) : Memory.wf (wrWord m a w) = true := wf_wrBytes h a _

/-- Any fold that writes single bytes keeps the form. -/
theorem wf_foldl {α : Type} (f : Memory → α → Memory) (hf : ∀ m x, Memory.wf m = true → Memory.wf (f m x) = true) (l : List α) {m : Memory}
    (h : Memory.wf m = true) : Memory.wf (l.foldl f m) = true := by
  induction l generalizing m with
  | nil => exact h
  | cons x l ih => exact ih (hf m x h)

theorem wf_cells {m : Memory} (h : Memory.wf m = true) (cells : List Host.Cell) :
    Memory.wf (cells.foldl (fun (m : Memory) (c : Host.Cell) => wrByte m c.1 c.2) m) = true :=
  wf_foldl _ (fun _ c hm => wf_wrByte hm c.1 c.2) cells h

theorem memAbove_filter {m : Memory} (p : Host.Cell → Bool) {lo : Nat} (h : memAbove lo m = true) : memAbove lo (m.filter p) = true := by
  induction m generalizing lo with
  | nil => rfl
  | cons e r ih =>
    obtain ⟨x, b⟩ := e
    simp only [memAbove, Bool.and_eq_true, decide_eq_true_eq] at h
    simp only [List.filter_cons]
    split
    · simp only [memAbove, Bool.and_eq_true, decide_eq_true_eq]; exact ⟨h.1, ih h.2⟩
    · exact memAbove_mono (ih h.2) (by omega)

theorem wf_filter {m : Memory} (h : Memory.wf m = true) (p : Host.Cell → Bool) : Memory.wf (m.filter p) = true := memAbove_filter p h

/-! ## Runs of bytes -/

theorem rdByte_wrBytes {m : Memory} (h : Memory.wf m = true) (a : Nat) (bs : List Byte) (x : Nat) :
    rdByte (wrBytes m a bs) x = if a ≤ x ∧ x < a + bs.length then bs.getD (x - a) 0 else rdByte m x := by
  induction bs generalizing m a with
  | nil => rw [if_neg (by simp)]; rfl
  | cons b bs ih =>
    simp only [wrBytes, ih (wf_wrByte h a b) (a + 1), rdByte_wrByte h, List.length_cons]
    by_cases hx : x = a
    · subst hx
      rw [if_neg (by omega), if_pos rfl, if_pos (by omega)]
      simp
    · by_cases hr : a + 1 ≤ x ∧ x < a + 1 + bs.length
      · rw [if_pos hr, if_pos (by omega)]
        obtain ⟨k, rfl⟩ : ∃ k, x = a + 1 + k := ⟨x - (a + 1), by omega⟩
        simp [show a + 1 + k - a = k + 1 by omega]
      · rw [if_neg hr, if_neg hx, if_neg (by omega)]

/-- Bytes written are read back. -/
theorem rdBytes_wrBytes {m : Memory} (h : Memory.wf m = true) (a : Nat) (bs : List Byte) : rdBytes (wrBytes m a bs) a bs.length = bs := by
  apply List.ext_getElem
  · simp [rdBytes]
  · intro i h1 h2
    simp only [rdBytes, List.getElem_map, List.getElem_range, rdByte_wrBytes h]
    rw [if_pos (by omega)]
    simp [List.getD_eq_getElem?_getD, List.getElem?_eq_getElem h2]

/-! ## Little-endian numbers (R6) -/

theorem ofLE_toLE (n v : Nat) : ofLE (toLE n v) = v % 256 ^ n := by
  induction n generalizing v with
  | zero => simp [toLE, ofLE, Nat.mod_one]
  | succ n ih =>
    have hp : 256 ^ (n + 1) = 256 * 256 ^ n := by rw [pow_succ, mul_comm]
    simp only [toLE, ofLE, ih, BitVec.toNat_ofNat, hp]
    rw [Nat.mod_mul]

@[simp] theorem length_toLE (n v : Nat) : (toLE n v).length = n := by
  induction n generalizing v with
  | zero => rfl
  | succ n ih => simp [toLE, ih]

/-- A word written is read back. -/
theorem rdWord_wrWord {m : Memory} (h : Memory.wf m = true) (a : Nat) (w : Word) : rdWord (wrWord m a w) a = w := by
  have := rdBytes_wrBytes h a (toLE 8 w.toNat)
  rw [length_toLE] at this
  rw [rdWord, wrWord, this, ofLE_toLE]
  apply BitVec.eq_of_toNat_eq
  have := w.isLt
  simp only [BitVec.toNat_ofNat]
  omega

end Sys2Proof.Machine
end

