-- ==== Sys2Proof/Laws/State.lean ====
section
/-! SUPPORT. Every field after every named update of the state, a core or a strand: one lemma each, so that no proof unfolds a record update. -/

set_option Elab.async false -- one proof at a time: many at once exhaust the memory of a build

namespace Sys2Proof.Machine

/-! ## State.setCore -/

@[simp] theorem setCore_now (s : State) (k : Nat) (c : Core) : (s.setCore k c ).now = s.now := rfl
@[simp] theorem setCore_mem (s : State) (k : Nat) (c : Core) : (s.setCore k c ).mem = s.mem := rfl
@[simp] theorem setCore_memPois (s : State) (k : Nat) (c : Core) : (s.setCore k c ).memPois = s.memPois := rfl
@[simp] theorem setCore_past (s : State) (k : Nat) (c : Core) : (s.setCore k c ).past = s.past := rfl
@[simp] theorem setCore_dupMem (s : State) (k : Nat) (c : Core) : (s.setCore k c ).dupMem = s.dupMem := rfl
@[simp] theorem setCore_hostAcks (s : State) (k : Nat) (c : Core) : (s.setCore k c ).hostAcks = s.hostAcks := rfl
@[simp] theorem setCore_cores (s : State) (k : Nat) (c : Core) : (s.setCore k c ).cores = mput s.cores k c := rfl
@[simp] theorem setCore_towers (s : State) (k : Nat) (c : Core) : (s.setCore k c ).towers = s.towers := rfl
@[simp] theorem setCore_jobs (s : State) (k : Nat) (c : Core) : (s.setCore k c ).jobs = s.jobs := rfl
@[simp] theorem setCore_launches (s : State) (k : Nat) (c : Core) : (s.setCore k c ).launches = s.launches := rfl
@[simp] theorem setCore_gangs (s : State) (k : Nat) (c : Core) : (s.setCore k c ).gangs = s.gangs := rfl
@[simp] theorem setCore_handles (s : State) (k : Nat) (c : Core) : (s.setCore k c ).handles = s.handles := rfl
@[simp] theorem setCore_fns (s : State) (k : Nat) (c : Core) : (s.setCore k c ).fns = s.fns := rfl
@[simp] theorem setCore_ports (s : State) (k : Nat) (c : Core) : (s.setCore k c ).ports = s.ports := rfl
@[simp] theorem setCore_mailbox (s : State) (k : Nat) (c : Core) : (s.setCore k c ).mailbox = s.mailbox := rfl
@[simp] theorem setCore_start (s : State) (k : Nat) (c : Core) : (s.setCore k c ).start = s.start := rfl
@[simp] theorem setCore_startNext (s : State) (k : Nat) (c : Core) : (s.setCore k c ).startNext = s.startNext := rfl
@[simp] theorem setCore_apbase (s : State) (k : Nat) (c : Core) : (s.setCore k c ).apbase = s.apbase := rfl
@[simp] theorem setCore_fabric (s : State) (k : Nat) (c : Core) : (s.setCore k c ).fabric = s.fabric := rfl
@[simp] theorem setCore_fabricNext (s : State) (k : Nat) (c : Core) : (s.setCore k c ).fabricNext = s.fabricNext := rfl
@[simp] theorem setCore_partner (s : State) (k : Nat) (c : Core) : (s.setCore k c ).partner = s.partner := rfl
@[simp] theorem setCore_starts (s : State) (k : Nat) (c : Core) : (s.setCore k c ).starts = s.starts := rfl
@[simp] theorem setCore_cfg (s : State) (k : Nat) (c : Core) : (s.setCore k c ).cfg = s.cfg := rfl
@[simp] theorem setCore_tempDeci (s : State) (k : Nat) (c : Core) : (s.setCore k c ).tempDeci = s.tempDeci := rfl
@[simp] theorem setCore_tempAt (s : State) (k : Nat) (c : Core) : (s.setCore k c ).tempAt = s.tempAt := rfl
@[simp] theorem setCore_tripDue (s : State) (k : Nat) (c : Core) : (s.setCore k c ).tripDue = s.tripDue := rfl
@[simp] theorem setCore_powered (s : State) (k : Nat) (c : Core) : (s.setCore k c ).powered = s.powered := rfl
@[simp] theorem setCore_meshDown (s : State) (k : Nat) (c : Core) : (s.setCore k c ).meshDown = s.meshDown := rfl
@[simp] theorem setCore_selfTestDue (s : State) (k : Nat) (c : Core) : (s.setCore k c ).selfTestDue = s.selfTestDue := rfl
@[simp] theorem setCore_idleLimit (s : State) (k : Nat) (c : Core) : (s.setCore k c ).idleLimit = s.idleLimit := rfl
@[simp] theorem setCore_remote (s : State) (k : Nat) (c : Core) : (s.setCore k c ).remote = s.remote := rfl
@[simp] theorem setCore_ckpt (s : State) (k : Nat) (c : Core) : (s.setCore k c ).ckpt = s.ckpt := rfl
@[simp] theorem setCore_ckptRun (s : State) (k : Nat) (c : Core) : (s.setCore k c ).ckptRun = s.ckptRun := rfl
@[simp] theorem setCore_dups (s : State) (k : Nat) (c : Core) : (s.setCore k c ).dups = s.dups := rfl
@[simp] theorem setCore_inbound (s : State) (k : Nat) (c : Core) : (s.setCore k c ).inbound = s.inbound := rfl
@[simp] theorem setCore_agenda (s : State) (k : Nat) (c : Core) : (s.setCore k c ).agenda = s.agenda := rfl
@[simp] theorem setCore_turn (s : State) (k : Nat) (c : Core) : (s.setCore k c ).turn = s.turn := rfl
@[simp] theorem setCore_cur (s : State) (k : Nat) (c : Core) : (s.setCore k c ).cur = s.cur := rfl
@[simp] theorem setCore_images (s : State) (k : Nat) (c : Core) : (s.setCore k c ).images = s.images := rfl
@[simp] theorem setCore_freeCtr (s : State) (k : Nat) (c : Core) : (s.setCore k c ).freeCtr = s.freeCtr := rfl
@[simp] theorem setCore_uid (s : State) (k : Nat) (c : Core) : (s.setCore k c ).uid = s.uid := rfl

/-! ## State.modCore -/

@[simp] theorem modCore_now (s : State) (k : Nat) (f : Core → Core) : (s.modCore k f ).now = s.now := rfl
@[simp] theorem modCore_mem (s : State) (k : Nat) (f : Core → Core) : (s.modCore k f ).mem = s.mem := rfl
@[simp] theorem modCore_memPois (s : State) (k : Nat) (f : Core → Core) : (s.modCore k f ).memPois = s.memPois := rfl
@[simp] theorem modCore_past (s : State) (k : Nat) (f : Core → Core) : (s.modCore k f ).past = s.past := rfl
@[simp] theorem modCore_dupMem (s : State) (k : Nat) (f : Core → Core) : (s.modCore k f ).dupMem = s.dupMem := rfl
@[simp] theorem modCore_hostAcks (s : State) (k : Nat) (f : Core → Core) : (s.modCore k f ).hostAcks = s.hostAcks := rfl
@[simp] theorem modCore_cores (s : State) (k : Nat) (f : Core → Core) : (s.modCore k f ).cores = mput s.cores k (f (s.core k)) := rfl
@[simp] theorem modCore_towers (s : State) (k : Nat) (f : Core → Core) : (s.modCore k f ).towers = s.towers := rfl
@[simp] theorem modCore_jobs (s : State) (k : Nat) (f : Core → Core) : (s.modCore k f ).jobs = s.jobs := rfl
@[simp] theorem modCore_launches (s : State) (k : Nat) (f : Core → Core) : (s.modCore k f ).launches = s.launches := rfl
@[simp] theorem modCore_gangs (s : State) (k : Nat) (f : Core → Core) : (s.modCore k f ).gangs = s.gangs := rfl
@[simp] theorem modCore_handles (s : State) (k : Nat) (f : Core → Core) : (s.modCore k f ).handles = s.handles := rfl
@[simp] theorem modCore_fns (s : State) (k : Nat) (f : Core → Core) : (s.modCore k f ).fns = s.fns := rfl
@[simp] theorem modCore_ports (s : State) (k : Nat) (f : Core → Core) : (s.modCore k f ).ports = s.ports := rfl
@[simp] theorem modCore_mailbox (s : State) (k : Nat) (f : Core → Core) : (s.modCore k f ).mailbox = s.mailbox := rfl
@[simp] theorem modCore_start (s : State) (k : Nat) (f : Core → Core) : (s.modCore k f ).start = s.start := rfl
@[simp] theorem modCore_startNext (s : State) (k : Nat) (f : Core → Core) : (s.modCore k f ).startNext = s.startNext := rfl
@[simp] theorem modCore_apbase (s : State) (k : Nat) (f : Core → Core) : (s.modCore k f ).apbase = s.apbase := rfl
@[simp] theorem modCore_fabric (s : State) (k : Nat) (f : Core → Core) : (s.modCore k f ).fabric = s.fabric := rfl
@[simp] theorem modCore_fabricNext (s : State) (k : Nat) (f : Core → Core) : (s.modCore k f ).fabricNext = s.fabricNext := rfl
@[simp] theorem modCore_partner (s : State) (k : Nat) (f : Core → Core) : (s.modCore k f ).partner = s.partner := rfl
@[simp] theorem modCore_starts (s : State) (k : Nat) (f : Core → Core) : (s.modCore k f ).starts = s.starts := rfl
@[simp] theorem modCore_cfg (s : State) (k : Nat) (f : Core → Core) : (s.modCore k f ).cfg = s.cfg := rfl
@[simp] theorem modCore_tempDeci (s : State) (k : Nat) (f : Core → Core) : (s.modCore k f ).tempDeci = s.tempDeci := rfl
@[simp] theorem modCore_tempAt (s : State) (k : Nat) (f : Core → Core) : (s.modCore k f ).tempAt = s.tempAt := rfl
@[simp] theorem modCore_tripDue (s : State) (k : Nat) (f : Core → Core) : (s.modCore k f ).tripDue = s.tripDue := rfl
@[simp] theorem modCore_powered (s : State) (k : Nat) (f : Core → Core) : (s.modCore k f ).powered = s.powered := rfl
@[simp] theorem modCore_meshDown (s : State) (k : Nat) (f : Core → Core) : (s.modCore k f ).meshDown = s.meshDown := rfl
@[simp] theorem modCore_selfTestDue (s : State) (k : Nat) (f : Core → Core) : (s.modCore k f ).selfTestDue = s.selfTestDue := rfl
@[simp] theorem modCore_idleLimit (s : State) (k : Nat) (f : Core → Core) : (s.modCore k f ).idleLimit = s.idleLimit := rfl
@[simp] theorem modCore_remote (s : State) (k : Nat) (f : Core → Core) : (s.modCore k f ).remote = s.remote := rfl
@[simp] theorem modCore_ckpt (s : State) (k : Nat) (f : Core → Core) : (s.modCore k f ).ckpt = s.ckpt := rfl
@[simp] theorem modCore_ckptRun (s : State) (k : Nat) (f : Core → Core) : (s.modCore k f ).ckptRun = s.ckptRun := rfl
@[simp] theorem modCore_dups (s : State) (k : Nat) (f : Core → Core) : (s.modCore k f ).dups = s.dups := rfl
@[simp] theorem modCore_inbound (s : State) (k : Nat) (f : Core → Core) : (s.modCore k f ).inbound = s.inbound := rfl
@[simp] theorem modCore_agenda (s : State) (k : Nat) (f : Core → Core) : (s.modCore k f ).agenda = s.agenda := rfl
@[simp] theorem modCore_turn (s : State) (k : Nat) (f : Core → Core) : (s.modCore k f ).turn = s.turn := rfl
@[simp] theorem modCore_cur (s : State) (k : Nat) (f : Core → Core) : (s.modCore k f ).cur = s.cur := rfl
@[simp] theorem modCore_images (s : State) (k : Nat) (f : Core → Core) : (s.modCore k f ).images = s.images := rfl
@[simp] theorem modCore_freeCtr (s : State) (k : Nat) (f : Core → Core) : (s.modCore k f ).freeCtr = s.freeCtr := rfl
@[simp] theorem modCore_uid (s : State) (k : Nat) (f : Core → Core) : (s.modCore k f ).uid = s.uid := rfl

/-! ## State.setStrand -/

@[simp] theorem setStrand_now (s : State) (k i : Nat) (x : Strand) : (s.setStrand k i x ).now = s.now := rfl
@[simp] theorem setStrand_mem (s : State) (k i : Nat) (x : Strand) : (s.setStrand k i x ).mem = s.mem := rfl
@[simp] theorem setStrand_memPois (s : State) (k i : Nat) (x : Strand) : (s.setStrand k i x ).memPois = s.memPois := rfl
@[simp] theorem setStrand_past (s : State) (k i : Nat) (x : Strand) : (s.setStrand k i x ).past = s.past := rfl
@[simp] theorem setStrand_dupMem (s : State) (k i : Nat) (x : Strand) : (s.setStrand k i x ).dupMem = s.dupMem := rfl
@[simp] theorem setStrand_hostAcks (s : State) (k i : Nat) (x : Strand) : (s.setStrand k i x ).hostAcks = s.hostAcks := rfl
@[simp] theorem setStrand_cores (s : State) (k i : Nat) (x : Strand) : (s.setStrand k i x ).cores = mput s.cores k ((s.core k).setStrand i x) := rfl
@[simp] theorem setStrand_towers (s : State) (k i : Nat) (x : Strand) : (s.setStrand k i x ).towers = s.towers := rfl
@[simp] theorem setStrand_jobs (s : State) (k i : Nat) (x : Strand) : (s.setStrand k i x ).jobs = s.jobs := rfl
@[simp] theorem setStrand_launches (s : State) (k i : Nat) (x : Strand) : (s.setStrand k i x ).launches = s.launches := rfl
@[simp] theorem setStrand_gangs (s : State) (k i : Nat) (x : Strand) : (s.setStrand k i x ).gangs = s.gangs := rfl
@[simp] theorem setStrand_handles (s : State) (k i : Nat) (x : Strand) : (s.setStrand k i x ).handles = s.handles := rfl
@[simp] theorem setStrand_fns (s : State) (k i : Nat) (x : Strand) : (s.setStrand k i x ).fns = s.fns := rfl
@[simp] theorem setStrand_ports (s : State) (k i : Nat) (x : Strand) : (s.setStrand k i x ).ports = s.ports := rfl
@[simp] theorem setStrand_mailbox (s : State) (k i : Nat) (x : Strand) : (s.setStrand k i x ).mailbox = s.mailbox := rfl
@[simp] theorem setStrand_start (s : State) (k i : Nat) (x : Strand) : (s.setStrand k i x ).start = s.start := rfl
@[simp] theorem setStrand_startNext (s : State) (k i : Nat) (x : Strand) : (s.setStrand k i x ).startNext = s.startNext := rfl
@[simp] theorem setStrand_apbase (s : State) (k i : Nat) (x : Strand) : (s.setStrand k i x ).apbase = s.apbase := rfl
@[simp] theorem setStrand_fabric (s : State) (k i : Nat) (x : Strand) : (s.setStrand k i x ).fabric = s.fabric := rfl
@[simp] theorem setStrand_fabricNext (s : State) (k i : Nat) (x : Strand) : (s.setStrand k i x ).fabricNext = s.fabricNext := rfl
@[simp] theorem setStrand_partner (s : State) (k i : Nat) (x : Strand) : (s.setStrand k i x ).partner = s.partner := rfl
@[simp] theorem setStrand_starts (s : State) (k i : Nat) (x : Strand) : (s.setStrand k i x ).starts = s.starts := rfl
@[simp] theorem setStrand_cfg (s : State) (k i : Nat) (x : Strand) : (s.setStrand k i x ).cfg = s.cfg := rfl
@[simp] theorem setStrand_tempDeci (s : State) (k i : Nat) (x : Strand) : (s.setStrand k i x ).tempDeci = s.tempDeci := rfl
@[simp] theorem setStrand_tempAt (s : State) (k i : Nat) (x : Strand) : (s.setStrand k i x ).tempAt = s.tempAt := rfl
@[simp] theorem setStrand_tripDue (s : State) (k i : Nat) (x : Strand) : (s.setStrand k i x ).tripDue = s.tripDue := rfl
@[simp] theorem setStrand_powered (s : State) (k i : Nat) (x : Strand) : (s.setStrand k i x ).powered = s.powered := rfl
@[simp] theorem setStrand_meshDown (s : State) (k i : Nat) (x : Strand) : (s.setStrand k i x ).meshDown = s.meshDown := rfl
@[simp] theorem setStrand_selfTestDue (s : State) (k i : Nat) (x : Strand) : (s.setStrand k i x ).selfTestDue = s.selfTestDue := rfl
@[simp] theorem setStrand_idleLimit (s : State) (k i : Nat) (x : Strand) : (s.setStrand k i x ).idleLimit = s.idleLimit := rfl
@[simp] theorem setStrand_remote (s : State) (k i : Nat) (x : Strand) : (s.setStrand k i x ).remote = s.remote := rfl
@[simp] theorem setStrand_ckpt (s : State) (k i : Nat) (x : Strand) : (s.setStrand k i x ).ckpt = s.ckpt := rfl
@[simp] theorem setStrand_ckptRun (s : State) (k i : Nat) (x : Strand) : (s.setStrand k i x ).ckptRun = s.ckptRun := rfl
@[simp] theorem setStrand_dups (s : State) (k i : Nat) (x : Strand) : (s.setStrand k i x ).dups = s.dups := rfl
@[simp] theorem setStrand_inbound (s : State) (k i : Nat) (x : Strand) : (s.setStrand k i x ).inbound = s.inbound := rfl
@[simp] theorem setStrand_agenda (s : State) (k i : Nat) (x : Strand) : (s.setStrand k i x ).agenda = s.agenda := rfl
@[simp] theorem setStrand_turn (s : State) (k i : Nat) (x : Strand) : (s.setStrand k i x ).turn = s.turn := rfl
@[simp] theorem setStrand_cur (s : State) (k i : Nat) (x : Strand) : (s.setStrand k i x ).cur = s.cur := rfl
@[simp] theorem setStrand_images (s : State) (k i : Nat) (x : Strand) : (s.setStrand k i x ).images = s.images := rfl
@[simp] theorem setStrand_freeCtr (s : State) (k i : Nat) (x : Strand) : (s.setStrand k i x ).freeCtr = s.freeCtr := rfl
@[simp] theorem setStrand_uid (s : State) (k i : Nat) (x : Strand) : (s.setStrand k i x ).uid = s.uid := rfl

/-! ## State.modStrand -/

@[simp] theorem modStrand_now (s : State) (k i : Nat) (f : Strand → Strand) : (s.modStrand k i f ).now = s.now := rfl
@[simp] theorem modStrand_mem (s : State) (k i : Nat) (f : Strand → Strand) : (s.modStrand k i f ).mem = s.mem := rfl
@[simp] theorem modStrand_memPois (s : State) (k i : Nat) (f : Strand → Strand) : (s.modStrand k i f ).memPois = s.memPois := rfl
@[simp] theorem modStrand_past (s : State) (k i : Nat) (f : Strand → Strand) : (s.modStrand k i f ).past = s.past := rfl
@[simp] theorem modStrand_dupMem (s : State) (k i : Nat) (f : Strand → Strand) : (s.modStrand k i f ).dupMem = s.dupMem := rfl
@[simp] theorem modStrand_hostAcks (s : State) (k i : Nat) (f : Strand → Strand) : (s.modStrand k i f ).hostAcks = s.hostAcks := rfl
@[simp] theorem modStrand_cores (s : State) (k i : Nat) (f : Strand → Strand) : (s.modStrand k i f ).cores = mput s.cores k ((s.core k).setStrand i (f (s.strand k i))) := rfl
@[simp] theorem modStrand_towers (s : State) (k i : Nat) (f : Strand → Strand) : (s.modStrand k i f ).towers = s.towers := rfl
@[simp] theorem modStrand_jobs (s : State) (k i : Nat) (f : Strand → Strand) : (s.modStrand k i f ).jobs = s.jobs := rfl
@[simp] theorem modStrand_launches (s : State) (k i : Nat) (f : Strand → Strand) : (s.modStrand k i f ).launches = s.launches := rfl
@[simp] theorem modStrand_gangs (s : State) (k i : Nat) (f : Strand → Strand) : (s.modStrand k i f ).gangs = s.gangs := rfl
@[simp] theorem modStrand_handles (s : State) (k i : Nat) (f : Strand → Strand) : (s.modStrand k i f ).handles = s.handles := rfl
@[simp] theorem modStrand_fns (s : State) (k i : Nat) (f : Strand → Strand) : (s.modStrand k i f ).fns = s.fns := rfl
@[simp] theorem modStrand_ports (s : State) (k i : Nat) (f : Strand → Strand) : (s.modStrand k i f ).ports = s.ports := rfl
@[simp] theorem modStrand_mailbox (s : State) (k i : Nat) (f : Strand → Strand) : (s.modStrand k i f ).mailbox = s.mailbox := rfl
@[simp] theorem modStrand_start (s : State) (k i : Nat) (f : Strand → Strand) : (s.modStrand k i f ).start = s.start := rfl
@[simp] theorem modStrand_startNext (s : State) (k i : Nat) (f : Strand → Strand) : (s.modStrand k i f ).startNext = s.startNext := rfl
@[simp] theorem modStrand_apbase (s : State) (k i : Nat) (f : Strand → Strand) : (s.modStrand k i f ).apbase = s.apbase := rfl
@[simp] theorem modStrand_fabric (s : State) (k i : Nat) (f : Strand → Strand) : (s.modStrand k i f ).fabric = s.fabric := rfl
@[simp] theorem modStrand_fabricNext (s : State) (k i : Nat) (f : Strand → Strand) : (s.modStrand k i f ).fabricNext = s.fabricNext := rfl
@[simp] theorem modStrand_partner (s : State) (k i : Nat) (f : Strand → Strand) : (s.modStrand k i f ).partner = s.partner := rfl
@[simp] theorem modStrand_starts (s : State) (k i : Nat) (f : Strand → Strand) : (s.modStrand k i f ).starts = s.starts := rfl
@[simp] theorem modStrand_cfg (s : State) (k i : Nat) (f : Strand → Strand) : (s.modStrand k i f ).cfg = s.cfg := rfl
@[simp] theorem modStrand_tempDeci (s : State) (k i : Nat) (f : Strand → Strand) : (s.modStrand k i f ).tempDeci = s.tempDeci := rfl
@[simp] theorem modStrand_tempAt (s : State) (k i : Nat) (f : Strand → Strand) : (s.modStrand k i f ).tempAt = s.tempAt := rfl
@[simp] theorem modStrand_tripDue (s : State) (k i : Nat) (f : Strand → Strand) : (s.modStrand k i f ).tripDue = s.tripDue := rfl
@[simp] theorem modStrand_powered (s : State) (k i : Nat) (f : Strand → Strand) : (s.modStrand k i f ).powered = s.powered := rfl
@[simp] theorem modStrand_meshDown (s : State) (k i : Nat) (f : Strand → Strand) : (s.modStrand k i f ).meshDown = s.meshDown := rfl
@[simp] theorem modStrand_selfTestDue (s : State) (k i : Nat) (f : Strand → Strand) : (s.modStrand k i f ).selfTestDue = s.selfTestDue := rfl
@[simp] theorem modStrand_idleLimit (s : State) (k i : Nat) (f : Strand → Strand) : (s.modStrand k i f ).idleLimit = s.idleLimit := rfl
@[simp] theorem modStrand_remote (s : State) (k i : Nat) (f : Strand → Strand) : (s.modStrand k i f ).remote = s.remote := rfl
@[simp] theorem modStrand_ckpt (s : State) (k i : Nat) (f : Strand → Strand) : (s.modStrand k i f ).ckpt = s.ckpt := rfl
@[simp] theorem modStrand_ckptRun (s : State) (k i : Nat) (f : Strand → Strand) : (s.modStrand k i f ).ckptRun = s.ckptRun := rfl
@[simp] theorem modStrand_dups (s : State) (k i : Nat) (f : Strand → Strand) : (s.modStrand k i f ).dups = s.dups := rfl
@[simp] theorem modStrand_inbound (s : State) (k i : Nat) (f : Strand → Strand) : (s.modStrand k i f ).inbound = s.inbound := rfl
@[simp] theorem modStrand_agenda (s : State) (k i : Nat) (f : Strand → Strand) : (s.modStrand k i f ).agenda = s.agenda := rfl
@[simp] theorem modStrand_turn (s : State) (k i : Nat) (f : Strand → Strand) : (s.modStrand k i f ).turn = s.turn := rfl
@[simp] theorem modStrand_cur (s : State) (k i : Nat) (f : Strand → Strand) : (s.modStrand k i f ).cur = s.cur := rfl
@[simp] theorem modStrand_images (s : State) (k i : Nat) (f : Strand → Strand) : (s.modStrand k i f ).images = s.images := rfl
@[simp] theorem modStrand_freeCtr (s : State) (k i : Nat) (f : Strand → Strand) : (s.modStrand k i f ).freeCtr = s.freeCtr := rfl
@[simp] theorem modStrand_uid (s : State) (k i : Nat) (f : Strand → Strand) : (s.modStrand k i f ).uid = s.uid := rfl

/-! ## State.setTower -/

@[simp] theorem setTower_now (s : State) (t : Nat) (x : Tower) : (s.setTower t x ).now = s.now := rfl
@[simp] theorem setTower_mem (s : State) (t : Nat) (x : Tower) : (s.setTower t x ).mem = s.mem := rfl
@[simp] theorem setTower_memPois (s : State) (t : Nat) (x : Tower) : (s.setTower t x ).memPois = s.memPois := rfl
@[simp] theorem setTower_past (s : State) (t : Nat) (x : Tower) : (s.setTower t x ).past = s.past := rfl
@[simp] theorem setTower_dupMem (s : State) (t : Nat) (x : Tower) : (s.setTower t x ).dupMem = s.dupMem := rfl
@[simp] theorem setTower_hostAcks (s : State) (t : Nat) (x : Tower) : (s.setTower t x ).hostAcks = s.hostAcks := rfl
@[simp] theorem setTower_cores (s : State) (t : Nat) (x : Tower) : (s.setTower t x ).cores = s.cores := rfl
@[simp] theorem setTower_towers (s : State) (t : Nat) (x : Tower) : (s.setTower t x ).towers = mput s.towers t x := rfl
@[simp] theorem setTower_jobs (s : State) (t : Nat) (x : Tower) : (s.setTower t x ).jobs = s.jobs := rfl
@[simp] theorem setTower_launches (s : State) (t : Nat) (x : Tower) : (s.setTower t x ).launches = s.launches := rfl
@[simp] theorem setTower_gangs (s : State) (t : Nat) (x : Tower) : (s.setTower t x ).gangs = s.gangs := rfl
@[simp] theorem setTower_handles (s : State) (t : Nat) (x : Tower) : (s.setTower t x ).handles = s.handles := rfl
@[simp] theorem setTower_fns (s : State) (t : Nat) (x : Tower) : (s.setTower t x ).fns = s.fns := rfl
@[simp] theorem setTower_ports (s : State) (t : Nat) (x : Tower) : (s.setTower t x ).ports = s.ports := rfl
@[simp] theorem setTower_mailbox (s : State) (t : Nat) (x : Tower) : (s.setTower t x ).mailbox = s.mailbox := rfl
@[simp] theorem setTower_start (s : State) (t : Nat) (x : Tower) : (s.setTower t x ).start = s.start := rfl
@[simp] theorem setTower_startNext (s : State) (t : Nat) (x : Tower) : (s.setTower t x ).startNext = s.startNext := rfl
@[simp] theorem setTower_apbase (s : State) (t : Nat) (x : Tower) : (s.setTower t x ).apbase = s.apbase := rfl
@[simp] theorem setTower_fabric (s : State) (t : Nat) (x : Tower) : (s.setTower t x ).fabric = s.fabric := rfl
@[simp] theorem setTower_fabricNext (s : State) (t : Nat) (x : Tower) : (s.setTower t x ).fabricNext = s.fabricNext := rfl
@[simp] theorem setTower_partner (s : State) (t : Nat) (x : Tower) : (s.setTower t x ).partner = s.partner := rfl
@[simp] theorem setTower_starts (s : State) (t : Nat) (x : Tower) : (s.setTower t x ).starts = s.starts := rfl
@[simp] theorem setTower_cfg (s : State) (t : Nat) (x : Tower) : (s.setTower t x ).cfg = s.cfg := rfl
@[simp] theorem setTower_tempDeci (s : State) (t : Nat) (x : Tower) : (s.setTower t x ).tempDeci = s.tempDeci := rfl
@[simp] theorem setTower_tempAt (s : State) (t : Nat) (x : Tower) : (s.setTower t x ).tempAt = s.tempAt := rfl
@[simp] theorem setTower_tripDue (s : State) (t : Nat) (x : Tower) : (s.setTower t x ).tripDue = s.tripDue := rfl
@[simp] theorem setTower_powered (s : State) (t : Nat) (x : Tower) : (s.setTower t x ).powered = s.powered := rfl
@[simp] theorem setTower_meshDown (s : State) (t : Nat) (x : Tower) : (s.setTower t x ).meshDown = s.meshDown := rfl
@[simp] theorem setTower_selfTestDue (s : State) (t : Nat) (x : Tower) : (s.setTower t x ).selfTestDue = s.selfTestDue := rfl
@[simp] theorem setTower_idleLimit (s : State) (t : Nat) (x : Tower) : (s.setTower t x ).idleLimit = s.idleLimit := rfl
@[simp] theorem setTower_remote (s : State) (t : Nat) (x : Tower) : (s.setTower t x ).remote = s.remote := rfl
@[simp] theorem setTower_ckpt (s : State) (t : Nat) (x : Tower) : (s.setTower t x ).ckpt = s.ckpt := rfl
@[simp] theorem setTower_ckptRun (s : State) (t : Nat) (x : Tower) : (s.setTower t x ).ckptRun = s.ckptRun := rfl
@[simp] theorem setTower_dups (s : State) (t : Nat) (x : Tower) : (s.setTower t x ).dups = s.dups := rfl
@[simp] theorem setTower_inbound (s : State) (t : Nat) (x : Tower) : (s.setTower t x ).inbound = s.inbound := rfl
@[simp] theorem setTower_agenda (s : State) (t : Nat) (x : Tower) : (s.setTower t x ).agenda = s.agenda := rfl
@[simp] theorem setTower_turn (s : State) (t : Nat) (x : Tower) : (s.setTower t x ).turn = s.turn := rfl
@[simp] theorem setTower_cur (s : State) (t : Nat) (x : Tower) : (s.setTower t x ).cur = s.cur := rfl
@[simp] theorem setTower_images (s : State) (t : Nat) (x : Tower) : (s.setTower t x ).images = s.images := rfl
@[simp] theorem setTower_freeCtr (s : State) (t : Nat) (x : Tower) : (s.setTower t x ).freeCtr = s.freeCtr := rfl
@[simp] theorem setTower_uid (s : State) (t : Nat) (x : Tower) : (s.setTower t x ).uid = s.uid := rfl

/-! ## State.modTower -/

@[simp] theorem modTower_now (s : State) (t : Nat) (f : Tower → Tower) : (s.modTower t f ).now = s.now := rfl
@[simp] theorem modTower_mem (s : State) (t : Nat) (f : Tower → Tower) : (s.modTower t f ).mem = s.mem := rfl
@[simp] theorem modTower_memPois (s : State) (t : Nat) (f : Tower → Tower) : (s.modTower t f ).memPois = s.memPois := rfl
@[simp] theorem modTower_past (s : State) (t : Nat) (f : Tower → Tower) : (s.modTower t f ).past = s.past := rfl
@[simp] theorem modTower_dupMem (s : State) (t : Nat) (f : Tower → Tower) : (s.modTower t f ).dupMem = s.dupMem := rfl
@[simp] theorem modTower_hostAcks (s : State) (t : Nat) (f : Tower → Tower) : (s.modTower t f ).hostAcks = s.hostAcks := rfl
@[simp] theorem modTower_cores (s : State) (t : Nat) (f : Tower → Tower) : (s.modTower t f ).cores = s.cores := rfl
@[simp] theorem modTower_towers (s : State) (t : Nat) (f : Tower → Tower) : (s.modTower t f ).towers = mput s.towers t (f (s.tower t)) := rfl
@[simp] theorem modTower_jobs (s : State) (t : Nat) (f : Tower → Tower) : (s.modTower t f ).jobs = s.jobs := rfl
@[simp] theorem modTower_launches (s : State) (t : Nat) (f : Tower → Tower) : (s.modTower t f ).launches = s.launches := rfl
@[simp] theorem modTower_gangs (s : State) (t : Nat) (f : Tower → Tower) : (s.modTower t f ).gangs = s.gangs := rfl
@[simp] theorem modTower_handles (s : State) (t : Nat) (f : Tower → Tower) : (s.modTower t f ).handles = s.handles := rfl
@[simp] theorem modTower_fns (s : State) (t : Nat) (f : Tower → Tower) : (s.modTower t f ).fns = s.fns := rfl
@[simp] theorem modTower_ports (s : State) (t : Nat) (f : Tower → Tower) : (s.modTower t f ).ports = s.ports := rfl
@[simp] theorem modTower_mailbox (s : State) (t : Nat) (f : Tower → Tower) : (s.modTower t f ).mailbox = s.mailbox := rfl
@[simp] theorem modTower_start (s : State) (t : Nat) (f : Tower → Tower) : (s.modTower t f ).start = s.start := rfl
@[simp] theorem modTower_startNext (s : State) (t : Nat) (f : Tower → Tower) : (s.modTower t f ).startNext = s.startNext := rfl
@[simp] theorem modTower_apbase (s : State) (t : Nat) (f : Tower → Tower) : (s.modTower t f ).apbase = s.apbase := rfl
@[simp] theorem modTower_fabric (s : State) (t : Nat) (f : Tower → Tower) : (s.modTower t f ).fabric = s.fabric := rfl
@[simp] theorem modTower_fabricNext (s : State) (t : Nat) (f : Tower → Tower) : (s.modTower t f ).fabricNext = s.fabricNext := rfl
@[simp] theorem modTower_partner (s : State) (t : Nat) (f : Tower → Tower) : (s.modTower t f ).partner = s.partner := rfl
@[simp] theorem modTower_starts (s : State) (t : Nat) (f : Tower → Tower) : (s.modTower t f ).starts = s.starts := rfl
@[simp] theorem modTower_cfg (s : State) (t : Nat) (f : Tower → Tower) : (s.modTower t f ).cfg = s.cfg := rfl
@[simp] theorem modTower_tempDeci (s : State) (t : Nat) (f : Tower → Tower) : (s.modTower t f ).tempDeci = s.tempDeci := rfl
@[simp] theorem modTower_tempAt (s : State) (t : Nat) (f : Tower → Tower) : (s.modTower t f ).tempAt = s.tempAt := rfl
@[simp] theorem modTower_tripDue (s : State) (t : Nat) (f : Tower → Tower) : (s.modTower t f ).tripDue = s.tripDue := rfl
@[simp] theorem modTower_powered (s : State) (t : Nat) (f : Tower → Tower) : (s.modTower t f ).powered = s.powered := rfl
@[simp] theorem modTower_meshDown (s : State) (t : Nat) (f : Tower → Tower) : (s.modTower t f ).meshDown = s.meshDown := rfl
@[simp] theorem modTower_selfTestDue (s : State) (t : Nat) (f : Tower → Tower) : (s.modTower t f ).selfTestDue = s.selfTestDue := rfl
@[simp] theorem modTower_idleLimit (s : State) (t : Nat) (f : Tower → Tower) : (s.modTower t f ).idleLimit = s.idleLimit := rfl
@[simp] theorem modTower_remote (s : State) (t : Nat) (f : Tower → Tower) : (s.modTower t f ).remote = s.remote := rfl
@[simp] theorem modTower_ckpt (s : State) (t : Nat) (f : Tower → Tower) : (s.modTower t f ).ckpt = s.ckpt := rfl
@[simp] theorem modTower_ckptRun (s : State) (t : Nat) (f : Tower → Tower) : (s.modTower t f ).ckptRun = s.ckptRun := rfl
@[simp] theorem modTower_dups (s : State) (t : Nat) (f : Tower → Tower) : (s.modTower t f ).dups = s.dups := rfl
@[simp] theorem modTower_inbound (s : State) (t : Nat) (f : Tower → Tower) : (s.modTower t f ).inbound = s.inbound := rfl
@[simp] theorem modTower_agenda (s : State) (t : Nat) (f : Tower → Tower) : (s.modTower t f ).agenda = s.agenda := rfl
@[simp] theorem modTower_turn (s : State) (t : Nat) (f : Tower → Tower) : (s.modTower t f ).turn = s.turn := rfl
@[simp] theorem modTower_cur (s : State) (t : Nat) (f : Tower → Tower) : (s.modTower t f ).cur = s.cur := rfl
@[simp] theorem modTower_images (s : State) (t : Nat) (f : Tower → Tower) : (s.modTower t f ).images = s.images := rfl
@[simp] theorem modTower_freeCtr (s : State) (t : Nat) (f : Tower → Tower) : (s.modTower t f ).freeCtr = s.freeCtr := rfl
@[simp] theorem modTower_uid (s : State) (t : Nat) (f : Tower → Tower) : (s.modTower t f ).uid = s.uid := rfl

/-! ## State.setHandle -/

@[simp] theorem setHandle_now (s : State) (i : Nat) (h : HEntry) : (s.setHandle i h ).now = s.now := rfl
@[simp] theorem setHandle_mem (s : State) (i : Nat) (h : HEntry) : (s.setHandle i h ).mem = s.mem := rfl
@[simp] theorem setHandle_memPois (s : State) (i : Nat) (h : HEntry) : (s.setHandle i h ).memPois = s.memPois := rfl
@[simp] theorem setHandle_past (s : State) (i : Nat) (h : HEntry) : (s.setHandle i h ).past = s.past := rfl
@[simp] theorem setHandle_dupMem (s : State) (i : Nat) (h : HEntry) : (s.setHandle i h ).dupMem = s.dupMem := rfl
@[simp] theorem setHandle_hostAcks (s : State) (i : Nat) (h : HEntry) : (s.setHandle i h ).hostAcks = s.hostAcks := rfl
@[simp] theorem setHandle_cores (s : State) (i : Nat) (h : HEntry) : (s.setHandle i h ).cores = s.cores := rfl
@[simp] theorem setHandle_towers (s : State) (i : Nat) (h : HEntry) : (s.setHandle i h ).towers = s.towers := rfl
@[simp] theorem setHandle_jobs (s : State) (i : Nat) (h : HEntry) : (s.setHandle i h ).jobs = s.jobs := rfl
@[simp] theorem setHandle_launches (s : State) (i : Nat) (h : HEntry) : (s.setHandle i h ).launches = s.launches := rfl
@[simp] theorem setHandle_gangs (s : State) (i : Nat) (h : HEntry) : (s.setHandle i h ).gangs = s.gangs := rfl
@[simp] theorem setHandle_handles (s : State) (i : Nat) (h : HEntry) : (s.setHandle i h ).handles = mput s.handles i h := rfl
@[simp] theorem setHandle_fns (s : State) (i : Nat) (h : HEntry) : (s.setHandle i h ).fns = s.fns := rfl
@[simp] theorem setHandle_ports (s : State) (i : Nat) (h : HEntry) : (s.setHandle i h ).ports = s.ports := rfl
@[simp] theorem setHandle_mailbox (s : State) (i : Nat) (h : HEntry) : (s.setHandle i h ).mailbox = s.mailbox := rfl
@[simp] theorem setHandle_start (s : State) (i : Nat) (h : HEntry) : (s.setHandle i h ).start = s.start := rfl
@[simp] theorem setHandle_startNext (s : State) (i : Nat) (h : HEntry) : (s.setHandle i h ).startNext = s.startNext := rfl
@[simp] theorem setHandle_apbase (s : State) (i : Nat) (h : HEntry) : (s.setHandle i h ).apbase = s.apbase := rfl
@[simp] theorem setHandle_fabric (s : State) (i : Nat) (h : HEntry) : (s.setHandle i h ).fabric = s.fabric := rfl
@[simp] theorem setHandle_fabricNext (s : State) (i : Nat) (h : HEntry) : (s.setHandle i h ).fabricNext = s.fabricNext := rfl
@[simp] theorem setHandle_partner (s : State) (i : Nat) (h : HEntry) : (s.setHandle i h ).partner = s.partner := rfl
@[simp] theorem setHandle_starts (s : State) (i : Nat) (h : HEntry) : (s.setHandle i h ).starts = s.starts := rfl
@[simp] theorem setHandle_cfg (s : State) (i : Nat) (h : HEntry) : (s.setHandle i h ).cfg = s.cfg := rfl
@[simp] theorem setHandle_tempDeci (s : State) (i : Nat) (h : HEntry) : (s.setHandle i h ).tempDeci = s.tempDeci := rfl
@[simp] theorem setHandle_tempAt (s : State) (i : Nat) (h : HEntry) : (s.setHandle i h ).tempAt = s.tempAt := rfl
@[simp] theorem setHandle_tripDue (s : State) (i : Nat) (h : HEntry) : (s.setHandle i h ).tripDue = s.tripDue := rfl
@[simp] theorem setHandle_powered (s : State) (i : Nat) (h : HEntry) : (s.setHandle i h ).powered = s.powered := rfl
@[simp] theorem setHandle_meshDown (s : State) (i : Nat) (h : HEntry) : (s.setHandle i h ).meshDown = s.meshDown := rfl
@[simp] theorem setHandle_selfTestDue (s : State) (i : Nat) (h : HEntry) : (s.setHandle i h ).selfTestDue = s.selfTestDue := rfl
@[simp] theorem setHandle_idleLimit (s : State) (i : Nat) (h : HEntry) : (s.setHandle i h ).idleLimit = s.idleLimit := rfl
@[simp] theorem setHandle_remote (s : State) (i : Nat) (h : HEntry) : (s.setHandle i h ).remote = s.remote := rfl
@[simp] theorem setHandle_ckpt (s : State) (i : Nat) (h : HEntry) : (s.setHandle i h ).ckpt = s.ckpt := rfl
@[simp] theorem setHandle_ckptRun (s : State) (i : Nat) (h : HEntry) : (s.setHandle i h ).ckptRun = s.ckptRun := rfl
@[simp] theorem setHandle_dups (s : State) (i : Nat) (h : HEntry) : (s.setHandle i h ).dups = s.dups := rfl
@[simp] theorem setHandle_inbound (s : State) (i : Nat) (h : HEntry) : (s.setHandle i h ).inbound = s.inbound := rfl
@[simp] theorem setHandle_agenda (s : State) (i : Nat) (h : HEntry) : (s.setHandle i h ).agenda = s.agenda := rfl
@[simp] theorem setHandle_turn (s : State) (i : Nat) (h : HEntry) : (s.setHandle i h ).turn = s.turn := rfl
@[simp] theorem setHandle_cur (s : State) (i : Nat) (h : HEntry) : (s.setHandle i h ).cur = s.cur := rfl
@[simp] theorem setHandle_images (s : State) (i : Nat) (h : HEntry) : (s.setHandle i h ).images = s.images := rfl
@[simp] theorem setHandle_freeCtr (s : State) (i : Nat) (h : HEntry) : (s.setHandle i h ).freeCtr = s.freeCtr := rfl
@[simp] theorem setHandle_uid (s : State) (i : Nat) (h : HEntry) : (s.setHandle i h ).uid = s.uid := rfl

/-! ## State.setFn -/

@[simp] theorem setFn_now (s : State) (n : Nat) (x : Fn) : (s.setFn n x ).now = s.now := rfl
@[simp] theorem setFn_mem (s : State) (n : Nat) (x : Fn) : (s.setFn n x ).mem = s.mem := rfl
@[simp] theorem setFn_memPois (s : State) (n : Nat) (x : Fn) : (s.setFn n x ).memPois = s.memPois := rfl
@[simp] theorem setFn_past (s : State) (n : Nat) (x : Fn) : (s.setFn n x ).past = s.past := rfl
@[simp] theorem setFn_dupMem (s : State) (n : Nat) (x : Fn) : (s.setFn n x ).dupMem = s.dupMem := rfl
@[simp] theorem setFn_hostAcks (s : State) (n : Nat) (x : Fn) : (s.setFn n x ).hostAcks = s.hostAcks := rfl
@[simp] theorem setFn_cores (s : State) (n : Nat) (x : Fn) : (s.setFn n x ).cores = s.cores := rfl
@[simp] theorem setFn_towers (s : State) (n : Nat) (x : Fn) : (s.setFn n x ).towers = s.towers := rfl
@[simp] theorem setFn_jobs (s : State) (n : Nat) (x : Fn) : (s.setFn n x ).jobs = s.jobs := rfl
@[simp] theorem setFn_launches (s : State) (n : Nat) (x : Fn) : (s.setFn n x ).launches = s.launches := rfl
@[simp] theorem setFn_gangs (s : State) (n : Nat) (x : Fn) : (s.setFn n x ).gangs = s.gangs := rfl
@[simp] theorem setFn_handles (s : State) (n : Nat) (x : Fn) : (s.setFn n x ).handles = s.handles := rfl
@[simp] theorem setFn_fns (s : State) (n : Nat) (x : Fn) : (s.setFn n x ).fns = mput s.fns n x := rfl
@[simp] theorem setFn_ports (s : State) (n : Nat) (x : Fn) : (s.setFn n x ).ports = s.ports := rfl
@[simp] theorem setFn_mailbox (s : State) (n : Nat) (x : Fn) : (s.setFn n x ).mailbox = s.mailbox := rfl
@[simp] theorem setFn_start (s : State) (n : Nat) (x : Fn) : (s.setFn n x ).start = s.start := rfl
@[simp] theorem setFn_startNext (s : State) (n : Nat) (x : Fn) : (s.setFn n x ).startNext = s.startNext := rfl
@[simp] theorem setFn_apbase (s : State) (n : Nat) (x : Fn) : (s.setFn n x ).apbase = s.apbase := rfl
@[simp] theorem setFn_fabric (s : State) (n : Nat) (x : Fn) : (s.setFn n x ).fabric = s.fabric := rfl
@[simp] theorem setFn_fabricNext (s : State) (n : Nat) (x : Fn) : (s.setFn n x ).fabricNext = s.fabricNext := rfl
@[simp] theorem setFn_partner (s : State) (n : Nat) (x : Fn) : (s.setFn n x ).partner = s.partner := rfl
@[simp] theorem setFn_starts (s : State) (n : Nat) (x : Fn) : (s.setFn n x ).starts = s.starts := rfl
@[simp] theorem setFn_cfg (s : State) (n : Nat) (x : Fn) : (s.setFn n x ).cfg = s.cfg := rfl
@[simp] theorem setFn_tempDeci (s : State) (n : Nat) (x : Fn) : (s.setFn n x ).tempDeci = s.tempDeci := rfl
@[simp] theorem setFn_tempAt (s : State) (n : Nat) (x : Fn) : (s.setFn n x ).tempAt = s.tempAt := rfl
@[simp] theorem setFn_tripDue (s : State) (n : Nat) (x : Fn) : (s.setFn n x ).tripDue = s.tripDue := rfl
@[simp] theorem setFn_powered (s : State) (n : Nat) (x : Fn) : (s.setFn n x ).powered = s.powered := rfl
@[simp] theorem setFn_meshDown (s : State) (n : Nat) (x : Fn) : (s.setFn n x ).meshDown = s.meshDown := rfl
@[simp] theorem setFn_selfTestDue (s : State) (n : Nat) (x : Fn) : (s.setFn n x ).selfTestDue = s.selfTestDue := rfl
@[simp] theorem setFn_idleLimit (s : State) (n : Nat) (x : Fn) : (s.setFn n x ).idleLimit = s.idleLimit := rfl
@[simp] theorem setFn_remote (s : State) (n : Nat) (x : Fn) : (s.setFn n x ).remote = s.remote := rfl
@[simp] theorem setFn_ckpt (s : State) (n : Nat) (x : Fn) : (s.setFn n x ).ckpt = s.ckpt := rfl
@[simp] theorem setFn_ckptRun (s : State) (n : Nat) (x : Fn) : (s.setFn n x ).ckptRun = s.ckptRun := rfl
@[simp] theorem setFn_dups (s : State) (n : Nat) (x : Fn) : (s.setFn n x ).dups = s.dups := rfl
@[simp] theorem setFn_inbound (s : State) (n : Nat) (x : Fn) : (s.setFn n x ).inbound = s.inbound := rfl
@[simp] theorem setFn_agenda (s : State) (n : Nat) (x : Fn) : (s.setFn n x ).agenda = s.agenda := rfl
@[simp] theorem setFn_turn (s : State) (n : Nat) (x : Fn) : (s.setFn n x ).turn = s.turn := rfl
@[simp] theorem setFn_cur (s : State) (n : Nat) (x : Fn) : (s.setFn n x ).cur = s.cur := rfl
@[simp] theorem setFn_images (s : State) (n : Nat) (x : Fn) : (s.setFn n x ).images = s.images := rfl
@[simp] theorem setFn_freeCtr (s : State) (n : Nat) (x : Fn) : (s.setFn n x ).freeCtr = s.freeCtr := rfl
@[simp] theorem setFn_uid (s : State) (n : Nat) (x : Fn) : (s.setFn n x ).uid = s.uid := rfl

/-! ## State.setPort -/

@[simp] theorem setPort_now (s : State) (p : Nat) (x : Port) : (s.setPort p x ).now = s.now := rfl
@[simp] theorem setPort_mem (s : State) (p : Nat) (x : Port) : (s.setPort p x ).mem = s.mem := rfl
@[simp] theorem setPort_memPois (s : State) (p : Nat) (x : Port) : (s.setPort p x ).memPois = s.memPois := rfl
@[simp] theorem setPort_past (s : State) (p : Nat) (x : Port) : (s.setPort p x ).past = s.past := rfl
@[simp] theorem setPort_dupMem (s : State) (p : Nat) (x : Port) : (s.setPort p x ).dupMem = s.dupMem := rfl
@[simp] theorem setPort_hostAcks (s : State) (p : Nat) (x : Port) : (s.setPort p x ).hostAcks = s.hostAcks := rfl
@[simp] theorem setPort_cores (s : State) (p : Nat) (x : Port) : (s.setPort p x ).cores = s.cores := rfl
@[simp] theorem setPort_towers (s : State) (p : Nat) (x : Port) : (s.setPort p x ).towers = s.towers := rfl
@[simp] theorem setPort_jobs (s : State) (p : Nat) (x : Port) : (s.setPort p x ).jobs = s.jobs := rfl
@[simp] theorem setPort_launches (s : State) (p : Nat) (x : Port) : (s.setPort p x ).launches = s.launches := rfl
@[simp] theorem setPort_gangs (s : State) (p : Nat) (x : Port) : (s.setPort p x ).gangs = s.gangs := rfl
@[simp] theorem setPort_handles (s : State) (p : Nat) (x : Port) : (s.setPort p x ).handles = s.handles := rfl
@[simp] theorem setPort_fns (s : State) (p : Nat) (x : Port) : (s.setPort p x ).fns = s.fns := rfl
@[simp] theorem setPort_ports (s : State) (p : Nat) (x : Port) : (s.setPort p x ).ports = mput s.ports p x := rfl
@[simp] theorem setPort_mailbox (s : State) (p : Nat) (x : Port) : (s.setPort p x ).mailbox = s.mailbox := rfl
@[simp] theorem setPort_start (s : State) (p : Nat) (x : Port) : (s.setPort p x ).start = s.start := rfl
@[simp] theorem setPort_startNext (s : State) (p : Nat) (x : Port) : (s.setPort p x ).startNext = s.startNext := rfl
@[simp] theorem setPort_apbase (s : State) (p : Nat) (x : Port) : (s.setPort p x ).apbase = s.apbase := rfl
@[simp] theorem setPort_fabric (s : State) (p : Nat) (x : Port) : (s.setPort p x ).fabric = s.fabric := rfl
@[simp] theorem setPort_fabricNext (s : State) (p : Nat) (x : Port) : (s.setPort p x ).fabricNext = s.fabricNext := rfl
@[simp] theorem setPort_partner (s : State) (p : Nat) (x : Port) : (s.setPort p x ).partner = s.partner := rfl
@[simp] theorem setPort_starts (s : State) (p : Nat) (x : Port) : (s.setPort p x ).starts = s.starts := rfl
@[simp] theorem setPort_cfg (s : State) (p : Nat) (x : Port) : (s.setPort p x ).cfg = s.cfg := rfl
@[simp] theorem setPort_tempDeci (s : State) (p : Nat) (x : Port) : (s.setPort p x ).tempDeci = s.tempDeci := rfl
@[simp] theorem setPort_tempAt (s : State) (p : Nat) (x : Port) : (s.setPort p x ).tempAt = s.tempAt := rfl
@[simp] theorem setPort_tripDue (s : State) (p : Nat) (x : Port) : (s.setPort p x ).tripDue = s.tripDue := rfl
@[simp] theorem setPort_powered (s : State) (p : Nat) (x : Port) : (s.setPort p x ).powered = s.powered := rfl
@[simp] theorem setPort_meshDown (s : State) (p : Nat) (x : Port) : (s.setPort p x ).meshDown = s.meshDown := rfl
@[simp] theorem setPort_selfTestDue (s : State) (p : Nat) (x : Port) : (s.setPort p x ).selfTestDue = s.selfTestDue := rfl
@[simp] theorem setPort_idleLimit (s : State) (p : Nat) (x : Port) : (s.setPort p x ).idleLimit = s.idleLimit := rfl
@[simp] theorem setPort_remote (s : State) (p : Nat) (x : Port) : (s.setPort p x ).remote = s.remote := rfl
@[simp] theorem setPort_ckpt (s : State) (p : Nat) (x : Port) : (s.setPort p x ).ckpt = s.ckpt := rfl
@[simp] theorem setPort_ckptRun (s : State) (p : Nat) (x : Port) : (s.setPort p x ).ckptRun = s.ckptRun := rfl
@[simp] theorem setPort_dups (s : State) (p : Nat) (x : Port) : (s.setPort p x ).dups = s.dups := rfl
@[simp] theorem setPort_inbound (s : State) (p : Nat) (x : Port) : (s.setPort p x ).inbound = s.inbound := rfl
@[simp] theorem setPort_agenda (s : State) (p : Nat) (x : Port) : (s.setPort p x ).agenda = s.agenda := rfl
@[simp] theorem setPort_turn (s : State) (p : Nat) (x : Port) : (s.setPort p x ).turn = s.turn := rfl
@[simp] theorem setPort_cur (s : State) (p : Nat) (x : Port) : (s.setPort p x ).cur = s.cur := rfl
@[simp] theorem setPort_images (s : State) (p : Nat) (x : Port) : (s.setPort p x ).images = s.images := rfl
@[simp] theorem setPort_freeCtr (s : State) (p : Nat) (x : Port) : (s.setPort p x ).freeCtr = s.freeCtr := rfl
@[simp] theorem setPort_uid (s : State) (p : Nat) (x : Port) : (s.setPort p x ).uid = s.uid := rfl

/-! ## State.spend -/

@[simp] theorem spend_now (s : State) : (s.spend ).now = s.now := rfl
@[simp] theorem spend_mem (s : State) : (s.spend ).mem = s.mem := rfl
@[simp] theorem spend_memPois (s : State) : (s.spend ).memPois = s.memPois := rfl
@[simp] theorem spend_past (s : State) : (s.spend ).past = s.past := rfl
@[simp] theorem spend_dupMem (s : State) : (s.spend ).dupMem = s.dupMem := rfl
@[simp] theorem spend_hostAcks (s : State) : (s.spend ).hostAcks = s.hostAcks := rfl
@[simp] theorem spend_cores (s : State) : (s.spend ).cores = s.cores := rfl
@[simp] theorem spend_towers (s : State) : (s.spend ).towers = s.towers := rfl
@[simp] theorem spend_jobs (s : State) : (s.spend ).jobs = s.jobs := rfl
@[simp] theorem spend_launches (s : State) : (s.spend ).launches = s.launches := rfl
@[simp] theorem spend_gangs (s : State) : (s.spend ).gangs = s.gangs := rfl
@[simp] theorem spend_handles (s : State) : (s.spend ).handles = s.handles := rfl
@[simp] theorem spend_fns (s : State) : (s.spend ).fns = s.fns := rfl
@[simp] theorem spend_ports (s : State) : (s.spend ).ports = s.ports := rfl
@[simp] theorem spend_mailbox (s : State) : (s.spend ).mailbox = s.mailbox := rfl
@[simp] theorem spend_start (s : State) : (s.spend ).start = s.start := rfl
@[simp] theorem spend_startNext (s : State) : (s.spend ).startNext = s.startNext := rfl
@[simp] theorem spend_apbase (s : State) : (s.spend ).apbase = s.apbase := rfl
@[simp] theorem spend_fabric (s : State) : (s.spend ).fabric = s.fabric := rfl
@[simp] theorem spend_fabricNext (s : State) : (s.spend ).fabricNext = s.fabricNext := rfl
@[simp] theorem spend_partner (s : State) : (s.spend ).partner = s.partner := rfl
@[simp] theorem spend_starts (s : State) : (s.spend ).starts = s.starts := rfl
@[simp] theorem spend_cfg (s : State) : (s.spend ).cfg = s.cfg := rfl
@[simp] theorem spend_tempDeci (s : State) : (s.spend ).tempDeci = s.tempDeci := rfl
@[simp] theorem spend_tempAt (s : State) : (s.spend ).tempAt = s.tempAt := rfl
@[simp] theorem spend_tripDue (s : State) : (s.spend ).tripDue = s.tripDue := rfl
@[simp] theorem spend_powered (s : State) : (s.spend ).powered = s.powered := rfl
@[simp] theorem spend_meshDown (s : State) : (s.spend ).meshDown = s.meshDown := rfl
@[simp] theorem spend_selfTestDue (s : State) : (s.spend ).selfTestDue = s.selfTestDue := rfl
@[simp] theorem spend_idleLimit (s : State) : (s.spend ).idleLimit = s.idleLimit := rfl
@[simp] theorem spend_remote (s : State) : (s.spend ).remote = s.remote := rfl
@[simp] theorem spend_ckpt (s : State) : (s.spend ).ckpt = s.ckpt := rfl
@[simp] theorem spend_ckptRun (s : State) : (s.spend ).ckptRun = s.ckptRun := rfl
@[simp] theorem spend_dups (s : State) : (s.spend ).dups = s.dups := rfl
@[simp] theorem spend_inbound (s : State) : (s.spend ).inbound = s.inbound := rfl
@[simp] theorem spend_agenda (s : State) : (s.spend ).agenda = s.agenda := rfl
@[simp] theorem spend_turn (s : State) : (s.spend ).turn = s.turn := rfl
@[simp] theorem spend_cur (s : State) : (s.spend ).cur = s.cur := rfl
@[simp] theorem spend_images (s : State) : (s.spend ).images = s.images := rfl
@[simp] theorem spend_freeCtr (s : State) : (s.spend ).freeCtr = s.freeCtr + 1 := rfl
@[simp] theorem spend_uid (s : State) : (s.spend ).uid = s.uid := rfl

/-! ## State.giveUp -/

@[simp] theorem giveUp_now (s : State) (k i gap : Nat) : (s.giveUp k i gap ).now = s.now := rfl
@[simp] theorem giveUp_mem (s : State) (k i gap : Nat) : (s.giveUp k i gap ).mem = s.mem := rfl
@[simp] theorem giveUp_memPois (s : State) (k i gap : Nat) : (s.giveUp k i gap ).memPois = s.memPois := rfl
@[simp] theorem giveUp_past (s : State) (k i gap : Nat) : (s.giveUp k i gap ).past = s.past := rfl
@[simp] theorem giveUp_dupMem (s : State) (k i gap : Nat) : (s.giveUp k i gap ).dupMem = s.dupMem := rfl
@[simp] theorem giveUp_hostAcks (s : State) (k i gap : Nat) : (s.giveUp k i gap ).hostAcks = s.hostAcks := rfl
@[simp] theorem giveUp_towers (s : State) (k i gap : Nat) : (s.giveUp k i gap ).towers = s.towers := rfl
@[simp] theorem giveUp_jobs (s : State) (k i gap : Nat) : (s.giveUp k i gap ).jobs = s.jobs := rfl
@[simp] theorem giveUp_launches (s : State) (k i gap : Nat) : (s.giveUp k i gap ).launches = s.launches := rfl
@[simp] theorem giveUp_gangs (s : State) (k i gap : Nat) : (s.giveUp k i gap ).gangs = s.gangs := rfl
@[simp] theorem giveUp_handles (s : State) (k i gap : Nat) : (s.giveUp k i gap ).handles = s.handles := rfl
@[simp] theorem giveUp_fns (s : State) (k i gap : Nat) : (s.giveUp k i gap ).fns = s.fns := rfl
@[simp] theorem giveUp_ports (s : State) (k i gap : Nat) : (s.giveUp k i gap ).ports = s.ports := rfl
@[simp] theorem giveUp_mailbox (s : State) (k i gap : Nat) : (s.giveUp k i gap ).mailbox = s.mailbox := rfl
@[simp] theorem giveUp_start (s : State) (k i gap : Nat) : (s.giveUp k i gap ).start = s.start := rfl
@[simp] theorem giveUp_startNext (s : State) (k i gap : Nat) : (s.giveUp k i gap ).startNext = s.startNext := rfl
@[simp] theorem giveUp_apbase (s : State) (k i gap : Nat) : (s.giveUp k i gap ).apbase = s.apbase := rfl
@[simp] theorem giveUp_fabric (s : State) (k i gap : Nat) : (s.giveUp k i gap ).fabric = s.fabric := rfl
@[simp] theorem giveUp_fabricNext (s : State) (k i gap : Nat) : (s.giveUp k i gap ).fabricNext = s.fabricNext := rfl
@[simp] theorem giveUp_partner (s : State) (k i gap : Nat) : (s.giveUp k i gap ).partner = s.partner := rfl
@[simp] theorem giveUp_starts (s : State) (k i gap : Nat) : (s.giveUp k i gap ).starts = s.starts := rfl
@[simp] theorem giveUp_cfg (s : State) (k i gap : Nat) : (s.giveUp k i gap ).cfg = s.cfg := rfl
@[simp] theorem giveUp_tempDeci (s : State) (k i gap : Nat) : (s.giveUp k i gap ).tempDeci = s.tempDeci := rfl
@[simp] theorem giveUp_tempAt (s : State) (k i gap : Nat) : (s.giveUp k i gap ).tempAt = s.tempAt := rfl
@[simp] theorem giveUp_tripDue (s : State) (k i gap : Nat) : (s.giveUp k i gap ).tripDue = s.tripDue := rfl
@[simp] theorem giveUp_powered (s : State) (k i gap : Nat) : (s.giveUp k i gap ).powered = s.powered := rfl
@[simp] theorem giveUp_meshDown (s : State) (k i gap : Nat) : (s.giveUp k i gap ).meshDown = s.meshDown := rfl
@[simp] theorem giveUp_selfTestDue (s : State) (k i gap : Nat) : (s.giveUp k i gap ).selfTestDue = s.selfTestDue := rfl
@[simp] theorem giveUp_idleLimit (s : State) (k i gap : Nat) : (s.giveUp k i gap ).idleLimit = s.idleLimit := rfl
@[simp] theorem giveUp_remote (s : State) (k i gap : Nat) : (s.giveUp k i gap ).remote = s.remote := rfl
@[simp] theorem giveUp_ckpt (s : State) (k i gap : Nat) : (s.giveUp k i gap ).ckpt = s.ckpt := rfl
@[simp] theorem giveUp_ckptRun (s : State) (k i gap : Nat) : (s.giveUp k i gap ).ckptRun = s.ckptRun := rfl
@[simp] theorem giveUp_dups (s : State) (k i gap : Nat) : (s.giveUp k i gap ).dups = s.dups := rfl
@[simp] theorem giveUp_inbound (s : State) (k i gap : Nat) : (s.giveUp k i gap ).inbound = s.inbound := rfl
@[simp] theorem giveUp_agenda (s : State) (k i gap : Nat) : (s.giveUp k i gap ).agenda = s.agenda := rfl
@[simp] theorem giveUp_turn (s : State) (k i gap : Nat) : (s.giveUp k i gap ).turn = s.turn := rfl
@[simp] theorem giveUp_cur (s : State) (k i gap : Nat) : (s.giveUp k i gap ).cur = s.cur := rfl
@[simp] theorem giveUp_images (s : State) (k i gap : Nat) : (s.giveUp k i gap ).images = s.images := rfl
@[simp] theorem giveUp_freeCtr (s : State) (k i gap : Nat) : (s.giveUp k i gap ).freeCtr = s.freeCtr := rfl
@[simp] theorem giveUp_uid (s : State) (k i gap : Nat) : (s.giveUp k i gap ).uid = s.uid := rfl

/-! ## State.bump -/

@[simp] theorem bump_now (s : State) (t n : Nat) : (s.bump t n ).now = s.now := rfl
@[simp] theorem bump_mem (s : State) (t n : Nat) : (s.bump t n ).mem = s.mem := rfl
@[simp] theorem bump_memPois (s : State) (t n : Nat) : (s.bump t n ).memPois = s.memPois := rfl
@[simp] theorem bump_past (s : State) (t n : Nat) : (s.bump t n ).past = s.past := rfl
@[simp] theorem bump_dupMem (s : State) (t n : Nat) : (s.bump t n ).dupMem = s.dupMem := rfl
@[simp] theorem bump_hostAcks (s : State) (t n : Nat) : (s.bump t n ).hostAcks = s.hostAcks := rfl
@[simp] theorem bump_cores (s : State) (t n : Nat) : (s.bump t n ).cores = s.cores := rfl
@[simp] theorem bump_jobs (s : State) (t n : Nat) : (s.bump t n ).jobs = s.jobs := rfl
@[simp] theorem bump_launches (s : State) (t n : Nat) : (s.bump t n ).launches = s.launches := rfl
@[simp] theorem bump_gangs (s : State) (t n : Nat) : (s.bump t n ).gangs = s.gangs := rfl
@[simp] theorem bump_handles (s : State) (t n : Nat) : (s.bump t n ).handles = s.handles := rfl
@[simp] theorem bump_fns (s : State) (t n : Nat) : (s.bump t n ).fns = s.fns := rfl
@[simp] theorem bump_ports (s : State) (t n : Nat) : (s.bump t n ).ports = s.ports := rfl
@[simp] theorem bump_mailbox (s : State) (t n : Nat) : (s.bump t n ).mailbox = s.mailbox := rfl
@[simp] theorem bump_start (s : State) (t n : Nat) : (s.bump t n ).start = s.start := rfl
@[simp] theorem bump_startNext (s : State) (t n : Nat) : (s.bump t n ).startNext = s.startNext := rfl
@[simp] theorem bump_apbase (s : State) (t n : Nat) : (s.bump t n ).apbase = s.apbase := rfl
@[simp] theorem bump_fabric (s : State) (t n : Nat) : (s.bump t n ).fabric = s.fabric := rfl
@[simp] theorem bump_fabricNext (s : State) (t n : Nat) : (s.bump t n ).fabricNext = s.fabricNext := rfl
@[simp] theorem bump_partner (s : State) (t n : Nat) : (s.bump t n ).partner = s.partner := rfl
@[simp] theorem bump_starts (s : State) (t n : Nat) : (s.bump t n ).starts = s.starts := rfl
@[simp] theorem bump_cfg (s : State) (t n : Nat) : (s.bump t n ).cfg = s.cfg := rfl
@[simp] theorem bump_tempDeci (s : State) (t n : Nat) : (s.bump t n ).tempDeci = s.tempDeci := rfl
@[simp] theorem bump_tempAt (s : State) (t n : Nat) : (s.bump t n ).tempAt = s.tempAt := rfl
@[simp] theorem bump_tripDue (s : State) (t n : Nat) : (s.bump t n ).tripDue = s.tripDue := rfl
@[simp] theorem bump_powered (s : State) (t n : Nat) : (s.bump t n ).powered = s.powered := rfl
@[simp] theorem bump_meshDown (s : State) (t n : Nat) : (s.bump t n ).meshDown = s.meshDown := rfl
@[simp] theorem bump_selfTestDue (s : State) (t n : Nat) : (s.bump t n ).selfTestDue = s.selfTestDue := rfl
@[simp] theorem bump_idleLimit (s : State) (t n : Nat) : (s.bump t n ).idleLimit = s.idleLimit := rfl
@[simp] theorem bump_remote (s : State) (t n : Nat) : (s.bump t n ).remote = s.remote := rfl
@[simp] theorem bump_ckpt (s : State) (t n : Nat) : (s.bump t n ).ckpt = s.ckpt := rfl
@[simp] theorem bump_ckptRun (s : State) (t n : Nat) : (s.bump t n ).ckptRun = s.ckptRun := rfl
@[simp] theorem bump_dups (s : State) (t n : Nat) : (s.bump t n ).dups = s.dups := rfl
@[simp] theorem bump_inbound (s : State) (t n : Nat) : (s.bump t n ).inbound = s.inbound := rfl
@[simp] theorem bump_agenda (s : State) (t n : Nat) : (s.bump t n ).agenda = s.agenda := rfl
@[simp] theorem bump_turn (s : State) (t n : Nat) : (s.bump t n ).turn = s.turn := rfl
@[simp] theorem bump_cur (s : State) (t n : Nat) : (s.bump t n ).cur = s.cur := rfl
@[simp] theorem bump_images (s : State) (t n : Nat) : (s.bump t n ).images = s.images := rfl
@[simp] theorem bump_freeCtr (s : State) (t n : Nat) : (s.bump t n ).freeCtr = s.freeCtr := rfl
@[simp] theorem bump_uid (s : State) (t n : Nat) : (s.bump t n ).uid = s.uid := rfl

/-! ## State.sched -/

@[simp] theorem sched_now (s : State) (e : Instr) : (s.sched e ).now = s.now := rfl
@[simp] theorem sched_mem (s : State) (e : Instr) : (s.sched e ).mem = s.mem := rfl
@[simp] theorem sched_memPois (s : State) (e : Instr) : (s.sched e ).memPois = s.memPois := rfl
@[simp] theorem sched_past (s : State) (e : Instr) : (s.sched e ).past = s.past := rfl
@[simp] theorem sched_dupMem (s : State) (e : Instr) : (s.sched e ).dupMem = s.dupMem := rfl
@[simp] theorem sched_hostAcks (s : State) (e : Instr) : (s.sched e ).hostAcks = s.hostAcks := rfl
@[simp] theorem sched_cores (s : State) (e : Instr) : (s.sched e ).cores = s.cores := rfl
@[simp] theorem sched_towers (s : State) (e : Instr) : (s.sched e ).towers = s.towers := rfl
@[simp] theorem sched_jobs (s : State) (e : Instr) : (s.sched e ).jobs = s.jobs := rfl
@[simp] theorem sched_launches (s : State) (e : Instr) : (s.sched e ).launches = s.launches := rfl
@[simp] theorem sched_gangs (s : State) (e : Instr) : (s.sched e ).gangs = s.gangs := rfl
@[simp] theorem sched_handles (s : State) (e : Instr) : (s.sched e ).handles = s.handles := rfl
@[simp] theorem sched_fns (s : State) (e : Instr) : (s.sched e ).fns = s.fns := rfl
@[simp] theorem sched_ports (s : State) (e : Instr) : (s.sched e ).ports = s.ports := rfl
@[simp] theorem sched_mailbox (s : State) (e : Instr) : (s.sched e ).mailbox = s.mailbox := rfl
@[simp] theorem sched_start (s : State) (e : Instr) : (s.sched e ).start = s.start := rfl
@[simp] theorem sched_startNext (s : State) (e : Instr) : (s.sched e ).startNext = s.startNext := rfl
@[simp] theorem sched_apbase (s : State) (e : Instr) : (s.sched e ).apbase = s.apbase := rfl
@[simp] theorem sched_fabric (s : State) (e : Instr) : (s.sched e ).fabric = s.fabric := rfl
@[simp] theorem sched_fabricNext (s : State) (e : Instr) : (s.sched e ).fabricNext = s.fabricNext := rfl
@[simp] theorem sched_partner (s : State) (e : Instr) : (s.sched e ).partner = s.partner := rfl
@[simp] theorem sched_starts (s : State) (e : Instr) : (s.sched e ).starts = s.starts := rfl
@[simp] theorem sched_cfg (s : State) (e : Instr) : (s.sched e ).cfg = s.cfg := rfl
@[simp] theorem sched_tempDeci (s : State) (e : Instr) : (s.sched e ).tempDeci = s.tempDeci := rfl
@[simp] theorem sched_tempAt (s : State) (e : Instr) : (s.sched e ).tempAt = s.tempAt := rfl
@[simp] theorem sched_tripDue (s : State) (e : Instr) : (s.sched e ).tripDue = s.tripDue := rfl
@[simp] theorem sched_powered (s : State) (e : Instr) : (s.sched e ).powered = s.powered := rfl
@[simp] theorem sched_meshDown (s : State) (e : Instr) : (s.sched e ).meshDown = s.meshDown := rfl
@[simp] theorem sched_selfTestDue (s : State) (e : Instr) : (s.sched e ).selfTestDue = s.selfTestDue := rfl
@[simp] theorem sched_idleLimit (s : State) (e : Instr) : (s.sched e ).idleLimit = s.idleLimit := rfl
@[simp] theorem sched_remote (s : State) (e : Instr) : (s.sched e ).remote = s.remote := rfl
@[simp] theorem sched_ckpt (s : State) (e : Instr) : (s.sched e ).ckpt = s.ckpt := rfl
@[simp] theorem sched_ckptRun (s : State) (e : Instr) : (s.sched e ).ckptRun = s.ckptRun := rfl
@[simp] theorem sched_dups (s : State) (e : Instr) : (s.sched e ).dups = s.dups := rfl
@[simp] theorem sched_inbound (s : State) (e : Instr) : (s.sched e ).inbound = s.inbound := rfl
@[simp] theorem sched_agenda (s : State) (e : Instr) : (s.sched e ).agenda = s.agenda ++ [(s.now, e)] := rfl
@[simp] theorem sched_turn (s : State) (e : Instr) : (s.sched e ).turn = s.turn := rfl
@[simp] theorem sched_cur (s : State) (e : Instr) : (s.sched e ).cur = s.cur := rfl
@[simp] theorem sched_images (s : State) (e : Instr) : (s.sched e ).images = s.images := rfl
@[simp] theorem sched_freeCtr (s : State) (e : Instr) : (s.sched e ).freeCtr = s.freeCtr := rfl
@[simp] theorem sched_uid (s : State) (e : Instr) : (s.sched e ).uid = s.uid := rfl

/-! ## Core.setStrand -/

@[simp] theorem core_setStrand_gang (c : Core) (i : Nat) (x : Strand) : (c.setStrand i x ).gang = c.gang := rfl
@[simp] theorem core_setStrand_run (c : Core) (i : Nat) (x : Strand) : (c.setStrand i x ).run = c.run := rfl
@[simp] theorem core_setStrand_last (c : Core) (i : Nat) (x : Strand) : (c.setStrand i x ).last = c.last := rfl
@[simp] theorem core_setStrand_gap (c : Core) (i : Nat) (x : Strand) : (c.setStrand i x ).gap = c.gap := rfl
@[simp] theorem core_setStrand_issued (c : Core) (i : Nat) (x : Strand) : (c.setStrand i x ).issued = c.issued := rfl
@[simp] theorem core_setStrand_bubble (c : Core) (i : Nat) (x : Strand) : (c.setStrand i x ).bubble = c.bubble := rfl
@[simp] theorem core_setStrand_frozen (c : Core) (i : Nat) (x : Strand) : (c.setStrand i x ).frozen = c.frozen := rfl
@[simp] theorem core_setStrand_fills (c : Core) (i : Nat) (x : Strand) : (c.setStrand i x ).fills = c.fills := rfl
@[simp] theorem core_setStrand_frz (c : Core) (i : Nat) (x : Strand) : (c.setStrand i x ).frz = c.frz := rfl
@[simp] theorem core_setStrand_q (c : Core) (i : Nat) (x : Strand) : (c.setStrand i x ).q = c.q := rfl
@[simp] theorem core_setStrand_bfmt (c : Core) (i : Nat) (x : Strand) : (c.setStrand i x ).bfmt = c.bfmt := rfl
@[simp] theorem core_setStrand_gtol (c : Core) (i : Nat) (x : Strand) : (c.setStrand i x ).gtol = c.gtol := rfl
@[simp] theorem core_setStrand_scr (c : Core) (i : Nat) (x : Strand) : (c.setStrand i x ).scr = c.scr := rfl
@[simp] theorem core_setStrand_near (c : Core) (i : Nat) (x : Strand) : (c.setStrand i x ).near = c.near := rfl
@[simp] theorem core_setStrand_nearPois (c : Core) (i : Nat) (x : Strand) : (c.setStrand i x ).nearPois = c.nearPois := rfl
@[simp] theorem core_setStrand_nearErr (c : Core) (i : Nat) (x : Strand) : (c.setStrand i x ).nearErr = c.nearErr := rfl
@[simp] theorem core_setStrand_errs (c : Core) (i : Nat) (x : Strand) : (c.setStrand i x ).errs = c.errs := rfl
@[simp] theorem core_setStrand_shade (c : Core) (i : Nat) (x : Strand) : (c.setStrand i x ).shade = c.shade := rfl
@[simp] theorem core_setStrand_l1 (c : Core) (i : Nat) (x : Strand) : (c.setStrand i x ).l1 = c.l1 := rfl
@[simp] theorem core_setStrand_tags (c : Core) (i : Nat) (x : Strand) : (c.setStrand i x ).tags = c.tags := rfl
@[simp] theorem core_setStrand_sq (c : Core) (i : Nat) (x : Strand) : (c.setStrand i x ).sq = c.sq := rfl
@[simp] theorem core_setStrand_active (c : Core) (i : Nat) (x : Strand) : (c.setStrand i x ).active = c.active := rfl
@[simp] theorem core_setStrand_shadow (c : Core) (i : Nat) (x : Strand) : (c.setStrand i x ).shadow = c.shadow := rfl
@[simp] theorem core_setStrand_fifo (c : Core) (i : Nat) (x : Strand) : (c.setStrand i x ).fifo = c.fifo := rfl
@[simp] theorem core_setStrand_fifoHeld (c : Core) (i : Nat) (x : Strand) : (c.setStrand i x ).fifoHeld = c.fifoHeld := rfl
@[simp] theorem core_setStrand_streams (c : Core) (i : Nat) (x : Strand) : (c.setStrand i x ).streams = c.streams := rfl
@[simp] theorem core_setStrand_failed (c : Core) (i : Nat) (x : Strand) : (c.setStrand i x ).failed = c.failed := rfl
@[simp] theorem core_setStrand_cmds (c : Core) (i : Nat) (x : Strand) : (c.setStrand i x ).cmds = c.cmds := rfl
@[simp] theorem core_setStrand_mmaLeft (c : Core) (i : Nat) (x : Strand) : (c.setStrand i x ).mmaLeft = c.mmaLeft := rfl
@[simp] theorem core_setStrand_mmaBy (c : Core) (i : Nat) (x : Strand) : (c.setStrand i x ).mmaBy = c.mmaBy := rfl
@[simp] theorem core_setStrand_staging (c : Core) (i : Nat) (x : Strand) : (c.setStrand i x ).staging = c.staging := rfl
@[simp] theorem core_setStrand_tlb1 (c : Core) (i : Nat) (x : Strand) : (c.setStrand i x ).tlb1 = c.tlb1 := rfl
@[simp] theorem core_setStrand_strands (c : Core) (i : Nat) (x : Strand) : (c.setStrand i x ).strands = mput c.strands i x := rfl
@[simp] theorem core_setStrand_held (c : Core) (i : Nat) (x : Strand) : (c.setStrand i x ).held = c.held := rfl

/-! ## SST and the cause registers of a strand -/

@[simp] theorem put_sst_st (x : Strand) (w : Word) : (({ x with sst := w } : Strand) ).st = x.st := rfl
@[simp] theorem put_sst_x (x : Strand) (w : Word) : (({ x with sst := w } : Strand) ).x = x.x := rfl
@[simp] theorem put_sst_f (x : Strand) (w : Word) : (({ x with sst := w } : Strand) ).f = x.f := rfl
@[simp] theorem put_sst_p (x : Strand) (w : Word) : (({ x with sst := w } : Strand) ).p = x.p := rfl
@[simp] theorem put_sst_l (x : Strand) (w : Word) : (({ x with sst := w } : Strand) ).l = x.l := rfl
@[simp] theorem put_sst_v (x : Strand) (w : Word) : (({ x with sst := w } : Strand) ).v = x.v := rfl
@[simp] theorem put_sst_a (x : Strand) (w : Word) : (({ x with sst := w } : Strand) ).a = x.a := rfl
@[simp] theorem put_sst_am (x : Strand) (w : Word) : (({ x with sst := w } : Strand) ).am = x.am := rfl
@[simp] theorem put_sst_ls (x : Strand) (w : Word) : (({ x with sst := w } : Strand) ).ls = x.ls := rfl
@[simp] theorem put_sst_le (x : Strand) (w : Word) : (({ x with sst := w } : Strand) ).le = x.le := rfl
@[simp] theorem put_sst_lc (x : Strand) (w : Word) : (({ x with sst := w } : Strand) ).lc = x.lc := rfl
@[simp] theorem put_sst_spc (x : Strand) (w : Word) : (({ x with sst := w } : Strand) ).spc = x.spc := rfl
@[simp] theorem put_sst_sst (x : Strand) (w : Word) : (({ x with sst := w } : Strand) ).sst = w := rfl
@[simp] theorem put_sst_scfg (x : Strand) (w : Word) : (({ x with sst := w } : Strand) ).scfg = x.scfg := rfl
@[simp] theorem put_sst_scause (x : Strand) (w : Word) : (({ x with sst := w } : Strand) ).scause = x.scause := rfl
@[simp] theorem put_sst_sepc (x : Strand) (w : Word) : (({ x with sst := w } : Strand) ).sepc = x.sepc := rfl
@[simp] theorem put_sst_sinfo (x : Strand) (w : Word) : (({ x with sst := w } : Strand) ).sinfo = x.sinfo := rfl
@[simp] theorem put_sst_shv (x : Strand) (w : Word) : (({ x with sst := w } : Strand) ).shv = x.shv := rfl
@[simp] theorem put_sst_inflight (x : Strand) (w : Word) : (({ x with sst := w } : Strand) ).inflight = x.inflight := rfl
@[simp] theorem put_sst_pend (x : Strand) (w : Word) : (({ x with sst := w } : Strand) ).pend = x.pend := rfl
@[simp] theorem put_sst_restart (x : Strand) (w : Word) : (({ x with sst := w } : Strand) ).restart = x.restart := rfl
@[simp] theorem put_sst_fresh (x : Strand) (w : Word) : (({ x with sst := w } : Strand) ).fresh = x.fresh := rfl
@[simp] theorem put_sst_rewound (x : Strand) (w : Word) : (({ x with sst := w } : Strand) ).rewound = x.rewound := rfl
@[simp] theorem put_sst_recov (x : Strand) (w : Word) : (({ x with sst := w } : Strand) ).recov = x.recov := rfl
@[simp] theorem put_sst_seg (x : Strand) (w : Word) : (({ x with sst := w } : Strand) ).seg = x.seg := rfl
@[simp] theorem put_sst_vdest (x : Strand) (w : Word) : (({ x with sst := w } : Strand) ).vdest = x.vdest := rfl
@[simp] theorem put_sst_xPois (x : Strand) (w : Word) : (({ x with sst := w } : Strand) ).xPois = x.xPois := rfl
@[simp] theorem put_sst_fPois (x : Strand) (w : Word) : (({ x with sst := w } : Strand) ).fPois = x.fPois := rfl
@[simp] theorem put_sst_vPois (x : Strand) (w : Word) : (({ x with sst := w } : Strand) ).vPois = x.vPois := rfl
@[simp] theorem put_sst_rows (x : Strand) (w : Word) : (({ x with sst := w } : Strand) ).rows = x.rows := rfl
@[simp] theorem put_sst_rown (x : Strand) (w : Word) : (({ x with sst := w } : Strand) ).rown = x.rown := rfl
@[simp] theorem put_sst_watch (x : Strand) (w : Word) : (({ x with sst := w } : Strand) ).watch = x.watch := rfl
@[simp] theorem put_sst_kmem (x : Strand) (w : Word) : (({ x with sst := w } : Strand) ).kmem = x.kmem := rfl
@[simp] theorem put_sst_engCount (x : Strand) (w : Word) : (({ x with sst := w } : Strand) ).engCount = x.engCount := rfl
@[simp] theorem put_sst_engErr (x : Strand) (w : Word) : (({ x with sst := w } : Strand) ).engErr = x.engErr := rfl
@[simp] theorem put_sst_task (x : Strand) (w : Word) : (({ x with sst := w } : Strand) ).task = x.task := rfl
@[simp] theorem put_sst_snap (x : Strand) (w : Word) : (({ x with sst := w } : Strand) ).snap = x.snap := rfl
@[simp] theorem put_sst_snapReq (x : Strand) (w : Word) : (({ x with sst := w } : Strand) ).snapReq = x.snapReq := rfl
@[simp] theorem put_sst_cIssue (x : Strand) (w : Word) : (({ x with sst := w } : Strand) ).cIssue = x.cIssue := rfl
@[simp] theorem put_sst_cWait (x : Strand) (w : Word) : (({ x with sst := w } : Strand) ).cWait = x.cWait := rfl
@[simp] theorem put_sst_cTbr (x : Strand) (w : Word) : (({ x with sst := w } : Strand) ).cTbr = x.cTbr := rfl
@[simp] theorem put_sst_cRets (x : Strand) (w : Word) : (({ x with sst := w } : Strand) ).cRets = x.cRets := rfl
@[simp] theorem put_sst_cRewc (x : Strand) (w : Word) : (({ x with sst := w } : Strand) ).cRewc = x.cRewc := rfl
@[simp] theorem put_sst_cTrpc (x : Strand) (w : Word) : (({ x with sst := w } : Strand) ).cTrpc = x.cTrpc := rfl
@[simp] theorem put_sst_fences (x : Strand) (w : Word) : (({ x with sst := w } : Strand) ).fences = x.fences := rfl
@[simp] theorem put_sst_recheckDue (x : Strand) (w : Word) : (({ x with sst := w } : Strand) ).recheckDue = x.recheckDue := rfl
@[simp] theorem put_sst_landFirst (x : Strand) (w : Word) : (({ x with sst := w } : Strand) ).landFirst = x.landFirst := rfl
@[simp] theorem put_sst_startAt (x : Strand) (w : Word) : (({ x with sst := w } : Strand) ).startAt = x.startAt := rfl
@[simp] theorem put_sst_stub (x : Strand) (w : Word) : (({ x with sst := w } : Strand) ).stub = x.stub := rfl
@[simp] theorem put_sst_pre (x : Strand) (w : Word) : (({ x with sst := w } : Strand) ).pre = x.pre := rfl
@[simp] theorem put_sst_waitRef (x : Strand) (w : Word) : (({ x with sst := w } : Strand) ).waitRef = x.waitRef := rfl
@[simp] theorem put_sst_xlinv (x : Strand) (w : Word) : (({ x with sst := w } : Strand) ).xlinv = x.xlinv := rfl
@[simp] theorem put_sst_dupOut (x : Strand) (w : Word) : (({ x with sst := w } : Strand) ).dupOut = x.dupOut := rfl
@[simp] theorem put_sst_arrayErr (x : Strand) (w : Word) : (({ x with sst := w } : Strand) ).arrayErr = x.arrayErr := rfl
@[simp] theorem put_sst_undo (x : Strand) (w : Word) : (({ x with sst := w } : Strand) ).undo = x.undo := rfl

@[simp] theorem put_cause_st (x : Strand) (a b c : Word) : (({ x with sepc := a, scause := b, sinfo := c } : Strand) ).st = x.st := rfl
@[simp] theorem put_cause_x (x : Strand) (a b c : Word) : (({ x with sepc := a, scause := b, sinfo := c } : Strand) ).x = x.x := rfl
@[simp] theorem put_cause_f (x : Strand) (a b c : Word) : (({ x with sepc := a, scause := b, sinfo := c } : Strand) ).f = x.f := rfl
@[simp] theorem put_cause_p (x : Strand) (a b c : Word) : (({ x with sepc := a, scause := b, sinfo := c } : Strand) ).p = x.p := rfl
@[simp] theorem put_cause_l (x : Strand) (a b c : Word) : (({ x with sepc := a, scause := b, sinfo := c } : Strand) ).l = x.l := rfl
@[simp] theorem put_cause_v (x : Strand) (a b c : Word) : (({ x with sepc := a, scause := b, sinfo := c } : Strand) ).v = x.v := rfl
@[simp] theorem put_cause_a (x : Strand) (a b c : Word) : (({ x with sepc := a, scause := b, sinfo := c } : Strand) ).a = x.a := rfl
@[simp] theorem put_cause_am (x : Strand) (a b c : Word) : (({ x with sepc := a, scause := b, sinfo := c } : Strand) ).am = x.am := rfl
@[simp] theorem put_cause_ls (x : Strand) (a b c : Word) : (({ x with sepc := a, scause := b, sinfo := c } : Strand) ).ls = x.ls := rfl
@[simp] theorem put_cause_le (x : Strand) (a b c : Word) : (({ x with sepc := a, scause := b, sinfo := c } : Strand) ).le = x.le := rfl
@[simp] theorem put_cause_lc (x : Strand) (a b c : Word) : (({ x with sepc := a, scause := b, sinfo := c } : Strand) ).lc = x.lc := rfl
@[simp] theorem put_cause_spc (x : Strand) (a b c : Word) : (({ x with sepc := a, scause := b, sinfo := c } : Strand) ).spc = x.spc := rfl
@[simp] theorem put_cause_sst (x : Strand) (a b c : Word) : (({ x with sepc := a, scause := b, sinfo := c } : Strand) ).sst = x.sst := rfl
@[simp] theorem put_cause_scfg (x : Strand) (a b c : Word) : (({ x with sepc := a, scause := b, sinfo := c } : Strand) ).scfg = x.scfg := rfl
@[simp] theorem put_cause_scause (x : Strand) (a b c : Word) : (({ x with sepc := a, scause := b, sinfo := c } : Strand) ).scause = b := rfl
@[simp] theorem put_cause_sepc (x : Strand) (a b c : Word) : (({ x with sepc := a, scause := b, sinfo := c } : Strand) ).sepc = a := rfl
@[simp] theorem put_cause_sinfo (x : Strand) (a b c : Word) : (({ x with sepc := a, scause := b, sinfo := c } : Strand) ).sinfo = c := rfl
@[simp] theorem put_cause_shv (x : Strand) (a b c : Word) : (({ x with sepc := a, scause := b, sinfo := c } : Strand) ).shv = x.shv := rfl
@[simp] theorem put_cause_inflight (x : Strand) (a b c : Word) : (({ x with sepc := a, scause := b, sinfo := c } : Strand) ).inflight = x.inflight := rfl
@[simp] theorem put_cause_pend (x : Strand) (a b c : Word) : (({ x with sepc := a, scause := b, sinfo := c } : Strand) ).pend = x.pend := rfl
@[simp] theorem put_cause_restart (x : Strand) (a b c : Word) : (({ x with sepc := a, scause := b, sinfo := c } : Strand) ).restart = x.restart := rfl
@[simp] theorem put_cause_fresh (x : Strand) (a b c : Word) : (({ x with sepc := a, scause := b, sinfo := c } : Strand) ).fresh = x.fresh := rfl
@[simp] theorem put_cause_rewound (x : Strand) (a b c : Word) : (({ x with sepc := a, scause := b, sinfo := c } : Strand) ).rewound = x.rewound := rfl
@[simp] theorem put_cause_recov (x : Strand) (a b c : Word) : (({ x with sepc := a, scause := b, sinfo := c } : Strand) ).recov = x.recov := rfl
@[simp] theorem put_cause_seg (x : Strand) (a b c : Word) : (({ x with sepc := a, scause := b, sinfo := c } : Strand) ).seg = x.seg := rfl
@[simp] theorem put_cause_vdest (x : Strand) (a b c : Word) : (({ x with sepc := a, scause := b, sinfo := c } : Strand) ).vdest = x.vdest := rfl
@[simp] theorem put_cause_xPois (x : Strand) (a b c : Word) : (({ x with sepc := a, scause := b, sinfo := c } : Strand) ).xPois = x.xPois := rfl
@[simp] theorem put_cause_fPois (x : Strand) (a b c : Word) : (({ x with sepc := a, scause := b, sinfo := c } : Strand) ).fPois = x.fPois := rfl
@[simp] theorem put_cause_vPois (x : Strand) (a b c : Word) : (({ x with sepc := a, scause := b, sinfo := c } : Strand) ).vPois = x.vPois := rfl
@[simp] theorem put_cause_rows (x : Strand) (a b c : Word) : (({ x with sepc := a, scause := b, sinfo := c } : Strand) ).rows = x.rows := rfl
@[simp] theorem put_cause_rown (x : Strand) (a b c : Word) : (({ x with sepc := a, scause := b, sinfo := c } : Strand) ).rown = x.rown := rfl
@[simp] theorem put_cause_watch (x : Strand) (a b c : Word) : (({ x with sepc := a, scause := b, sinfo := c } : Strand) ).watch = x.watch := rfl
@[simp] theorem put_cause_kmem (x : Strand) (a b c : Word) : (({ x with sepc := a, scause := b, sinfo := c } : Strand) ).kmem = x.kmem := rfl
@[simp] theorem put_cause_engCount (x : Strand) (a b c : Word) : (({ x with sepc := a, scause := b, sinfo := c } : Strand) ).engCount = x.engCount := rfl
@[simp] theorem put_cause_engErr (x : Strand) (a b c : Word) : (({ x with sepc := a, scause := b, sinfo := c } : Strand) ).engErr = x.engErr := rfl
@[simp] theorem put_cause_task (x : Strand) (a b c : Word) : (({ x with sepc := a, scause := b, sinfo := c } : Strand) ).task = x.task := rfl
@[simp] theorem put_cause_snap (x : Strand) (a b c : Word) : (({ x with sepc := a, scause := b, sinfo := c } : Strand) ).snap = x.snap := rfl
@[simp] theorem put_cause_snapReq (x : Strand) (a b c : Word) : (({ x with sepc := a, scause := b, sinfo := c } : Strand) ).snapReq = x.snapReq := rfl
@[simp] theorem put_cause_cIssue (x : Strand) (a b c : Word) : (({ x with sepc := a, scause := b, sinfo := c } : Strand) ).cIssue = x.cIssue := rfl
@[simp] theorem put_cause_cWait (x : Strand) (a b c : Word) : (({ x with sepc := a, scause := b, sinfo := c } : Strand) ).cWait = x.cWait := rfl
@[simp] theorem put_cause_cTbr (x : Strand) (a b c : Word) : (({ x with sepc := a, scause := b, sinfo := c } : Strand) ).cTbr = x.cTbr := rfl
@[simp] theorem put_cause_cRets (x : Strand) (a b c : Word) : (({ x with sepc := a, scause := b, sinfo := c } : Strand) ).cRets = x.cRets := rfl
@[simp] theorem put_cause_cRewc (x : Strand) (a b c : Word) : (({ x with sepc := a, scause := b, sinfo := c } : Strand) ).cRewc = x.cRewc := rfl
@[simp] theorem put_cause_cTrpc (x : Strand) (a b c : Word) : (({ x with sepc := a, scause := b, sinfo := c } : Strand) ).cTrpc = x.cTrpc := rfl
@[simp] theorem put_cause_fences (x : Strand) (a b c : Word) : (({ x with sepc := a, scause := b, sinfo := c } : Strand) ).fences = x.fences := rfl
@[simp] theorem put_cause_recheckDue (x : Strand) (a b c : Word) : (({ x with sepc := a, scause := b, sinfo := c } : Strand) ).recheckDue = x.recheckDue := rfl
@[simp] theorem put_cause_landFirst (x : Strand) (a b c : Word) : (({ x with sepc := a, scause := b, sinfo := c } : Strand) ).landFirst = x.landFirst := rfl
@[simp] theorem put_cause_startAt (x : Strand) (a b c : Word) : (({ x with sepc := a, scause := b, sinfo := c } : Strand) ).startAt = x.startAt := rfl
@[simp] theorem put_cause_stub (x : Strand) (a b c : Word) : (({ x with sepc := a, scause := b, sinfo := c } : Strand) ).stub = x.stub := rfl
@[simp] theorem put_cause_pre (x : Strand) (a b c : Word) : (({ x with sepc := a, scause := b, sinfo := c } : Strand) ).pre = x.pre := rfl
@[simp] theorem put_cause_waitRef (x : Strand) (a b c : Word) : (({ x with sepc := a, scause := b, sinfo := c } : Strand) ).waitRef = x.waitRef := rfl
@[simp] theorem put_cause_xlinv (x : Strand) (a b c : Word) : (({ x with sepc := a, scause := b, sinfo := c } : Strand) ).xlinv = x.xlinv := rfl
@[simp] theorem put_cause_dupOut (x : Strand) (a b c : Word) : (({ x with sepc := a, scause := b, sinfo := c } : Strand) ).dupOut = x.dupOut := rfl
@[simp] theorem put_cause_arrayErr (x : Strand) (a b c : Word) : (({ x with sepc := a, scause := b, sinfo := c } : Strand) ).arrayErr = x.arrayErr := rfl
@[simp] theorem put_cause_undo (x : Strand) (a b c : Word) : (({ x with sepc := a, scause := b, sinfo := c } : Strand) ).undo = x.undo := rfl

/-! ## Strand.noteCause -/

@[simp] theorem noteCause_st (x : Strand) (c d y : Nat) (pc w : Word) : (x.noteCause c d y pc w ).st = x.st := put_cause_st x pc (causeWord c d y) w
@[simp] theorem noteCause_x (x : Strand) (c d y : Nat) (pc w : Word) : (x.noteCause c d y pc w ).x = x.x := put_cause_x x pc (causeWord c d y) w
@[simp] theorem noteCause_f (x : Strand) (c d y : Nat) (pc w : Word) : (x.noteCause c d y pc w ).f = x.f := put_cause_f x pc (causeWord c d y) w
@[simp] theorem noteCause_p (x : Strand) (c d y : Nat) (pc w : Word) : (x.noteCause c d y pc w ).p = x.p := put_cause_p x pc (causeWord c d y) w
@[simp] theorem noteCause_l (x : Strand) (c d y : Nat) (pc w : Word) : (x.noteCause c d y pc w ).l = x.l := put_cause_l x pc (causeWord c d y) w
@[simp] theorem noteCause_v (x : Strand) (c d y : Nat) (pc w : Word) : (x.noteCause c d y pc w ).v = x.v := put_cause_v x pc (causeWord c d y) w
@[simp] theorem noteCause_a (x : Strand) (c d y : Nat) (pc w : Word) : (x.noteCause c d y pc w ).a = x.a := put_cause_a x pc (causeWord c d y) w
@[simp] theorem noteCause_am (x : Strand) (c d y : Nat) (pc w : Word) : (x.noteCause c d y pc w ).am = x.am := put_cause_am x pc (causeWord c d y) w
@[simp] theorem noteCause_ls (x : Strand) (c d y : Nat) (pc w : Word) : (x.noteCause c d y pc w ).ls = x.ls := put_cause_ls x pc (causeWord c d y) w
@[simp] theorem noteCause_le (x : Strand) (c d y : Nat) (pc w : Word) : (x.noteCause c d y pc w ).le = x.le := put_cause_le x pc (causeWord c d y) w
@[simp] theorem noteCause_lc (x : Strand) (c d y : Nat) (pc w : Word) : (x.noteCause c d y pc w ).lc = x.lc := put_cause_lc x pc (causeWord c d y) w
@[simp] theorem noteCause_spc (x : Strand) (c d y : Nat) (pc w : Word) : (x.noteCause c d y pc w ).spc = x.spc := put_cause_spc x pc (causeWord c d y) w
@[simp] theorem noteCause_sst (x : Strand) (c d y : Nat) (pc w : Word) : (x.noteCause c d y pc w ).sst = x.sst := put_cause_sst x pc (causeWord c d y) w
@[simp] theorem noteCause_scfg (x : Strand) (c d y : Nat) (pc w : Word) : (x.noteCause c d y pc w ).scfg = x.scfg := put_cause_scfg x pc (causeWord c d y) w
@[simp] theorem noteCause_scause (x : Strand) (c d y : Nat) (pc w : Word) : (x.noteCause c d y pc w ).scause = causeWord c d y := rfl
@[simp] theorem noteCause_sepc (x : Strand) (c d y : Nat) (pc w : Word) : (x.noteCause c d y pc w ).sepc = pc := rfl
@[simp] theorem noteCause_sinfo (x : Strand) (c d y : Nat) (pc w : Word) : (x.noteCause c d y pc w ).sinfo = w := rfl
@[simp] theorem noteCause_shv (x : Strand) (c d y : Nat) (pc w : Word) : (x.noteCause c d y pc w ).shv = x.shv := put_cause_shv x pc (causeWord c d y) w
@[simp] theorem noteCause_inflight (x : Strand) (c d y : Nat) (pc w : Word) : (x.noteCause c d y pc w ).inflight = x.inflight := put_cause_inflight x pc (causeWord c d y) w
@[simp] theorem noteCause_pend (x : Strand) (c d y : Nat) (pc w : Word) : (x.noteCause c d y pc w ).pend = x.pend := put_cause_pend x pc (causeWord c d y) w
@[simp] theorem noteCause_restart (x : Strand) (c d y : Nat) (pc w : Word) : (x.noteCause c d y pc w ).restart = x.restart := put_cause_restart x pc (causeWord c d y) w
@[simp] theorem noteCause_fresh (x : Strand) (c d y : Nat) (pc w : Word) : (x.noteCause c d y pc w ).fresh = x.fresh := put_cause_fresh x pc (causeWord c d y) w
@[simp] theorem noteCause_rewound (x : Strand) (c d y : Nat) (pc w : Word) : (x.noteCause c d y pc w ).rewound = x.rewound := put_cause_rewound x pc (causeWord c d y) w
@[simp] theorem noteCause_recov (x : Strand) (c d y : Nat) (pc w : Word) : (x.noteCause c d y pc w ).recov = x.recov := put_cause_recov x pc (causeWord c d y) w
@[simp] theorem noteCause_seg (x : Strand) (c d y : Nat) (pc w : Word) : (x.noteCause c d y pc w ).seg = x.seg := put_cause_seg x pc (causeWord c d y) w
@[simp] theorem noteCause_vdest (x : Strand) (c d y : Nat) (pc w : Word) : (x.noteCause c d y pc w ).vdest = x.vdest := put_cause_vdest x pc (causeWord c d y) w
@[simp] theorem noteCause_xPois (x : Strand) (c d y : Nat) (pc w : Word) : (x.noteCause c d y pc w ).xPois = x.xPois := put_cause_xPois x pc (causeWord c d y) w
@[simp] theorem noteCause_fPois (x : Strand) (c d y : Nat) (pc w : Word) : (x.noteCause c d y pc w ).fPois = x.fPois := put_cause_fPois x pc (causeWord c d y) w
@[simp] theorem noteCause_vPois (x : Strand) (c d y : Nat) (pc w : Word) : (x.noteCause c d y pc w ).vPois = x.vPois := put_cause_vPois x pc (causeWord c d y) w
@[simp] theorem noteCause_rows (x : Strand) (c d y : Nat) (pc w : Word) : (x.noteCause c d y pc w ).rows = x.rows := put_cause_rows x pc (causeWord c d y) w
@[simp] theorem noteCause_rown (x : Strand) (c d y : Nat) (pc w : Word) : (x.noteCause c d y pc w ).rown = x.rown := put_cause_rown x pc (causeWord c d y) w
@[simp] theorem noteCause_watch (x : Strand) (c d y : Nat) (pc w : Word) : (x.noteCause c d y pc w ).watch = x.watch := put_cause_watch x pc (causeWord c d y) w
@[simp] theorem noteCause_kmem (x : Strand) (c d y : Nat) (pc w : Word) : (x.noteCause c d y pc w ).kmem = x.kmem := put_cause_kmem x pc (causeWord c d y) w
@[simp] theorem noteCause_engCount (x : Strand) (c d y : Nat) (pc w : Word) : (x.noteCause c d y pc w ).engCount = x.engCount := put_cause_engCount x pc (causeWord c d y) w
@[simp] theorem noteCause_engErr (x : Strand) (c d y : Nat) (pc w : Word) : (x.noteCause c d y pc w ).engErr = x.engErr := put_cause_engErr x pc (causeWord c d y) w
@[simp] theorem noteCause_task (x : Strand) (c d y : Nat) (pc w : Word) : (x.noteCause c d y pc w ).task = x.task := put_cause_task x pc (causeWord c d y) w
@[simp] theorem noteCause_snap (x : Strand) (c d y : Nat) (pc w : Word) : (x.noteCause c d y pc w ).snap = x.snap := put_cause_snap x pc (causeWord c d y) w
@[simp] theorem noteCause_snapReq (x : Strand) (c d y : Nat) (pc w : Word) : (x.noteCause c d y pc w ).snapReq = x.snapReq := put_cause_snapReq x pc (causeWord c d y) w
@[simp] theorem noteCause_cIssue (x : Strand) (c d y : Nat) (pc w : Word) : (x.noteCause c d y pc w ).cIssue = x.cIssue := put_cause_cIssue x pc (causeWord c d y) w
@[simp] theorem noteCause_cWait (x : Strand) (c d y : Nat) (pc w : Word) : (x.noteCause c d y pc w ).cWait = x.cWait := put_cause_cWait x pc (causeWord c d y) w
@[simp] theorem noteCause_cTbr (x : Strand) (c d y : Nat) (pc w : Word) : (x.noteCause c d y pc w ).cTbr = x.cTbr := put_cause_cTbr x pc (causeWord c d y) w
@[simp] theorem noteCause_cRets (x : Strand) (c d y : Nat) (pc w : Word) : (x.noteCause c d y pc w ).cRets = x.cRets := put_cause_cRets x pc (causeWord c d y) w
@[simp] theorem noteCause_cRewc (x : Strand) (c d y : Nat) (pc w : Word) : (x.noteCause c d y pc w ).cRewc = x.cRewc := put_cause_cRewc x pc (causeWord c d y) w
@[simp] theorem noteCause_cTrpc (x : Strand) (c d y : Nat) (pc w : Word) : (x.noteCause c d y pc w ).cTrpc = x.cTrpc := put_cause_cTrpc x pc (causeWord c d y) w
@[simp] theorem noteCause_fences (x : Strand) (c d y : Nat) (pc w : Word) : (x.noteCause c d y pc w ).fences = x.fences := put_cause_fences x pc (causeWord c d y) w
@[simp] theorem noteCause_recheckDue (x : Strand) (c d y : Nat) (pc w : Word) : (x.noteCause c d y pc w ).recheckDue = x.recheckDue := put_cause_recheckDue x pc (causeWord c d y) w
@[simp] theorem noteCause_landFirst (x : Strand) (c d y : Nat) (pc w : Word) : (x.noteCause c d y pc w ).landFirst = x.landFirst := put_cause_landFirst x pc (causeWord c d y) w
@[simp] theorem noteCause_startAt (x : Strand) (c d y : Nat) (pc w : Word) : (x.noteCause c d y pc w ).startAt = x.startAt := put_cause_startAt x pc (causeWord c d y) w
@[simp] theorem noteCause_stub (x : Strand) (c d y : Nat) (pc w : Word) : (x.noteCause c d y pc w ).stub = x.stub := put_cause_stub x pc (causeWord c d y) w
@[simp] theorem noteCause_pre (x : Strand) (c d y : Nat) (pc w : Word) : (x.noteCause c d y pc w ).pre = x.pre := put_cause_pre x pc (causeWord c d y) w
@[simp] theorem noteCause_waitRef (x : Strand) (c d y : Nat) (pc w : Word) : (x.noteCause c d y pc w ).waitRef = x.waitRef := put_cause_waitRef x pc (causeWord c d y) w
@[simp] theorem noteCause_xlinv (x : Strand) (c d y : Nat) (pc w : Word) : (x.noteCause c d y pc w ).xlinv = x.xlinv := put_cause_xlinv x pc (causeWord c d y) w
@[simp] theorem noteCause_dupOut (x : Strand) (c d y : Nat) (pc w : Word) : (x.noteCause c d y pc w ).dupOut = x.dupOut := put_cause_dupOut x pc (causeWord c d y) w
@[simp] theorem noteCause_arrayErr (x : Strand) (c d y : Nat) (pc w : Word) : (x.noteCause c d y pc w ).arrayErr = x.arrayErr := put_cause_arrayErr x pc (causeWord c d y) w
@[simp] theorem noteCause_undo (x : Strand) (c d y : Nat) (pc w : Word) : (x.noteCause c d y pc w ).undo = x.undo := put_cause_undo x pc (causeWord c d y) w

/-! ## Strand.setTH -/

@[simp] theorem setTH_st (x : Strand) (b : Bool) : (x.setTH b ).st = x.st := put_sst_st x (setBits x.sst 30 30 b.toNat)
@[simp] theorem setTH_x (x : Strand) (b : Bool) : (x.setTH b ).x = x.x := put_sst_x x (setBits x.sst 30 30 b.toNat)
@[simp] theorem setTH_f (x : Strand) (b : Bool) : (x.setTH b ).f = x.f := put_sst_f x (setBits x.sst 30 30 b.toNat)
@[simp] theorem setTH_p (x : Strand) (b : Bool) : (x.setTH b ).p = x.p := put_sst_p x (setBits x.sst 30 30 b.toNat)
@[simp] theorem setTH_l (x : Strand) (b : Bool) : (x.setTH b ).l = x.l := put_sst_l x (setBits x.sst 30 30 b.toNat)
@[simp] theorem setTH_v (x : Strand) (b : Bool) : (x.setTH b ).v = x.v := put_sst_v x (setBits x.sst 30 30 b.toNat)
@[simp] theorem setTH_a (x : Strand) (b : Bool) : (x.setTH b ).a = x.a := put_sst_a x (setBits x.sst 30 30 b.toNat)
@[simp] theorem setTH_am (x : Strand) (b : Bool) : (x.setTH b ).am = x.am := put_sst_am x (setBits x.sst 30 30 b.toNat)
@[simp] theorem setTH_ls (x : Strand) (b : Bool) : (x.setTH b ).ls = x.ls := put_sst_ls x (setBits x.sst 30 30 b.toNat)
@[simp] theorem setTH_le (x : Strand) (b : Bool) : (x.setTH b ).le = x.le := put_sst_le x (setBits x.sst 30 30 b.toNat)
@[simp] theorem setTH_lc (x : Strand) (b : Bool) : (x.setTH b ).lc = x.lc := put_sst_lc x (setBits x.sst 30 30 b.toNat)
@[simp] theorem setTH_spc (x : Strand) (b : Bool) : (x.setTH b ).spc = x.spc := put_sst_spc x (setBits x.sst 30 30 b.toNat)
@[simp] theorem setTH_sst (x : Strand) (b : Bool) : (x.setTH b ).sst = setBits x.sst 30 30 b.toNat := rfl
@[simp] theorem setTH_scfg (x : Strand) (b : Bool) : (x.setTH b ).scfg = x.scfg := put_sst_scfg x (setBits x.sst 30 30 b.toNat)
@[simp] theorem setTH_scause (x : Strand) (b : Bool) : (x.setTH b ).scause = x.scause := put_sst_scause x (setBits x.sst 30 30 b.toNat)
@[simp] theorem setTH_sepc (x : Strand) (b : Bool) : (x.setTH b ).sepc = x.sepc := put_sst_sepc x (setBits x.sst 30 30 b.toNat)
@[simp] theorem setTH_sinfo (x : Strand) (b : Bool) : (x.setTH b ).sinfo = x.sinfo := put_sst_sinfo x (setBits x.sst 30 30 b.toNat)
@[simp] theorem setTH_shv (x : Strand) (b : Bool) : (x.setTH b ).shv = x.shv := put_sst_shv x (setBits x.sst 30 30 b.toNat)
@[simp] theorem setTH_inflight (x : Strand) (b : Bool) : (x.setTH b ).inflight = x.inflight := put_sst_inflight x (setBits x.sst 30 30 b.toNat)
@[simp] theorem setTH_pend (x : Strand) (b : Bool) : (x.setTH b ).pend = x.pend := put_sst_pend x (setBits x.sst 30 30 b.toNat)
@[simp] theorem setTH_restart (x : Strand) (b : Bool) : (x.setTH b ).restart = x.restart := put_sst_restart x (setBits x.sst 30 30 b.toNat)
@[simp] theorem setTH_fresh (x : Strand) (b : Bool) : (x.setTH b ).fresh = x.fresh := put_sst_fresh x (setBits x.sst 30 30 b.toNat)
@[simp] theorem setTH_rewound (x : Strand) (b : Bool) : (x.setTH b ).rewound = x.rewound := put_sst_rewound x (setBits x.sst 30 30 b.toNat)
@[simp] theorem setTH_recov (x : Strand) (b : Bool) : (x.setTH b ).recov = x.recov := put_sst_recov x (setBits x.sst 30 30 b.toNat)
@[simp] theorem setTH_seg (x : Strand) (b : Bool) : (x.setTH b ).seg = x.seg := put_sst_seg x (setBits x.sst 30 30 b.toNat)
@[simp] theorem setTH_vdest (x : Strand) (b : Bool) : (x.setTH b ).vdest = x.vdest := put_sst_vdest x (setBits x.sst 30 30 b.toNat)
@[simp] theorem setTH_xPois (x : Strand) (b : Bool) : (x.setTH b ).xPois = x.xPois := put_sst_xPois x (setBits x.sst 30 30 b.toNat)
@[simp] theorem setTH_fPois (x : Strand) (b : Bool) : (x.setTH b ).fPois = x.fPois := put_sst_fPois x (setBits x.sst 30 30 b.toNat)
@[simp] theorem setTH_vPois (x : Strand) (b : Bool) : (x.setTH b ).vPois = x.vPois := put_sst_vPois x (setBits x.sst 30 30 b.toNat)
@[simp] theorem setTH_rows (x : Strand) (b : Bool) : (x.setTH b ).rows = x.rows := put_sst_rows x (setBits x.sst 30 30 b.toNat)
@[simp] theorem setTH_rown (x : Strand) (b : Bool) : (x.setTH b ).rown = x.rown := put_sst_rown x (setBits x.sst 30 30 b.toNat)
@[simp] theorem setTH_watch (x : Strand) (b : Bool) : (x.setTH b ).watch = x.watch := put_sst_watch x (setBits x.sst 30 30 b.toNat)
@[simp] theorem setTH_kmem (x : Strand) (b : Bool) : (x.setTH b ).kmem = x.kmem := put_sst_kmem x (setBits x.sst 30 30 b.toNat)
@[simp] theorem setTH_engCount (x : Strand) (b : Bool) : (x.setTH b ).engCount = x.engCount := put_sst_engCount x (setBits x.sst 30 30 b.toNat)
@[simp] theorem setTH_engErr (x : Strand) (b : Bool) : (x.setTH b ).engErr = x.engErr := put_sst_engErr x (setBits x.sst 30 30 b.toNat)
@[simp] theorem setTH_task (x : Strand) (b : Bool) : (x.setTH b ).task = x.task := put_sst_task x (setBits x.sst 30 30 b.toNat)
@[simp] theorem setTH_snap (x : Strand) (b : Bool) : (x.setTH b ).snap = x.snap := put_sst_snap x (setBits x.sst 30 30 b.toNat)
@[simp] theorem setTH_snapReq (x : Strand) (b : Bool) : (x.setTH b ).snapReq = x.snapReq := put_sst_snapReq x (setBits x.sst 30 30 b.toNat)
@[simp] theorem setTH_cIssue (x : Strand) (b : Bool) : (x.setTH b ).cIssue = x.cIssue := put_sst_cIssue x (setBits x.sst 30 30 b.toNat)
@[simp] theorem setTH_cWait (x : Strand) (b : Bool) : (x.setTH b ).cWait = x.cWait := put_sst_cWait x (setBits x.sst 30 30 b.toNat)
@[simp] theorem setTH_cTbr (x : Strand) (b : Bool) : (x.setTH b ).cTbr = x.cTbr := put_sst_cTbr x (setBits x.sst 30 30 b.toNat)
@[simp] theorem setTH_cRets (x : Strand) (b : Bool) : (x.setTH b ).cRets = x.cRets := put_sst_cRets x (setBits x.sst 30 30 b.toNat)
@[simp] theorem setTH_cRewc (x : Strand) (b : Bool) : (x.setTH b ).cRewc = x.cRewc := put_sst_cRewc x (setBits x.sst 30 30 b.toNat)
@[simp] theorem setTH_cTrpc (x : Strand) (b : Bool) : (x.setTH b ).cTrpc = x.cTrpc := put_sst_cTrpc x (setBits x.sst 30 30 b.toNat)
@[simp] theorem setTH_fences (x : Strand) (b : Bool) : (x.setTH b ).fences = x.fences := put_sst_fences x (setBits x.sst 30 30 b.toNat)
@[simp] theorem setTH_recheckDue (x : Strand) (b : Bool) : (x.setTH b ).recheckDue = x.recheckDue := put_sst_recheckDue x (setBits x.sst 30 30 b.toNat)
@[simp] theorem setTH_landFirst (x : Strand) (b : Bool) : (x.setTH b ).landFirst = x.landFirst := put_sst_landFirst x (setBits x.sst 30 30 b.toNat)
@[simp] theorem setTH_startAt (x : Strand) (b : Bool) : (x.setTH b ).startAt = x.startAt := put_sst_startAt x (setBits x.sst 30 30 b.toNat)
@[simp] theorem setTH_stub (x : Strand) (b : Bool) : (x.setTH b ).stub = x.stub := put_sst_stub x (setBits x.sst 30 30 b.toNat)
@[simp] theorem setTH_pre (x : Strand) (b : Bool) : (x.setTH b ).pre = x.pre := put_sst_pre x (setBits x.sst 30 30 b.toNat)
@[simp] theorem setTH_waitRef (x : Strand) (b : Bool) : (x.setTH b ).waitRef = x.waitRef := put_sst_waitRef x (setBits x.sst 30 30 b.toNat)
@[simp] theorem setTH_xlinv (x : Strand) (b : Bool) : (x.setTH b ).xlinv = x.xlinv := put_sst_xlinv x (setBits x.sst 30 30 b.toNat)
@[simp] theorem setTH_dupOut (x : Strand) (b : Bool) : (x.setTH b ).dupOut = x.dupOut := put_sst_dupOut x (setBits x.sst 30 30 b.toNat)
@[simp] theorem setTH_arrayErr (x : Strand) (b : Bool) : (x.setTH b ).arrayErr = x.arrayErr := put_sst_arrayErr x (setBits x.sst 30 30 b.toNat)
@[simp] theorem setTH_undo (x : Strand) (b : Bool) : (x.setTH b ).undo = x.undo := put_sst_undo x (setBits x.sst 30 30 b.toNat)

/-! ## Strand.setTM -/

@[simp] theorem setTM_st (x : Strand) (b : Bool) : (x.setTM b ).st = x.st := put_sst_st x (setBits x.sst 31 31 b.toNat)
@[simp] theorem setTM_x (x : Strand) (b : Bool) : (x.setTM b ).x = x.x := put_sst_x x (setBits x.sst 31 31 b.toNat)
@[simp] theorem setTM_f (x : Strand) (b : Bool) : (x.setTM b ).f = x.f := put_sst_f x (setBits x.sst 31 31 b.toNat)
@[simp] theorem setTM_p (x : Strand) (b : Bool) : (x.setTM b ).p = x.p := put_sst_p x (setBits x.sst 31 31 b.toNat)
@[simp] theorem setTM_l (x : Strand) (b : Bool) : (x.setTM b ).l = x.l := put_sst_l x (setBits x.sst 31 31 b.toNat)
@[simp] theorem setTM_v (x : Strand) (b : Bool) : (x.setTM b ).v = x.v := put_sst_v x (setBits x.sst 31 31 b.toNat)
@[simp] theorem setTM_a (x : Strand) (b : Bool) : (x.setTM b ).a = x.a := put_sst_a x (setBits x.sst 31 31 b.toNat)
@[simp] theorem setTM_am (x : Strand) (b : Bool) : (x.setTM b ).am = x.am := put_sst_am x (setBits x.sst 31 31 b.toNat)
@[simp] theorem setTM_ls (x : Strand) (b : Bool) : (x.setTM b ).ls = x.ls := put_sst_ls x (setBits x.sst 31 31 b.toNat)
@[simp] theorem setTM_le (x : Strand) (b : Bool) : (x.setTM b ).le = x.le := put_sst_le x (setBits x.sst 31 31 b.toNat)
@[simp] theorem setTM_lc (x : Strand) (b : Bool) : (x.setTM b ).lc = x.lc := put_sst_lc x (setBits x.sst 31 31 b.toNat)
@[simp] theorem setTM_spc (x : Strand) (b : Bool) : (x.setTM b ).spc = x.spc := put_sst_spc x (setBits x.sst 31 31 b.toNat)
@[simp] theorem setTM_sst (x : Strand) (b : Bool) : (x.setTM b ).sst = setBits x.sst 31 31 b.toNat := rfl
@[simp] theorem setTM_scfg (x : Strand) (b : Bool) : (x.setTM b ).scfg = x.scfg := put_sst_scfg x (setBits x.sst 31 31 b.toNat)
@[simp] theorem setTM_scause (x : Strand) (b : Bool) : (x.setTM b ).scause = x.scause := put_sst_scause x (setBits x.sst 31 31 b.toNat)
@[simp] theorem setTM_sepc (x : Strand) (b : Bool) : (x.setTM b ).sepc = x.sepc := put_sst_sepc x (setBits x.sst 31 31 b.toNat)
@[simp] theorem setTM_sinfo (x : Strand) (b : Bool) : (x.setTM b ).sinfo = x.sinfo := put_sst_sinfo x (setBits x.sst 31 31 b.toNat)
@[simp] theorem setTM_shv (x : Strand) (b : Bool) : (x.setTM b ).shv = x.shv := put_sst_shv x (setBits x.sst 31 31 b.toNat)
@[simp] theorem setTM_inflight (x : Strand) (b : Bool) : (x.setTM b ).inflight = x.inflight := put_sst_inflight x (setBits x.sst 31 31 b.toNat)
@[simp] theorem setTM_pend (x : Strand) (b : Bool) : (x.setTM b ).pend = x.pend := put_sst_pend x (setBits x.sst 31 31 b.toNat)
@[simp] theorem setTM_restart (x : Strand) (b : Bool) : (x.setTM b ).restart = x.restart := put_sst_restart x (setBits x.sst 31 31 b.toNat)
@[simp] theorem setTM_fresh (x : Strand) (b : Bool) : (x.setTM b ).fresh = x.fresh := put_sst_fresh x (setBits x.sst 31 31 b.toNat)
@[simp] theorem setTM_rewound (x : Strand) (b : Bool) : (x.setTM b ).rewound = x.rewound := put_sst_rewound x (setBits x.sst 31 31 b.toNat)
@[simp] theorem setTM_recov (x : Strand) (b : Bool) : (x.setTM b ).recov = x.recov := put_sst_recov x (setBits x.sst 31 31 b.toNat)
@[simp] theorem setTM_seg (x : Strand) (b : Bool) : (x.setTM b ).seg = x.seg := put_sst_seg x (setBits x.sst 31 31 b.toNat)
@[simp] theorem setTM_vdest (x : Strand) (b : Bool) : (x.setTM b ).vdest = x.vdest := put_sst_vdest x (setBits x.sst 31 31 b.toNat)
@[simp] theorem setTM_xPois (x : Strand) (b : Bool) : (x.setTM b ).xPois = x.xPois := put_sst_xPois x (setBits x.sst 31 31 b.toNat)
@[simp] theorem setTM_fPois (x : Strand) (b : Bool) : (x.setTM b ).fPois = x.fPois := put_sst_fPois x (setBits x.sst 31 31 b.toNat)
@[simp] theorem setTM_vPois (x : Strand) (b : Bool) : (x.setTM b ).vPois = x.vPois := put_sst_vPois x (setBits x.sst 31 31 b.toNat)
@[simp] theorem setTM_rows (x : Strand) (b : Bool) : (x.setTM b ).rows = x.rows := put_sst_rows x (setBits x.sst 31 31 b.toNat)
@[simp] theorem setTM_rown (x : Strand) (b : Bool) : (x.setTM b ).rown = x.rown := put_sst_rown x (setBits x.sst 31 31 b.toNat)
@[simp] theorem setTM_watch (x : Strand) (b : Bool) : (x.setTM b ).watch = x.watch := put_sst_watch x (setBits x.sst 31 31 b.toNat)
@[simp] theorem setTM_kmem (x : Strand) (b : Bool) : (x.setTM b ).kmem = x.kmem := put_sst_kmem x (setBits x.sst 31 31 b.toNat)
@[simp] theorem setTM_engCount (x : Strand) (b : Bool) : (x.setTM b ).engCount = x.engCount := put_sst_engCount x (setBits x.sst 31 31 b.toNat)
@[simp] theorem setTM_engErr (x : Strand) (b : Bool) : (x.setTM b ).engErr = x.engErr := put_sst_engErr x (setBits x.sst 31 31 b.toNat)
@[simp] theorem setTM_task (x : Strand) (b : Bool) : (x.setTM b ).task = x.task := put_sst_task x (setBits x.sst 31 31 b.toNat)
@[simp] theorem setTM_snap (x : Strand) (b : Bool) : (x.setTM b ).snap = x.snap := put_sst_snap x (setBits x.sst 31 31 b.toNat)
@[simp] theorem setTM_snapReq (x : Strand) (b : Bool) : (x.setTM b ).snapReq = x.snapReq := put_sst_snapReq x (setBits x.sst 31 31 b.toNat)
@[simp] theorem setTM_cIssue (x : Strand) (b : Bool) : (x.setTM b ).cIssue = x.cIssue := put_sst_cIssue x (setBits x.sst 31 31 b.toNat)
@[simp] theorem setTM_cWait (x : Strand) (b : Bool) : (x.setTM b ).cWait = x.cWait := put_sst_cWait x (setBits x.sst 31 31 b.toNat)
@[simp] theorem setTM_cTbr (x : Strand) (b : Bool) : (x.setTM b ).cTbr = x.cTbr := put_sst_cTbr x (setBits x.sst 31 31 b.toNat)
@[simp] theorem setTM_cRets (x : Strand) (b : Bool) : (x.setTM b ).cRets = x.cRets := put_sst_cRets x (setBits x.sst 31 31 b.toNat)
@[simp] theorem setTM_cRewc (x : Strand) (b : Bool) : (x.setTM b ).cRewc = x.cRewc := put_sst_cRewc x (setBits x.sst 31 31 b.toNat)
@[simp] theorem setTM_cTrpc (x : Strand) (b : Bool) : (x.setTM b ).cTrpc = x.cTrpc := put_sst_cTrpc x (setBits x.sst 31 31 b.toNat)
@[simp] theorem setTM_fences (x : Strand) (b : Bool) : (x.setTM b ).fences = x.fences := put_sst_fences x (setBits x.sst 31 31 b.toNat)
@[simp] theorem setTM_recheckDue (x : Strand) (b : Bool) : (x.setTM b ).recheckDue = x.recheckDue := put_sst_recheckDue x (setBits x.sst 31 31 b.toNat)
@[simp] theorem setTM_landFirst (x : Strand) (b : Bool) : (x.setTM b ).landFirst = x.landFirst := put_sst_landFirst x (setBits x.sst 31 31 b.toNat)
@[simp] theorem setTM_startAt (x : Strand) (b : Bool) : (x.setTM b ).startAt = x.startAt := put_sst_startAt x (setBits x.sst 31 31 b.toNat)
@[simp] theorem setTM_stub (x : Strand) (b : Bool) : (x.setTM b ).stub = x.stub := put_sst_stub x (setBits x.sst 31 31 b.toNat)
@[simp] theorem setTM_pre (x : Strand) (b : Bool) : (x.setTM b ).pre = x.pre := put_sst_pre x (setBits x.sst 31 31 b.toNat)
@[simp] theorem setTM_waitRef (x : Strand) (b : Bool) : (x.setTM b ).waitRef = x.waitRef := put_sst_waitRef x (setBits x.sst 31 31 b.toNat)
@[simp] theorem setTM_xlinv (x : Strand) (b : Bool) : (x.setTM b ).xlinv = x.xlinv := put_sst_xlinv x (setBits x.sst 31 31 b.toNat)
@[simp] theorem setTM_dupOut (x : Strand) (b : Bool) : (x.setTM b ).dupOut = x.dupOut := put_sst_dupOut x (setBits x.sst 31 31 b.toNat)
@[simp] theorem setTM_arrayErr (x : Strand) (b : Bool) : (x.setTM b ).arrayErr = x.arrayErr := put_sst_arrayErr x (setBits x.sst 31 31 b.toNat)
@[simp] theorem setTM_undo (x : Strand) (b : Bool) : (x.setTM b ).undo = x.undo := put_sst_undo x (setBits x.sst 31 31 b.toNat)

/-! ## Strand.record -/

@[simp] theorem record_st (x : Strand) (w : Word) : (x.record w ).st = x.st := rfl
@[simp] theorem record_x (x : Strand) (w : Word) : (x.record w ).x = x.x := rfl
@[simp] theorem record_f (x : Strand) (w : Word) : (x.record w ).f = x.f := rfl
@[simp] theorem record_p (x : Strand) (w : Word) : (x.record w ).p = x.p := rfl
@[simp] theorem record_l (x : Strand) (w : Word) : (x.record w ).l = x.l := rfl
@[simp] theorem record_v (x : Strand) (w : Word) : (x.record w ).v = x.v := rfl
@[simp] theorem record_a (x : Strand) (w : Word) : (x.record w ).a = x.a := rfl
@[simp] theorem record_am (x : Strand) (w : Word) : (x.record w ).am = x.am := rfl
@[simp] theorem record_ls (x : Strand) (w : Word) : (x.record w ).ls = x.ls := rfl
@[simp] theorem record_le (x : Strand) (w : Word) : (x.record w ).le = x.le := rfl
@[simp] theorem record_lc (x : Strand) (w : Word) : (x.record w ).lc = x.lc := rfl
@[simp] theorem record_spc (x : Strand) (w : Word) : (x.record w ).spc = x.spc := rfl
@[simp] theorem record_sst (x : Strand) (w : Word) : (x.record w ).sst = x.sst := rfl
@[simp] theorem record_scfg (x : Strand) (w : Word) : (x.record w ).scfg = x.scfg := rfl
@[simp] theorem record_scause (x : Strand) (w : Word) : (x.record w ).scause = x.scause := rfl
@[simp] theorem record_sepc (x : Strand) (w : Word) : (x.record w ).sepc = x.sepc := rfl
@[simp] theorem record_sinfo (x : Strand) (w : Word) : (x.record w ).sinfo = x.sinfo := rfl
@[simp] theorem record_shv (x : Strand) (w : Word) : (x.record w ).shv = x.shv := rfl
@[simp] theorem record_inflight (x : Strand) (w : Word) : (x.record w ).inflight = x.inflight := rfl
@[simp] theorem record_pend (x : Strand) (w : Word) : (x.record w ).pend = x.pend := rfl
@[simp] theorem record_restart (x : Strand) (w : Word) : (x.record w ).restart = { addr := w, a := x.a, lc := x.lc, fill := x.rows.length, row := x.rown } := rfl
@[simp] theorem record_fresh (x : Strand) (w : Word) : (x.record w ).fresh = x.fresh := rfl
@[simp] theorem record_rewound (x : Strand) (w : Word) : (x.record w ).rewound = x.rewound := rfl
@[simp] theorem record_recov (x : Strand) (w : Word) : (x.record w ).recov = 0 := rfl
@[simp] theorem record_seg (x : Strand) (w : Word) : (x.record w ).seg = x.seg + 1 := rfl
@[simp] theorem record_vdest (x : Strand) (w : Word) : (x.record w ).vdest = x.vdest := rfl
@[simp] theorem record_xPois (x : Strand) (w : Word) : (x.record w ).xPois = x.xPois := rfl
@[simp] theorem record_fPois (x : Strand) (w : Word) : (x.record w ).fPois = x.fPois := rfl
@[simp] theorem record_vPois (x : Strand) (w : Word) : (x.record w ).vPois = x.vPois := rfl
@[simp] theorem record_rows (x : Strand) (w : Word) : (x.record w ).rows = x.rows := rfl
@[simp] theorem record_rown (x : Strand) (w : Word) : (x.record w ).rown = x.rown := rfl
@[simp] theorem record_watch (x : Strand) (w : Word) : (x.record w ).watch = x.watch := rfl
@[simp] theorem record_kmem (x : Strand) (w : Word) : (x.record w ).kmem = x.kmem := rfl
@[simp] theorem record_engCount (x : Strand) (w : Word) : (x.record w ).engCount = x.engCount := rfl
@[simp] theorem record_engErr (x : Strand) (w : Word) : (x.record w ).engErr = x.engErr := rfl
@[simp] theorem record_task (x : Strand) (w : Word) : (x.record w ).task = x.task := rfl
@[simp] theorem record_snap (x : Strand) (w : Word) : (x.record w ).snap = x.snap := rfl
@[simp] theorem record_snapReq (x : Strand) (w : Word) : (x.record w ).snapReq = x.snapReq := rfl
@[simp] theorem record_cIssue (x : Strand) (w : Word) : (x.record w ).cIssue = x.cIssue := rfl
@[simp] theorem record_cWait (x : Strand) (w : Word) : (x.record w ).cWait = x.cWait := rfl
@[simp] theorem record_cTbr (x : Strand) (w : Word) : (x.record w ).cTbr = x.cTbr := rfl
@[simp] theorem record_cRets (x : Strand) (w : Word) : (x.record w ).cRets = x.cRets := rfl
@[simp] theorem record_cRewc (x : Strand) (w : Word) : (x.record w ).cRewc = x.cRewc := rfl
@[simp] theorem record_cTrpc (x : Strand) (w : Word) : (x.record w ).cTrpc = x.cTrpc := rfl
@[simp] theorem record_fences (x : Strand) (w : Word) : (x.record w ).fences = x.fences := rfl
@[simp] theorem record_recheckDue (x : Strand) (w : Word) : (x.record w ).recheckDue = x.recheckDue := rfl
@[simp] theorem record_landFirst (x : Strand) (w : Word) : (x.record w ).landFirst = x.landFirst := rfl
@[simp] theorem record_startAt (x : Strand) (w : Word) : (x.record w ).startAt = x.startAt := rfl
@[simp] theorem record_stub (x : Strand) (w : Word) : (x.record w ).stub = x.stub := rfl
@[simp] theorem record_pre (x : Strand) (w : Word) : (x.record w ).pre = x.pre := rfl
@[simp] theorem record_waitRef (x : Strand) (w : Word) : (x.record w ).waitRef = x.waitRef := rfl
@[simp] theorem record_xlinv (x : Strand) (w : Word) : (x.record w ).xlinv = x.xlinv := rfl
@[simp] theorem record_dupOut (x : Strand) (w : Word) : (x.record w ).dupOut = x.dupOut := rfl
@[simp] theorem record_arrayErr (x : Strand) (w : Word) : (x.record w ).arrayErr = x.arrayErr := rfl
@[simp] theorem record_undo (x : Strand) (w : Word) : (x.record w ).undo = x.undo := rfl

/-! ## Strand.rewind -/

@[simp] theorem rewind_st (x : Strand) : (x.rewind ).st = x.st := rfl
@[simp] theorem rewind_x (x : Strand) : (x.rewind ).x = x.x := rfl
@[simp] theorem rewind_f (x : Strand) : (x.rewind ).f = x.f := rfl
@[simp] theorem rewind_p (x : Strand) : (x.rewind ).p = x.p := rfl
@[simp] theorem rewind_l (x : Strand) : (x.rewind ).l = x.l := rfl
@[simp] theorem rewind_v (x : Strand) : (x.rewind ).v = x.v := rfl
@[simp] theorem rewind_a (x : Strand) : (x.rewind ).a = x.restart.a := rfl
@[simp] theorem rewind_am (x : Strand) : (x.rewind ).am = x.am := rfl
@[simp] theorem rewind_ls (x : Strand) : (x.rewind ).ls = x.ls := rfl
@[simp] theorem rewind_le (x : Strand) : (x.rewind ).le = x.le := rfl
@[simp] theorem rewind_lc (x : Strand) : (x.rewind ).lc = x.restart.lc := rfl
@[simp] theorem rewind_spc (x : Strand) : (x.rewind ).spc = x.restart.addr := rfl
@[simp] theorem rewind_sst (x : Strand) : (x.rewind ).sst = x.sst := rfl
@[simp] theorem rewind_scfg (x : Strand) : (x.rewind ).scfg = x.scfg := rfl
@[simp] theorem rewind_scause (x : Strand) : (x.rewind ).scause = x.scause := rfl
@[simp] theorem rewind_sepc (x : Strand) : (x.rewind ).sepc = x.sepc := rfl
@[simp] theorem rewind_sinfo (x : Strand) : (x.rewind ).sinfo = x.sinfo := rfl
@[simp] theorem rewind_shv (x : Strand) : (x.rewind ).shv = x.shv := rfl
@[simp] theorem rewind_inflight (x : Strand) : (x.rewind ).inflight = x.inflight := rfl
@[simp] theorem rewind_pend (x : Strand) : (x.rewind ).pend = x.pend := rfl
@[simp] theorem rewind_restart (x : Strand) : (x.rewind ).restart = x.restart := rfl
@[simp] theorem rewind_fresh (x : Strand) : (x.rewind ).fresh = false := rfl
@[simp] theorem rewind_rewound (x : Strand) : (x.rewind ).rewound = true := rfl
@[simp] theorem rewind_recov (x : Strand) : (x.rewind ).recov = x.recov := rfl
@[simp] theorem rewind_seg (x : Strand) : (x.rewind ).seg = x.seg := rfl
@[simp] theorem rewind_vdest (x : Strand) : (x.rewind ).vdest = x.vdest := rfl
@[simp] theorem rewind_xPois (x : Strand) : (x.rewind ).xPois = x.xPois := rfl
@[simp] theorem rewind_fPois (x : Strand) : (x.rewind ).fPois = x.fPois := rfl
@[simp] theorem rewind_vPois (x : Strand) : (x.rewind ).vPois = x.vPois := rfl
@[simp] theorem rewind_rows (x : Strand) : (x.rewind ).rows = x.rows.take x.restart.fill := rfl
@[simp] theorem rewind_rown (x : Strand) : (x.rewind ).rown = x.rown := rfl
@[simp] theorem rewind_watch (x : Strand) : (x.rewind ).watch = x.watch := rfl
@[simp] theorem rewind_kmem (x : Strand) : (x.rewind ).kmem = x.kmem := rfl
@[simp] theorem rewind_engCount (x : Strand) : (x.rewind ).engCount = x.engCount := rfl
@[simp] theorem rewind_engErr (x : Strand) : (x.rewind ).engErr = x.engErr := rfl
@[simp] theorem rewind_task (x : Strand) : (x.rewind ).task = x.task := rfl
@[simp] theorem rewind_snap (x : Strand) : (x.rewind ).snap = x.snap := rfl
@[simp] theorem rewind_snapReq (x : Strand) : (x.rewind ).snapReq = x.snapReq := rfl
@[simp] theorem rewind_cIssue (x : Strand) : (x.rewind ).cIssue = x.cIssue := rfl
@[simp] theorem rewind_cWait (x : Strand) : (x.rewind ).cWait = x.cWait := rfl
@[simp] theorem rewind_cTbr (x : Strand) : (x.rewind ).cTbr = x.cTbr := rfl
@[simp] theorem rewind_cRets (x : Strand) : (x.rewind ).cRets = x.cRets := rfl
@[simp] theorem rewind_cRewc (x : Strand) : (x.rewind ).cRewc = x.cRewc := rfl
@[simp] theorem rewind_cTrpc (x : Strand) : (x.rewind ).cTrpc = x.cTrpc := rfl
@[simp] theorem rewind_fences (x : Strand) : (x.rewind ).fences = x.fences := rfl
@[simp] theorem rewind_recheckDue (x : Strand) : (x.rewind ).recheckDue = x.recheckDue := rfl
@[simp] theorem rewind_landFirst (x : Strand) : (x.rewind ).landFirst = x.landFirst := rfl
@[simp] theorem rewind_startAt (x : Strand) : (x.rewind ).startAt = x.startAt := rfl
@[simp] theorem rewind_stub (x : Strand) : (x.rewind ).stub = none := rfl
@[simp] theorem rewind_pre (x : Strand) : (x.rewind ).pre = x.pre := rfl
@[simp] theorem rewind_waitRef (x : Strand) : (x.rewind ).waitRef = x.waitRef := rfl
@[simp] theorem rewind_xlinv (x : Strand) : (x.rewind ).xlinv = x.xlinv := rfl
@[simp] theorem rewind_dupOut (x : Strand) : (x.rewind ).dupOut = x.dupOut := rfl
@[simp] theorem rewind_arrayErr (x : Strand) : (x.rewind ).arrayErr = x.arrayErr := rfl
@[simp] theorem rewind_undo (x : Strand) : (x.rewind ).undo = x.undo := rfl

end Sys2Proof.Machine
end

