-- ==== Sys2Proof/Laws/Ops.lean ====
section
/-! SUPPORT. What each shared operation does, said once: results, traps, recoveries, blocking, freezing, landing. -/

set_option Elab.async false -- one proof at a time: many at once exhaust the memory of a build

namespace Sys2Proof.Machine

/-! ## Giving up the slot -/

@[simp] theorem giveUp_core_self (s : State) (k i gap : Nat) :
    (s.giveUp k i gap).core k = { s.core k with run := none, last := i, gap := gap, bubble := gap == 0 } := by simp [State.giveUp]

theorem giveUp_core_ne (s : State) {j k : Nat} (i gap : Nat) (h : j ≠ k) : (s.giveUp k i gap).core j = s.core j := core_modCore_ne s _ h

@[simp] theorem giveUp_strand (s : State) (k i gap j : Nat) : (s.giveUp k i gap).strand k j = s.strand k j := by
  rw [State.strand, giveUp_core_self]; rfl

/-! ## Traps (R133) -/

/-- With TH clear a trap is taken; SEPC, SCAUSE, SINFO, TH and SPC change, and the slot is given up. -/
theorem takeTrap_taken (s : State) (k i c d y : Nat) (pc w : Word) (h : (s.strand k i).th = false) :
    s.takeTrap k i c d y pc w = (s.setStrand k i { ((s.strand k i).noteCause c d y pc w).setTH true with
      spc := s.spcAt k ((s.strand k i).shv &&& 0xFFFFFFFFFFFFFFF0), st := .ready, landFirst := true, cTrpc := (s.strand k i).cTrpc + 1
      undo := some ((s.strand k i).undoAt s.now) }).giveUp k i 0 := by
  unfold State.takeTrap; simp only [h, Bool.false_eq_true, if_false]

/-- With TH set the gang fails instead (R372), and no register changes. -/
theorem takeTrap_failed (s : State) (k i c d y : Nat) (pc w : Word) (h : (s.strand k i).th = true) : s.takeTrap k i c d y pc w = s.failAt k i 1 := by
  unfold State.takeTrap; simp only [h, if_true]

theorem takeTrap_strand (s : State) (k i c d y : Nat) (pc w : Word) (h : (s.strand k i).th = false) :
    (s.takeTrap k i c d y pc w).strand k i = { ((s.strand k i).noteCause c d y pc w).setTH true with
      spc := s.spcAt k ((s.strand k i).shv &&& 0xFFFFFFFFFFFFFFF0), st := .ready, landFirst := true, cTrpc := (s.strand k i).cTrpc + 1
      undo := some ((s.strand k i).undoAt s.now) } := by
  rw [takeTrap_taken s k i c d y pc w h, giveUp_strand, state_strand_setStrand_self]

@[simp] theorem failAt_mem (s : State) (k i n : Nat) : (s.failAt k i n).mem = s.mem := by unfold State.failAt; split <;> rfl
@[simp] theorem takeTrap_mem (s : State) (k i c d y : Nat) (pc w : Word) : (s.takeTrap k i c d y pc w).mem = s.mem := by
  unfold State.takeTrap; dsimp only; split <;> simp

/-! ## Recoveries (R368, R369) -/

@[simp] theorem bumpErr_mem (s : State) (t e : Nat) : (s.bumpErr t e).mem = s.mem := by
  unfold State.bumpErr; dsimp only; split <;> split <;> simp [State.requestCkpt]

@[simp] theorem takeRecovery_mem (s : State) (k i c d y : Nat) (pc w : Word) : (s.takeRecovery k i c d y pc w).mem = s.mem := by
  unfold State.takeRecovery; dsimp only; repeat' split
  all_goals simp

@[simp] theorem takeCause_mem (s : State) (k i c d y : Nat) (pc w : Word) : (s.takeCause k i c d y pc w).mem = s.mem := by
  unfold State.takeCause; split <;> simp

/-! ## Results (R71, R73, R123) -/

@[simp] theorem reserve_mem (s : State) (k i : Nat) (r : Reg) : (s.reserve k i r).2.mem = s.mem := by
  unfold State.reserve; split
  · split <;> rfl
  · rfl

theorem reserve_other (s : State) (k i : Nat) {r : Reg} (h : r.isPort = false) : s.reserve k i r = (0, s) := by
  unfold State.reserve
  split
  · rw [if_neg (by simpa [Reg.isPort] using h)]
  · rfl

/-- A result for a register that is no queue port joins the results in flight of its strand, and nothing else changes but what R76 notes. -/
theorem result_strand (s : State) (k i : Nat) {r : Reg} (l : Nat) (v : Val) (fl : BitVec 5) (po : Bool) (h : r.isPort = false) :
    (s.result k i r l v fl po).strand k i = { s.strand k i with
      inflight := (s.strand k i).inflight ++ [{ dest := r, left := l, val := v, flags := fl, poison := po, ticket := 0 }]
      vdest := (s.strand k i).vdest.filter (· != r) } := by
  simp only [State.result, reserve_other s k i h, strand_modStrand_self]

@[simp] theorem result_mem (s : State) (k i : Nat) (r : Reg) (l : Nat) (v : Val) (fl : BitVec 5) (po : Bool) : (s.result k i r l v fl po).mem = s.mem := by
  simp [State.result]

theorem resultVar_strand (s : State) (k i : Nat) {r : Reg} (v : Val) (due : Option Nat) (tag : Nat) (fl : BitVec 5) (po : Bool) (h : r.isPort = false) :
    (s.resultVar k i r v due tag fl po).strand k i = { s.strand k i with
      pend := (s.strand k i).pend ++ [{ dests := [r], vals := [v], due := due, tag := tag, flags := fl, poison := po, ticket := 0 }]
      vdest := r :: (s.strand k i).vdest.filter (· != r) } := by
  simp only [State.resultVar, reserve_other s k i h, strand_modStrand_self]

@[simp] theorem resultVar_mem (s : State) (k i : Nat) (r : Reg) (v : Val) (due : Option Nat) (tag : Nat) (fl : BitVec 5) (po : Bool) :
    (s.resultVar k i r v due tag fl po).mem = s.mem := by
  simp [State.resultVar]

/-! ## Landing -/

@[simp] theorem landVal_mem (s : State) (k i : Nat) (r : Reg) (v : Val) (n : Nat) (fl : BitVec 5) (po : Bool) : (s.landVal k i r v n fl po).mem = s.mem := by
  unfold State.landVal
  split
  · split <;> simp
  · split <;> simp
  · simp

@[simp] theorem landPend_mem (s : State) (k i : Nat) (p : Pending) : (s.landPend k i p).mem = s.mem := by
  unfold State.landPend
  generalize (p.dests.zip p.vals).zipIdx = l
  induction l generalizing s with
  | nil => rfl
  | cons e l ih => simp only [List.foldl_cons, ih, landVal_mem]

/-! ## What keeps a group from issuing -/

@[simp] theorem blockOn_mem (s : State) (k i : Nat) (b : Block) : (s.blockOn k i b).mem = s.mem := by simp [State.blockOn]
@[simp] theorem freezeOn_mem (s : State) (k : Nat) (n : List Need) : (s.freezeOn k n).mem = s.mem := by simp [State.freezeOn]

theorem blockOn_strand (s : State) (k i : Nat) (b : Block) : (s.blockOn k i b).strand k i = { s.strand k i with st := .blocked b, landFirst := true } := by
  simp [State.blockOn]

/-- A guard that is false leaves only the check of pending destinations (R63, R73). -/
theorem runOp_guarded_off (s : State) (g : GOp) (h : s.guardOk g.info = false) :
    runOp s g = (s, pendingStops (s.strand s.cur.core s.cur.strand) g.info) := by
  simp [runOp, h]

/-! ## Memory at the coherence point -/

/-- A fold of functions that keep a property keeps it. -/
theorem foldl_keeps {α β : Type} (p : α → Prop) (f : α → β → α) (hf : ∀ s x, p s → p (f s x)) (l : List β) {s : α} (h : p s) : p (l.foldl f s) := by
  induction l generalizing s with
  | nil => exact h
  | cons x l ih => exact ih (hf s x h)

/-- Waking watchers changes no byte. -/
@[simp] theorem trigger_mem (s : State) (l : List Nat) : (s.trigger l).mem = s.mem := by
  unfold State.trigger
  refine foldl_keeps (fun u : State => u.mem = s.mem) _ (fun u e hu => ?_) _ rfl
  refine foldl_keeps (fun u : State => u.mem = s.mem) _ (fun u i hu => ?_) _ hu
  dsimp only
  split
  · split
    · split <;> simpa using hu
    · exact hu
  · exact hu

@[simp] theorem cleanSectors_mem (s : State) (c : List Host.Cell) : (s.cleanSectors c).mem = s.mem := rfl
@[simp] theorem poisonBytes_mem (s : State) (a n : Nat) : (s.poisonBytes a n).mem = s.mem := rfl
@[simp] theorem modJob_mem (s : State) (j : Nat) (f : Job → Job) : (s.modJob j f).mem = s.mem := by unfold State.modJob; split <;> rfl
@[simp] theorem charge_mem (s : State) (j t g u : Nat) : (s.charge j t g u).mem = s.mem := modJob_mem s j _
@[simp] theorem hotCount_mem (s : State) (t a : Nat) : (s.hotCount t a).mem = s.mem := by unfold State.hotCount; split <;> rfl

/-- Cells that take their place in the coherence order stand in memory (R280). -/
theorem putMem_mem (s : State) (cells : List Host.Cell) :
    (s.putMem cells).mem = cells.foldl (fun (m : Memory) (c : Host.Cell) => wrByte m c.1 c.2) s.mem := by
  unfold State.putMem; rw [trigger_mem, cleanSectors_mem]

theorem wf_putMem {s : State} (h : Memory.wf s.mem = true) (cells : List Host.Cell) : Memory.wf (s.putMem cells).mem = true := by
  rw [putMem_mem]; exact wf_cells h cells

/-- The Umbra cache changes no byte. -/
@[simp] theorem umbraEvict_mem (s : State) (h : Nat) : (s.umbraEvict h).mem = s.mem := by
  unfold State.umbraEvict; dsimp only
  split
  · rfl
  · split <;> simp

@[simp] theorem umbraUse_mem (s : State) (j a n : Nat) (w : Bool) : (s.umbraUse j a n w).mem = s.mem := by
  unfold State.umbraUse
  split
  · rfl
  · refine foldl_keeps (fun u : State => u.mem = s.mem) _ (fun u ln hu => ?_) _ (by split <;> simp)
    dsimp only
    split <;> simpa using hu

/-! ## The way home: no byte changes before a write reaches it (R204, R279) -/

@[simp] theorem toOut_mem (s : State) (k : Nat) (e : SqEntry) : (s.toOut k e).mem = s.mem := rfl

theorem toOuts_mem (l : List SqEntry) (s : State) (k : Nat) : (l.foldl (fun s e => s.toOut k e) s).mem = s.mem := by
  induction l generalizing s with
  | nil => rfl
  | cons e l ih => rw [List.foldl_cons, ih, toOut_mem]

theorem bumpErrs_mem (l : List SramErr) (s : State) (t : Nat) : (l.foldl (fun s e => if e.dbl then s else s.bumpErr t 0) s).mem = s.mem := by
  induction l generalizing s with
  | nil => rfl
  | cons e l ih => rw [List.foldl_cons, ih]; split <;> simp

@[simp] theorem coreErrs_mem (s : State) (k : Nat) (f : SramErr → Bool) : (s.coreErrs k f).1.mem = s.mem := by
  unfold State.coreErrs; dsimp only; split
  · rfl
  · simp [bumpErrs_mem]

@[simp] theorem l1Checked_mem (s : State) (k ln : Nat) (l : L1Line) : (s.l1Checked k ln l).1.mem = s.mem := by simp [State.l1Checked]

@[simp] theorem dropLine_mem (s : State) (k ln : Nat) : (s.dropLine k ln).mem = s.mem := by
  unfold State.dropLine; split
  · rfl
  · dsimp only; split
    · rfl
    · rw [toOuts_mem]; simp

@[simp] theorem dropOthers_mem (s : State) (k ln : Nat) : (s.dropOthers k ln).mem = s.mem := by
  have h (l : Map Core) (s : State) : (l.foldl (fun s e => s.dropLine e.1 ln) s).mem = s.mem := by
    induction l generalizing s with
    | nil => rfl
    | cons e l ih => rw [List.foldl_cons, ih, dropLine_mem]
  unfold State.dropOthers; dsimp only; split <;> simp [h]

@[simp] theorem performL2_mem (s : State) (k : Nat) (e : SqEntry) : (s.performL2 k e).mem = s.mem := by
  have h (l : List Nat) (s : State) : (l.foldl (fun s ln => s.dropOthers k ln) s).mem = s.mem := by
    induction l generalizing s with
    | nil => rfl
    | cons e l ih => rw [List.foldl_cons, ih, dropOthers_mem]
  simp [State.performL2, h]

@[simp] theorem writeBackLine_mem (s : State) (k ln : Nat) : (s.writeBackLine k ln).mem = s.mem := by
  have h (l : List SqEntry) (s : State) : (l.foldl (fun s e => s.performL2 k e) s).mem = s.mem := by
    induction l generalizing s with
    | nil => rfl
    | cons e l ih => rw [List.foldl_cons, ih, performL2_mem]
  unfold State.writeBackLine; split
  · rfl
  · dsimp only; split
    · rfl
    · rw [h]; simp

/-- Writing L1 back performs at L2 only: memory as the coherence point has it stays. -/
@[simp] theorem writeBack_mem (s : State) (k : Nat) : (s.writeBack k).mem = s.mem := by
  unfold State.writeBack
  generalize (s.core k).l1 = l
  induction l generalizing s with
  | nil => rfl
  | cons e l ih => rw [List.foldl_cons, ih, writeBackLine_mem]

@[simp] theorem dropTower_mem (s : State) (t : Nat) (c : List Host.Cell) : (s.dropTower t c).mem = s.mem := by
  have h (k : Nat) (l : List Nat) (s : State) : (l.foldl (fun s ln => s.dropLine k ln) s).mem = s.mem := by
    induction l generalizing s with
    | nil => rfl
    | cons e l ih => rw [List.foldl_cons, ih, dropLine_mem]
  unfold State.dropTower
  simp only [modTower_mem]
  generalize s.cores.filter _ = l
  induction l generalizing s with
  | nil => rfl
  | cons e l ih => rw [List.foldl_cons, ih, h]

/-- What a write at its home leaves in memory (R209, R280). -/
theorem performHome_mem (s : State) (t j : Nat) (cells : List Host.Cell) (po near : Bool) :
    (s.performHome t j cells po near).mem = cells.foldl (fun (m : Memory) (c : Host.Cell) => wrByte m c.1 c.2) s.mem := by
  unfold State.performHome
  cases cells with
  | nil => rfl
  | cons c r => dsimp only; repeat' split
                all_goals simp [putMem_mem]

theorem wf_performHome {s : State} (h : Memory.wf s.mem = true) (t j : Nat) (cells : List Host.Cell) (po near : Bool) :
    Memory.wf (s.performHome t j cells po near).mem = true := by
  rw [performHome_mem]; exact wf_cells h cells

@[simp] theorem sendFlit_mem (s : State) (p v y : Nat) (x : FlitPayload) (t c : Nat) (w : Option (Nat × Nat)) : (s.sendFlit p v y x t c w).1.mem = s.mem := by
  unfold State.sendFlit; split <;> rfl

@[simp] theorem duplicate_mem (s : State) (t : Nat) (w : Option (Nat × Nat)) (j a : Nat) (bs : List Byte) (c m : Nat) (b : Bool) :
    (s.duplicate t w j a bs c m b).mem = s.mem := by
  unfold State.duplicate
  split
  · rfl
  · refine foldl_keeps (fun u : State => u.mem = s.mem) _ (fun u p hu => ?_) _ (by split <;> simp)
    dsimp only
    generalize hq : u.sendFlit u.partner 2 5 _ _ _ = q
    have hm : q.1.mem = s.mem := by rw [← hq, sendFlit_mem]; exact hu
    obtain ⟨v, b⟩ := q
    cases b <;> dsimp only at hm ⊢
    · exact hm
    · split <;> simpa using hm

@[simp] theorem sendStore_mem (s : State) (t j a : Nat) (bs : List Byte) (po : Bool) (c : Nat) (w : Option (Nat × Nat)) (b : Bool) (m : Nat) :
    (s.sendStore t j a bs po c w b m).mem = s.mem :=
  foldl_keeps (fun u : State => u.mem = s.mem) _ (fun u p hu => by rw [sendFlit_mem]; exact hu) _ (by split; exacts [charge_mem .., rfl])

@[simp] theorem groupUse_mem (s : State) (e : SqEntry) : (s.groupUse e).mem = s.mem :=
  foldl_keeps (fun u : State => u.mem = s.mem) _ (fun u i hu => by dsimp only; split <;> simpa using hu) _ rfl

/-- A write on its way home that gets there writes its bytes, and no others; one to a peer writes none here. -/
theorem sendHome_mem (s : State) (t : Nat) (e : Nat × SqEntry) :
    (s.sendHome t e).mem =
      if region e.2.pa = 1 then s.mem else (cellsOf e.2.pa e.2.bytes).foldl (fun (m : Memory) (c : Host.Cell) => wrByte m c.1 c.2) s.mem := by
  unfold State.sendHome; dsimp only
  split
  · simp
  · split <;> simp [performHome_mem]

theorem wf_sendHome {s : State} (h : Memory.wf s.mem = true) (t : Nat) (e : Nat × SqEntry) : Memory.wf (s.sendHome t e).mem = true := by
  rw [sendHome_mem]; split
  · exact h
  · exact wf_cells h _

end Sys2Proof.Machine
end

