-- ==== Sys2Proof/Laws/PerInstr.lean ====
section
/-! SUPPORT. Statements about every instruction as syntax, one lemma a constructor. EncodesBack: the word and lend byte that an instruction encodes to
are within their widths and decode to it, whatever the stop bit. -/

set_option Elab.async false -- one proof at a time: many at once exhaust the memory of a build

set_option linter.unusedSimpArgs false
set_option linter.unusedVariables false
set_option linter.unusedTactic false
set_option linter.unreachableTactic false

namespace Sys2Proof.Laws.EncodesBack

/-- The family: what `encode` gives for i is read back as i. -/
def Statement (i : Instr) : Prop :=
  ∀ w e : Nat, i.wf = true → encode i = some (w, e) → w < 2 ^ 31 ∧ e < 256 ∧ ∀ u : Nat, u % 2 ^ 31 = w → decodeSyl u e = .ok i

theorem condOf_condCode (c : Cond) : condOf (condCode c) = some c := by cases c <;> rfl
theorem condCode_lt (c : Cond) : condCode c < 14 := by cases c <;> decide
theorem updOf_updCode (c : Upd) : updOf (updCode c) = some c := by cases c <;> rfl
theorem updCode_lt (c : Upd) : updCode c < 3 := by cases c <;> decide
theorem aopOf_aopCode (c : Aop) : aopOf (aopCode c) = some c := by cases c <;> rfl
theorem aopCode_lt (c : Aop) : aopCode c < 13 := by cases c <;> decide
theorem toNat_lt (b : Bool) : b.toNat < 2 := by cases b <;> decide
theorem bit_eq {x : Nat} {b : Bool} (h : x = b.toNat) : (x == 1) = b := by subst h; cases b <;> rfl
theorem dz_ok {z : Nat} {i j : Instr} (h : z = 0) (e : i = j) : dz z i = .ok j := by simp [dz, h, e]
theorem of_op {u e : Nat} {i : Instr} (h : decodeOp u e = .ok i) : decodeSyl u e = .ok i := by simp [decodeSyl, h]
theorem none_encoded {i : Instr} (h : encode i = none) : Statement i := fun w e _ he => by simp [h] at he

theorem ux_lt {n : Nat} {v : Int} : ux n v < 2 ^ n := by
  unfold ux
  have h : (0 : Int) < ((2 ^ n : Nat) : Int) := by exact_mod_cast Nat.two_pow_pos n
  have := Int.emod_lt_of_pos v h
  have := Int.emod_nonneg v h.ne'
  omega

/-- A number that fits n bits is read back from its n-bit pattern. -/
theorem sx_ux {n x : Nat} {v : Int} (hn : 0 < n) (h : fits n v = true) (hx : x = ux n v) : sx n x = v := by
  subst hx
  simp only [fits, Bool.and_eq_true, decide_eq_true_eq] at h
  obtain ⟨m, rfl⟩ : ∃ m, n = m + 1 := ⟨n - 1, by omega⟩
  unfold sx ux
  simp only [Nat.add_sub_cancel] at *
  have hp : ((2 ^ (m + 1) : Nat) : Int) = 2 * ((2 ^ m : Nat) : Int) := by push_cast; ring
  have h0 : (0 : Int) < ((2 ^ m : Nat) : Int) := by exact_mod_cast Nat.two_pow_pos m
  rw [hp]
  generalize ((2 ^ m : Nat) : Int) = p at *
  by_cases hv : 0 ≤ v
  · rw [Int.emod_eq_of_lt hv (by omega)]
    have : (v.toNat : Int) = v := Int.toNat_of_nonneg hv
    split <;> omega
  · have : v % (2 * p) = v + 2 * p := by
      rw [← Int.add_emod_right]; exact Int.emod_eq_of_lt (by omega) (by omega)
    rw [this]
    have : ((v + 2 * p).toNat : Int) = v + 2 * p := Int.toNat_of_nonneg (by omega)
    split <;> omega

/-! ## Fields of a word, one lemma a format -/

theorem shape1 {r n c o v23 v12 v6 v0 : Nat} (hc : c < 16) (ho : o < 32) (h23 : v23 < 16) (h12 : v12 < 64) (h6 : v6 < 64) (h0 : v0 < 64) (hn : n = c * 134217728 + o * 262144)
    (h : r % 2 ^ 31 = n + v23 * 8388608 + v12 * 4096 + v6 * 64 + v0) :
    fld r 27 4 = c ∧ fld r 18 5 = o ∧ fld r 12 6 = v12 ∧ fld r 6 6 = v6 ∧ fld r 0 6 = v0 ∧ fld r 23 4 = v23 := by
  refine ⟨?_, ?_, ?_, ?_, ?_, ?_⟩ <;> unfold fld <;> omega

theorem shape2 {r n c o v23 v12 v6 : Nat} (hc : c < 16) (ho : o < 32) (h23 : v23 < 16) (h12 : v12 < 64) (h6 : v6 < 64) (hn : n = c * 134217728 + o * 262144)
    (h : r % 2 ^ 31 = n + v23 * 8388608 + v12 * 4096 + v6 * 64) :
    fld r 27 4 = c ∧ fld r 18 5 = o ∧ fld r 0 6 = 0 ∧ fld r 12 6 = v12 ∧ fld r 6 6 = v6 ∧ fld r 23 4 = v23 := by
  refine ⟨?_, ?_, ?_, ?_, ?_, ?_⟩ <;> unfold fld <;> omega

theorem shape3 {r n c o v23 v13 v7 v0 : Nat} (hc : c < 16) (ho : o < 16) (h23 : v23 < 16) (h13 : v13 < 64) (h7 : v7 < 64) (h0 : v0 < 128) (hn : n = c * 134217728 + o * 524288)
    (h : r % 2 ^ 31 = n + v23 * 8388608 + v13 * 8192 + v7 * 128 + v0) :
    fld r 27 4 = c ∧ fld r 19 4 = o ∧ fld r 13 6 = v13 ∧ fld r 7 6 = v7 ∧ fld r 0 7 = v0 ∧ fld r 23 4 = v23 := by
  refine ⟨?_, ?_, ?_, ?_, ?_, ?_⟩ <;> unfold fld <;> omega

theorem shape4 {r n c o v23 v13 v7 v0 : Nat} (hc : c < 16) (ho : o < 16) (h23 : v23 < 16) (h13 : v13 < 64) (h7 : v7 < 64) (h0 : v0 < 64) (hn : n = c * 134217728 + o * 524288)
    (h : r % 2 ^ 31 = n + v23 * 8388608 + v13 * 8192 + v7 * 128 + v0) :
    fld r 27 4 = c ∧ fld r 19 4 = o ∧ fld r 6 1 = 0 ∧ fld r 13 6 = v13 ∧ fld r 7 6 = v7 ∧ fld r 0 6 = v0 ∧ fld r 23 4 = v23 := by
  refine ⟨?_, ?_, ?_, ?_, ?_, ?_, ?_⟩ <;> unfold fld <;> omega

theorem shape5 {r n c o v23 v13 v0 : Nat} (hc : c < 16) (ho : o < 16) (h23 : v23 < 16) (h13 : v13 < 64) (h0 : v0 < 8192) (hn : n = c * 134217728 + o * 524288)
    (h : r % 2 ^ 31 = n + v23 * 8388608 + v13 * 8192 + v0) :
    fld r 27 4 = c ∧ fld r 19 4 = o ∧ fld r 13 6 = v13 ∧ fld r 0 13 = v0 ∧ fld r 23 4 = v23 := by
  refine ⟨?_, ?_, ?_, ?_, ?_⟩ <;> unfold fld <;> omega

theorem shape6 {r n c o v23 v16 v13 v7 v0 : Nat} (hc : c < 16) (ho : o < 8) (h23 : v23 < 16) (h16 : v16 < 16) (h13 : v13 < 8) (h7 : v7 < 64) (h0 : v0 < 64) (hn : n = c * 134217728 + o * 1048576)
    (h : r % 2 ^ 31 = n + v23 * 8388608 + v16 * 65536 + v13 * 8192 + v7 * 128 + v0) :
    fld r 27 4 = c ∧ fld r 20 3 = o ∧ fld r 16 4 = v16 ∧ fld r 6 1 = 0 ∧ fld r 13 3 = v13 ∧ fld r 7 6 = v7 ∧ fld r 0 6 = v0 ∧ fld r 23 4 = v23 := by
  refine ⟨?_, ?_, ?_, ?_, ?_, ?_, ?_, ?_⟩ <;> unfold fld <;> omega

theorem shape7 {r n c o v23 v16 v13 v7 v0 : Nat} (hc : c < 16) (ho : o < 8) (h23 : v23 < 16) (h16 : v16 < 16) (h13 : v13 < 8) (h7 : v7 < 64) (h0 : v0 < 128) (hn : n = c * 134217728 + o * 1048576)
    (h : r % 2 ^ 31 = n + v23 * 8388608 + v16 * 65536 + v13 * 8192 + v7 * 128 + v0) :
    fld r 27 4 = c ∧ fld r 20 3 = o ∧ fld r 16 4 = v16 ∧ fld r 13 3 = v13 ∧ fld r 7 6 = v7 ∧ fld r 0 7 = v0 ∧ fld r 23 4 = v23 := by
  refine ⟨?_, ?_, ?_, ?_, ?_, ?_, ?_⟩ <;> unfold fld <;> omega

theorem shape8 {r n c o o2 v23 v12 v8 v4 : Nat} (hc : c < 16) (ho : o < 8) (ho2 : o2 < 16) (h23 : v23 < 16) (h12 : v12 < 16) (h8 : v8 < 16) (h4 : v4 < 16) (hn : n = c * 134217728 + o * 1048576 + o2 * 65536)
    (h : r % 2 ^ 31 = n + v23 * 8388608 + v12 * 4096 + v8 * 256 + v4 * 16) :
    fld r 27 4 = c ∧ fld r 20 3 = o ∧ fld r 16 4 = o2 ∧ fld r 0 4 = 0 ∧ fld r 12 4 = v12 ∧ fld r 8 4 = v8 ∧ fld r 4 4 = v4 ∧ fld r 23 4 = v23 := by
  refine ⟨?_, ?_, ?_, ?_, ?_, ?_, ?_, ?_⟩ <;> unfold fld <;> omega

theorem shape9 {r n c o o2 v23 v12 v8 : Nat} (hc : c < 16) (ho : o < 8) (ho2 : o2 < 16) (h23 : v23 < 16) (h12 : v12 < 16) (h8 : v8 < 16) (hn : n = c * 134217728 + o * 1048576 + o2 * 65536)
    (h : r % 2 ^ 31 = n + v23 * 8388608 + v12 * 4096 + v8 * 256) :
    fld r 27 4 = c ∧ fld r 20 3 = o ∧ fld r 16 4 = o2 ∧ fld r 4 4 = 0 ∧ fld r 0 4 = 0 ∧ fld r 12 4 = v12 ∧ fld r 8 4 = v8 ∧ fld r 23 4 = v23 := by
  refine ⟨?_, ?_, ?_, ?_, ?_, ?_, ?_, ?_⟩ <;> unfold fld <;> omega

theorem shape10 {r n c o v23 v0 : Nat} (hc : c < 16) (ho : o < 8) (h23 : v23 < 16) (h0 : v0 < 1048576) (hn : n = c * 134217728 + o * 1048576)
    (h : r % 2 ^ 31 = n + v23 * 8388608 + v0) :
    fld r 27 4 = c ∧ fld r 20 3 = o ∧ fld r 0 20 = v0 ∧ fld r 23 4 = v23 := by
  refine ⟨?_, ?_, ?_, ?_⟩ <;> unfold fld <;> omega

theorem shape11 {r n c o v23 v14 v0 : Nat} (hc : c < 16) (ho : o < 8) (h23 : v23 < 16) (h14 : v14 < 64) (h0 : v0 < 16384) (hn : n = c * 134217728 + o * 1048576)
    (h : r % 2 ^ 31 = n + v23 * 8388608 + v14 * 16384 + v0) :
    fld r 27 4 = c ∧ fld r 20 3 = o ∧ fld r 14 6 = v14 ∧ fld r 0 14 = v0 ∧ fld r 23 4 = v23 := by
  refine ⟨?_, ?_, ?_, ?_, ?_⟩ <;> unfold fld <;> omega

theorem shape12 {r n c o v23 v14 : Nat} (hc : c < 16) (ho : o < 8) (h23 : v23 < 16) (h14 : v14 < 64) (hn : n = c * 134217728 + o * 1048576)
    (h : r % 2 ^ 31 = n + v23 * 8388608 + v14 * 16384) :
    fld r 27 4 = c ∧ fld r 20 3 = o ∧ fld r 0 14 = 0 ∧ fld r 14 6 = v14 ∧ fld r 23 4 = v23 := by
  refine ⟨?_, ?_, ?_, ?_, ?_⟩ <;> unfold fld <;> omega

theorem shape13 {r n c o v18 v12 v0 : Nat} (hc : c < 16) (ho : o < 8) (h18 : v18 < 4) (h12 : v12 < 64) (h0 : v0 < 4096) (hn : n = c * 134217728 + o * 1048576)
    (h : r % 2 ^ 31 = n + v18 * 262144 + v12 * 4096 + v0) :
    fld r 27 4 = c ∧ fld r 20 3 = o ∧ fld r 18 2 = v18 ∧ fld r 12 6 = v12 ∧ fld r 0 12 = v0 ∧ fld r 23 4 = 0 := by
  refine ⟨?_, ?_, ?_, ?_, ?_, ?_⟩ <;> unfold fld <;> omega

theorem shape14 {r n c o v23 v18 : Nat} (hc : c < 16) (ho : o < 8) (h23 : v23 < 16) (h18 : v18 < 4) (hn : n = c * 134217728 + o * 1048576)
    (h : r % 2 ^ 31 = n + v23 * 8388608 + v18 * 262144) :
    fld r 27 4 = c ∧ fld r 20 3 = o ∧ fld r 0 18 = 0 ∧ fld r 18 2 = v18 ∧ fld r 23 4 = v23 := by
  refine ⟨?_, ?_, ?_, ?_, ?_⟩ <;> unfold fld <;> omega

theorem shape15 {r n c o v23 v12 v6 v3 v0 : Nat} (hc : c < 16) (ho : o < 32) (h23 : v23 < 16) (h12 : v12 < 64) (h6 : v6 < 64) (h3 : v3 < 8) (h0 : v0 < 8) (hn : n = c * 134217728 + o * 262144)
    (h : r % 2 ^ 31 = n + v23 * 8388608 + v12 * 4096 + v6 * 64 + v3 * 8 + v0) :
    fld r 27 4 = c ∧ fld r 18 5 = o ∧ fld r 12 6 = v12 ∧ fld r 6 6 = v6 ∧ fld r 3 3 = v3 ∧ fld r 0 3 = v0 ∧ fld r 23 4 = v23 := by
  refine ⟨?_, ?_, ?_, ?_, ?_, ?_, ?_⟩ <;> unfold fld <;> omega

theorem shape16 {r n c o v23 v12 v0 : Nat} (hc : c < 16) (ho : o < 32) (h23 : v23 < 16) (h12 : v12 < 64) (h0 : v0 < 4096) (hn : n = c * 134217728 + o * 262144)
    (h : r % 2 ^ 31 = n + v23 * 8388608 + v12 * 4096 + v0) :
    fld r 27 4 = c ∧ fld r 18 5 = o ∧ fld r 12 6 = v12 ∧ fld r 0 12 = v0 ∧ fld r 23 4 = v23 := by
  refine ⟨?_, ?_, ?_, ?_, ?_⟩ <;> unfold fld <;> omega

theorem shape17 {r n c o v23 v0 : Nat} (hc : c < 16) (ho : o < 32) (h23 : v23 < 16) (h0 : v0 < 256) (hn : n = c * 134217728 + o * 262144)
    (h : r % 2 ^ 31 = n + v23 * 8388608 + v0) :
    fld r 27 4 = c ∧ fld r 18 5 = o ∧ fld r 8 10 = 0 ∧ fld r 0 8 = v0 ∧ fld r 23 4 = v23 := by
  refine ⟨?_, ?_, ?_, ?_, ?_⟩ <;> unfold fld <;> omega

theorem shape18 {r n c o v23 : Nat} (hc : c < 16) (ho : o < 32) (h23 : v23 < 16) (hn : n = c * 134217728 + o * 262144)
    (h : r % 2 ^ 31 = n + v23 * 8388608) :
    fld r 27 4 = c ∧ fld r 18 5 = o ∧ fld r 0 18 = 0 ∧ fld r 23 4 = v23 := by
  refine ⟨?_, ?_, ?_, ?_⟩ <;> unfold fld <;> omega

theorem shape19 {r n c o v23 v6 v0 : Nat} (hc : c < 16) (ho : o < 32) (h23 : v23 < 16) (h6 : v6 < 64) (h0 : v0 < 64) (hn : n = c * 134217728 + o * 262144)
    (h : r % 2 ^ 31 = n + v23 * 8388608 + v6 * 64 + v0) :
    fld r 27 4 = c ∧ fld r 18 5 = o ∧ fld r 12 6 = 0 ∧ fld r 6 6 = v6 ∧ fld r 0 6 = v0 ∧ fld r 23 4 = v23 := by
  refine ⟨?_, ?_, ?_, ?_, ?_, ?_⟩ <;> unfold fld <;> omega

theorem shape20 {r n c o v23 v16 v12 v6 v4 v0 : Nat} (hc : c < 16) (ho : o < 8) (h23 : v23 < 16) (h16 : v16 < 16) (h12 : v12 < 16) (h6 : v6 < 64) (h4 : v4 < 4) (h0 : v0 < 16) (hn : n = c * 134217728 + o * 1048576)
    (h : r % 2 ^ 31 = n + v23 * 8388608 + v16 * 65536 + v12 * 4096 + v6 * 64 + v4 * 16 + v0) :
    fld r 27 4 = c ∧ fld r 20 3 = o ∧ fld r 4 2 = v4 ∧ fld r 16 4 = v16 ∧ fld r 12 4 = v12 ∧ fld r 6 6 = v6 ∧ fld r 0 4 = v0 ∧ fld r 23 4 = v23 := by
  refine ⟨?_, ?_, ?_, ?_, ?_, ?_, ?_, ?_⟩ <;> unfold fld <;> omega

theorem shape21 {r n c o v23 v16 v12 v11 v6 v4 v0 : Nat} (hc : c < 16) (ho : o < 8) (h23 : v23 < 16) (h16 : v16 < 16) (h12 : v12 < 16) (h11 : v11 < 2) (h6 : v6 < 32) (h4 : v4 < 4) (h0 : v0 < 16) (hn : n = c * 134217728 + o * 1048576)
    (h : r % 2 ^ 31 = n + v23 * 8388608 + v16 * 65536 + v12 * 4096 + v11 * 2048 + v6 * 64 + v4 * 16 + v0) :
    fld r 27 4 = c ∧ fld r 20 3 = o ∧ fld r 4 2 = v4 ∧ fld r 16 4 = v16 ∧ fld r 12 4 = v12 ∧ fld r 11 1 = v11 ∧ fld r 6 5 = v6 ∧ fld r 0 4 = v0 ∧ fld r 23 4 = v23 := by
  refine ⟨?_, ?_, ?_, ?_, ?_, ?_, ?_, ?_, ?_⟩ <;> unfold fld <;> omega

theorem shape22 {r n c o v23 v12 v6 v4 v0 : Nat} (hc : c < 16) (ho : o < 8) (h23 : v23 < 16) (h12 : v12 < 16) (h6 : v6 < 64) (h4 : v4 < 4) (h0 : v0 < 16) (hn : n = c * 134217728 + o * 1048576)
    (h : r % 2 ^ 31 = n + v23 * 8388608 + v12 * 4096 + v6 * 64 + v4 * 16 + v0) :
    fld r 27 4 = c ∧ fld r 20 3 = o ∧ fld r 4 2 = v4 ∧ fld r 16 4 = 0 ∧ fld r 12 4 = v12 ∧ fld r 6 6 = v6 ∧ fld r 0 4 = v0 ∧ fld r 23 4 = v23 := by
  refine ⟨?_, ?_, ?_, ?_, ?_, ?_, ?_, ?_⟩ <;> unfold fld <;> omega

theorem shape23 {r n c o o2 v23 v12 v6 : Nat} (hc : c < 16) (ho : o < 8) (ho2 : o2 < 4) (h23 : v23 < 16) (h12 : v12 < 64) (h6 : v6 < 64) (hn : n = c * 134217728 + o * 1048576 + o2 * 262144)
    (h : r % 2 ^ 31 = n + v23 * 8388608 + v12 * 4096 + v6 * 64) :
    fld r 27 4 = c ∧ fld r 20 3 = o ∧ fld r 18 2 = o2 ∧ fld r 0 6 = 0 ∧ fld r 12 6 = v12 ∧ fld r 6 6 = v6 ∧ fld r 23 4 = v23 := by
  refine ⟨?_, ?_, ?_, ?_, ?_, ?_, ?_⟩ <;> unfold fld <;> omega

theorem shape24 {r n c o o2 v23 v6 v0 : Nat} (hc : c < 16) (ho : o < 8) (ho2 : o2 < 4) (h23 : v23 < 16) (h6 : v6 < 64) (h0 : v0 < 64) (hn : n = c * 134217728 + o * 1048576 + o2 * 262144)
    (h : r % 2 ^ 31 = n + v23 * 8388608 + v6 * 64 + v0) :
    fld r 27 4 = c ∧ fld r 20 3 = o ∧ fld r 18 2 = o2 ∧ fld r 12 6 = 0 ∧ fld r 6 6 = v6 ∧ fld r 0 6 = v0 ∧ fld r 23 4 = v23 := by
  refine ⟨?_, ?_, ?_, ?_, ?_, ?_, ?_⟩ <;> unfold fld <;> omega

theorem shape25 {r n c o o2 v23 v6 : Nat} (hc : c < 16) (ho : o < 8) (ho2 : o2 < 4) (h23 : v23 < 16) (h6 : v6 < 64) (hn : n = c * 134217728 + o * 1048576 + o2 * 262144)
    (h : r % 2 ^ 31 = n + v23 * 8388608 + v6 * 64) :
    fld r 27 4 = c ∧ fld r 20 3 = o ∧ fld r 18 2 = o2 ∧ fld r 12 6 = 0 ∧ fld r 0 6 = 0 ∧ fld r 6 6 = v6 ∧ fld r 23 4 = v23 := by
  refine ⟨?_, ?_, ?_, ?_, ?_, ?_, ?_⟩ <;> unfold fld <;> omega

theorem shape26 {r n c o o2 v23 : Nat} (hc : c < 16) (ho : o < 8) (ho2 : o2 < 4) (h23 : v23 < 16) (hn : n = c * 134217728 + o * 1048576 + o2 * 262144)
    (h : r % 2 ^ 31 = n + v23 * 8388608) :
    fld r 27 4 = c ∧ fld r 20 3 = o ∧ fld r 18 2 = o2 ∧ fld r 0 18 = 0 ∧ fld r 23 4 = v23 := by
  refine ⟨?_, ?_, ?_, ?_, ?_⟩ <;> unfold fld <;> omega

theorem shape27 {r n c o v23 v16 v12 v6 v0 : Nat} (hc : c < 16) (ho : o < 8) (h23 : v23 < 16) (h16 : v16 < 16) (h12 : v12 < 16) (h6 : v6 < 64) (h0 : v0 < 64) (hn : n = c * 134217728 + o * 1048576)
    (h : r % 2 ^ 31 = n + v23 * 8388608 + v16 * 65536 + v12 * 4096 + v6 * 64 + v0) :
    fld r 27 4 = c ∧ fld r 20 3 = o ∧ fld r 16 4 = v16 ∧ fld r 12 4 = v12 ∧ fld r 6 6 = v6 ∧ fld r 0 6 = v0 ∧ fld r 23 4 = v23 := by
  refine ⟨?_, ?_, ?_, ?_, ?_, ?_, ?_⟩ <;> unfold fld <;> omega

theorem shape28 {r n c o v23 v16 v12 v0 : Nat} (hc : c < 16) (ho : o < 8) (h23 : v23 < 16) (h16 : v16 < 16) (h12 : v12 < 16) (h0 : v0 < 64) (hn : n = c * 134217728 + o * 1048576)
    (h : r % 2 ^ 31 = n + v23 * 8388608 + v16 * 65536 + v12 * 4096 + v0) :
    fld r 27 4 = c ∧ fld r 20 3 = o ∧ fld r 6 6 = 0 ∧ fld r 16 4 = v16 ∧ fld r 12 4 = v12 ∧ fld r 0 6 = v0 ∧ fld r 23 4 = v23 := by
  refine ⟨?_, ?_, ?_, ?_, ?_, ?_, ?_⟩ <;> unfold fld <;> omega

theorem shape29 {r n c o v23 v4 v1 : Nat} (hc : c < 16) (ho : o < 8) (h23 : v23 < 16) (h4 : v4 < 65536) (h1 : v1 < 8) (hn : n = c * 134217728 + o * 1048576)
    (h : r % 2 ^ 31 = n + v23 * 8388608 + v4 * 16 + v1 * 2) :
    fld r 27 4 = c ∧ fld r 20 3 = o ∧ fld r 0 1 = 0 ∧ fld r 4 16 = v4 ∧ fld r 1 3 = v1 ∧ fld r 23 4 = v23 := by
  refine ⟨?_, ?_, ?_, ?_, ?_, ?_⟩ <;> unfold fld <;> omega

theorem shape30 {r n c o v23 : Nat} (hc : c < 16) (ho : o < 8) (h23 : v23 < 16) (hn : n = c * 134217728 + o * 1048576)
    (h : r % 2 ^ 31 = n + v23 * 8388608) :
    fld r 27 4 = c ∧ fld r 20 3 = o ∧ fld r 0 20 = 0 ∧ fld r 23 4 = v23 := by
  refine ⟨?_, ?_, ?_, ?_⟩ <;> unfold fld <;> omega

theorem shape31 {r n c o v23 v12 v4 v0 : Nat} (hc : c < 16) (ho : o < 8) (h23 : v23 < 16) (h12 : v12 < 16) (h4 : v4 < 4) (h0 : v0 < 16) (hn : n = c * 134217728 + o * 1048576)
    (h : r % 2 ^ 31 = n + v23 * 8388608 + v12 * 4096 + v4 * 16 + v0) :
    fld r 27 4 = c ∧ fld r 20 3 = o ∧ fld r 4 2 = v4 ∧ fld r 16 4 = 0 ∧ fld r 6 6 = 0 ∧ fld r 12 4 = v12 ∧ fld r 0 4 = v0 ∧ fld r 23 4 = v23 := by
  refine ⟨?_, ?_, ?_, ?_, ?_, ?_, ?_, ?_⟩ <;> unfold fld <;> omega

theorem shape32 {r n c o v23 v12 v6 v0 : Nat} (hc : c < 16) (ho : o < 32) (h23 : v23 < 16) (h12 : v12 < 8) (h6 : v6 < 64) (h0 : v0 < 64) (hn : n = c * 134217728 + o * 262144)
    (h : r % 2 ^ 31 = n + v23 * 8388608 + v12 * 4096 + v6 * 64 + v0) :
    fld r 27 4 = c ∧ fld r 18 5 = o ∧ fld r 15 3 = 0 ∧ fld r 12 3 = v12 ∧ fld r 6 6 = v6 ∧ fld r 0 6 = v0 ∧ fld r 23 4 = v23 := by
  refine ⟨?_, ?_, ?_, ?_, ?_, ?_, ?_⟩ <;> unfold fld <;> omega

theorem shape33 {r n c o v23 v12 : Nat} (hc : c < 16) (ho : o < 32) (h23 : v23 < 16) (h12 : v12 < 64) (hn : n = c * 134217728 + o * 262144)
    (h : r % 2 ^ 31 = n + v23 * 8388608 + v12 * 4096) :
    fld r 27 4 = c ∧ fld r 18 5 = o ∧ fld r 0 12 = 0 ∧ fld r 12 6 = v12 ∧ fld r 23 4 = v23 := by
  refine ⟨?_, ?_, ?_, ?_, ?_⟩ <;> unfold fld <;> omega

theorem shape34 {r n c o v23 v13 v7 : Nat} (hc : c < 16) (ho : o < 16) (h23 : v23 < 16) (h13 : v13 < 64) (h7 : v7 < 64) (hn : n = c * 134217728 + o * 524288)
    (h : r % 2 ^ 31 = n + v23 * 8388608 + v13 * 8192 + v7 * 128) :
    fld r 27 4 = c ∧ fld r 19 4 = o ∧ fld r 0 7 = 0 ∧ fld r 13 6 = v13 ∧ fld r 7 6 = v7 ∧ fld r 23 4 = v23 := by
  refine ⟨?_, ?_, ?_, ?_, ?_, ?_⟩ <;> unfold fld <;> omega

theorem shape35 {r n c o v23 v13 v0 : Nat} (hc : c < 16) (ho : o < 16) (h23 : v23 < 16) (h13 : v13 < 64) (h0 : v0 < 128) (hn : n = c * 134217728 + o * 524288)
    (h : r % 2 ^ 31 = n + v23 * 8388608 + v13 * 8192 + v0) :
    fld r 27 4 = c ∧ fld r 19 4 = o ∧ fld r 7 6 = 0 ∧ fld r 13 6 = v13 ∧ fld r 0 7 = v0 ∧ fld r 23 4 = v23 := by
  refine ⟨?_, ?_, ?_, ?_, ?_, ?_⟩ <;> unfold fld <;> omega

theorem shape36 {r n c o v23 v6 : Nat} (hc : c < 16) (ho : o < 32) (h23 : v23 < 16) (h6 : v6 < 64) (hn : n = c * 134217728 + o * 262144)
    (h : r % 2 ^ 31 = n + v23 * 8388608 + v6 * 64) :
    fld r 27 4 = c ∧ fld r 18 5 = o ∧ fld r 12 6 = 0 ∧ fld r 0 6 = 0 ∧ fld r 6 6 = v6 ∧ fld r 23 4 = v23 := by
  refine ⟨?_, ?_, ?_, ?_, ?_, ?_⟩ <;> unfold fld <;> omega

theorem shape37 {r n c o v23 v0 : Nat} (hc : c < 16) (ho : o < 32) (h23 : v23 < 16) (h0 : v0 < 64) (hn : n = c * 134217728 + o * 262144)
    (h : r % 2 ^ 31 = n + v23 * 8388608 + v0) :
    fld r 27 4 = c ∧ fld r 18 5 = o ∧ fld r 6 12 = 0 ∧ fld r 0 6 = v0 ∧ fld r 23 4 = v23 := by
  refine ⟨?_, ?_, ?_, ?_, ?_⟩ <;> unfold fld <;> omega

theorem shape38 {r n c o v23 v12 v0 : Nat} (hc : c < 16) (ho : o < 32) (h23 : v23 < 16) (h12 : v12 < 64) (h0 : v0 < 64) (hn : n = c * 134217728 + o * 262144)
    (h : r % 2 ^ 31 = n + v23 * 8388608 + v12 * 4096 + v0) :
    fld r 27 4 = c ∧ fld r 18 5 = o ∧ fld r 6 6 = 0 ∧ fld r 12 6 = v12 ∧ fld r 0 6 = v0 ∧ fld r 23 4 = v23 := by
  refine ⟨?_, ?_, ?_, ?_, ?_, ?_⟩ <;> unfold fld <;> omega

/-! ## The constructors -/

theorem add (g : Nat) (d : Nat) (a : Nat) (b : Nat) : Statement (.add g d a b) := by
  intro x y hw he
  replace hw : (g < 16 && d < 64 && a < 64 && b < 64) = true := hw
  cases (show some ((0 + g * 8388608 + d * 4096 + a * 64 + b : Nat), (0 : Nat)) = some (x, y) from he)
  simp only [Bool.and_eq_true, decide_eq_true_eq] at hw
  refine ⟨by omega, by omega, fun r hr => ?_⟩
  obtain ⟨h0, h1, h2, h3, h4, h5⟩ := shape1 (r := r) (n := 0) (c := 0) (o := 0) (v23 := g) (v12 := d) (v6 := a) (v0 := b) (by decide) (by decide) (by omega) (by omega) (by omega) (by omega) rfl (by omega)
  apply of_op
  simp only [decodeOp, decodeC0, h0, h1, h2, h3, h4, h5]
  refine dz_ok rfl ?_
  rfl

theorem sub (g : Nat) (d : Nat) (a : Nat) (b : Nat) : Statement (.sub g d a b) := by
  intro x y hw he
  replace hw : (g < 16 && d < 64 && a < 64 && b < 64) = true := hw
  cases (show some ((0 + g * 8388608 + 262144 + d * 4096 + a * 64 + b : Nat), (0 : Nat)) = some (x, y) from he)
  simp only [Bool.and_eq_true, decide_eq_true_eq] at hw
  refine ⟨by omega, by omega, fun r hr => ?_⟩
  obtain ⟨h0, h1, h2, h3, h4, h5⟩ := shape1 (r := r) (n := 262144) (c := 0) (o := 1) (v23 := g) (v12 := d) (v6 := a) (v0 := b) (by decide) (by decide) (by omega) (by omega) (by omega) (by omega) rfl (by omega)
  apply of_op
  simp only [decodeOp, decodeC0, h0, h1, h2, h3, h4, h5]
  refine dz_ok rfl ?_
  rfl

theorem and_ (g : Nat) (d : Nat) (a : Nat) (b : Nat) : Statement (.and_ g d a b) := by
  intro x y hw he
  replace hw : (g < 16 && d < 64 && a < 64 && b < 64) = true := hw
  cases (show some ((0 + g * 8388608 + 524288 + d * 4096 + a * 64 + b : Nat), (0 : Nat)) = some (x, y) from he)
  simp only [Bool.and_eq_true, decide_eq_true_eq] at hw
  refine ⟨by omega, by omega, fun r hr => ?_⟩
  obtain ⟨h0, h1, h2, h3, h4, h5⟩ := shape1 (r := r) (n := 524288) (c := 0) (o := 2) (v23 := g) (v12 := d) (v6 := a) (v0 := b) (by decide) (by decide) (by omega) (by omega) (by omega) (by omega) rfl (by omega)
  apply of_op
  simp only [decodeOp, decodeC0, h0, h1, h2, h3, h4, h5]
  refine dz_ok rfl ?_
  rfl

theorem or_ (g : Nat) (d : Nat) (a : Nat) (b : Nat) : Statement (.or_ g d a b) := by
  intro x y hw he
  replace hw : (g < 16 && d < 64 && a < 64 && b < 64) = true := hw
  cases (show some ((0 + g * 8388608 + 786432 + d * 4096 + a * 64 + b : Nat), (0 : Nat)) = some (x, y) from he)
  simp only [Bool.and_eq_true, decide_eq_true_eq] at hw
  refine ⟨by omega, by omega, fun r hr => ?_⟩
  obtain ⟨h0, h1, h2, h3, h4, h5⟩ := shape1 (r := r) (n := 786432) (c := 0) (o := 3) (v23 := g) (v12 := d) (v6 := a) (v0 := b) (by decide) (by decide) (by omega) (by omega) (by omega) (by omega) rfl (by omega)
  apply of_op
  simp only [decodeOp, decodeC0, h0, h1, h2, h3, h4, h5]
  refine dz_ok rfl ?_
  rfl

theorem xor (g : Nat) (d : Nat) (a : Nat) (b : Nat) : Statement (.xor g d a b) := by
  intro x y hw he
  replace hw : (g < 16 && d < 64 && a < 64 && b < 64) = true := hw
  cases (show some ((0 + g * 8388608 + 1048576 + d * 4096 + a * 64 + b : Nat), (0 : Nat)) = some (x, y) from he)
  simp only [Bool.and_eq_true, decide_eq_true_eq] at hw
  refine ⟨by omega, by omega, fun r hr => ?_⟩
  obtain ⟨h0, h1, h2, h3, h4, h5⟩ := shape1 (r := r) (n := 1048576) (c := 0) (o := 4) (v23 := g) (v12 := d) (v6 := a) (v0 := b) (by decide) (by decide) (by omega) (by omega) (by omega) (by omega) rfl (by omega)
  apply of_op
  simp only [decodeOp, decodeC0, h0, h1, h2, h3, h4, h5]
  refine dz_ok rfl ?_
  rfl

theorem andn (g : Nat) (d : Nat) (a : Nat) (b : Nat) : Statement (.andn g d a b) := by
  intro x y hw he
  replace hw : (g < 16 && d < 64 && a < 64 && b < 64) = true := hw
  cases (show some ((0 + g * 8388608 + 1310720 + d * 4096 + a * 64 + b : Nat), (0 : Nat)) = some (x, y) from he)
  simp only [Bool.and_eq_true, decide_eq_true_eq] at hw
  refine ⟨by omega, by omega, fun r hr => ?_⟩
  obtain ⟨h0, h1, h2, h3, h4, h5⟩ := shape1 (r := r) (n := 1310720) (c := 0) (o := 5) (v23 := g) (v12 := d) (v6 := a) (v0 := b) (by decide) (by decide) (by omega) (by omega) (by omega) (by omega) rfl (by omega)
  apply of_op
  simp only [decodeOp, decodeC0, h0, h1, h2, h3, h4, h5]
  refine dz_ok rfl ?_
  rfl

theorem shl (g : Nat) (d : Nat) (a : Nat) (b : Nat) : Statement (.shl g d a b) := by
  intro x y hw he
  replace hw : (g < 16 && d < 64 && a < 64 && b < 64) = true := hw
  cases (show some ((0 + g * 8388608 + 1572864 + d * 4096 + a * 64 + b : Nat), (0 : Nat)) = some (x, y) from he)
  simp only [Bool.and_eq_true, decide_eq_true_eq] at hw
  refine ⟨by omega, by omega, fun r hr => ?_⟩
  obtain ⟨h0, h1, h2, h3, h4, h5⟩ := shape1 (r := r) (n := 1572864) (c := 0) (o := 6) (v23 := g) (v12 := d) (v6 := a) (v0 := b) (by decide) (by decide) (by omega) (by omega) (by omega) (by omega) rfl (by omega)
  apply of_op
  simp only [decodeOp, decodeC0, h0, h1, h2, h3, h4, h5]
  refine dz_ok rfl ?_
  rfl

theorem shr (g : Nat) (d : Nat) (a : Nat) (b : Nat) : Statement (.shr g d a b) := by
  intro x y hw he
  replace hw : (g < 16 && d < 64 && a < 64 && b < 64) = true := hw
  cases (show some ((0 + g * 8388608 + 1835008 + d * 4096 + a * 64 + b : Nat), (0 : Nat)) = some (x, y) from he)
  simp only [Bool.and_eq_true, decide_eq_true_eq] at hw
  refine ⟨by omega, by omega, fun r hr => ?_⟩
  obtain ⟨h0, h1, h2, h3, h4, h5⟩ := shape1 (r := r) (n := 1835008) (c := 0) (o := 7) (v23 := g) (v12 := d) (v6 := a) (v0 := b) (by decide) (by decide) (by omega) (by omega) (by omega) (by omega) rfl (by omega)
  apply of_op
  simp only [decodeOp, decodeC0, h0, h1, h2, h3, h4, h5]
  refine dz_ok rfl ?_
  rfl

theorem sra (g : Nat) (d : Nat) (a : Nat) (b : Nat) : Statement (.sra g d a b) := by
  intro x y hw he
  replace hw : (g < 16 && d < 64 && a < 64 && b < 64) = true := hw
  cases (show some ((0 + g * 8388608 + 2097152 + d * 4096 + a * 64 + b : Nat), (0 : Nat)) = some (x, y) from he)
  simp only [Bool.and_eq_true, decide_eq_true_eq] at hw
  refine ⟨by omega, by omega, fun r hr => ?_⟩
  obtain ⟨h0, h1, h2, h3, h4, h5⟩ := shape1 (r := r) (n := 2097152) (c := 0) (o := 8) (v23 := g) (v12 := d) (v6 := a) (v0 := b) (by decide) (by decide) (by omega) (by omega) (by omega) (by omega) rfl (by omega)
  apply of_op
  simp only [decodeOp, decodeC0, h0, h1, h2, h3, h4, h5]
  refine dz_ok rfl ?_
  rfl

theorem rot (g : Nat) (d : Nat) (a : Nat) (b : Nat) : Statement (.rot g d a b) := by
  intro x y hw he
  replace hw : (g < 16 && d < 64 && a < 64 && b < 64) = true := hw
  cases (show some ((0 + g * 8388608 + 2359296 + d * 4096 + a * 64 + b : Nat), (0 : Nat)) = some (x, y) from he)
  simp only [Bool.and_eq_true, decide_eq_true_eq] at hw
  refine ⟨by omega, by omega, fun r hr => ?_⟩
  obtain ⟨h0, h1, h2, h3, h4, h5⟩ := shape1 (r := r) (n := 2359296) (c := 0) (o := 9) (v23 := g) (v12 := d) (v6 := a) (v0 := b) (by decide) (by decide) (by omega) (by omega) (by omega) (by omega) rfl (by omega)
  apply of_op
  simp only [decodeOp, decodeC0, h0, h1, h2, h3, h4, h5]
  refine dz_ok rfl ?_
  rfl

theorem mul (g : Nat) (d : Nat) (a : Nat) (b : Nat) : Statement (.mul g d a b) := by
  intro x y hw he
  replace hw : (g < 16 && d < 64 && a < 64 && b < 64) = true := hw
  cases (show some ((0 + g * 8388608 + 2621440 + d * 4096 + a * 64 + b : Nat), (0 : Nat)) = some (x, y) from he)
  simp only [Bool.and_eq_true, decide_eq_true_eq] at hw
  refine ⟨by omega, by omega, fun r hr => ?_⟩
  obtain ⟨h0, h1, h2, h3, h4, h5⟩ := shape1 (r := r) (n := 2621440) (c := 0) (o := 10) (v23 := g) (v12 := d) (v6 := a) (v0 := b) (by decide) (by decide) (by omega) (by omega) (by omega) (by omega) rfl (by omega)
  apply of_op
  simp only [decodeOp, decodeC0, h0, h1, h2, h3, h4, h5]
  refine dz_ok rfl ?_
  rfl

theorem mulh (g : Nat) (d : Nat) (a : Nat) (b : Nat) : Statement (.mulh g d a b) := by
  intro x y hw he
  replace hw : (g < 16 && d < 64 && a < 64 && b < 64) = true := hw
  cases (show some ((0 + g * 8388608 + 2883584 + d * 4096 + a * 64 + b : Nat), (0 : Nat)) = some (x, y) from he)
  simp only [Bool.and_eq_true, decide_eq_true_eq] at hw
  refine ⟨by omega, by omega, fun r hr => ?_⟩
  obtain ⟨h0, h1, h2, h3, h4, h5⟩ := shape1 (r := r) (n := 2883584) (c := 0) (o := 11) (v23 := g) (v12 := d) (v6 := a) (v0 := b) (by decide) (by decide) (by omega) (by omega) (by omega) (by omega) rfl (by omega)
  apply of_op
  simp only [decodeOp, decodeC0, h0, h1, h2, h3, h4, h5]
  refine dz_ok rfl ?_
  rfl

theorem mulhu (g : Nat) (d : Nat) (a : Nat) (b : Nat) : Statement (.mulhu g d a b) := by
  intro x y hw he
  replace hw : (g < 16 && d < 64 && a < 64 && b < 64) = true := hw
  cases (show some ((0 + g * 8388608 + 3145728 + d * 4096 + a * 64 + b : Nat), (0 : Nat)) = some (x, y) from he)
  simp only [Bool.and_eq_true, decide_eq_true_eq] at hw
  refine ⟨by omega, by omega, fun r hr => ?_⟩
  obtain ⟨h0, h1, h2, h3, h4, h5⟩ := shape1 (r := r) (n := 3145728) (c := 0) (o := 12) (v23 := g) (v12 := d) (v6 := a) (v0 := b) (by decide) (by decide) (by omega) (by omega) (by omega) (by omega) rfl (by omega)
  apply of_op
  simp only [decodeOp, decodeC0, h0, h1, h2, h3, h4, h5]
  refine dz_ok rfl ?_
  rfl

theorem min (g : Nat) (d : Nat) (a : Nat) (b : Nat) : Statement (.min g d a b) := by
  intro x y hw he
  replace hw : (g < 16 && d < 64 && a < 64 && b < 64) = true := hw
  cases (show some ((0 + g * 8388608 + 3407872 + d * 4096 + a * 64 + b : Nat), (0 : Nat)) = some (x, y) from he)
  simp only [Bool.and_eq_true, decide_eq_true_eq] at hw
  refine ⟨by omega, by omega, fun r hr => ?_⟩
  obtain ⟨h0, h1, h2, h3, h4, h5⟩ := shape1 (r := r) (n := 3407872) (c := 0) (o := 13) (v23 := g) (v12 := d) (v6 := a) (v0 := b) (by decide) (by decide) (by omega) (by omega) (by omega) (by omega) rfl (by omega)
  apply of_op
  simp only [decodeOp, decodeC0, h0, h1, h2, h3, h4, h5]
  refine dz_ok rfl ?_
  rfl

theorem max (g : Nat) (d : Nat) (a : Nat) (b : Nat) : Statement (.max g d a b) := by
  intro x y hw he
  replace hw : (g < 16 && d < 64 && a < 64 && b < 64) = true := hw
  cases (show some ((0 + g * 8388608 + 3670016 + d * 4096 + a * 64 + b : Nat), (0 : Nat)) = some (x, y) from he)
  simp only [Bool.and_eq_true, decide_eq_true_eq] at hw
  refine ⟨by omega, by omega, fun r hr => ?_⟩
  obtain ⟨h0, h1, h2, h3, h4, h5⟩ := shape1 (r := r) (n := 3670016) (c := 0) (o := 14) (v23 := g) (v12 := d) (v6 := a) (v0 := b) (by decide) (by decide) (by omega) (by omega) (by omega) (by omega) rfl (by omega)
  apply of_op
  simp only [decodeOp, decodeC0, h0, h1, h2, h3, h4, h5]
  refine dz_ok rfl ?_
  rfl

theorem minu (g : Nat) (d : Nat) (a : Nat) (b : Nat) : Statement (.minu g d a b) := by
  intro x y hw he
  replace hw : (g < 16 && d < 64 && a < 64 && b < 64) = true := hw
  cases (show some ((0 + g * 8388608 + 3932160 + d * 4096 + a * 64 + b : Nat), (0 : Nat)) = some (x, y) from he)
  simp only [Bool.and_eq_true, decide_eq_true_eq] at hw
  refine ⟨by omega, by omega, fun r hr => ?_⟩
  obtain ⟨h0, h1, h2, h3, h4, h5⟩ := shape1 (r := r) (n := 3932160) (c := 0) (o := 15) (v23 := g) (v12 := d) (v6 := a) (v0 := b) (by decide) (by decide) (by omega) (by omega) (by omega) (by omega) rfl (by omega)
  apply of_op
  simp only [decodeOp, decodeC0, h0, h1, h2, h3, h4, h5]
  refine dz_ok rfl ?_
  rfl

theorem maxu (g : Nat) (d : Nat) (a : Nat) (b : Nat) : Statement (.maxu g d a b) := by
  intro x y hw he
  replace hw : (g < 16 && d < 64 && a < 64 && b < 64) = true := hw
  cases (show some ((0 + g * 8388608 + 4194304 + d * 4096 + a * 64 + b : Nat), (0 : Nat)) = some (x, y) from he)
  simp only [Bool.and_eq_true, decide_eq_true_eq] at hw
  refine ⟨by omega, by omega, fun r hr => ?_⟩
  obtain ⟨h0, h1, h2, h3, h4, h5⟩ := shape1 (r := r) (n := 4194304) (c := 0) (o := 16) (v23 := g) (v12 := d) (v6 := a) (v0 := b) (by decide) (by decide) (by omega) (by omega) (by omega) (by omega) rfl (by omega)
  apply of_op
  simp only [decodeOp, decodeC0, h0, h1, h2, h3, h4, h5]
  refine dz_ok rfl ?_
  rfl

theorem sel (g : Nat) (d : Nat) (a : Nat) (b : Nat) (k : Nat) : Statement (.sel g d a b k) := by
  intro x y hw he
  replace hw : (g < 16 && d < 64 && a < 64 && b < 64 && k < 16) = true := hw
  cases (show some ((0 + g * 8388608 + 4456448 + d * 4096 + a * 64 + b : Nat), (k : Nat)) = some (x, y) from he)
  simp only [Bool.and_eq_true, decide_eq_true_eq] at hw
  refine ⟨by omega, by omega, fun r hr => ?_⟩
  obtain ⟨h0, h1, h2, h3, h4, h5⟩ := shape1 (r := r) (n := 4456448) (c := 0) (o := 17) (v23 := g) (v12 := d) (v6 := a) (v0 := b) (by decide) (by decide) (by omega) (by omega) (by omega) (by omega) rfl (by omega)
  apply of_op
  simp only [decodeOp, decodeC0, h0, h1, h2, h3, h4, h5]
  refine dz_ok (by unfold fld; omega) ?_
  congr 1; first | omega | (unfold fld; omega)

theorem clz (g : Nat) (d : Nat) (a : Nat) : Statement (.clz g d a) := by
  intro x y hw he
  replace hw : (g < 16 && d < 64 && a < 64) = true := hw
  cases (show some ((0 + g * 8388608 + 4718592 + d * 4096 + a * 64 : Nat), (0 : Nat)) = some (x, y) from he)
  simp only [Bool.and_eq_true, decide_eq_true_eq] at hw
  refine ⟨by omega, by omega, fun r hr => ?_⟩
  obtain ⟨h0, h1, h2, h3, h4, h5⟩ := shape2 (r := r) (n := 4718592) (c := 0) (o := 18) (v23 := g) (v12 := d) (v6 := a) (by decide) (by decide) (by omega) (by omega) (by omega) rfl (by omega)
  apply of_op
  simp only [decodeOp, decodeC0, h0, h1, h2, h3, h4, h5]
  refine dz_ok rfl ?_
  rfl

theorem ctz (g : Nat) (d : Nat) (a : Nat) : Statement (.ctz g d a) := by
  intro x y hw he
  replace hw : (g < 16 && d < 64 && a < 64) = true := hw
  cases (show some ((0 + g * 8388608 + 4980736 + d * 4096 + a * 64 : Nat), (0 : Nat)) = some (x, y) from he)
  simp only [Bool.and_eq_true, decide_eq_true_eq] at hw
  refine ⟨by omega, by omega, fun r hr => ?_⟩
  obtain ⟨h0, h1, h2, h3, h4, h5⟩ := shape2 (r := r) (n := 4980736) (c := 0) (o := 19) (v23 := g) (v12 := d) (v6 := a) (by decide) (by decide) (by omega) (by omega) (by omega) rfl (by omega)
  apply of_op
  simp only [decodeOp, decodeC0, h0, h1, h2, h3, h4, h5]
  refine dz_ok rfl ?_
  rfl

theorem popc (g : Nat) (d : Nat) (a : Nat) : Statement (.popc g d a) := by
  intro x y hw he
  replace hw : (g < 16 && d < 64 && a < 64) = true := hw
  cases (show some ((0 + g * 8388608 + 5242880 + d * 4096 + a * 64 : Nat), (0 : Nat)) = some (x, y) from he)
  simp only [Bool.and_eq_true, decide_eq_true_eq] at hw
  refine ⟨by omega, by omega, fun r hr => ?_⟩
  obtain ⟨h0, h1, h2, h3, h4, h5⟩ := shape2 (r := r) (n := 5242880) (c := 0) (o := 20) (v23 := g) (v12 := d) (v6 := a) (by decide) (by decide) (by omega) (by omega) (by omega) rfl (by omega)
  apply of_op
  simp only [decodeOp, decodeC0, h0, h1, h2, h3, h4, h5]
  refine dz_ok rfl ?_
  rfl

theorem brev (g : Nat) (d : Nat) (a : Nat) : Statement (.brev g d a) := by
  intro x y hw he
  replace hw : (g < 16 && d < 64 && a < 64) = true := hw
  cases (show some ((0 + g * 8388608 + 5505024 + d * 4096 + a * 64 : Nat), (0 : Nat)) = some (x, y) from he)
  simp only [Bool.and_eq_true, decide_eq_true_eq] at hw
  refine ⟨by omega, by omega, fun r hr => ?_⟩
  obtain ⟨h0, h1, h2, h3, h4, h5⟩ := shape2 (r := r) (n := 5505024) (c := 0) (o := 21) (v23 := g) (v12 := d) (v6 := a) (by decide) (by decide) (by omega) (by omega) (by omega) rfl (by omega)
  apply of_op
  simp only [decodeOp, decodeC0, h0, h1, h2, h3, h4, h5]
  refine dz_ok rfl ?_
  rfl

theorem sext (g : Nat) (d : Nat) (a : Nat) (wd : Nat) : Statement (.sext g d a wd) := by
  intro x y hw he
  replace hw : (g < 16 && d < 64 && a < 64 && wd < 64) = true := hw
  cases (show some ((0 + g * 8388608 + 5767168 + d * 4096 + a * 64 + wd : Nat), (0 : Nat)) = some (x, y) from he)
  simp only [Bool.and_eq_true, decide_eq_true_eq] at hw
  refine ⟨by omega, by omega, fun r hr => ?_⟩
  obtain ⟨h0, h1, h2, h3, h4, h5⟩ := shape1 (r := r) (n := 5767168) (c := 0) (o := 22) (v23 := g) (v12 := d) (v6 := a) (v0 := wd) (by decide) (by decide) (by omega) (by omega) (by omega) (by omega) rfl (by omega)
  apply of_op
  simp only [decodeOp, decodeC0, h0, h1, h2, h3, h4, h5]
  refine dz_ok rfl ?_
  rfl

theorem zext (g : Nat) (d : Nat) (a : Nat) (wd : Nat) : Statement (.zext g d a wd) := by
  intro x y hw he
  replace hw : (g < 16 && d < 64 && a < 64 && wd < 64) = true := hw
  cases (show some ((0 + g * 8388608 + 6029312 + d * 4096 + a * 64 + wd : Nat), (0 : Nat)) = some (x, y) from he)
  simp only [Bool.and_eq_true, decide_eq_true_eq] at hw
  refine ⟨by omega, by omega, fun r hr => ?_⟩
  obtain ⟨h0, h1, h2, h3, h4, h5⟩ := shape1 (r := r) (n := 6029312) (c := 0) (o := 23) (v23 := g) (v12 := d) (v6 := a) (v0 := wd) (by decide) (by decide) (by omega) (by omega) (by omega) (by omega) rfl (by omega)
  apply of_op
  simp only [decodeOp, decodeC0, h0, h1, h2, h3, h4, h5]
  refine dz_ok rfl ?_
  rfl

theorem div (g : Nat) (d : Nat) (a : Nat) (b : Nat) : Statement (.div g d a b) := by
  intro x y hw he
  replace hw : (g < 16 && d < 64 && a < 64 && b < 64) = true := hw
  cases (show some ((0 + g * 8388608 + 6291456 + d * 4096 + a * 64 + b : Nat), (0 : Nat)) = some (x, y) from he)
  simp only [Bool.and_eq_true, decide_eq_true_eq] at hw
  refine ⟨by omega, by omega, fun r hr => ?_⟩
  obtain ⟨h0, h1, h2, h3, h4, h5⟩ := shape1 (r := r) (n := 6291456) (c := 0) (o := 24) (v23 := g) (v12 := d) (v6 := a) (v0 := b) (by decide) (by decide) (by omega) (by omega) (by omega) (by omega) rfl (by omega)
  apply of_op
  simp only [decodeOp, decodeC0, h0, h1, h2, h3, h4, h5]
  refine dz_ok rfl ?_
  rfl

theorem divu (g : Nat) (d : Nat) (a : Nat) (b : Nat) : Statement (.divu g d a b) := by
  intro x y hw he
  replace hw : (g < 16 && d < 64 && a < 64 && b < 64) = true := hw
  cases (show some ((0 + g * 8388608 + 6553600 + d * 4096 + a * 64 + b : Nat), (0 : Nat)) = some (x, y) from he)
  simp only [Bool.and_eq_true, decide_eq_true_eq] at hw
  refine ⟨by omega, by omega, fun r hr => ?_⟩
  obtain ⟨h0, h1, h2, h3, h4, h5⟩ := shape1 (r := r) (n := 6553600) (c := 0) (o := 25) (v23 := g) (v12 := d) (v6 := a) (v0 := b) (by decide) (by decide) (by omega) (by omega) (by omega) (by omega) rfl (by omega)
  apply of_op
  simp only [decodeOp, decodeC0, h0, h1, h2, h3, h4, h5]
  refine dz_ok rfl ?_
  rfl

theorem rem (g : Nat) (d : Nat) (a : Nat) (b : Nat) : Statement (.rem g d a b) := by
  intro x y hw he
  replace hw : (g < 16 && d < 64 && a < 64 && b < 64) = true := hw
  cases (show some ((0 + g * 8388608 + 6815744 + d * 4096 + a * 64 + b : Nat), (0 : Nat)) = some (x, y) from he)
  simp only [Bool.and_eq_true, decide_eq_true_eq] at hw
  refine ⟨by omega, by omega, fun r hr => ?_⟩
  obtain ⟨h0, h1, h2, h3, h4, h5⟩ := shape1 (r := r) (n := 6815744) (c := 0) (o := 26) (v23 := g) (v12 := d) (v6 := a) (v0 := b) (by decide) (by decide) (by omega) (by omega) (by omega) (by omega) rfl (by omega)
  apply of_op
  simp only [decodeOp, decodeC0, h0, h1, h2, h3, h4, h5]
  refine dz_ok rfl ?_
  rfl

theorem remu (g : Nat) (d : Nat) (a : Nat) (b : Nat) : Statement (.remu g d a b) := by
  intro x y hw he
  replace hw : (g < 16 && d < 64 && a < 64 && b < 64) = true := hw
  cases (show some ((0 + g * 8388608 + 7077888 + d * 4096 + a * 64 + b : Nat), (0 : Nat)) = some (x, y) from he)
  simp only [Bool.and_eq_true, decide_eq_true_eq] at hw
  refine ⟨by omega, by omega, fun r hr => ?_⟩
  obtain ⟨h0, h1, h2, h3, h4, h5⟩ := shape1 (r := r) (n := 7077888) (c := 0) (o := 27) (v23 := g) (v12 := d) (v6 := a) (v0 := b) (by decide) (by decide) (by omega) (by omega) (by omega) (by omega) rfl (by omega)
  apply of_op
  simp only [decodeOp, decodeC0, h0, h1, h2, h3, h4, h5]
  refine dz_ok rfl ?_
  rfl

theorem addi (g : Nat) (d : Nat) (a : Nat) (i : Int) : Statement (.addi g d a i) := by
  intro x y hw he
  replace hw : (g < 16 && d < 64 && a < 64 && fits 15 i) = true := hw
  cases (show some ((134217728 + g * 8388608 + d * 8192 + a * 128 + ux 15 i % 128 : Nat), (ux 15 i / 128 : Nat)) = some (x, y) from he)
  simp only [Bool.and_eq_true, decide_eq_true_eq] at hw
  have l_i := @ux_lt 15 i
  have s_i : ∀ z, z = ux 15 i → sx 15 z = i := fun z => sx_ux (by decide) (by tauto)
  generalize ux 15 i = q_i at *
  refine ⟨by omega, by omega, fun r hr => ?_⟩
  obtain ⟨h0, h1, h2, h3, h4, h5⟩ := shape3 (r := r) (n := 134217728) (c := 1) (o := 0) (v23 := g) (v13 := d) (v7 := a) (v0 := q_i % 128) (by decide) (by decide) (by omega) (by omega) (by omega) (by omega) rfl (by omega)
  apply of_op
  simp only [decodeOp, decodeC1, h0, h1, h2, h3, h4, h5]
  refine dz_ok rfl ?_
  congr 1; first | omega | (unfold fld; omega) | (apply s_i; omega)

theorem andi (g : Nat) (d : Nat) (a : Nat) (i : Int) : Statement (.andi g d a i) := by
  intro x y hw he
  replace hw : (g < 16 && d < 64 && a < 64 && fits 15 i) = true := hw
  cases (show some ((134217728 + g * 8388608 + 524288 + d * 8192 + a * 128 + ux 15 i % 128 : Nat), (ux 15 i / 128 : Nat)) = some (x, y) from he)
  simp only [Bool.and_eq_true, decide_eq_true_eq] at hw
  have l_i := @ux_lt 15 i
  have s_i : ∀ z, z = ux 15 i → sx 15 z = i := fun z => sx_ux (by decide) (by tauto)
  generalize ux 15 i = q_i at *
  refine ⟨by omega, by omega, fun r hr => ?_⟩
  obtain ⟨h0, h1, h2, h3, h4, h5⟩ := shape3 (r := r) (n := 134742016) (c := 1) (o := 1) (v23 := g) (v13 := d) (v7 := a) (v0 := q_i % 128) (by decide) (by decide) (by omega) (by omega) (by omega) (by omega) rfl (by omega)
  apply of_op
  simp only [decodeOp, decodeC1, h0, h1, h2, h3, h4, h5]
  refine dz_ok rfl ?_
  congr 1; first | omega | (unfold fld; omega) | (apply s_i; omega)

theorem ori (g : Nat) (d : Nat) (a : Nat) (i : Int) : Statement (.ori g d a i) := by
  intro x y hw he
  replace hw : (g < 16 && d < 64 && a < 64 && fits 15 i) = true := hw
  cases (show some ((134217728 + g * 8388608 + 1048576 + d * 8192 + a * 128 + ux 15 i % 128 : Nat), (ux 15 i / 128 : Nat)) = some (x, y) from he)
  simp only [Bool.and_eq_true, decide_eq_true_eq] at hw
  have l_i := @ux_lt 15 i
  have s_i : ∀ z, z = ux 15 i → sx 15 z = i := fun z => sx_ux (by decide) (by tauto)
  generalize ux 15 i = q_i at *
  refine ⟨by omega, by omega, fun r hr => ?_⟩
  obtain ⟨h0, h1, h2, h3, h4, h5⟩ := shape3 (r := r) (n := 135266304) (c := 1) (o := 2) (v23 := g) (v13 := d) (v7 := a) (v0 := q_i % 128) (by decide) (by decide) (by omega) (by omega) (by omega) (by omega) rfl (by omega)
  apply of_op
  simp only [decodeOp, decodeC1, h0, h1, h2, h3, h4, h5]
  refine dz_ok rfl ?_
  congr 1; first | omega | (unfold fld; omega) | (apply s_i; omega)

theorem xori (g : Nat) (d : Nat) (a : Nat) (i : Int) : Statement (.xori g d a i) := by
  intro x y hw he
  replace hw : (g < 16 && d < 64 && a < 64 && fits 15 i) = true := hw
  cases (show some ((134217728 + g * 8388608 + 1572864 + d * 8192 + a * 128 + ux 15 i % 128 : Nat), (ux 15 i / 128 : Nat)) = some (x, y) from he)
  simp only [Bool.and_eq_true, decide_eq_true_eq] at hw
  have l_i := @ux_lt 15 i
  have s_i : ∀ z, z = ux 15 i → sx 15 z = i := fun z => sx_ux (by decide) (by tauto)
  generalize ux 15 i = q_i at *
  refine ⟨by omega, by omega, fun r hr => ?_⟩
  obtain ⟨h0, h1, h2, h3, h4, h5⟩ := shape3 (r := r) (n := 135790592) (c := 1) (o := 3) (v23 := g) (v13 := d) (v7 := a) (v0 := q_i % 128) (by decide) (by decide) (by omega) (by omega) (by omega) (by omega) rfl (by omega)
  apply of_op
  simp only [decodeOp, decodeC1, h0, h1, h2, h3, h4, h5]
  refine dz_ok rfl ?_
  congr 1; first | omega | (unfold fld; omega) | (apply s_i; omega)

theorem shli (g : Nat) (d : Nat) (a : Nat) (s : Nat) : Statement (.shli g d a s) := by
  intro x y hw he
  replace hw : (g < 16 && d < 64 && a < 64 && s < 64) = true := hw
  cases (show some ((134217728 + g * 8388608 + 2097152 + d * 8192 + a * 128 + s : Nat), (0 : Nat)) = some (x, y) from he)
  simp only [Bool.and_eq_true, decide_eq_true_eq] at hw
  refine ⟨by omega, by omega, fun r hr => ?_⟩
  obtain ⟨h0, h1, h2, h3, h4, h5, h6⟩ := shape4 (r := r) (n := 136314880) (c := 1) (o := 4) (v23 := g) (v13 := d) (v7 := a) (v0 := s) (by decide) (by decide) (by omega) (by omega) (by omega) (by omega) rfl (by omega)
  apply of_op
  simp only [decodeOp, decodeC1, h0, h1, h2, h3, h4, h5, h6]
  refine dz_ok rfl ?_
  rfl

theorem shri (g : Nat) (d : Nat) (a : Nat) (s : Nat) : Statement (.shri g d a s) := by
  intro x y hw he
  replace hw : (g < 16 && d < 64 && a < 64 && s < 64) = true := hw
  cases (show some ((134217728 + g * 8388608 + 2621440 + d * 8192 + a * 128 + s : Nat), (0 : Nat)) = some (x, y) from he)
  simp only [Bool.and_eq_true, decide_eq_true_eq] at hw
  refine ⟨by omega, by omega, fun r hr => ?_⟩
  obtain ⟨h0, h1, h2, h3, h4, h5, h6⟩ := shape4 (r := r) (n := 136839168) (c := 1) (o := 5) (v23 := g) (v13 := d) (v7 := a) (v0 := s) (by decide) (by decide) (by omega) (by omega) (by omega) (by omega) rfl (by omega)
  apply of_op
  simp only [decodeOp, decodeC1, h0, h1, h2, h3, h4, h5, h6]
  refine dz_ok rfl ?_
  rfl

theorem srai (g : Nat) (d : Nat) (a : Nat) (s : Nat) : Statement (.srai g d a s) := by
  intro x y hw he
  replace hw : (g < 16 && d < 64 && a < 64 && s < 64) = true := hw
  cases (show some ((134217728 + g * 8388608 + 3145728 + d * 8192 + a * 128 + s : Nat), (0 : Nat)) = some (x, y) from he)
  simp only [Bool.and_eq_true, decide_eq_true_eq] at hw
  refine ⟨by omega, by omega, fun r hr => ?_⟩
  obtain ⟨h0, h1, h2, h3, h4, h5, h6⟩ := shape4 (r := r) (n := 137363456) (c := 1) (o := 6) (v23 := g) (v13 := d) (v7 := a) (v0 := s) (by decide) (by decide) (by omega) (by omega) (by omega) (by omega) rfl (by omega)
  apply of_op
  simp only [decodeOp, decodeC1, h0, h1, h2, h3, h4, h5, h6]
  refine dz_ok rfl ?_
  rfl

theorem muli (g : Nat) (d : Nat) (a : Nat) (i : Int) : Statement (.muli g d a i) := by
  intro x y hw he
  replace hw : (g < 16 && d < 64 && a < 64 && fits 15 i) = true := hw
  cases (show some ((134217728 + g * 8388608 + 3670016 + d * 8192 + a * 128 + ux 15 i % 128 : Nat), (ux 15 i / 128 : Nat)) = some (x, y) from he)
  simp only [Bool.and_eq_true, decide_eq_true_eq] at hw
  have l_i := @ux_lt 15 i
  have s_i : ∀ z, z = ux 15 i → sx 15 z = i := fun z => sx_ux (by decide) (by tauto)
  generalize ux 15 i = q_i at *
  refine ⟨by omega, by omega, fun r hr => ?_⟩
  obtain ⟨h0, h1, h2, h3, h4, h5⟩ := shape3 (r := r) (n := 137887744) (c := 1) (o := 7) (v23 := g) (v13 := d) (v7 := a) (v0 := q_i % 128) (by decide) (by decide) (by omega) (by omega) (by omega) (by omega) rfl (by omega)
  apply of_op
  simp only [decodeOp, decodeC1, h0, h1, h2, h3, h4, h5]
  refine dz_ok rfl ?_
  congr 1; first | omega | (unfold fld; omega) | (apply s_i; omega)

theorem movi (g : Nat) (d : Nat) (i : Int) : Statement (.movi g d i) := by
  intro x y hw he
  replace hw : (g < 16 && d < 64 && fits 21 i) = true := hw
  cases (show some ((134217728 + g * 8388608 + 4194304 + d * 8192 + ux 21 i % 8192 : Nat), (ux 21 i / 8192 : Nat)) = some (x, y) from he)
  simp only [Bool.and_eq_true, decide_eq_true_eq] at hw
  have l_i := @ux_lt 21 i
  have s_i : ∀ z, z = ux 21 i → sx 21 z = i := fun z => sx_ux (by decide) (by tauto)
  generalize ux 21 i = q_i at *
  refine ⟨by omega, by omega, fun r hr => ?_⟩
  obtain ⟨h0, h1, h2, h3, h4⟩ := shape5 (r := r) (n := 138412032) (c := 1) (o := 8) (v23 := g) (v13 := d) (v0 := q_i % 8192) (by decide) (by decide) (by omega) (by omega) (by omega) rfl (by omega)
  apply of_op
  simp only [decodeOp, decodeC1, h0, h1, h2, h3, h4]
  refine dz_ok rfl ?_
  congr 1; first | omega | (unfold fld; omega) | (apply s_i; omega)

theorem movw (g : Nat) (d : Nat) (data : Nat) (h : Nat) : Statement (.movw g d data h) := by
  intro x y hw he
  replace hw : (g < 16 && d < 64 && data < 65536 && h < 4) = true := hw
  cases (show some ((134217728 + g * 8388608 + 4718592 + d * 8192 + data % 8192 : Nat), (data / 8192 + h * 8 : Nat)) = some (x, y) from he)
  simp only [Bool.and_eq_true, decide_eq_true_eq] at hw
  refine ⟨by omega, by omega, fun r hr => ?_⟩
  obtain ⟨h0, h1, h2, h3, h4⟩ := shape5 (r := r) (n := 138936320) (c := 1) (o := 9) (v23 := g) (v13 := d) (v0 := data % 8192) (by decide) (by decide) (by omega) (by omega) (by omega) rfl (by omega)
  apply of_op
  simp only [decodeOp, decodeC1, h0, h1, h2, h3, h4]
  refine dz_ok (by omega) ?_
  congr 1 <;> first | omega | (unfold fld; omega)

theorem mini (g : Nat) (d : Nat) (a : Nat) (i : Int) : Statement (.mini g d a i) := by
  intro x y hw he
  replace hw : (g < 16 && d < 64 && a < 64 && fits 15 i) = true := hw
  cases (show some ((134217728 + g * 8388608 + 5242880 + d * 8192 + a * 128 + ux 15 i % 128 : Nat), (ux 15 i / 128 : Nat)) = some (x, y) from he)
  simp only [Bool.and_eq_true, decide_eq_true_eq] at hw
  have l_i := @ux_lt 15 i
  have s_i : ∀ z, z = ux 15 i → sx 15 z = i := fun z => sx_ux (by decide) (by tauto)
  generalize ux 15 i = q_i at *
  refine ⟨by omega, by omega, fun r hr => ?_⟩
  obtain ⟨h0, h1, h2, h3, h4, h5⟩ := shape3 (r := r) (n := 139460608) (c := 1) (o := 10) (v23 := g) (v13 := d) (v7 := a) (v0 := q_i % 128) (by decide) (by decide) (by omega) (by omega) (by omega) (by omega) rfl (by omega)
  apply of_op
  simp only [decodeOp, decodeC1, h0, h1, h2, h3, h4, h5]
  refine dz_ok rfl ?_
  congr 1; first | omega | (unfold fld; omega) | (apply s_i; omega)

theorem maxi (g : Nat) (d : Nat) (a : Nat) (i : Int) : Statement (.maxi g d a i) := by
  intro x y hw he
  replace hw : (g < 16 && d < 64 && a < 64 && fits 15 i) = true := hw
  cases (show some ((134217728 + g * 8388608 + 5767168 + d * 8192 + a * 128 + ux 15 i % 128 : Nat), (ux 15 i / 128 : Nat)) = some (x, y) from he)
  simp only [Bool.and_eq_true, decide_eq_true_eq] at hw
  have l_i := @ux_lt 15 i
  have s_i : ∀ z, z = ux 15 i → sx 15 z = i := fun z => sx_ux (by decide) (by tauto)
  generalize ux 15 i = q_i at *
  refine ⟨by omega, by omega, fun r hr => ?_⟩
  obtain ⟨h0, h1, h2, h3, h4, h5⟩ := shape3 (r := r) (n := 139984896) (c := 1) (o := 11) (v23 := g) (v13 := d) (v7 := a) (v0 := q_i % 128) (by decide) (by decide) (by omega) (by omega) (by omega) (by omega) rfl (by omega)
  apply of_op
  simp only [decodeOp, decodeC1, h0, h1, h2, h3, h4, h5]
  refine dz_ok rfl ?_
  congr 1; first | omega | (unfold fld; omega) | (apply s_i; omega)

theorem cmp (g : Nat) (cc : Cond) (k : Nat) (a : Nat) (b : Nat) : Statement (.cmp g cc k a b) := by
  intro x y hw he
  replace hw : (g < 16 && k < 8 && a < 64 && b < 64 && cc.forInt) = true := hw
  cases (show some ((268435456 + g * 8388608 + condCode cc * 65536 + k * 8192 + a * 128 + b : Nat), (0 : Nat)) = some (x, y) from he)
  simp only [Bool.and_eq_true, decide_eq_true_eq] at hw
  have l_cc := condCode_lt cc
  have o_cc := condOf_condCode cc
  generalize condCode cc = n_cc at *
  refine ⟨by omega, by omega, fun r hr => ?_⟩
  obtain ⟨h0, h1, h2, h3, h4, h5, h6, h7⟩ := shape6 (r := r) (n := 268435456) (c := 2) (o := 0) (v23 := g) (v16 := n_cc) (v13 := k) (v7 := a) (v0 := b) (by decide) (by decide) (by omega) (by omega) (by omega) (by omega) (by omega) rfl (by omega)
  apply of_op
  simp only [decodeOp, decodeC2, h0, h1, h2, h3, h4, h5, h6, h7, withCond, o_cc]
  refine dz_ok rfl ?_
  rfl

theorem cmpi (g : Nat) (cc : Cond) (k : Nat) (a : Nat) (i : Int) : Statement (.cmpi g cc k a i) := by
  intro x y hw he
  replace hw : (g < 16 && k < 8 && a < 64 && fits 15 i && cc.forInt) = true := hw
  cases (show some ((268435456 + g * 8388608 + 1048576 + condCode cc * 65536 + k * 8192 + a * 128 + ux 15 i % 128 : Nat), (ux 15 i / 128 : Nat)) = some (x, y) from he)
  simp only [Bool.and_eq_true, decide_eq_true_eq] at hw
  have l_cc := condCode_lt cc
  have o_cc := condOf_condCode cc
  generalize condCode cc = n_cc at *
  have l_i := @ux_lt 15 i
  have s_i : ∀ z, z = ux 15 i → sx 15 z = i := fun z => sx_ux (by decide) (by tauto)
  generalize ux 15 i = q_i at *
  refine ⟨by omega, by omega, fun r hr => ?_⟩
  obtain ⟨h0, h1, h2, h3, h4, h5, h6⟩ := shape7 (r := r) (n := 269484032) (c := 2) (o := 1) (v23 := g) (v16 := n_cc) (v13 := k) (v7 := a) (v0 := q_i % 128) (by decide) (by decide) (by omega) (by omega) (by omega) (by omega) (by omega) rfl (by omega)
  apply of_op
  simp only [decodeOp, decodeC2, h0, h1, h2, h3, h4, h5, h6, withCond, o_cc]
  refine dz_ok rfl ?_
  congr 1; first | omega | (unfold fld; omega) | (apply s_i; omega)

theorem pand (g : Nat) (d : Nat) (a : Nat) (b : Nat) : Statement (.pand g d a b) := by
  intro x y hw he
  replace hw : (g < 16 && d < 16 && a < 16 && b < 16) = true := hw
  cases (show some ((268435456 + g * 8388608 + 2097152 + d * 4096 + a * 256 + b * 16 : Nat), (0 : Nat)) = some (x, y) from he)
  simp only [Bool.and_eq_true, decide_eq_true_eq] at hw
  refine ⟨by omega, by omega, fun r hr => ?_⟩
  obtain ⟨h0, h1, h2, h3, h4, h5, h6, h7⟩ := shape8 (r := r) (n := 270532608) (c := 2) (o := 2) (o2 := 0) (v23 := g) (v12 := d) (v8 := a) (v4 := b) (by decide) (by decide) (by decide) (by omega) (by omega) (by omega) (by omega) rfl (by omega)
  apply of_op
  simp only [decodeOp, decodeC2, h0, h1, h2, h3, h4, h5, h6, h7]
  refine dz_ok rfl ?_
  rfl

theorem por (g : Nat) (d : Nat) (a : Nat) (b : Nat) : Statement (.por g d a b) := by
  intro x y hw he
  replace hw : (g < 16 && d < 16 && a < 16 && b < 16) = true := hw
  cases (show some ((268435456 + g * 8388608 + 2162688 + d * 4096 + a * 256 + b * 16 : Nat), (0 : Nat)) = some (x, y) from he)
  simp only [Bool.and_eq_true, decide_eq_true_eq] at hw
  refine ⟨by omega, by omega, fun r hr => ?_⟩
  obtain ⟨h0, h1, h2, h3, h4, h5, h6, h7⟩ := shape8 (r := r) (n := 270598144) (c := 2) (o := 2) (o2 := 1) (v23 := g) (v12 := d) (v8 := a) (v4 := b) (by decide) (by decide) (by decide) (by omega) (by omega) (by omega) (by omega) rfl (by omega)
  apply of_op
  simp only [decodeOp, decodeC2, h0, h1, h2, h3, h4, h5, h6, h7]
  refine dz_ok rfl ?_
  rfl

theorem pxor (g : Nat) (d : Nat) (a : Nat) (b : Nat) : Statement (.pxor g d a b) := by
  intro x y hw he
  replace hw : (g < 16 && d < 16 && a < 16 && b < 16) = true := hw
  cases (show some ((268435456 + g * 8388608 + 2228224 + d * 4096 + a * 256 + b * 16 : Nat), (0 : Nat)) = some (x, y) from he)
  simp only [Bool.and_eq_true, decide_eq_true_eq] at hw
  refine ⟨by omega, by omega, fun r hr => ?_⟩
  obtain ⟨h0, h1, h2, h3, h4, h5, h6, h7⟩ := shape8 (r := r) (n := 270663680) (c := 2) (o := 2) (o2 := 2) (v23 := g) (v12 := d) (v8 := a) (v4 := b) (by decide) (by decide) (by decide) (by omega) (by omega) (by omega) (by omega) rfl (by omega)
  apply of_op
  simp only [decodeOp, decodeC2, h0, h1, h2, h3, h4, h5, h6, h7]
  refine dz_ok rfl ?_
  rfl

theorem pandn (g : Nat) (d : Nat) (a : Nat) (b : Nat) : Statement (.pandn g d a b) := by
  intro x y hw he
  replace hw : (g < 16 && d < 16 && a < 16 && b < 16) = true := hw
  cases (show some ((268435456 + g * 8388608 + 2293760 + d * 4096 + a * 256 + b * 16 : Nat), (0 : Nat)) = some (x, y) from he)
  simp only [Bool.and_eq_true, decide_eq_true_eq] at hw
  refine ⟨by omega, by omega, fun r hr => ?_⟩
  obtain ⟨h0, h1, h2, h3, h4, h5, h6, h7⟩ := shape8 (r := r) (n := 270729216) (c := 2) (o := 2) (o2 := 3) (v23 := g) (v12 := d) (v8 := a) (v4 := b) (by decide) (by decide) (by decide) (by omega) (by omega) (by omega) (by omega) rfl (by omega)
  apply of_op
  simp only [decodeOp, decodeC2, h0, h1, h2, h3, h4, h5, h6, h7]
  refine dz_ok rfl ?_
  rfl

theorem pnot (g : Nat) (d : Nat) (a : Nat) : Statement (.pnot g d a) := by
  intro x y hw he
  replace hw : (g < 16 && d < 16 && a < 16) = true := hw
  cases (show some ((268435456 + g * 8388608 + 2359296 + d * 4096 + a * 256 : Nat), (0 : Nat)) = some (x, y) from he)
  simp only [Bool.and_eq_true, decide_eq_true_eq] at hw
  refine ⟨by omega, by omega, fun r hr => ?_⟩
  obtain ⟨h0, h1, h2, h3, h4, h5, h6, h7⟩ := shape9 (r := r) (n := 270794752) (c := 2) (o := 2) (o2 := 4) (v23 := g) (v12 := d) (v8 := a) (by decide) (by decide) (by decide) (by omega) (by omega) (by omega) rfl (by omega)
  apply of_op
  simp only [decodeOp, decodeC2, h0, h1, h2, h3, h4, h5, h6, h7]
  refine dz_ok rfl ?_
  rfl

theorem pmov (g : Nat) (d : Nat) (a : Nat) : Statement (.pmov g d a) := by
  intro x y hw he
  replace hw : (g < 16 && d < 16 && a < 16) = true := hw
  cases (show some ((268435456 + g * 8388608 + 2424832 + d * 4096 + a * 256 : Nat), (0 : Nat)) = some (x, y) from he)
  simp only [Bool.and_eq_true, decide_eq_true_eq] at hw
  refine ⟨by omega, by omega, fun r hr => ?_⟩
  obtain ⟨h0, h1, h2, h3, h4, h5, h6, h7⟩ := shape9 (r := r) (n := 270860288) (c := 2) (o := 2) (o2 := 5) (v23 := g) (v12 := d) (v8 := a) (by decide) (by decide) (by decide) (by omega) (by omega) (by omega) rfl (by omega)
  apply of_op
  simp only [decodeOp, decodeC2, h0, h1, h2, h3, h4, h5, h6, h7]
  refine dz_ok rfl ?_
  rfl

theorem fcmp (g : Nat) (cc : Cond) (k : Nat) (a : Nat) (b : Nat) : Statement (.fcmp g cc k a b) := by
  intro x y hw he
  replace hw : (g < 16 && k < 8 && a < 32 && b < 32 && cc.forFloat) = true := hw
  cases (show some ((268435456 + g * 8388608 + 3145728 + condCode cc * 65536 + k * 8192 + a * 128 + b : Nat), (0 : Nat)) = some (x, y) from he)
  simp only [Bool.and_eq_true, decide_eq_true_eq] at hw
  have l_cc := condCode_lt cc
  have o_cc := condOf_condCode cc
  generalize condCode cc = n_cc at *
  refine ⟨by omega, by omega, fun r hr => ?_⟩
  obtain ⟨h0, h1, h2, h3, h4, h5, h6, h7⟩ := shape6 (r := r) (n := 271581184) (c := 2) (o := 3) (v23 := g) (v16 := n_cc) (v13 := k) (v7 := a) (v0 := b) (by decide) (by decide) (by omega) (by omega) (by omega) (by omega) (by omega) rfl (by omega)
  apply of_op
  simp only [decodeOp, decodeC2, h0, h1, h2, h3, h4, h5, h6, h7, withCond, o_cc]
  refine dz_ok rfl ?_
  rfl

theorem br (g : Nat) (off : Int) : Statement (.br g off) := by
  intro x y hw he
  replace hw : (g < 16 && fits 28 off) = true := hw
  cases (show some ((402653184 + g * 8388608 + ux 28 off % 1048576 : Nat), (ux 28 off / 1048576 : Nat)) = some (x, y) from he)
  simp only [Bool.and_eq_true, decide_eq_true_eq] at hw
  have l_off := @ux_lt 28 off
  have s_off : ∀ z, z = ux 28 off → sx 28 z = off := fun z => sx_ux (by decide) (by tauto)
  generalize ux 28 off = q_off at *
  refine ⟨by omega, by omega, fun r hr => ?_⟩
  obtain ⟨h0, h1, h2, h3⟩ := shape10 (r := r) (n := 402653184) (c := 3) (o := 0) (v23 := g) (v0 := q_off % 1048576) (by decide) (by decide) (by omega) (by omega) rfl (by omega)
  apply of_op
  simp only [decodeOp, decodeC3, h0, h1, h2, h3]
  refine dz_ok rfl ?_
  congr 1; first | omega | (unfold fld; omega) | (apply s_off; omega)

theorem call (g : Nat) (d : Nat) (off : Int) : Statement (.call g d off) := by
  intro x y hw he
  replace hw : (g < 16 && d < 64 && fits 22 off) = true := hw
  cases (show some ((402653184 + g * 8388608 + 1048576 + d * 16384 + ux 22 off % 16384 : Nat), (ux 22 off / 16384 : Nat)) = some (x, y) from he)
  simp only [Bool.and_eq_true, decide_eq_true_eq] at hw
  have l_off := @ux_lt 22 off
  have s_off : ∀ z, z = ux 22 off → sx 22 z = off := fun z => sx_ux (by decide) (by tauto)
  generalize ux 22 off = q_off at *
  refine ⟨by omega, by omega, fun r hr => ?_⟩
  obtain ⟨h0, h1, h2, h3, h4⟩ := shape11 (r := r) (n := 403701760) (c := 3) (o := 1) (v23 := g) (v14 := d) (v0 := q_off % 16384) (by decide) (by decide) (by omega) (by omega) (by omega) rfl (by omega)
  apply of_op
  simp only [decodeOp, decodeC3, h0, h1, h2, h3, h4]
  refine dz_ok rfl ?_
  congr 1; first | omega | (unfold fld; omega) | (apply s_off; omega)

theorem brx (g : Nat) (a : Nat) : Statement (.brx g a) := by
  intro x y hw he
  replace hw : (g < 16 && a < 64) = true := hw
  cases (show some ((402653184 + g * 8388608 + 2097152 + a * 16384 : Nat), (0 : Nat)) = some (x, y) from he)
  simp only [Bool.and_eq_true, decide_eq_true_eq] at hw
  refine ⟨by omega, by omega, fun r hr => ?_⟩
  obtain ⟨h0, h1, h2, h3, h4⟩ := shape12 (r := r) (n := 404750336) (c := 3) (o := 2) (v23 := g) (v14 := a) (by decide) (by decide) (by omega) (by omega) rfl (by omega)
  apply of_op
  simp only [decodeOp, decodeC3, h0, h1, h2, h3, h4]
  refine dz_ok rfl ?_
  rfl

theorem ret (g : Nat) (a : Nat) : Statement (.ret g a) := by
  intro x y hw he
  replace hw : (g < 16 && a < 64) = true := hw
  cases (show some ((402653184 + g * 8388608 + 3145728 + a * 16384 : Nat), (0 : Nat)) = some (x, y) from he)
  simp only [Bool.and_eq_true, decide_eq_true_eq] at hw
  refine ⟨by omega, by omega, fun r hr => ?_⟩
  obtain ⟨h0, h1, h2, h3, h4⟩ := shape12 (r := r) (n := 405798912) (c := 3) (o := 3) (v23 := g) (v14 := a) (by decide) (by decide) (by omega) (by omega) rfl (by omega)
  apply of_op
  simp only [decodeOp, decodeC3, h0, h1, h2, h3, h4]
  refine dz_ok rfl ?_
  rfl

theorem loop (lvl : Nat) (c : Nat) (en : Nat) : Statement (.loop lvl c en) := by
  intro x y hw he
  replace hw : (lvl < 4 && c < 64 && en < 1048576 && 1 ≤ en) = true := hw
  cases (show some ((402653184 + 4194304 + lvl * 262144 + c * 4096 + en % 4096 : Nat), (en / 4096 : Nat)) = some (x, y) from he)
  simp only [Bool.and_eq_true, decide_eq_true_eq] at hw
  refine ⟨by omega, by omega, fun r hr => ?_⟩
  obtain ⟨h0, h1, h2, h3, h4, h5⟩ := shape13 (r := r) (n := 406847488) (c := 3) (o := 4) (v18 := lvl) (v12 := c) (v0 := en % 4096) (by decide) (by decide) (by omega) (by omega) (by omega) rfl (by omega)
  apply of_op
  simp only [decodeOp, decodeC3, h0, h1, h2, h3, h4, h5, ne_eq, not_true_eq_false, if_false]
  refine dz_ok rfl ?_
  congr 1; first | omega | (unfold fld; omega)

theorem loopi (lvl : Nat) (n : Nat) (en : Nat) : Statement (.loopi lvl n en) := by
  intro x y hw he
  replace hw : (lvl < 4 && n < 16384 && en < 4096 && 1 ≤ en) = true := hw
  cases (show some ((402653184 + 5242880 + lvl * 262144 + n % 64 * 4096 + en : Nat), (n / 64 : Nat)) = some (x, y) from he)
  simp only [Bool.and_eq_true, decide_eq_true_eq] at hw
  refine ⟨by omega, by omega, fun r hr => ?_⟩
  obtain ⟨h0, h1, h2, h3, h4, h5⟩ := shape13 (r := r) (n := 407896064) (c := 3) (o := 5) (v18 := lvl) (v12 := n % 64) (v0 := en) (by decide) (by decide) (by omega) (by omega) (by omega) rfl (by omega)
  apply of_op
  simp only [decodeOp, decodeC3, h0, h1, h2, h3, h4, h5, ne_eq, not_true_eq_false, if_false]
  refine dz_ok rfl ?_
  congr 1; first | omega | (unfold fld; omega)

theorem lbrk (g : Nat) (lvl : Nat) : Statement (.lbrk g lvl) := by
  intro x y hw he
  replace hw : (g < 16 && lvl < 4) = true := hw
  cases (show some ((402653184 + g * 8388608 + 6291456 + lvl * 262144 : Nat), (0 : Nat)) = some (x, y) from he)
  simp only [Bool.and_eq_true, decide_eq_true_eq] at hw
  refine ⟨by omega, by omega, fun r hr => ?_⟩
  obtain ⟨h0, h1, h2, h3, h4⟩ := shape14 (r := r) (n := 408944640) (c := 3) (o := 6) (v23 := g) (v18 := lvl) (by decide) (by decide) (by omega) (by omega) rfl (by omega)
  apply of_op
  simp only [decodeOp, decodeC3, h0, h1, h2, h3, h4]
  refine dz_ok rfl ?_
  rfl

theorem fadd (g : Nat) (d : Nat) (a : Nat) (b : Nat) (dbl : Bool) : Statement (.fadd g d a b dbl) := by
  intro x y hw he
  replace hw : (g < 16 && d < 32 && a < 32 && b < 32) = true := hw
  cases (show some ((536870912 + g * 8388608 + d * 4096 + a * 64 + b : Nat), (dbl.toNat : Nat)) = some (x, y) from he)
  simp only [Bool.and_eq_true, decide_eq_true_eq] at hw
  have b_dbl := toNat_lt dbl
  refine ⟨by omega, by omega, fun r hr => ?_⟩
  obtain ⟨h0, h1, h2, h3, h4, h5⟩ := shape1 (r := r) (n := 536870912) (c := 4) (o := 0) (v23 := g) (v12 := d) (v6 := a) (v0 := b) (by decide) (by decide) (by omega) (by omega) (by omega) (by omega) rfl (by omega)
  apply of_op
  simp only [decodeOp, decodeC4, h0, h1, h2, h3, h4, h5]
  refine dz_ok (by unfold fld; omega) ?_
  congr 1; first | omega | (unfold fld; omega) | (apply bit_eq; first | rfl | omega | (unfold fld; omega))

theorem fsub (g : Nat) (d : Nat) (a : Nat) (b : Nat) (dbl : Bool) : Statement (.fsub g d a b dbl) := by
  intro x y hw he
  replace hw : (g < 16 && d < 32 && a < 32 && b < 32) = true := hw
  cases (show some ((536870912 + g * 8388608 + 262144 + d * 4096 + a * 64 + b : Nat), (dbl.toNat : Nat)) = some (x, y) from he)
  simp only [Bool.and_eq_true, decide_eq_true_eq] at hw
  have b_dbl := toNat_lt dbl
  refine ⟨by omega, by omega, fun r hr => ?_⟩
  obtain ⟨h0, h1, h2, h3, h4, h5⟩ := shape1 (r := r) (n := 537133056) (c := 4) (o := 1) (v23 := g) (v12 := d) (v6 := a) (v0 := b) (by decide) (by decide) (by omega) (by omega) (by omega) (by omega) rfl (by omega)
  apply of_op
  simp only [decodeOp, decodeC4, h0, h1, h2, h3, h4, h5]
  refine dz_ok (by unfold fld; omega) ?_
  congr 1; first | omega | (unfold fld; omega) | (apply bit_eq; first | rfl | omega | (unfold fld; omega))

theorem fmul (g : Nat) (d : Nat) (a : Nat) (b : Nat) (dbl : Bool) : Statement (.fmul g d a b dbl) := by
  intro x y hw he
  replace hw : (g < 16 && d < 32 && a < 32 && b < 32) = true := hw
  cases (show some ((536870912 + g * 8388608 + 524288 + d * 4096 + a * 64 + b : Nat), (dbl.toNat : Nat)) = some (x, y) from he)
  simp only [Bool.and_eq_true, decide_eq_true_eq] at hw
  have b_dbl := toNat_lt dbl
  refine ⟨by omega, by omega, fun r hr => ?_⟩
  obtain ⟨h0, h1, h2, h3, h4, h5⟩ := shape1 (r := r) (n := 537395200) (c := 4) (o := 2) (v23 := g) (v12 := d) (v6 := a) (v0 := b) (by decide) (by decide) (by omega) (by omega) (by omega) (by omega) rfl (by omega)
  apply of_op
  simp only [decodeOp, decodeC4, h0, h1, h2, h3, h4, h5]
  refine dz_ok (by unfold fld; omega) ?_
  congr 1; first | omega | (unfold fld; omega) | (apply bit_eq; first | rfl | omega | (unfold fld; omega))

theorem ffma (g : Nat) (d : Nat) (a : Nat) (b : Nat) (dbl : Bool) : Statement (.ffma g d a b dbl) := by
  intro x y hw he
  replace hw : (g < 16 && d < 32 && a < 32 && b < 32) = true := hw
  cases (show some ((536870912 + g * 8388608 + 786432 + d * 4096 + a * 64 + b : Nat), (dbl.toNat : Nat)) = some (x, y) from he)
  simp only [Bool.and_eq_true, decide_eq_true_eq] at hw
  have b_dbl := toNat_lt dbl
  refine ⟨by omega, by omega, fun r hr => ?_⟩
  obtain ⟨h0, h1, h2, h3, h4, h5⟩ := shape1 (r := r) (n := 537657344) (c := 4) (o := 3) (v23 := g) (v12 := d) (v6 := a) (v0 := b) (by decide) (by decide) (by omega) (by omega) (by omega) (by omega) rfl (by omega)
  apply of_op
  simp only [decodeOp, decodeC4, h0, h1, h2, h3, h4, h5]
  refine dz_ok (by unfold fld; omega) ?_
  congr 1; first | omega | (unfold fld; omega) | (apply bit_eq; first | rfl | omega | (unfold fld; omega))

theorem fdiv (g : Nat) (d : Nat) (a : Nat) (b : Nat) (dbl : Bool) : Statement (.fdiv g d a b dbl) := by
  intro x y hw he
  replace hw : (g < 16 && d < 32 && a < 32 && b < 32) = true := hw
  cases (show some ((536870912 + g * 8388608 + 1048576 + d * 4096 + a * 64 + b : Nat), (dbl.toNat : Nat)) = some (x, y) from he)
  simp only [Bool.and_eq_true, decide_eq_true_eq] at hw
  have b_dbl := toNat_lt dbl
  refine ⟨by omega, by omega, fun r hr => ?_⟩
  obtain ⟨h0, h1, h2, h3, h4, h5⟩ := shape1 (r := r) (n := 537919488) (c := 4) (o := 4) (v23 := g) (v12 := d) (v6 := a) (v0 := b) (by decide) (by decide) (by omega) (by omega) (by omega) (by omega) rfl (by omega)
  apply of_op
  simp only [decodeOp, decodeC4, h0, h1, h2, h3, h4, h5]
  refine dz_ok (by unfold fld; omega) ?_
  congr 1; first | omega | (unfold fld; omega) | (apply bit_eq; first | rfl | omega | (unfold fld; omega))

theorem fsqrt (g : Nat) (d : Nat) (a : Nat) (dbl : Bool) : Statement (.fsqrt g d a dbl) := by
  intro x y hw he
  replace hw : (g < 16 && d < 32 && a < 32) = true := hw
  cases (show some ((536870912 + g * 8388608 + 1310720 + d * 4096 + a * 64 : Nat), (dbl.toNat : Nat)) = some (x, y) from he)
  simp only [Bool.and_eq_true, decide_eq_true_eq] at hw
  have b_dbl := toNat_lt dbl
  refine ⟨by omega, by omega, fun r hr => ?_⟩
  obtain ⟨h0, h1, h2, h3, h4, h5⟩ := shape2 (r := r) (n := 538181632) (c := 4) (o := 5) (v23 := g) (v12 := d) (v6 := a) (by decide) (by decide) (by omega) (by omega) (by omega) rfl (by omega)
  apply of_op
  simp only [decodeOp, decodeC4, h0, h1, h2, h3, h4, h5]
  refine dz_ok (by unfold fld; omega) ?_
  congr 1; first | omega | (unfold fld; omega) | (apply bit_eq; first | rfl | omega | (unfold fld; omega))

theorem fmin (g : Nat) (d : Nat) (a : Nat) (b : Nat) (dbl : Bool) : Statement (.fmin g d a b dbl) := by
  intro x y hw he
  replace hw : (g < 16 && d < 32 && a < 32 && b < 32) = true := hw
  cases (show some ((536870912 + g * 8388608 + 1572864 + d * 4096 + a * 64 + b : Nat), (dbl.toNat : Nat)) = some (x, y) from he)
  simp only [Bool.and_eq_true, decide_eq_true_eq] at hw
  have b_dbl := toNat_lt dbl
  refine ⟨by omega, by omega, fun r hr => ?_⟩
  obtain ⟨h0, h1, h2, h3, h4, h5⟩ := shape1 (r := r) (n := 538443776) (c := 4) (o := 6) (v23 := g) (v12 := d) (v6 := a) (v0 := b) (by decide) (by decide) (by omega) (by omega) (by omega) (by omega) rfl (by omega)
  apply of_op
  simp only [decodeOp, decodeC4, h0, h1, h2, h3, h4, h5]
  refine dz_ok (by unfold fld; omega) ?_
  congr 1; first | omega | (unfold fld; omega) | (apply bit_eq; first | rfl | omega | (unfold fld; omega))

theorem fmax (g : Nat) (d : Nat) (a : Nat) (b : Nat) (dbl : Bool) : Statement (.fmax g d a b dbl) := by
  intro x y hw he
  replace hw : (g < 16 && d < 32 && a < 32 && b < 32) = true := hw
  cases (show some ((536870912 + g * 8388608 + 1835008 + d * 4096 + a * 64 + b : Nat), (dbl.toNat : Nat)) = some (x, y) from he)
  simp only [Bool.and_eq_true, decide_eq_true_eq] at hw
  have b_dbl := toNat_lt dbl
  refine ⟨by omega, by omega, fun r hr => ?_⟩
  obtain ⟨h0, h1, h2, h3, h4, h5⟩ := shape1 (r := r) (n := 538705920) (c := 4) (o := 7) (v23 := g) (v12 := d) (v6 := a) (v0 := b) (by decide) (by decide) (by omega) (by omega) (by omega) (by omega) rfl (by omega)
  apply of_op
  simp only [decodeOp, decodeC4, h0, h1, h2, h3, h4, h5]
  refine dz_ok (by unfold fld; omega) ?_
  congr 1; first | omega | (unfold fld; omega) | (apply bit_eq; first | rfl | omega | (unfold fld; omega))

theorem fabs (g : Nat) (d : Nat) (a : Nat) (dbl : Bool) : Statement (.fabs g d a dbl) := by
  intro x y hw he
  replace hw : (g < 16 && d < 32 && a < 32) = true := hw
  cases (show some ((536870912 + g * 8388608 + 2097152 + d * 4096 + a * 64 : Nat), (dbl.toNat : Nat)) = some (x, y) from he)
  simp only [Bool.and_eq_true, decide_eq_true_eq] at hw
  have b_dbl := toNat_lt dbl
  refine ⟨by omega, by omega, fun r hr => ?_⟩
  obtain ⟨h0, h1, h2, h3, h4, h5⟩ := shape2 (r := r) (n := 538968064) (c := 4) (o := 8) (v23 := g) (v12 := d) (v6 := a) (by decide) (by decide) (by omega) (by omega) (by omega) rfl (by omega)
  apply of_op
  simp only [decodeOp, decodeC4, h0, h1, h2, h3, h4, h5]
  refine dz_ok (by unfold fld; omega) ?_
  congr 1; first | omega | (unfold fld; omega) | (apply bit_eq; first | rfl | omega | (unfold fld; omega))

theorem fneg (g : Nat) (d : Nat) (a : Nat) (dbl : Bool) : Statement (.fneg g d a dbl) := by
  intro x y hw he
  replace hw : (g < 16 && d < 32 && a < 32) = true := hw
  cases (show some ((536870912 + g * 8388608 + 2359296 + d * 4096 + a * 64 : Nat), (dbl.toNat : Nat)) = some (x, y) from he)
  simp only [Bool.and_eq_true, decide_eq_true_eq] at hw
  have b_dbl := toNat_lt dbl
  refine ⟨by omega, by omega, fun r hr => ?_⟩
  obtain ⟨h0, h1, h2, h3, h4, h5⟩ := shape2 (r := r) (n := 539230208) (c := 4) (o := 9) (v23 := g) (v12 := d) (v6 := a) (by decide) (by decide) (by omega) (by omega) (by omega) rfl (by omega)
  apply of_op
  simp only [decodeOp, decodeC4, h0, h1, h2, h3, h4, h5]
  refine dz_ok (by unfold fld; omega) ?_
  congr 1; first | omega | (unfold fld; omega) | (apply bit_eq; first | rfl | omega | (unfold fld; omega))

theorem fcvt (g : Nat) (d : Nat) (a : Nat) (src : Nat) (dst : Nat) : Statement (.fcvt g d a src dst) := by
  intro x y hw he
  replace hw : (g < 16 && src < 7 && dst < 7 && src != dst && d < (if 2 ≤ dst && dst ≤ 5 then 64 else 32) && a < (if 2 ≤ src && src ≤ 5 then 64 else 32)) = true := hw
  cases (show some ((536870912 + g * 8388608 + 2883584 + d * 4096 + a * 64 + src * 8 + dst : Nat), (0 : Nat)) = some (x, y) from he)
  simp only [Bool.and_eq_true, decide_eq_true_eq] at hw
  have hd : d < 64 := by obtain ⟨⟨_, h⟩, _⟩ := hw; split at h <;> omega
  have ha : a < 64 := by obtain ⟨_, h⟩ := hw; split at h <;> omega
  refine ⟨by omega, by omega, fun r hr => ?_⟩
  obtain ⟨h0, h1, h2, h3, h4, h5, h6⟩ := shape15 (r := r) (n := 539754496) (c := 4) (o := 11) (v23 := g) (v12 := d) (v6 := a) (v3 := src) (v0 := dst) (by decide) (by decide) (by omega) (by omega) (by omega) (by omega) (by omega) rfl (by omega)
  apply of_op
  simp only [decodeOp, decodeC4, h0, h1, h2, h3, h4, h5, h6]
  refine dz_ok rfl ?_
  rfl

theorem fclass (g : Nat) (d : Nat) (a : Nat) (dbl : Bool) : Statement (.fclass g d a dbl) := by
  intro x y hw he
  replace hw : (g < 16 && d < 64 && a < 32) = true := hw
  cases (show some ((536870912 + g * 8388608 + 3145728 + d * 4096 + a * 64 : Nat), (dbl.toNat : Nat)) = some (x, y) from he)
  simp only [Bool.and_eq_true, decide_eq_true_eq] at hw
  have b_dbl := toNat_lt dbl
  refine ⟨by omega, by omega, fun r hr => ?_⟩
  obtain ⟨h0, h1, h2, h3, h4, h5⟩ := shape2 (r := r) (n := 540016640) (c := 4) (o := 12) (v23 := g) (v12 := d) (v6 := a) (by decide) (by decide) (by omega) (by omega) (by omega) rfl (by omega)
  apply of_op
  simp only [decodeOp, decodeC4, h0, h1, h2, h3, h4, h5]
  refine dz_ok (by unfold fld; omega) ?_
  congr 1; first | omega | (unfold fld; omega) | (apply bit_eq; first | rfl | omega | (unfold fld; omega))

theorem fmov (g : Nat) (d : Nat) (a : Nat) (dbl : Bool) : Statement (.fmov g d a dbl) := by
  intro x y hw he
  replace hw : (g < 16 && d < 32 && a < 32) = true := hw
  cases (show some ((536870912 + g * 8388608 + 3407872 + d * 4096 + a * 64 : Nat), (dbl.toNat : Nat)) = some (x, y) from he)
  simp only [Bool.and_eq_true, decide_eq_true_eq] at hw
  have b_dbl := toNat_lt dbl
  refine ⟨by omega, by omega, fun r hr => ?_⟩
  obtain ⟨h0, h1, h2, h3, h4, h5⟩ := shape2 (r := r) (n := 540278784) (c := 4) (o := 13) (v23 := g) (v12 := d) (v6 := a) (by decide) (by decide) (by omega) (by omega) (by omega) rfl (by omega)
  apply of_op
  simp only [decodeOp, decodeC4, h0, h1, h2, h3, h4, h5]
  refine dz_ok (by unfold fld; omega) ?_
  congr 1; first | omega | (unfold fld; omega) | (apply bit_eq; first | rfl | omega | (unfold fld; omega))

theorem fnum (g : Nat) (d : Nat) (a : Nat) (dbl : Bool) : Statement (.fnum g d a dbl) := by
  intro x y hw he
  replace hw : (g < 16 && d < 64 && a < 32) = true := hw
  cases (show some ((536870912 + g * 8388608 + 3670016 + d * 4096 + a * 64 : Nat), (dbl.toNat : Nat)) = some (x, y) from he)
  simp only [Bool.and_eq_true, decide_eq_true_eq] at hw
  have b_dbl := toNat_lt dbl
  refine ⟨by omega, by omega, fun r hr => ?_⟩
  obtain ⟨h0, h1, h2, h3, h4, h5⟩ := shape2 (r := r) (n := 540540928) (c := 4) (o := 14) (v23 := g) (v12 := d) (v6 := a) (by decide) (by decide) (by omega) (by omega) (by omega) rfl (by omega)
  apply of_op
  simp only [decodeOp, decodeC4, h0, h1, h2, h3, h4, h5]
  refine dz_ok (by unfold fld; omega) ?_
  congr 1; first | omega | (unfold fld; omega) | (apply bit_eq; first | rfl | omega | (unfold fld; omega))

theorem fden (g : Nat) (d : Nat) (a : Nat) (dbl : Bool) : Statement (.fden g d a dbl) := by
  intro x y hw he
  replace hw : (g < 16 && d < 64 && a < 32) = true := hw
  cases (show some ((536870912 + g * 8388608 + 3932160 + d * 4096 + a * 64 : Nat), (dbl.toNat : Nat)) = some (x, y) from he)
  simp only [Bool.and_eq_true, decide_eq_true_eq] at hw
  have b_dbl := toNat_lt dbl
  refine ⟨by omega, by omega, fun r hr => ?_⟩
  obtain ⟨h0, h1, h2, h3, h4, h5⟩ := shape2 (r := r) (n := 540803072) (c := 4) (o := 15) (v23 := g) (v12 := d) (v6 := a) (by decide) (by decide) (by omega) (by omega) (by omega) rfl (by omega)
  apply of_op
  simp only [decodeOp, decodeC4, h0, h1, h2, h3, h4, h5]
  refine dz_ok (by unfold fld; omega) ?_
  congr 1; first | omega | (unfold fld; omega) | (apply bit_eq; first | rfl | omega | (unfold fld; omega))

theorem fmake (g : Nat) (d : Nat) (a : Nat) (b : Nat) (dbl : Bool) : Statement (.fmake g d a b dbl) := by
  intro x y hw he
  replace hw : (g < 16 && d < 32 && a < 64 && b < 64) = true := hw
  cases (show some ((536870912 + g * 8388608 + 4194304 + d * 4096 + a * 64 + b : Nat), (dbl.toNat : Nat)) = some (x, y) from he)
  simp only [Bool.and_eq_true, decide_eq_true_eq] at hw
  have b_dbl := toNat_lt dbl
  refine ⟨by omega, by omega, fun r hr => ?_⟩
  obtain ⟨h0, h1, h2, h3, h4, h5⟩ := shape1 (r := r) (n := 541065216) (c := 4) (o := 16) (v23 := g) (v12 := d) (v6 := a) (v0 := b) (by decide) (by decide) (by omega) (by omega) (by omega) (by omega) rfl (by omega)
  apply of_op
  simp only [decodeOp, decodeC4, h0, h1, h2, h3, h4, h5]
  refine dz_ok (by unfold fld; omega) ?_
  congr 1; first | omega | (unfold fld; omega) | (apply bit_eq; first | rfl | omega | (unfold fld; omega))

theorem frnd (g : Nat) (d : Nat) (a : Nat) (b : Nat) (dbl : Bool) : Statement (.frnd g d a b dbl) := by
  intro x y hw he
  replace hw : (g < 16 && d < 32 && a < 32 && b < 64) = true := hw
  cases (show some ((536870912 + g * 8388608 + 4456448 + d * 4096 + a * 64 + b : Nat), (dbl.toNat : Nat)) = some (x, y) from he)
  simp only [Bool.and_eq_true, decide_eq_true_eq] at hw
  have b_dbl := toNat_lt dbl
  refine ⟨by omega, by omega, fun r hr => ?_⟩
  obtain ⟨h0, h1, h2, h3, h4, h5⟩ := shape1 (r := r) (n := 541327360) (c := 4) (o := 17) (v23 := g) (v12 := d) (v6 := a) (v0 := b) (by decide) (by decide) (by omega) (by omega) (by omega) (by omega) rfl (by omega)
  apply of_op
  simp only [decodeOp, decodeC4, h0, h1, h2, h3, h4, h5]
  refine dz_ok (by unfold fld; omega) ?_
  congr 1; first | omega | (unfold fld; omega) | (apply bit_eq; first | rfl | omega | (unfold fld; omega))

theorem aadd (g : Nat) (d : Nat) (a : Nat) (b : Nat) : Statement (.aadd g d a b) := by
  intro x y hw he
  replace hw : (g < 16 && d < 16 && a < 16 && b < 64) = true := hw
  cases (show some ((671088640 + g * 8388608 + d * 4096 + a * 64 + b : Nat), (0 : Nat)) = some (x, y) from he)
  simp only [Bool.and_eq_true, decide_eq_true_eq] at hw
  refine ⟨by omega, by omega, fun r hr => ?_⟩
  obtain ⟨h0, h1, h2, h3, h4, h5⟩ := shape1 (r := r) (n := 671088640) (c := 5) (o := 0) (v23 := g) (v12 := d) (v6 := a) (v0 := b) (by decide) (by decide) (by omega) (by omega) (by omega) (by omega) rfl (by omega)
  apply of_op
  simp only [decodeOp, decodeC5, h0, h1, h2, h3, h4, h5]
  refine dz_ok rfl ?_
  rfl

theorem aset (g : Nat) (d : Nat) (a : Nat) : Statement (.aset g d a) := by
  intro x y hw he
  replace hw : (g < 16 && d < 16 && a < 64) = true := hw
  cases (show some ((671088640 + g * 8388608 + 262144 + d * 4096 + a * 64 : Nat), (0 : Nat)) = some (x, y) from he)
  simp only [Bool.and_eq_true, decide_eq_true_eq] at hw
  refine ⟨by omega, by omega, fun r hr => ?_⟩
  obtain ⟨h0, h1, h2, h3, h4, h5⟩ := shape2 (r := r) (n := 671350784) (c := 5) (o := 1) (v23 := g) (v12 := d) (v6 := a) (by decide) (by decide) (by omega) (by omega) (by omega) rfl (by omega)
  apply of_op
  simp only [decodeOp, decodeC5, h0, h1, h2, h3, h4, h5]
  refine dz_ok rfl ?_
  rfl

theorem amset (g : Nat) (d : Nat) (a : Nat) (b : Nat) : Statement (.amset g d a b) := by
  intro x y hw he
  replace hw : (g < 16 && d < 16 && a < 64 && b < 64) = true := hw
  cases (show some ((671088640 + g * 8388608 + 524288 + d * 4096 + a * 64 + b : Nat), (0 : Nat)) = some (x, y) from he)
  simp only [Bool.and_eq_true, decide_eq_true_eq] at hw
  refine ⟨by omega, by omega, fun r hr => ?_⟩
  obtain ⟨h0, h1, h2, h3, h4, h5⟩ := shape1 (r := r) (n := 671612928) (c := 5) (o := 2) (v23 := g) (v12 := d) (v6 := a) (v0 := b) (by decide) (by decide) (by omega) (by omega) (by omega) (by omega) rfl (by omega)
  apply of_op
  simp only [decodeOp, decodeC5, h0, h1, h2, h3, h4, h5]
  refine dz_ok rfl ?_
  rfl

theorem sysrd (g : Nat) (d : Nat) (n : Nat) : Statement (.sysrd g d n) := by
  intro x y hw he
  replace hw : (g < 16 && d < 64 && n < 4096 && sysNumber n) = true := hw
  cases (show some ((671088640 + g * 8388608 + 1048576 + d * 4096 + n : Nat), (0 : Nat)) = some (x, y) from he)
  simp only [Bool.and_eq_true, decide_eq_true_eq] at hw
  refine ⟨by omega, by omega, fun r hr => ?_⟩
  obtain ⟨h0, h1, h2, h3, h4⟩ := shape16 (r := r) (n := 672137216) (c := 5) (o := 4) (v23 := g) (v12 := d) (v0 := n) (by decide) (by decide) (by omega) (by omega) (by omega) rfl (by omega)
  apply of_op
  simp only [decodeOp, decodeC5, h0, h1, h2, h3, h4]
  refine dz_ok rfl ?_
  rfl

theorem syswr (g : Nat) (d : Nat) (n : Nat) : Statement (.syswr g d n) := by
  intro x y hw he
  replace hw : (g < 16 && d < 64 && n < 4096 && sysNumber n) = true := hw
  cases (show some ((671088640 + g * 8388608 + 1310720 + d * 4096 + n : Nat), (0 : Nat)) = some (x, y) from he)
  simp only [Bool.and_eq_true, decide_eq_true_eq] at hw
  refine ⟨by omega, by omega, fun r hr => ?_⟩
  obtain ⟨h0, h1, h2, h3, h4⟩ := shape16 (r := r) (n := 672399360) (c := 5) (o := 5) (v23 := g) (v12 := d) (v0 := n) (by decide) (by decide) (by omega) (by omega) (by omega) rfl (by omega)
  apply of_op
  simp only [decodeOp, decodeC5, h0, h1, h2, h3, h4]
  refine dz_ok rfl ?_
  rfl

theorem trap (g : Nat) (n : Nat) : Statement (.trap g n) := by
  intro x y hw he
  replace hw : (g < 16 && n < 256) = true := hw
  cases (show some ((671088640 + g * 8388608 + 1572864 + n : Nat), (0 : Nat)) = some (x, y) from he)
  simp only [Bool.and_eq_true, decide_eq_true_eq] at hw
  refine ⟨by omega, by omega, fun r hr => ?_⟩
  obtain ⟨h0, h1, h2, h3, h4⟩ := shape17 (r := r) (n := 672661504) (c := 5) (o := 6) (v23 := g) (v0 := n) (by decide) (by decide) (by omega) (by omega) rfl (by omega)
  apply of_op
  simp only [decodeOp, decodeC5, h0, h1, h2, h3, h4]
  refine dz_ok rfl ?_
  rfl

theorem eret (g : Nat) : Statement (.eret g) := by
  intro x y hw he
  replace hw : (decide (g < 16)) = true := hw
  cases (show some ((671088640 + g * 8388608 + 1835008 : Nat), (0 : Nat)) = some (x, y) from he)
  simp only [Bool.and_eq_true, decide_eq_true_eq] at hw
  refine ⟨by omega, by omega, fun r hr => ?_⟩
  obtain ⟨h0, h1, h2, h3⟩ := shape18 (r := r) (n := 672923648) (c := 5) (o := 7) (v23 := g) (by decide) (by decide) (by omega) rfl (by omega)
  apply of_op
  simp only [decodeOp, decodeC5, h0, h1, h2, h3]
  refine dz_ok rfl ?_
  rfl

theorem cmpt (g : Nat) (f : Nat) (a : Nat) (b : Nat) : Statement (.cmpt g f a b) := by
  intro x y hw he
  replace hw : (g < 16 && f < 64 && a < 64 && b < 64 && f < 3 && (f != 1 || (a < 32 && b < 32))) = true := hw
  cases (show some ((671088640 + g * 8388608 + 2097152 + f * 4096 + a * 64 + b : Nat), (0 : Nat)) = some (x, y) from he)
  simp only [Bool.and_eq_true, decide_eq_true_eq] at hw
  refine ⟨by omega, by omega, fun r hr => ?_⟩
  obtain ⟨h0, h1, h2, h3, h4, h5⟩ := shape1 (r := r) (n := 673185792) (c := 5) (o := 8) (v23 := g) (v12 := f) (v6 := a) (v0 := b) (by decide) (by decide) (by omega) (by omega) (by omega) (by omega) rfl (by omega)
  apply of_op
  simp only [decodeOp, decodeC5, h0, h1, h2, h3, h4, h5]
  refine dz_ok rfl ?_
  rfl

theorem nop (g : Nat) : Statement (.nop g) := by
  intro x y hw he
  replace hw : (decide (g < 16)) = true := hw
  cases (show some ((671088640 + g * 8388608 + 2359296 : Nat), (0 : Nat)) = some (x, y) from he)
  simp only [Bool.and_eq_true, decide_eq_true_eq] at hw
  refine ⟨by omega, by omega, fun r hr => ?_⟩
  obtain ⟨h0, h1, h2, h3⟩ := shape18 (r := r) (n := 673447936) (c := 5) (o := 9) (v23 := g) (by decide) (by decide) (by omega) rfl (by omega)
  apply of_op
  simp only [decodeOp, decodeC5, h0, h1, h2, h3]
  refine dz_ok rfl ?_
  rfl

theorem exit (g : Nat) : Statement (.exit g) := by
  intro x y hw he
  replace hw : (decide (g < 16)) = true := hw
  cases (show some ((671088640 + g * 8388608 + 2621440 : Nat), (0 : Nat)) = some (x, y) from he)
  simp only [Bool.and_eq_true, decide_eq_true_eq] at hw
  refine ⟨by omega, by omega, fun r hr => ?_⟩
  obtain ⟨h0, h1, h2, h3⟩ := shape18 (r := r) (n := 673710080) (c := 5) (o := 10) (v23 := g) (by decide) (by decide) (by omega) rfl (by omega)
  apply of_op
  simp only [decodeOp, decodeC5, h0, h1, h2, h3]
  refine dz_ok rfl ?_
  rfl

theorem cntrd (g : Nat) (d : Nat) (n : Nat) : Statement (.cntrd g d n) := by
  intro x y hw he
  replace hw : (g < 16 && d < 64 && n < 4096 && cntNumber n) = true := hw
  cases (show some ((671088640 + g * 8388608 + 2883584 + d * 4096 + n : Nat), (0 : Nat)) = some (x, y) from he)
  simp only [Bool.and_eq_true, decide_eq_true_eq] at hw
  refine ⟨by omega, by omega, fun r hr => ?_⟩
  obtain ⟨h0, h1, h2, h3, h4⟩ := shape16 (r := r) (n := 673972224) (c := 5) (o := 11) (v23 := g) (v12 := d) (v0 := n) (by decide) (by decide) (by omega) (by omega) (by omega) rfl (by omega)
  apply of_op
  simp only [decodeOp, decodeC5, h0, h1, h2, h3, h4]
  refine dz_ok rfl ?_
  rfl

theorem cntrdc (g : Nat) (d : Nat) (n : Nat) : Statement (.cntrdc g d n) := by
  intro x y hw he
  replace hw : (g < 16 && d < 64 && n < 4096 && cntNumber n && d % 2 == 0 && d ≤ 54) = true := hw
  cases (show some ((671088640 + g * 8388608 + 3145728 + d * 4096 + n : Nat), (0 : Nat)) = some (x, y) from he)
  simp only [Bool.and_eq_true, decide_eq_true_eq] at hw
  refine ⟨by omega, by omega, fun r hr => ?_⟩
  obtain ⟨h0, h1, h2, h3, h4⟩ := shape16 (r := r) (n := 674234368) (c := 5) (o := 12) (v23 := g) (v12 := d) (v0 := n) (by decide) (by decide) (by omega) (by omega) (by omega) rfl (by omega)
  apply of_op
  simp only [decodeOp, decodeC5, h0, h1, h2, h3, h4]
  refine dz_ok rfl ?_
  rfl

theorem cntsnap (g : Nat) : Statement (.cntsnap g) := by
  intro x y hw he
  replace hw : (decide (g < 16)) = true := hw
  cases (show some ((671088640 + g * 8388608 + 3407872 : Nat), (0 : Nat)) = some (x, y) from he)
  simp only [Bool.and_eq_true, decide_eq_true_eq] at hw
  refine ⟨by omega, by omega, fun r hr => ?_⟩
  obtain ⟨h0, h1, h2, h3⟩ := shape18 (r := r) (n := 674496512) (c := 5) (o := 13) (v23 := g) (by decide) (by decide) (by omega) rfl (by omega)
  apply of_op
  simp only [decodeOp, decodeC5, h0, h1, h2, h3]
  refine dz_ok rfl ?_
  rfl

theorem xlinv (g : Nat) (a : Nat) (b : Nat) : Statement (.xlinv g a b) := by
  intro x y hw he
  replace hw : (g < 16 && a < 64 && b < 64) = true := hw
  cases (show some ((671088640 + g * 8388608 + 3670016 + a * 64 + b : Nat), (0 : Nat)) = some (x, y) from he)
  simp only [Bool.and_eq_true, decide_eq_true_eq] at hw
  refine ⟨by omega, by omega, fun r hr => ?_⟩
  obtain ⟨h0, h1, h2, h3, h4, h5⟩ := shape19 (r := r) (n := 674758656) (c := 5) (o := 14) (v23 := g) (v6 := a) (v0 := b) (by decide) (by decide) (by omega) (by omega) (by omega) rfl (by omega)
  apply of_op
  simp only [decodeOp, decodeC5, h0, h1, h2, h3, h4, h5]
  refine dz_ok rfl ?_
  rfl

theorem ldB (g : Nat) (oc : Nat) (p : Nat) (d : Nat) (c : Upd) (f : Int) : Statement (.ldB g oc p d c f) := by
  intro x y hw he
  replace hw : (g < 16 && oc < 16 && p < 16 && d < 64 && fits 12 f) = true := hw
  cases (show some ((805306368 + g * 8388608 + oc * 65536 + p * 4096 + d * 64 + updCode c * 16 + ux 12 f % 16 : Nat), (ux 12 f / 16 : Nat)) = some (x, y) from he)
  simp only [Bool.and_eq_true, decide_eq_true_eq] at hw
  have l_c := updCode_lt c
  have o_c := updOf_updCode c
  generalize updCode c = n_c at *
  have l_f := @ux_lt 12 f
  have s_f : ∀ z, z = ux 12 f → sx 12 z = f := fun z => sx_ux (by decide) (by tauto)
  generalize ux 12 f = q_f at *
  refine ⟨by omega, by omega, fun r hr => ?_⟩
  obtain ⟨h0, h1, h2, h3, h4, h5, h6, h7⟩ := shape20 (r := r) (n := 805306368) (c := 6) (o := 0) (v23 := g) (v16 := oc) (v12 := p) (v6 := d) (v4 := n_c) (v0 := q_f % 16) (by decide) (by decide) (by omega) (by omega) (by omega) (by omega) (by omega) (by omega) rfl (by omega)
  apply of_op
  simp only [decodeOp, decodeC6, h0, h1, h2, h3, h4, h5, h6, h7, withUpd, o_c]
  refine dz_ok rfl ?_
  congr 1; first | omega | (unfold fld; omega) | (apply s_f; omega)

theorem ldH (g : Nat) (oc : Nat) (p : Nat) (d : Nat) (c : Upd) (f : Int) : Statement (.ldH g oc p d c f) := by
  intro x y hw he
  replace hw : (g < 16 && oc < 16 && p < 16 && d < 64 && fits 12 f) = true := hw
  cases (show some ((805306368 + g * 8388608 + 1048576 + oc * 65536 + p * 4096 + d * 64 + updCode c * 16 + ux 12 f % 16 : Nat), (ux 12 f / 16 : Nat)) = some (x, y) from he)
  simp only [Bool.and_eq_true, decide_eq_true_eq] at hw
  have l_c := updCode_lt c
  have o_c := updOf_updCode c
  generalize updCode c = n_c at *
  have l_f := @ux_lt 12 f
  have s_f : ∀ z, z = ux 12 f → sx 12 z = f := fun z => sx_ux (by decide) (by tauto)
  generalize ux 12 f = q_f at *
  refine ⟨by omega, by omega, fun r hr => ?_⟩
  obtain ⟨h0, h1, h2, h3, h4, h5, h6, h7⟩ := shape20 (r := r) (n := 806354944) (c := 6) (o := 1) (v23 := g) (v16 := oc) (v12 := p) (v6 := d) (v4 := n_c) (v0 := q_f % 16) (by decide) (by decide) (by omega) (by omega) (by omega) (by omega) (by omega) (by omega) rfl (by omega)
  apply of_op
  simp only [decodeOp, decodeC6, h0, h1, h2, h3, h4, h5, h6, h7, withUpd, o_c]
  refine dz_ok rfl ?_
  congr 1; first | omega | (unfold fld; omega) | (apply s_f; omega)

theorem ldW (g : Nat) (oc : Nat) (p : Nat) (d : Nat) (c : Upd) (f : Int) : Statement (.ldW g oc p d c f) := by
  intro x y hw he
  replace hw : (g < 16 && oc < 16 && p < 16 && d < 64 && fits 12 f) = true := hw
  cases (show some ((805306368 + g * 8388608 + 2097152 + oc * 65536 + p * 4096 + d * 64 + updCode c * 16 + ux 12 f % 16 : Nat), (ux 12 f / 16 : Nat)) = some (x, y) from he)
  simp only [Bool.and_eq_true, decide_eq_true_eq] at hw
  have l_c := updCode_lt c
  have o_c := updOf_updCode c
  generalize updCode c = n_c at *
  have l_f := @ux_lt 12 f
  have s_f : ∀ z, z = ux 12 f → sx 12 z = f := fun z => sx_ux (by decide) (by tauto)
  generalize ux 12 f = q_f at *
  refine ⟨by omega, by omega, fun r hr => ?_⟩
  obtain ⟨h0, h1, h2, h3, h4, h5, h6, h7⟩ := shape20 (r := r) (n := 807403520) (c := 6) (o := 2) (v23 := g) (v16 := oc) (v12 := p) (v6 := d) (v4 := n_c) (v0 := q_f % 16) (by decide) (by decide) (by omega) (by omega) (by omega) (by omega) (by omega) (by omega) rfl (by omega)
  apply of_op
  simp only [decodeOp, decodeC6, h0, h1, h2, h3, h4, h5, h6, h7, withUpd, o_c]
  refine dz_ok rfl ?_
  congr 1; first | omega | (unfold fld; omega) | (apply s_f; omega)

theorem ldD (g : Nat) (oc : Nat) (p : Nat) (d : Nat) (c : Upd) (f : Int) : Statement (.ldD g oc p d c f) := by
  intro x y hw he
  replace hw : (g < 16 && oc < 16 && p < 16 && d < 64 && fits 12 f) = true := hw
  cases (show some ((805306368 + g * 8388608 + 3145728 + oc * 65536 + p * 4096 + d * 64 + updCode c * 16 + ux 12 f % 16 : Nat), (ux 12 f / 16 : Nat)) = some (x, y) from he)
  simp only [Bool.and_eq_true, decide_eq_true_eq] at hw
  have l_c := updCode_lt c
  have o_c := updOf_updCode c
  generalize updCode c = n_c at *
  have l_f := @ux_lt 12 f
  have s_f : ∀ z, z = ux 12 f → sx 12 z = f := fun z => sx_ux (by decide) (by tauto)
  generalize ux 12 f = q_f at *
  refine ⟨by omega, by omega, fun r hr => ?_⟩
  obtain ⟨h0, h1, h2, h3, h4, h5, h6, h7⟩ := shape20 (r := r) (n := 808452096) (c := 6) (o := 3) (v23 := g) (v16 := oc) (v12 := p) (v6 := d) (v4 := n_c) (v0 := q_f % 16) (by decide) (by decide) (by omega) (by omega) (by omega) (by omega) (by omega) (by omega) rfl (by omega)
  apply of_op
  simp only [decodeOp, decodeC6, h0, h1, h2, h3, h4, h5, h6, h7, withUpd, o_c]
  refine dz_ok rfl ?_
  congr 1; first | omega | (unfold fld; omega) | (apply s_f; omega)

theorem stB (g : Nat) (oc : Nat) (p : Nat) (d : Nat) (c : Upd) (f : Int) : Statement (.stB g oc p d c f) := by
  intro x y hw he
  replace hw : (g < 16 && oc < 16 && p < 16 && d < 64 && fits 12 f) = true := hw
  cases (show some ((805306368 + g * 8388608 + 4194304 + oc * 65536 + p * 4096 + d * 64 + updCode c * 16 + ux 12 f % 16 : Nat), (ux 12 f / 16 : Nat)) = some (x, y) from he)
  simp only [Bool.and_eq_true, decide_eq_true_eq] at hw
  have l_c := updCode_lt c
  have o_c := updOf_updCode c
  generalize updCode c = n_c at *
  have l_f := @ux_lt 12 f
  have s_f : ∀ z, z = ux 12 f → sx 12 z = f := fun z => sx_ux (by decide) (by tauto)
  generalize ux 12 f = q_f at *
  refine ⟨by omega, by omega, fun r hr => ?_⟩
  obtain ⟨h0, h1, h2, h3, h4, h5, h6, h7⟩ := shape20 (r := r) (n := 809500672) (c := 6) (o := 4) (v23 := g) (v16 := oc) (v12 := p) (v6 := d) (v4 := n_c) (v0 := q_f % 16) (by decide) (by decide) (by omega) (by omega) (by omega) (by omega) (by omega) (by omega) rfl (by omega)
  apply of_op
  simp only [decodeOp, decodeC6, h0, h1, h2, h3, h4, h5, h6, h7, withUpd, o_c]
  refine dz_ok rfl ?_
  congr 1; first | omega | (unfold fld; omega) | (apply s_f; omega)

theorem stH (g : Nat) (oc : Nat) (p : Nat) (d : Nat) (c : Upd) (f : Int) : Statement (.stH g oc p d c f) := by
  intro x y hw he
  replace hw : (g < 16 && oc < 16 && p < 16 && d < 64 && fits 12 f) = true := hw
  cases (show some ((805306368 + g * 8388608 + 5242880 + oc * 65536 + p * 4096 + d * 64 + updCode c * 16 + ux 12 f % 16 : Nat), (ux 12 f / 16 : Nat)) = some (x, y) from he)
  simp only [Bool.and_eq_true, decide_eq_true_eq] at hw
  have l_c := updCode_lt c
  have o_c := updOf_updCode c
  generalize updCode c = n_c at *
  have l_f := @ux_lt 12 f
  have s_f : ∀ z, z = ux 12 f → sx 12 z = f := fun z => sx_ux (by decide) (by tauto)
  generalize ux 12 f = q_f at *
  refine ⟨by omega, by omega, fun r hr => ?_⟩
  obtain ⟨h0, h1, h2, h3, h4, h5, h6, h7⟩ := shape20 (r := r) (n := 810549248) (c := 6) (o := 5) (v23 := g) (v16 := oc) (v12 := p) (v6 := d) (v4 := n_c) (v0 := q_f % 16) (by decide) (by decide) (by omega) (by omega) (by omega) (by omega) (by omega) (by omega) rfl (by omega)
  apply of_op
  simp only [decodeOp, decodeC6, h0, h1, h2, h3, h4, h5, h6, h7, withUpd, o_c]
  refine dz_ok rfl ?_
  congr 1; first | omega | (unfold fld; omega) | (apply s_f; omega)

theorem stW (g : Nat) (oc : Nat) (p : Nat) (d : Nat) (c : Upd) (f : Int) : Statement (.stW g oc p d c f) := by
  intro x y hw he
  replace hw : (g < 16 && oc < 16 && p < 16 && d < 64 && fits 12 f) = true := hw
  cases (show some ((805306368 + g * 8388608 + 6291456 + oc * 65536 + p * 4096 + d * 64 + updCode c * 16 + ux 12 f % 16 : Nat), (ux 12 f / 16 : Nat)) = some (x, y) from he)
  simp only [Bool.and_eq_true, decide_eq_true_eq] at hw
  have l_c := updCode_lt c
  have o_c := updOf_updCode c
  generalize updCode c = n_c at *
  have l_f := @ux_lt 12 f
  have s_f : ∀ z, z = ux 12 f → sx 12 z = f := fun z => sx_ux (by decide) (by tauto)
  generalize ux 12 f = q_f at *
  refine ⟨by omega, by omega, fun r hr => ?_⟩
  obtain ⟨h0, h1, h2, h3, h4, h5, h6, h7⟩ := shape20 (r := r) (n := 811597824) (c := 6) (o := 6) (v23 := g) (v16 := oc) (v12 := p) (v6 := d) (v4 := n_c) (v0 := q_f % 16) (by decide) (by decide) (by omega) (by omega) (by omega) (by omega) (by omega) (by omega) rfl (by omega)
  apply of_op
  simp only [decodeOp, decodeC6, h0, h1, h2, h3, h4, h5, h6, h7, withUpd, o_c]
  refine dz_ok rfl ?_
  congr 1; first | omega | (unfold fld; omega) | (apply s_f; omega)

theorem stD (g : Nat) (oc : Nat) (p : Nat) (d : Nat) (c : Upd) (f : Int) : Statement (.stD g oc p d c f) := by
  intro x y hw he
  replace hw : (g < 16 && oc < 16 && p < 16 && d < 64 && fits 12 f) = true := hw
  cases (show some ((805306368 + g * 8388608 + 7340032 + oc * 65536 + p * 4096 + d * 64 + updCode c * 16 + ux 12 f % 16 : Nat), (ux 12 f / 16 : Nat)) = some (x, y) from he)
  simp only [Bool.and_eq_true, decide_eq_true_eq] at hw
  have l_c := updCode_lt c
  have o_c := updOf_updCode c
  generalize updCode c = n_c at *
  have l_f := @ux_lt 12 f
  have s_f : ∀ z, z = ux 12 f → sx 12 z = f := fun z => sx_ux (by decide) (by tauto)
  generalize ux 12 f = q_f at *
  refine ⟨by omega, by omega, fun r hr => ?_⟩
  obtain ⟨h0, h1, h2, h3, h4, h5, h6, h7⟩ := shape20 (r := r) (n := 812646400) (c := 6) (o := 7) (v23 := g) (v16 := oc) (v12 := p) (v6 := d) (v4 := n_c) (v0 := q_f % 16) (by decide) (by decide) (by omega) (by omega) (by omega) (by omega) (by omega) (by omega) rfl (by omega)
  apply of_op
  simp only [decodeOp, decodeC6, h0, h1, h2, h3, h4, h5, h6, h7, withUpd, o_c]
  refine dz_ok rfl ?_
  congr 1; first | omega | (unfold fld; omega) | (apply s_f; omega)

theorem vld (g : Nat) (oc : Nat) (p : Nat) (d : Nat) (c : Upd) (f : Int) : Statement (.vld g oc p d c f) := by
  intro x y hw he
  replace hw : (g < 16 && oc < 16 && p < 16 && d < 64 && fits 12 f) = true := hw
  cases (show some ((939524096 + g * 8388608 + oc * 65536 + p * 4096 + d * 64 + updCode c * 16 + ux 12 f % 16 : Nat), (ux 12 f / 16 : Nat)) = some (x, y) from he)
  simp only [Bool.and_eq_true, decide_eq_true_eq] at hw
  have l_c := updCode_lt c
  have o_c := updOf_updCode c
  generalize updCode c = n_c at *
  have l_f := @ux_lt 12 f
  have s_f : ∀ z, z = ux 12 f → sx 12 z = f := fun z => sx_ux (by decide) (by tauto)
  generalize ux 12 f = q_f at *
  refine ⟨by omega, by omega, fun r hr => ?_⟩
  obtain ⟨h0, h1, h2, h3, h4, h5, h6, h7⟩ := shape20 (r := r) (n := 939524096) (c := 7) (o := 0) (v23 := g) (v16 := oc) (v12 := p) (v6 := d) (v4 := n_c) (v0 := q_f % 16) (by decide) (by decide) (by omega) (by omega) (by omega) (by omega) (by omega) (by omega) rfl (by omega)
  apply of_op
  simp only [decodeOp, decodeC7, h0, h1, h2, h3, h4, h5, h6, h7, withUpd, o_c]
  refine dz_ok rfl ?_
  congr 1; first | omega | (unfold fld; omega) | (apply s_f; omega)

theorem vst (g : Nat) (oc : Nat) (p : Nat) (d : Nat) (c : Upd) (f : Int) : Statement (.vst g oc p d c f) := by
  intro x y hw he
  replace hw : (g < 16 && oc < 16 && p < 16 && d < 64 && fits 12 f) = true := hw
  cases (show some ((939524096 + g * 8388608 + 1048576 + oc * 65536 + p * 4096 + d * 64 + updCode c * 16 + ux 12 f % 16 : Nat), (ux 12 f / 16 : Nat)) = some (x, y) from he)
  simp only [Bool.and_eq_true, decide_eq_true_eq] at hw
  have l_c := updCode_lt c
  have o_c := updOf_updCode c
  generalize updCode c = n_c at *
  have l_f := @ux_lt 12 f
  have s_f : ∀ z, z = ux 12 f → sx 12 z = f := fun z => sx_ux (by decide) (by tauto)
  generalize ux 12 f = q_f at *
  refine ⟨by omega, by omega, fun r hr => ?_⟩
  obtain ⟨h0, h1, h2, h3, h4, h5, h6, h7⟩ := shape20 (r := r) (n := 940572672) (c := 7) (o := 1) (v23 := g) (v16 := oc) (v12 := p) (v6 := d) (v4 := n_c) (v0 := q_f % 16) (by decide) (by decide) (by omega) (by omega) (by omega) (by omega) (by omega) (by omega) rfl (by omega)
  apply of_op
  simp only [decodeOp, decodeC7, h0, h1, h2, h3, h4, h5, h6, h7, withUpd, o_c]
  refine dz_ok rfl ?_
  congr 1; first | omega | (unfold fld; omega) | (apply s_f; omega)

theorem vlds (g : Nat) (oc : Nat) (p : Nat) (d : Nat) (c : Upd) (f : Int) : Statement (.vlds g oc p d c f) := by
  intro x y hw he
  replace hw : (g < 16 && oc < 16 && p < 16 && d < 64 && fits 12 f) = true := hw
  cases (show some ((939524096 + g * 8388608 + 2097152 + oc * 65536 + p * 4096 + d * 64 + updCode c * 16 + ux 12 f % 16 : Nat), (ux 12 f / 16 : Nat)) = some (x, y) from he)
  simp only [Bool.and_eq_true, decide_eq_true_eq] at hw
  have l_c := updCode_lt c
  have o_c := updOf_updCode c
  generalize updCode c = n_c at *
  have l_f := @ux_lt 12 f
  have s_f : ∀ z, z = ux 12 f → sx 12 z = f := fun z => sx_ux (by decide) (by tauto)
  generalize ux 12 f = q_f at *
  refine ⟨by omega, by omega, fun r hr => ?_⟩
  obtain ⟨h0, h1, h2, h3, h4, h5, h6, h7⟩ := shape20 (r := r) (n := 941621248) (c := 7) (o := 2) (v23 := g) (v16 := oc) (v12 := p) (v6 := d) (v4 := n_c) (v0 := q_f % 16) (by decide) (by decide) (by omega) (by omega) (by omega) (by omega) (by omega) (by omega) rfl (by omega)
  apply of_op
  simp only [decodeOp, decodeC7, h0, h1, h2, h3, h4, h5, h6, h7, withUpd, o_c]
  refine dz_ok rfl ?_
  congr 1; first | omega | (unfold fld; omega) | (apply s_f; omega)

theorem vsts (g : Nat) (oc : Nat) (p : Nat) (d : Nat) (c : Upd) (f : Int) : Statement (.vsts g oc p d c f) := by
  intro x y hw he
  replace hw : (g < 16 && oc < 16 && p < 16 && d < 64 && fits 12 f) = true := hw
  cases (show some ((939524096 + g * 8388608 + 3145728 + oc * 65536 + p * 4096 + d * 64 + updCode c * 16 + ux 12 f % 16 : Nat), (ux 12 f / 16 : Nat)) = some (x, y) from he)
  simp only [Bool.and_eq_true, decide_eq_true_eq] at hw
  have l_c := updCode_lt c
  have o_c := updOf_updCode c
  generalize updCode c = n_c at *
  have l_f := @ux_lt 12 f
  have s_f : ∀ z, z = ux 12 f → sx 12 z = f := fun z => sx_ux (by decide) (by tauto)
  generalize ux 12 f = q_f at *
  refine ⟨by omega, by omega, fun r hr => ?_⟩
  obtain ⟨h0, h1, h2, h3, h4, h5, h6, h7⟩ := shape20 (r := r) (n := 942669824) (c := 7) (o := 3) (v23 := g) (v16 := oc) (v12 := p) (v6 := d) (v4 := n_c) (v0 := q_f % 16) (by decide) (by decide) (by omega) (by omega) (by omega) (by omega) (by omega) (by omega) rfl (by omega)
  apply of_op
  simp only [decodeOp, decodeC7, h0, h1, h2, h3, h4, h5, h6, h7, withUpd, o_c]
  refine dz_ok rfl ?_
  congr 1; first | omega | (unfold fld; omega) | (apply s_f; omega)

theorem ldf (g : Nat) (oc : Nat) (p : Nat) (dbl : Bool) (d : Nat) (c : Upd) (f : Int) : Statement (.ldf g oc p dbl d c f) := by
  intro x y hw he
  replace hw : (g < 16 && oc < 16 && p < 16 && d < 32 && fits 12 f) = true := hw
  cases (show some ((939524096 + g * 8388608 + 4194304 + oc * 65536 + p * 4096 + dbl.toNat * 2048 + d * 64 + updCode c * 16 + ux 12 f % 16 : Nat), (ux 12 f / 16 : Nat)) = some (x, y) from he)
  simp only [Bool.and_eq_true, decide_eq_true_eq] at hw
  have b_dbl := toNat_lt dbl
  have l_c := updCode_lt c
  have o_c := updOf_updCode c
  generalize updCode c = n_c at *
  have l_f := @ux_lt 12 f
  have s_f : ∀ z, z = ux 12 f → sx 12 z = f := fun z => sx_ux (by decide) (by tauto)
  generalize ux 12 f = q_f at *
  refine ⟨by omega, by omega, fun r hr => ?_⟩
  obtain ⟨h0, h1, h2, h3, h4, h5, h6, h7, h8⟩ := shape21 (r := r) (n := 943718400) (c := 7) (o := 4) (v23 := g) (v16 := oc) (v12 := p) (v11 := dbl.toNat) (v6 := d) (v4 := n_c) (v0 := q_f % 16) (by decide) (by decide) (by omega) (by omega) (by omega) (by omega) (by omega) (by omega) (by omega) rfl (by omega)
  apply of_op
  simp only [decodeOp, decodeC7, h0, h1, h2, h3, h4, h5, h6, h7, h8, withUpd, o_c]
  refine dz_ok rfl ?_
  congr 1 <;> first | omega | (unfold fld; omega) | (apply s_f; omega) | (apply bit_eq; first | rfl | omega | (unfold fld; omega))

theorem stf (g : Nat) (oc : Nat) (p : Nat) (dbl : Bool) (d : Nat) (c : Upd) (f : Int) : Statement (.stf g oc p dbl d c f) := by
  intro x y hw he
  replace hw : (g < 16 && oc < 16 && p < 16 && d < 32 && fits 12 f) = true := hw
  cases (show some ((939524096 + g * 8388608 + 5242880 + oc * 65536 + p * 4096 + dbl.toNat * 2048 + d * 64 + updCode c * 16 + ux 12 f % 16 : Nat), (ux 12 f / 16 : Nat)) = some (x, y) from he)
  simp only [Bool.and_eq_true, decide_eq_true_eq] at hw
  have b_dbl := toNat_lt dbl
  have l_c := updCode_lt c
  have o_c := updOf_updCode c
  generalize updCode c = n_c at *
  have l_f := @ux_lt 12 f
  have s_f : ∀ z, z = ux 12 f → sx 12 z = f := fun z => sx_ux (by decide) (by tauto)
  generalize ux 12 f = q_f at *
  refine ⟨by omega, by omega, fun r hr => ?_⟩
  obtain ⟨h0, h1, h2, h3, h4, h5, h6, h7, h8⟩ := shape21 (r := r) (n := 944766976) (c := 7) (o := 5) (v23 := g) (v16 := oc) (v12 := p) (v11 := dbl.toNat) (v6 := d) (v4 := n_c) (v0 := q_f % 16) (by decide) (by decide) (by omega) (by omega) (by omega) (by omega) (by omega) (by omega) (by omega) rfl (by omega)
  apply of_op
  simp only [decodeOp, decodeC7, h0, h1, h2, h3, h4, h5, h6, h7, h8, withUpd, o_c]
  refine dz_ok rfl ?_
  congr 1 <;> first | omega | (unfold fld; omega) | (apply s_f; omega) | (apply bit_eq; first | rfl | omega | (unfold fld; omega))

theorem ldk (g : Nat) (p : Nat) (d : Nat) (c : Upd) (f : Int) : Statement (.ldk g p d c f) := by
  intro x y hw he
  replace hw : (g < 16 && p < 16 && d < 64 && fits 12 f) = true := hw
  cases (show some ((939524096 + g * 8388608 + 6291456 + p * 4096 + d * 64 + updCode c * 16 + ux 12 f % 16 : Nat), (ux 12 f / 16 : Nat)) = some (x, y) from he)
  simp only [Bool.and_eq_true, decide_eq_true_eq] at hw
  have l_c := updCode_lt c
  have o_c := updOf_updCode c
  generalize updCode c = n_c at *
  have l_f := @ux_lt 12 f
  have s_f : ∀ z, z = ux 12 f → sx 12 z = f := fun z => sx_ux (by decide) (by tauto)
  generalize ux 12 f = q_f at *
  refine ⟨by omega, by omega, fun r hr => ?_⟩
  obtain ⟨h0, h1, h2, h3, h4, h5, h6, h7⟩ := shape22 (r := r) (n := 945815552) (c := 7) (o := 6) (v23 := g) (v12 := p) (v6 := d) (v4 := n_c) (v0 := q_f % 16) (by decide) (by decide) (by omega) (by omega) (by omega) (by omega) (by omega) rfl (by omega)
  apply of_op
  simp only [decodeOp, decodeC7, h0, h1, h2, h3, h4, h5, h6, h7, withUpd, o_c]
  refine dz_ok rfl ?_
  congr 1; first | omega | (unfold fld; omega) | (apply s_f; omega)

theorem tlook (g : Nat) (d : Nat) (a : Nat) : Statement (.tlook g d a) := by
  intro x y hw he
  replace hw : (g < 16 && d < 64 && a < 64) = true := hw
  cases (show some ((939524096 + g * 8388608 + 7340032 + d * 4096 + a * 64 : Nat), (0 : Nat)) = some (x, y) from he)
  simp only [Bool.and_eq_true, decide_eq_true_eq] at hw
  refine ⟨by omega, by omega, fun r hr => ?_⟩
  obtain ⟨h0, h1, h2, h3, h4, h5, h6⟩ := shape23 (r := r) (n := 946864128) (c := 7) (o := 7) (o2 := 0) (v23 := g) (v12 := d) (v6 := a) (by decide) (by decide) (by decide) (by omega) (by omega) (by omega) rfl (by omega)
  apply of_op
  simp only [decodeOp, decodeC7, h0, h1, h2, h3, h4, h5, h6]
  refine dz_ok rfl ?_
  rfl

theorem tset (g : Nat) (a : Nat) (b : Nat) : Statement (.tset g a b) := by
  intro x y hw he
  replace hw : (g < 16 && a < 64 && b < 64) = true := hw
  cases (show some ((939524096 + g * 8388608 + 7602176 + a * 64 + b : Nat), (0 : Nat)) = some (x, y) from he)
  simp only [Bool.and_eq_true, decide_eq_true_eq] at hw
  refine ⟨by omega, by omega, fun r hr => ?_⟩
  obtain ⟨h0, h1, h2, h3, h4, h5, h6⟩ := shape24 (r := r) (n := 947126272) (c := 7) (o := 7) (o2 := 1) (v23 := g) (v6 := a) (v0 := b) (by decide) (by decide) (by decide) (by omega) (by omega) (by omega) rfl (by omega)
  apply of_op
  simp only [decodeOp, decodeC7, h0, h1, h2, h3, h4, h5, h6]
  refine dz_ok rfl ?_
  rfl

theorem tclr (g : Nat) (a : Nat) : Statement (.tclr g a) := by
  intro x y hw he
  replace hw : (g < 16 && a < 64) = true := hw
  cases (show some ((939524096 + g * 8388608 + 7864320 + a * 64 : Nat), (0 : Nat)) = some (x, y) from he)
  simp only [Bool.and_eq_true, decide_eq_true_eq] at hw
  refine ⟨by omega, by omega, fun r hr => ?_⟩
  obtain ⟨h0, h1, h2, h3, h4, h5, h6⟩ := shape25 (r := r) (n := 947388416) (c := 7) (o := 7) (o2 := 2) (v23 := g) (v6 := a) (by decide) (by decide) (by decide) (by omega) (by omega) rfl (by omega)
  apply of_op
  simp only [decodeOp, decodeC7, h0, h1, h2, h3, h4, h5, h6]
  refine dz_ok rfl ?_
  rfl

theorem tinv (g : Nat) : Statement (.tinv g) := by
  intro x y hw he
  replace hw : (decide (g < 16)) = true := hw
  cases (show some ((939524096 + g * 8388608 + 8126464 : Nat), (0 : Nat)) = some (x, y) from he)
  simp only [Bool.and_eq_true, decide_eq_true_eq] at hw
  refine ⟨by omega, by omega, fun r hr => ?_⟩
  obtain ⟨h0, h1, h2, h3, h4⟩ := shape26 (r := r) (n := 947650560) (c := 7) (o := 7) (o2 := 3) (v23 := g) (by decide) (by decide) (by decide) (by omega) rfl (by omega)
  apply of_op
  simp only [decodeOp, decodeC7, h0, h1, h2, h3, h4]
  refine dz_ok rfl ?_
  rfl

theorem amo (g : Nat) (oc : Nat) (p : Nat) (d : Nat) (s : Nat) (op : Aop) (dbl : Bool) : Statement (.amo g oc p d s op dbl) := by
  intro x y hw he
  replace hw : (g < 16 && oc < 16 && p < 16 && d < 64 && s < 64 && 1 ≤ oc) = true := hw
  cases (show some ((1073741824 + g * 8388608 + oc * 65536 + p * 4096 + d * 64 + s : Nat), (aopCode op + dbl.toNat * 16 : Nat)) = some (x, y) from he)
  simp only [Bool.and_eq_true, decide_eq_true_eq] at hw
  have l_op := aopCode_lt op
  have o_op := aopOf_aopCode op
  generalize aopCode op = n_op at *
  have b_dbl := toNat_lt dbl
  refine ⟨by omega, by omega, fun r hr => ?_⟩
  obtain ⟨h0, h1, h2, h3, h4, h5, h6⟩ := shape27 (r := r) (n := 1073741824) (c := 8) (o := 0) (v23 := g) (v16 := oc) (v12 := p) (v6 := d) (v0 := s) (by decide) (by decide) (by omega) (by omega) (by omega) (by omega) (by omega) rfl (by omega)
  have hx : fld (n_op + dbl.toNat * 16) 0 4 = n_op := by unfold fld; omega
  apply of_op
  simp only [decodeOp, decodeC8, h0, h1, h2, h3, h4, h5, h6, withAop, o_op, hx]
  refine dz_ok (by unfold fld; omega) ?_
  congr 1; first | omega | (unfold fld; omega) | (apply bit_eq; first | rfl | omega | (unfold fld; omega))

theorem red (g : Nat) (oc : Nat) (p : Nat) (s : Nat) (op : Aop) (dbl : Bool) : Statement (.red g oc p s op dbl) := by
  intro x y hw he
  replace hw : (g < 16 && oc < 16 && p < 16 && s < 64 && 1 ≤ oc && op != .swap && op != .cas) = true := hw
  cases (show some ((1073741824 + g * 8388608 + 1048576 + oc * 65536 + p * 4096 + s : Nat), (aopCode op + dbl.toNat * 16 : Nat)) = some (x, y) from he)
  simp only [Bool.and_eq_true, decide_eq_true_eq] at hw
  have l_op := aopCode_lt op
  have o_op := aopOf_aopCode op
  generalize aopCode op = n_op at *
  have b_dbl := toNat_lt dbl
  refine ⟨by omega, by omega, fun r hr => ?_⟩
  obtain ⟨h0, h1, h2, h3, h4, h5, h6⟩ := shape28 (r := r) (n := 1074790400) (c := 8) (o := 1) (v23 := g) (v16 := oc) (v12 := p) (v0 := s) (by decide) (by decide) (by omega) (by omega) (by omega) (by omega) rfl (by omega)
  have hx : fld (n_op + dbl.toNat * 16) 0 4 = n_op := by unfold fld; omega
  apply of_op
  simp only [decodeOp, decodeC8, h0, h1, h2, h3, h4, h5, h6, withAop, o_op, hx]
  refine dz_ok (by unfold fld; omega) ?_
  congr 1; first | omega | (unfold fld; omega) | (apply bit_eq; first | rfl | omega | (unfold fld; omega))

theorem fence (g : Nat) (m : Nat) (sc : Nat) : Statement (.fence g m sc) := by
  intro x y hw he
  replace hw : (g < 16 && m < 65536 && sc < 8 && 1 ≤ m && sc < 6) = true := hw
  cases (show some ((1073741824 + g * 8388608 + 2097152 + m * 16 + sc * 2 : Nat), (0 : Nat)) = some (x, y) from he)
  simp only [Bool.and_eq_true, decide_eq_true_eq] at hw
  refine ⟨by omega, by omega, fun r hr => ?_⟩
  obtain ⟨h0, h1, h2, h3, h4, h5⟩ := shape29 (r := r) (n := 1075838976) (c := 8) (o := 2) (v23 := g) (v4 := m) (v1 := sc) (by decide) (by decide) (by omega) (by omega) (by omega) rfl (by omega)
  apply of_op
  simp only [decodeOp, decodeC8, h0, h1, h2, h3, h4, h5]
  refine dz_ok rfl ?_
  rfl

theorem fenceD (g : Nat) : Statement (.fenceD g) := by
  intro x y hw he
  replace hw : (decide (g < 16)) = true := hw
  cases (show some ((1073741824 + g * 8388608 + 3145728 : Nat), (0 : Nat)) = some (x, y) from he)
  simp only [Bool.and_eq_true, decide_eq_true_eq] at hw
  refine ⟨by omega, by omega, fun r hr => ?_⟩
  obtain ⟨h0, h1, h2, h3⟩ := shape30 (r := r) (n := 1076887552) (c := 8) (o := 3) (v23 := g) (by decide) (by decide) (by omega) rfl (by omega)
  apply of_op
  simp only [decodeOp, decodeC8, h0, h1, h2, h3]
  refine dz_ok rfl ?_
  rfl

theorem row (g : Nat) : Statement (.row g) := by
  intro x y hw he
  replace hw : (decide (g < 16)) = true := hw
  cases (show some ((1073741824 + g * 8388608 + 4194304 : Nat), (0 : Nat)) = some (x, y) from he)
  simp only [Bool.and_eq_true, decide_eq_true_eq] at hw
  refine ⟨by omega, by omega, fun r hr => ?_⟩
  obtain ⟨h0, h1, h2, h3⟩ := shape30 (r := r) (n := 1077936128) (c := 8) (o := 4) (v23 := g) (by decide) (by decide) (by omega) rfl (by omega)
  apply of_op
  simp only [decodeOp, decodeC8, h0, h1, h2, h3]
  refine dz_ok rfl ?_
  rfl

theorem watch (g : Nat) (p : Nat) (c : Upd) (f : Int) : Statement (.watch g p c f) := by
  intro x y hw he
  replace hw : (g < 16 && p < 16 && fits 12 f) = true := hw
  cases (show some ((1073741824 + g * 8388608 + 5242880 + p * 4096 + updCode c * 16 + ux 12 f % 16 : Nat), (ux 12 f / 16 : Nat)) = some (x, y) from he)
  simp only [Bool.and_eq_true, decide_eq_true_eq] at hw
  have l_c := updCode_lt c
  have o_c := updOf_updCode c
  generalize updCode c = n_c at *
  have l_f := @ux_lt 12 f
  have s_f : ∀ z, z = ux 12 f → sx 12 z = f := fun z => sx_ux (by decide) (by tauto)
  generalize ux 12 f = q_f at *
  refine ⟨by omega, by omega, fun r hr => ?_⟩
  obtain ⟨h0, h1, h2, h3, h4, h5, h6, h7⟩ := shape31 (r := r) (n := 1078984704) (c := 8) (o := 5) (v23 := g) (v12 := p) (v4 := n_c) (v0 := q_f % 16) (by decide) (by decide) (by omega) (by omega) (by omega) (by omega) rfl (by omega)
  apply of_op
  simp only [decodeOp, decodeC8, h0, h1, h2, h3, h4, h5, h6, h7, withUpd, o_c]
  refine dz_ok rfl ?_
  congr 1; first | omega | (unfold fld; omega) | (apply s_f; omega)

theorem waitw (g : Nat) : Statement (.waitw g) := by
  intro x y hw he
  replace hw : (decide (g < 16)) = true := hw
  cases (show some ((1073741824 + g * 8388608 + 6291456 : Nat), (0 : Nat)) = some (x, y) from he)
  simp only [Bool.and_eq_true, decide_eq_true_eq] at hw
  refine ⟨by omega, by omega, fun r hr => ?_⟩
  obtain ⟨h0, h1, h2, h3⟩ := shape30 (r := r) (n := 1080033280) (c := 8) (o := 6) (v23 := g) (by decide) (by decide) (by omega) rfl (by omega)
  apply of_op
  simp only [decodeOp, decodeC8, h0, h1, h2, h3]
  refine dz_ok rfl ?_
  rfl

theorem kinv (g : Nat) : Statement (.kinv g) := by
  intro x y hw he
  replace hw : (decide (g < 16)) = true := hw
  cases (show some ((1073741824 + g * 8388608 + 7340032 : Nat), (0 : Nat)) = some (x, y) from he)
  simp only [Bool.and_eq_true, decide_eq_true_eq] at hw
  refine ⟨by omega, by omega, fun r hr => ?_⟩
  obtain ⟨h0, h1, h2, h3⟩ := shape30 (r := r) (n := 1081081856) (c := 8) (o := 7) (v23 := g) (by decide) (by decide) (by omega) rfl (by omega)
  apply of_op
  simp only [decodeOp, decodeC8, h0, h1, h2, h3]
  refine dz_ok rfl ?_
  rfl

theorem vadd (g : Nat) (d : Nat) (a : Nat) (b : Nat) : Statement (.vadd g d a b) := by
  intro x y hw he
  replace hw : (g < 16 && d < 64 && a < 64 && b < 64) = true := hw
  cases (show some ((1207959552 + g * 8388608 + d * 4096 + a * 64 + b : Nat), (0 : Nat)) = some (x, y) from he)
  simp only [Bool.and_eq_true, decide_eq_true_eq] at hw
  refine ⟨by omega, by omega, fun r hr => ?_⟩
  obtain ⟨h0, h1, h2, h3, h4, h5⟩ := shape1 (r := r) (n := 1207959552) (c := 9) (o := 0) (v23 := g) (v12 := d) (v6 := a) (v0 := b) (by decide) (by decide) (by omega) (by omega) (by omega) (by omega) rfl (by omega)
  apply of_op
  simp only [decodeOp, decodeC9, h0, h1, h2, h3, h4, h5]
  refine dz_ok rfl ?_
  rfl

theorem vsub (g : Nat) (d : Nat) (a : Nat) (b : Nat) : Statement (.vsub g d a b) := by
  intro x y hw he
  replace hw : (g < 16 && d < 64 && a < 64 && b < 64) = true := hw
  cases (show some ((1207959552 + g * 8388608 + 262144 + d * 4096 + a * 64 + b : Nat), (0 : Nat)) = some (x, y) from he)
  simp only [Bool.and_eq_true, decide_eq_true_eq] at hw
  refine ⟨by omega, by omega, fun r hr => ?_⟩
  obtain ⟨h0, h1, h2, h3, h4, h5⟩ := shape1 (r := r) (n := 1208221696) (c := 9) (o := 1) (v23 := g) (v12 := d) (v6 := a) (v0 := b) (by decide) (by decide) (by omega) (by omega) (by omega) (by omega) rfl (by omega)
  apply of_op
  simp only [decodeOp, decodeC9, h0, h1, h2, h3, h4, h5]
  refine dz_ok rfl ?_
  rfl

theorem vmul (g : Nat) (d : Nat) (a : Nat) (b : Nat) : Statement (.vmul g d a b) := by
  intro x y hw he
  replace hw : (g < 16 && d < 64 && a < 64 && b < 64) = true := hw
  cases (show some ((1207959552 + g * 8388608 + 524288 + d * 4096 + a * 64 + b : Nat), (0 : Nat)) = some (x, y) from he)
  simp only [Bool.and_eq_true, decide_eq_true_eq] at hw
  refine ⟨by omega, by omega, fun r hr => ?_⟩
  obtain ⟨h0, h1, h2, h3, h4, h5⟩ := shape1 (r := r) (n := 1208483840) (c := 9) (o := 2) (v23 := g) (v12 := d) (v6 := a) (v0 := b) (by decide) (by decide) (by omega) (by omega) (by omega) (by omega) rfl (by omega)
  apply of_op
  simp only [decodeOp, decodeC9, h0, h1, h2, h3, h4, h5]
  refine dz_ok rfl ?_
  rfl

theorem vfma (g : Nat) (d : Nat) (a : Nat) (b : Nat) : Statement (.vfma g d a b) := by
  intro x y hw he
  replace hw : (g < 16 && d < 64 && a < 64 && b < 64) = true := hw
  cases (show some ((1207959552 + g * 8388608 + 786432 + d * 4096 + a * 64 + b : Nat), (0 : Nat)) = some (x, y) from he)
  simp only [Bool.and_eq_true, decide_eq_true_eq] at hw
  refine ⟨by omega, by omega, fun r hr => ?_⟩
  obtain ⟨h0, h1, h2, h3, h4, h5⟩ := shape1 (r := r) (n := 1208745984) (c := 9) (o := 3) (v23 := g) (v12 := d) (v6 := a) (v0 := b) (by decide) (by decide) (by omega) (by omega) (by omega) (by omega) rfl (by omega)
  apply of_op
  simp only [decodeOp, decodeC9, h0, h1, h2, h3, h4, h5]
  refine dz_ok rfl ?_
  rfl

theorem vmin (g : Nat) (d : Nat) (a : Nat) (b : Nat) : Statement (.vmin g d a b) := by
  intro x y hw he
  replace hw : (g < 16 && d < 64 && a < 64 && b < 64) = true := hw
  cases (show some ((1207959552 + g * 8388608 + 1048576 + d * 4096 + a * 64 + b : Nat), (0 : Nat)) = some (x, y) from he)
  simp only [Bool.and_eq_true, decide_eq_true_eq] at hw
  refine ⟨by omega, by omega, fun r hr => ?_⟩
  obtain ⟨h0, h1, h2, h3, h4, h5⟩ := shape1 (r := r) (n := 1209008128) (c := 9) (o := 4) (v23 := g) (v12 := d) (v6 := a) (v0 := b) (by decide) (by decide) (by omega) (by omega) (by omega) (by omega) rfl (by omega)
  apply of_op
  simp only [decodeOp, decodeC9, h0, h1, h2, h3, h4, h5]
  refine dz_ok rfl ?_
  rfl

theorem vmax (g : Nat) (d : Nat) (a : Nat) (b : Nat) : Statement (.vmax g d a b) := by
  intro x y hw he
  replace hw : (g < 16 && d < 64 && a < 64 && b < 64) = true := hw
  cases (show some ((1207959552 + g * 8388608 + 1310720 + d * 4096 + a * 64 + b : Nat), (0 : Nat)) = some (x, y) from he)
  simp only [Bool.and_eq_true, decide_eq_true_eq] at hw
  refine ⟨by omega, by omega, fun r hr => ?_⟩
  obtain ⟨h0, h1, h2, h3, h4, h5⟩ := shape1 (r := r) (n := 1209270272) (c := 9) (o := 5) (v23 := g) (v12 := d) (v6 := a) (v0 := b) (by decide) (by decide) (by omega) (by omega) (by omega) (by omega) rfl (by omega)
  apply of_op
  simp only [decodeOp, decodeC9, h0, h1, h2, h3, h4, h5]
  refine dz_ok rfl ?_
  rfl

theorem vabs (g : Nat) (d : Nat) (a : Nat) : Statement (.vabs g d a) := by
  intro x y hw he
  replace hw : (g < 16 && d < 64 && a < 64) = true := hw
  cases (show some ((1207959552 + g * 8388608 + 1572864 + d * 4096 + a * 64 : Nat), (0 : Nat)) = some (x, y) from he)
  simp only [Bool.and_eq_true, decide_eq_true_eq] at hw
  refine ⟨by omega, by omega, fun r hr => ?_⟩
  obtain ⟨h0, h1, h2, h3, h4, h5⟩ := shape2 (r := r) (n := 1209532416) (c := 9) (o := 6) (v23 := g) (v12 := d) (v6 := a) (by decide) (by decide) (by omega) (by omega) (by omega) rfl (by omega)
  apply of_op
  simp only [decodeOp, decodeC9, h0, h1, h2, h3, h4, h5]
  refine dz_ok rfl ?_
  rfl

theorem vneg (g : Nat) (d : Nat) (a : Nat) : Statement (.vneg g d a) := by
  intro x y hw he
  replace hw : (g < 16 && d < 64 && a < 64) = true := hw
  cases (show some ((1207959552 + g * 8388608 + 1835008 + d * 4096 + a * 64 : Nat), (0 : Nat)) = some (x, y) from he)
  simp only [Bool.and_eq_true, decide_eq_true_eq] at hw
  refine ⟨by omega, by omega, fun r hr => ?_⟩
  obtain ⟨h0, h1, h2, h3, h4, h5⟩ := shape2 (r := r) (n := 1209794560) (c := 9) (o := 7) (v23 := g) (v12 := d) (v6 := a) (by decide) (by decide) (by omega) (by omega) (by omega) rfl (by omega)
  apply of_op
  simp only [decodeOp, decodeC9, h0, h1, h2, h3, h4, h5]
  refine dz_ok rfl ?_
  rfl

theorem vand (g : Nat) (d : Nat) (a : Nat) (b : Nat) : Statement (.vand g d a b) := by
  intro x y hw he
  replace hw : (g < 16 && d < 64 && a < 64 && b < 64) = true := hw
  cases (show some ((1207959552 + g * 8388608 + 2097152 + d * 4096 + a * 64 + b : Nat), (0 : Nat)) = some (x, y) from he)
  simp only [Bool.and_eq_true, decide_eq_true_eq] at hw
  refine ⟨by omega, by omega, fun r hr => ?_⟩
  obtain ⟨h0, h1, h2, h3, h4, h5⟩ := shape1 (r := r) (n := 1210056704) (c := 9) (o := 8) (v23 := g) (v12 := d) (v6 := a) (v0 := b) (by decide) (by decide) (by omega) (by omega) (by omega) (by omega) rfl (by omega)
  apply of_op
  simp only [decodeOp, decodeC9, h0, h1, h2, h3, h4, h5]
  refine dz_ok rfl ?_
  rfl

theorem vor (g : Nat) (d : Nat) (a : Nat) (b : Nat) : Statement (.vor g d a b) := by
  intro x y hw he
  replace hw : (g < 16 && d < 64 && a < 64 && b < 64) = true := hw
  cases (show some ((1207959552 + g * 8388608 + 2359296 + d * 4096 + a * 64 + b : Nat), (0 : Nat)) = some (x, y) from he)
  simp only [Bool.and_eq_true, decide_eq_true_eq] at hw
  refine ⟨by omega, by omega, fun r hr => ?_⟩
  obtain ⟨h0, h1, h2, h3, h4, h5⟩ := shape1 (r := r) (n := 1210318848) (c := 9) (o := 9) (v23 := g) (v12 := d) (v6 := a) (v0 := b) (by decide) (by decide) (by omega) (by omega) (by omega) (by omega) rfl (by omega)
  apply of_op
  simp only [decodeOp, decodeC9, h0, h1, h2, h3, h4, h5]
  refine dz_ok rfl ?_
  rfl

theorem vxor (g : Nat) (d : Nat) (a : Nat) (b : Nat) : Statement (.vxor g d a b) := by
  intro x y hw he
  replace hw : (g < 16 && d < 64 && a < 64 && b < 64) = true := hw
  cases (show some ((1207959552 + g * 8388608 + 2621440 + d * 4096 + a * 64 + b : Nat), (0 : Nat)) = some (x, y) from he)
  simp only [Bool.and_eq_true, decide_eq_true_eq] at hw
  refine ⟨by omega, by omega, fun r hr => ?_⟩
  obtain ⟨h0, h1, h2, h3, h4, h5⟩ := shape1 (r := r) (n := 1210580992) (c := 9) (o := 10) (v23 := g) (v12 := d) (v6 := a) (v0 := b) (by decide) (by decide) (by omega) (by omega) (by omega) (by omega) rfl (by omega)
  apply of_op
  simp only [decodeOp, decodeC9, h0, h1, h2, h3, h4, h5]
  refine dz_ok rfl ?_
  rfl

theorem vnot (g : Nat) (d : Nat) (a : Nat) : Statement (.vnot g d a) := by
  intro x y hw he
  replace hw : (g < 16 && d < 64 && a < 64) = true := hw
  cases (show some ((1207959552 + g * 8388608 + 2883584 + d * 4096 + a * 64 : Nat), (0 : Nat)) = some (x, y) from he)
  simp only [Bool.and_eq_true, decide_eq_true_eq] at hw
  refine ⟨by omega, by omega, fun r hr => ?_⟩
  obtain ⟨h0, h1, h2, h3, h4, h5⟩ := shape2 (r := r) (n := 1210843136) (c := 9) (o := 11) (v23 := g) (v12 := d) (v6 := a) (by decide) (by decide) (by omega) (by omega) (by omega) rfl (by omega)
  apply of_op
  simp only [decodeOp, decodeC9, h0, h1, h2, h3, h4, h5]
  refine dz_ok rfl ?_
  rfl

theorem vshl (g : Nat) (d : Nat) (a : Nat) (b : Nat) : Statement (.vshl g d a b) := by
  intro x y hw he
  replace hw : (g < 16 && d < 64 && a < 64 && b < 64) = true := hw
  cases (show some ((1207959552 + g * 8388608 + 3145728 + d * 4096 + a * 64 + b : Nat), (0 : Nat)) = some (x, y) from he)
  simp only [Bool.and_eq_true, decide_eq_true_eq] at hw
  refine ⟨by omega, by omega, fun r hr => ?_⟩
  obtain ⟨h0, h1, h2, h3, h4, h5⟩ := shape1 (r := r) (n := 1211105280) (c := 9) (o := 12) (v23 := g) (v12 := d) (v6 := a) (v0 := b) (by decide) (by decide) (by omega) (by omega) (by omega) (by omega) rfl (by omega)
  apply of_op
  simp only [decodeOp, decodeC9, h0, h1, h2, h3, h4, h5]
  refine dz_ok rfl ?_
  rfl

theorem vshr (g : Nat) (d : Nat) (a : Nat) (b : Nat) : Statement (.vshr g d a b) := by
  intro x y hw he
  replace hw : (g < 16 && d < 64 && a < 64 && b < 64) = true := hw
  cases (show some ((1207959552 + g * 8388608 + 3407872 + d * 4096 + a * 64 + b : Nat), (0 : Nat)) = some (x, y) from he)
  simp only [Bool.and_eq_true, decide_eq_true_eq] at hw
  refine ⟨by omega, by omega, fun r hr => ?_⟩
  obtain ⟨h0, h1, h2, h3, h4, h5⟩ := shape1 (r := r) (n := 1211367424) (c := 9) (o := 13) (v23 := g) (v12 := d) (v6 := a) (v0 := b) (by decide) (by decide) (by omega) (by omega) (by omega) (by omega) rfl (by omega)
  apply of_op
  simp only [decodeOp, decodeC9, h0, h1, h2, h3, h4, h5]
  refine dz_ok rfl ?_
  rfl

theorem vsra (g : Nat) (d : Nat) (a : Nat) (b : Nat) : Statement (.vsra g d a b) := by
  intro x y hw he
  replace hw : (g < 16 && d < 64 && a < 64 && b < 64) = true := hw
  cases (show some ((1207959552 + g * 8388608 + 3670016 + d * 4096 + a * 64 + b : Nat), (0 : Nat)) = some (x, y) from he)
  simp only [Bool.and_eq_true, decide_eq_true_eq] at hw
  refine ⟨by omega, by omega, fun r hr => ?_⟩
  obtain ⟨h0, h1, h2, h3, h4, h5⟩ := shape1 (r := r) (n := 1211629568) (c := 9) (o := 14) (v23 := g) (v12 := d) (v6 := a) (v0 := b) (by decide) (by decide) (by omega) (by omega) (by omega) (by omega) rfl (by omega)
  apply of_op
  simp only [decodeOp, decodeC9, h0, h1, h2, h3, h4, h5]
  refine dz_ok rfl ?_
  rfl

theorem vsel (g : Nat) (d : Nat) (a : Nat) (b : Nat) (k : Nat) : Statement (.vsel g d a b k) := by
  intro x y hw he
  replace hw : (g < 16 && d < 64 && a < 64 && b < 64 && k < 16) = true := hw
  cases (show some ((1207959552 + g * 8388608 + 3932160 + d * 4096 + a * 64 + b : Nat), (k : Nat)) = some (x, y) from he)
  simp only [Bool.and_eq_true, decide_eq_true_eq] at hw
  refine ⟨by omega, by omega, fun r hr => ?_⟩
  obtain ⟨h0, h1, h2, h3, h4, h5⟩ := shape1 (r := r) (n := 1211891712) (c := 9) (o := 15) (v23 := g) (v12 := d) (v6 := a) (v0 := b) (by decide) (by decide) (by omega) (by omega) (by omega) (by omega) rfl (by omega)
  apply of_op
  simp only [decodeOp, decodeC9, h0, h1, h2, h3, h4, h5]
  refine dz_ok (by unfold fld; omega) ?_
  congr 1; first | omega | (unfold fld; omega)

theorem vdot4 (g : Nat) (d : Nat) (a : Nat) (b : Nat) (au : Bool) (bu : Bool) : Statement (.vdot4 g d a b au bu) := by
  intro x y hw he
  replace hw : (g < 16 && d < 64 && a < 64 && b < 64) = true := hw
  cases (show some ((1207959552 + g * 8388608 + 4194304 + d * 4096 + a * 64 + b : Nat), (au.toNat + bu.toNat * 2 : Nat)) = some (x, y) from he)
  simp only [Bool.and_eq_true, decide_eq_true_eq] at hw
  have b_au := toNat_lt au
  have b_bu := toNat_lt bu
  refine ⟨by omega, by omega, fun r hr => ?_⟩
  obtain ⟨h0, h1, h2, h3, h4, h5⟩ := shape1 (r := r) (n := 1212153856) (c := 9) (o := 16) (v23 := g) (v12 := d) (v6 := a) (v0 := b) (by decide) (by decide) (by omega) (by omega) (by omega) (by omega) rfl (by omega)
  apply of_op
  simp only [decodeOp, decodeC9, h0, h1, h2, h3, h4, h5]
  refine dz_ok (by unfold fld; omega) ?_
  congr 1 <;> first | omega | (unfold fld; omega) | (apply bit_eq; first | rfl | omega | (unfold fld; omega))

theorem vcmx (g : Nat) (d : Nat) (a : Nat) (b : Nat) : Statement (.vcmx g d a b) := by
  intro x y hw he
  replace hw : (g < 16 && d < 64 && a < 64 && b < 64) = true := hw
  cases (show some ((1207959552 + g * 8388608 + 4456448 + d * 4096 + a * 64 + b : Nat), (0 : Nat)) = some (x, y) from he)
  simp only [Bool.and_eq_true, decide_eq_true_eq] at hw
  refine ⟨by omega, by omega, fun r hr => ?_⟩
  obtain ⟨h0, h1, h2, h3, h4, h5⟩ := shape1 (r := r) (n := 1212416000) (c := 9) (o := 17) (v23 := g) (v12 := d) (v6 := a) (v0 := b) (by decide) (by decide) (by omega) (by omega) (by omega) (by omega) rfl (by omega)
  apply of_op
  simp only [decodeOp, decodeC9, h0, h1, h2, h3, h4, h5]
  refine dz_ok rfl ?_
  rfl

theorem vcmp (g : Nat) (cc : Cond) (k : Nat) (a : Nat) (b : Nat) : Statement (.vcmp g cc k a b) := by
  intro x y hw he
  replace hw : (g < 16 && k < 8 && a < 64 && b < 64) = true := hw
  cases (show some ((1342177280 + g * 8388608 + k * 4096 + a * 64 + b : Nat), (condCode cc : Nat)) = some (x, y) from he)
  simp only [Bool.and_eq_true, decide_eq_true_eq] at hw
  have l_cc := condCode_lt cc
  have o_cc := condOf_condCode cc
  generalize condCode cc = n_cc at *
  refine ⟨by omega, by omega, fun r hr => ?_⟩
  obtain ⟨h0, h1, h2, h3, h4, h5, h6⟩ := shape32 (r := r) (n := 1342177280) (c := 10) (o := 0) (v23 := g) (v12 := k) (v6 := a) (v0 := b) (by decide) (by decide) (by omega) (by omega) (by omega) (by omega) rfl (by omega)
  have hx : fld (n_cc) 0 4 = n_cc := by unfold fld; omega
  apply of_op
  simp only [decodeOp, decodeC10, h0, h1, h2, h3, h4, h5, h6, withCond, o_cc, hx]
  refine dz_ok (by unfold fld; omega) ?_
  rfl

theorem vshuf (g : Nat) (d : Nat) (a : Nat) (b : Nat) : Statement (.vshuf g d a b) := by
  intro x y hw he
  replace hw : (g < 16 && d < 64 && a < 64 && b < 64) = true := hw
  cases (show some ((1342177280 + g * 8388608 + 262144 + d * 4096 + a * 64 + b : Nat), (0 : Nat)) = some (x, y) from he)
  simp only [Bool.and_eq_true, decide_eq_true_eq] at hw
  refine ⟨by omega, by omega, fun r hr => ?_⟩
  obtain ⟨h0, h1, h2, h3, h4, h5⟩ := shape1 (r := r) (n := 1342439424) (c := 10) (o := 1) (v23 := g) (v12 := d) (v6 := a) (v0 := b) (by decide) (by decide) (by omega) (by omega) (by omega) (by omega) rfl (by omega)
  apply of_op
  simp only [decodeOp, decodeC10, h0, h1, h2, h3, h4, h5]
  refine dz_ok rfl ?_
  rfl

theorem vrot (g : Nat) (d : Nat) (a : Nat) (n : Nat) : Statement (.vrot g d a n) := by
  intro x y hw he
  replace hw : (g < 16 && d < 64 && a < 64 && n < 512) = true := hw
  cases (show some ((1342177280 + g * 8388608 + 524288 + d * 4096 + a * 64 + n % 64 : Nat), (n / 64 : Nat)) = some (x, y) from he)
  simp only [Bool.and_eq_true, decide_eq_true_eq] at hw
  refine ⟨by omega, by omega, fun r hr => ?_⟩
  obtain ⟨h0, h1, h2, h3, h4, h5⟩ := shape1 (r := r) (n := 1342701568) (c := 10) (o := 2) (v23 := g) (v12 := d) (v6 := a) (v0 := n % 64) (by decide) (by decide) (by omega) (by omega) (by omega) (by omega) rfl (by omega)
  apply of_op
  simp only [decodeOp, decodeC10, h0, h1, h2, h3, h4, h5]
  refine dz_ok (by omega) ?_
  congr 1; first | omega | (unfold fld; omega)

theorem vcvt (g : Nat) (d : Nat) (a : Nat) (src : Nat) (dst : Nat) (sat : Bool) : Statement (.vcvt g d a src dst sat) := by
  intro x y hw he
  replace hw : (g < 16 && d < 64 && a < 64 && dst < 64 && src < 64 && vcvtFmt src && vcvtFmt dst) = true := hw
  cases (show some ((1342177280 + g * 8388608 + 786432 + d * 4096 + a * 64 + dst : Nat), (src + sat.toNat * 64 : Nat)) = some (x, y) from he)
  simp only [Bool.and_eq_true, decide_eq_true_eq] at hw
  have b_sat := toNat_lt sat
  refine ⟨by omega, by omega, fun r hr => ?_⟩
  obtain ⟨h0, h1, h2, h3, h4, h5⟩ := shape1 (r := r) (n := 1342963712) (c := 10) (o := 3) (v23 := g) (v12 := d) (v6 := a) (v0 := dst) (by decide) (by decide) (by omega) (by omega) (by omega) (by omega) rfl (by omega)
  apply of_op
  simp only [decodeOp, decodeC10, h0, h1, h2, h3, h4, h5]
  refine dz_ok (by unfold fld; omega) ?_
  congr 1 <;> first | omega | (unfold fld; omega) | (apply bit_eq; first | rfl | omega | (unfold fld; omega))

theorem vpack (g : Nat) (d : Nat) (a : Nat) (b : Nat) (mode : Nat) (sat : Bool) : Statement (.vpack g d a b mode sat) := by
  intro x y hw he
  replace hw : (g < 16 && d < 64 && a < 64 && b < 64 && mode < 4 && (mode == 0 || !sat)) = true := hw
  cases (show some ((1342177280 + g * 8388608 + 1048576 + d * 4096 + a * 64 + b : Nat), (mode + sat.toNat * 4 : Nat)) = some (x, y) from he)
  simp only [Bool.and_eq_true, decide_eq_true_eq] at hw
  have b_sat := toNat_lt sat
  refine ⟨by omega, by omega, fun r hr => ?_⟩
  obtain ⟨h0, h1, h2, h3, h4, h5⟩ := shape1 (r := r) (n := 1343225856) (c := 10) (o := 4) (v23 := g) (v12 := d) (v6 := a) (v0 := b) (by decide) (by decide) (by omega) (by omega) (by omega) (by omega) rfl (by omega)
  apply of_op
  simp only [decodeOp, decodeC10, h0, h1, h2, h3, h4, h5]
  have hz : (if fld (mode + sat.toNat * 4) 0 2 = 0 then 0 else fld (mode + sat.toNat * 4) 2 1) = 0 := by
    have hm : mode = 0 ∨ sat = false := by simpa using hw.2
    rcases hm with rfl | rfl
    · rw [if_pos (by unfold fld; omega)]
    · split
      · rfl
      · simp only [Bool.toNat_false]; unfold fld; omega
  refine dz_ok (by rw [hz]; unfold fld; omega) ?_
  congr 1 <;> first | omega | (unfold fld; omega) | (apply bit_eq; first | rfl | omega | (unfold fld; omega))

theorem vunpk (g : Nat) (d : Nat) (a : Nat) (mode : Nat) (hi : Bool) : Statement (.vunpk g d a mode hi) := by
  intro x y hw he
  replace hw : (g < 16 && d < 64 && a < 64 && mode < 4) = true := hw
  cases (show some ((1342177280 + g * 8388608 + 1310720 + d * 4096 + a * 64 : Nat), (mode + hi.toNat * 4 : Nat)) = some (x, y) from he)
  simp only [Bool.and_eq_true, decide_eq_true_eq] at hw
  have b_hi := toNat_lt hi
  refine ⟨by omega, by omega, fun r hr => ?_⟩
  obtain ⟨h0, h1, h2, h3, h4, h5⟩ := shape2 (r := r) (n := 1343488000) (c := 10) (o := 5) (v23 := g) (v12 := d) (v6 := a) (by decide) (by decide) (by omega) (by omega) (by omega) rfl (by omega)
  apply of_op
  simp only [decodeOp, decodeC10, h0, h1, h2, h3, h4, h5]
  refine dz_ok (by unfold fld; omega) ?_
  congr 1 <;> first | omega | (unfold fld; omega) | (apply bit_eq; first | rfl | omega | (unfold fld; omega))

theorem vreds (g : Nat) (d : Nat) (a : Nat) : Statement (.vreds g d a) := by
  intro x y hw he
  replace hw : (g < 16 && d < 64 && a < 64) = true := hw
  cases (show some ((1342177280 + g * 8388608 + 1572864 + d * 4096 + a * 64 : Nat), (0 : Nat)) = some (x, y) from he)
  simp only [Bool.and_eq_true, decide_eq_true_eq] at hw
  refine ⟨by omega, by omega, fun r hr => ?_⟩
  obtain ⟨h0, h1, h2, h3, h4, h5⟩ := shape2 (r := r) (n := 1343750144) (c := 10) (o := 6) (v23 := g) (v12 := d) (v6 := a) (by decide) (by decide) (by omega) (by omega) (by omega) rfl (by omega)
  apply of_op
  simp only [decodeOp, decodeC10, h0, h1, h2, h3, h4, h5]
  refine dz_ok rfl ?_
  rfl

theorem vredm (g : Nat) (d : Nat) (a : Nat) (mn : Bool) : Statement (.vredm g d a mn) := by
  intro x y hw he
  replace hw : (g < 16 && d < 64 && a < 64) = true := hw
  cases (show some ((1342177280 + g * 8388608 + 1835008 + d * 4096 + a * 64 : Nat), (mn.toNat : Nat)) = some (x, y) from he)
  simp only [Bool.and_eq_true, decide_eq_true_eq] at hw
  have b_mn := toNat_lt mn
  refine ⟨by omega, by omega, fun r hr => ?_⟩
  obtain ⟨h0, h1, h2, h3, h4, h5⟩ := shape2 (r := r) (n := 1344012288) (c := 10) (o := 7) (v23 := g) (v12 := d) (v6 := a) (by decide) (by decide) (by omega) (by omega) (by omega) rfl (by omega)
  apply of_op
  simp only [decodeOp, decodeC10, h0, h1, h2, h3, h4, h5]
  refine dz_ok (by unfold fld; omega) ?_
  congr 1; first | omega | (unfold fld; omega) | (apply bit_eq; first | rfl | omega | (unfold fld; omega))

theorem vidx (g : Nat) (d : Nat) : Statement (.vidx g d) := by
  intro x y hw he
  replace hw : (g < 16 && d < 64) = true := hw
  cases (show some ((1342177280 + g * 8388608 + 2097152 + d * 4096 : Nat), (0 : Nat)) = some (x, y) from he)
  simp only [Bool.and_eq_true, decide_eq_true_eq] at hw
  refine ⟨by omega, by omega, fun r hr => ?_⟩
  obtain ⟨h0, h1, h2, h3, h4⟩ := shape33 (r := r) (n := 1344274432) (c := 10) (o := 8) (v23 := g) (v12 := d) (by decide) (by decide) (by omega) (by omega) rfl (by omega)
  apply of_op
  simp only [decodeOp, decodeC10, h0, h1, h2, h3, h4]
  refine dz_ok rfl ?_
  rfl

theorem vbcast (g : Nat) (d : Nat) (a : Nat) : Statement (.vbcast g d a) := by
  intro x y hw he
  replace hw : (g < 16 && d < 64 && a < 64) = true := hw
  cases (show some ((1476395008 + g * 8388608 + d * 8192 + a * 128 : Nat), (0 : Nat)) = some (x, y) from he)
  simp only [Bool.and_eq_true, decide_eq_true_eq] at hw
  refine ⟨by omega, by omega, fun r hr => ?_⟩
  obtain ⟨h0, h1, h2, h3, h4, h5⟩ := shape34 (r := r) (n := 1476395008) (c := 11) (o := 0) (v23 := g) (v13 := d) (v7 := a) (by decide) (by decide) (by omega) (by omega) (by omega) rfl (by omega)
  apply of_op
  simp only [decodeOp, decodeC11, h0, h1, h2, h3, h4, h5]
  refine dz_ok rfl ?_
  rfl

theorem vext (g : Nat) (d : Nat) (a : Nat) (idx : Nat) : Statement (.vext g d a idx) := by
  intro x y hw he
  replace hw : (g < 16 && d < 64 && a < 64 && idx < 32768) = true := hw
  cases (show some ((1476395008 + g * 8388608 + 524288 + d * 8192 + a * 128 + idx % 128 : Nat), (idx / 128 : Nat)) = some (x, y) from he)
  simp only [Bool.and_eq_true, decide_eq_true_eq] at hw
  refine ⟨by omega, by omega, fun r hr => ?_⟩
  obtain ⟨h0, h1, h2, h3, h4, h5⟩ := shape3 (r := r) (n := 1476919296) (c := 11) (o := 1) (v23 := g) (v13 := d) (v7 := a) (v0 := idx % 128) (by decide) (by decide) (by omega) (by omega) (by omega) (by omega) rfl (by omega)
  apply of_op
  simp only [decodeOp, decodeC11, h0, h1, h2, h3, h4, h5]
  refine dz_ok rfl ?_
  congr 1; first | omega | (unfold fld; omega)

theorem vins (g : Nat) (d : Nat) (a : Nat) (idx : Nat) : Statement (.vins g d a idx) := by
  intro x y hw he
  replace hw : (g < 16 && d < 64 && a < 64 && idx < 32768) = true := hw
  cases (show some ((1476395008 + g * 8388608 + 1048576 + d * 8192 + a * 128 + idx % 128 : Nat), (idx / 128 : Nat)) = some (x, y) from he)
  simp only [Bool.and_eq_true, decide_eq_true_eq] at hw
  refine ⟨by omega, by omega, fun r hr => ?_⟩
  obtain ⟨h0, h1, h2, h3, h4, h5⟩ := shape3 (r := r) (n := 1477443584) (c := 11) (o := 2) (v23 := g) (v13 := d) (v7 := a) (v0 := idx % 128) (by decide) (by decide) (by omega) (by omega) (by omega) (by omega) rfl (by omega)
  apply of_op
  simp only [decodeOp, decodeC11, h0, h1, h2, h3, h4, h5]
  refine dz_ok rfl ?_
  congr 1; first | omega | (unfold fld; omega)

theorem vshli (g : Nat) (d : Nat) (a : Nat) (s : Nat) : Statement (.vshli g d a s) := by
  intro x y hw he
  replace hw : (g < 16 && d < 64 && a < 64 && s < 64) = true := hw
  cases (show some ((1476395008 + g * 8388608 + 1572864 + d * 8192 + a * 128 + s : Nat), (0 : Nat)) = some (x, y) from he)
  simp only [Bool.and_eq_true, decide_eq_true_eq] at hw
  refine ⟨by omega, by omega, fun r hr => ?_⟩
  obtain ⟨h0, h1, h2, h3, h4, h5, h6⟩ := shape4 (r := r) (n := 1477967872) (c := 11) (o := 3) (v23 := g) (v13 := d) (v7 := a) (v0 := s) (by decide) (by decide) (by omega) (by omega) (by omega) (by omega) rfl (by omega)
  apply of_op
  simp only [decodeOp, decodeC11, h0, h1, h2, h3, h4, h5, h6]
  refine dz_ok rfl ?_
  rfl

theorem vshri (g : Nat) (d : Nat) (a : Nat) (s : Nat) : Statement (.vshri g d a s) := by
  intro x y hw he
  replace hw : (g < 16 && d < 64 && a < 64 && s < 64) = true := hw
  cases (show some ((1476395008 + g * 8388608 + 2097152 + d * 8192 + a * 128 + s : Nat), (0 : Nat)) = some (x, y) from he)
  simp only [Bool.and_eq_true, decide_eq_true_eq] at hw
  refine ⟨by omega, by omega, fun r hr => ?_⟩
  obtain ⟨h0, h1, h2, h3, h4, h5, h6⟩ := shape4 (r := r) (n := 1478492160) (c := 11) (o := 4) (v23 := g) (v13 := d) (v7 := a) (v0 := s) (by decide) (by decide) (by omega) (by omega) (by omega) (by omega) rfl (by omega)
  apply of_op
  simp only [decodeOp, decodeC11, h0, h1, h2, h3, h4, h5, h6]
  refine dz_ok rfl ?_
  rfl

theorem vsrai (g : Nat) (d : Nat) (a : Nat) (s : Nat) : Statement (.vsrai g d a s) := by
  intro x y hw he
  replace hw : (g < 16 && d < 64 && a < 64 && s < 64) = true := hw
  cases (show some ((1476395008 + g * 8388608 + 2621440 + d * 8192 + a * 128 + s : Nat), (0 : Nat)) = some (x, y) from he)
  simp only [Bool.and_eq_true, decide_eq_true_eq] at hw
  refine ⟨by omega, by omega, fun r hr => ?_⟩
  obtain ⟨h0, h1, h2, h3, h4, h5, h6⟩ := shape4 (r := r) (n := 1479016448) (c := 11) (o := 5) (v23 := g) (v13 := d) (v7 := a) (v0 := s) (by decide) (by decide) (by omega) (by omega) (by omega) (by omega) rfl (by omega)
  apply of_op
  simp only [decodeOp, decodeC11, h0, h1, h2, h3, h4, h5, h6]
  refine dz_ok rfl ?_
  rfl

theorem vaddi (g : Nat) (d : Nat) (a : Nat) (i : Int) : Statement (.vaddi g d a i) := by
  intro x y hw he
  replace hw : (g < 16 && d < 64 && a < 64 && fits 15 i) = true := hw
  cases (show some ((1476395008 + g * 8388608 + 3145728 + d * 8192 + a * 128 + ux 15 i % 128 : Nat), (ux 15 i / 128 : Nat)) = some (x, y) from he)
  simp only [Bool.and_eq_true, decide_eq_true_eq] at hw
  have l_i := @ux_lt 15 i
  have s_i : ∀ z, z = ux 15 i → sx 15 z = i := fun z => sx_ux (by decide) (by tauto)
  generalize ux 15 i = q_i at *
  refine ⟨by omega, by omega, fun r hr => ?_⟩
  obtain ⟨h0, h1, h2, h3, h4, h5⟩ := shape3 (r := r) (n := 1479540736) (c := 11) (o := 6) (v23 := g) (v13 := d) (v7 := a) (v0 := q_i % 128) (by decide) (by decide) (by omega) (by omega) (by omega) (by omega) rfl (by omega)
  apply of_op
  simp only [decodeOp, decodeC11, h0, h1, h2, h3, h4, h5]
  refine dz_ok rfl ?_
  congr 1; first | omega | (unfold fld; omega) | (apply s_i; omega)

theorem vmovi (g : Nat) (d : Nat) (i : Int) : Statement (.vmovi g d i) := by
  intro x y hw he
  replace hw : (g < 16 && d < 64 && fits 15 i) = true := hw
  cases (show some ((1476395008 + g * 8388608 + 3670016 + d * 8192 + ux 15 i % 128 : Nat), (ux 15 i / 128 : Nat)) = some (x, y) from he)
  simp only [Bool.and_eq_true, decide_eq_true_eq] at hw
  have l_i := @ux_lt 15 i
  have s_i : ∀ z, z = ux 15 i → sx 15 z = i := fun z => sx_ux (by decide) (by tauto)
  generalize ux 15 i = q_i at *
  refine ⟨by omega, by omega, fun r hr => ?_⟩
  obtain ⟨h0, h1, h2, h3, h4, h5⟩ := shape35 (r := r) (n := 1480065024) (c := 11) (o := 7) (v23 := g) (v13 := d) (v0 := q_i % 128) (by decide) (by decide) (by omega) (by omega) (by omega) rfl (by omega)
  apply of_op
  simp only [decodeOp, decodeC11, h0, h1, h2, h3, h4, h5]
  refine dz_ok rfl ?_
  congr 1; first | omega | (unfold fld; omega) | (apply s_i; omega)

theorem vexp (g : Nat) (d : Nat) (a : Nat) : Statement (.vexp g d a) := by
  intro x y hw he
  replace hw : (g < 16 && d < 64 && a < 64) = true := hw
  cases (show some ((1610612736 + g * 8388608 + d * 4096 + a * 64 : Nat), (0 : Nat)) = some (x, y) from he)
  simp only [Bool.and_eq_true, decide_eq_true_eq] at hw
  refine ⟨by omega, by omega, fun r hr => ?_⟩
  obtain ⟨h0, h1, h2, h3, h4, h5⟩ := shape2 (r := r) (n := 1610612736) (c := 12) (o := 0) (v23 := g) (v12 := d) (v6 := a) (by decide) (by decide) (by omega) (by omega) (by omega) rfl (by omega)
  apply of_op
  simp only [decodeOp, decodeC12, h0, h1, h2, h3, h4, h5]
  refine dz_ok rfl ?_
  rfl

theorem vlog (g : Nat) (d : Nat) (a : Nat) : Statement (.vlog g d a) := by
  intro x y hw he
  replace hw : (g < 16 && d < 64 && a < 64) = true := hw
  cases (show some ((1610612736 + g * 8388608 + 262144 + d * 4096 + a * 64 : Nat), (0 : Nat)) = some (x, y) from he)
  simp only [Bool.and_eq_true, decide_eq_true_eq] at hw
  refine ⟨by omega, by omega, fun r hr => ?_⟩
  obtain ⟨h0, h1, h2, h3, h4, h5⟩ := shape2 (r := r) (n := 1610874880) (c := 12) (o := 1) (v23 := g) (v12 := d) (v6 := a) (by decide) (by decide) (by omega) (by omega) (by omega) rfl (by omega)
  apply of_op
  simp only [decodeOp, decodeC12, h0, h1, h2, h3, h4, h5]
  refine dz_ok rfl ?_
  rfl

theorem vrcp (g : Nat) (d : Nat) (a : Nat) : Statement (.vrcp g d a) := by
  intro x y hw he
  replace hw : (g < 16 && d < 64 && a < 64) = true := hw
  cases (show some ((1610612736 + g * 8388608 + 524288 + d * 4096 + a * 64 : Nat), (0 : Nat)) = some (x, y) from he)
  simp only [Bool.and_eq_true, decide_eq_true_eq] at hw
  refine ⟨by omega, by omega, fun r hr => ?_⟩
  obtain ⟨h0, h1, h2, h3, h4, h5⟩ := shape2 (r := r) (n := 1611137024) (c := 12) (o := 2) (v23 := g) (v12 := d) (v6 := a) (by decide) (by decide) (by omega) (by omega) (by omega) rfl (by omega)
  apply of_op
  simp only [decodeOp, decodeC12, h0, h1, h2, h3, h4, h5]
  refine dz_ok rfl ?_
  rfl

theorem vrsq (g : Nat) (d : Nat) (a : Nat) : Statement (.vrsq g d a) := by
  intro x y hw he
  replace hw : (g < 16 && d < 64 && a < 64) = true := hw
  cases (show some ((1610612736 + g * 8388608 + 786432 + d * 4096 + a * 64 : Nat), (0 : Nat)) = some (x, y) from he)
  simp only [Bool.and_eq_true, decide_eq_true_eq] at hw
  refine ⟨by omega, by omega, fun r hr => ?_⟩
  obtain ⟨h0, h1, h2, h3, h4, h5⟩ := shape2 (r := r) (n := 1611399168) (c := 12) (o := 3) (v23 := g) (v12 := d) (v6 := a) (by decide) (by decide) (by omega) (by omega) (by omega) rfl (by omega)
  apply of_op
  simp only [decodeOp, decodeC12, h0, h1, h2, h3, h4, h5]
  refine dz_ok rfl ?_
  rfl

theorem vtanh (g : Nat) (d : Nat) (a : Nat) : Statement (.vtanh g d a) := by
  intro x y hw he
  replace hw : (g < 16 && d < 64 && a < 64) = true := hw
  cases (show some ((1610612736 + g * 8388608 + 1048576 + d * 4096 + a * 64 : Nat), (0 : Nat)) = some (x, y) from he)
  simp only [Bool.and_eq_true, decide_eq_true_eq] at hw
  refine ⟨by omega, by omega, fun r hr => ?_⟩
  obtain ⟨h0, h1, h2, h3, h4, h5⟩ := shape2 (r := r) (n := 1611661312) (c := 12) (o := 4) (v23 := g) (v12 := d) (v6 := a) (by decide) (by decide) (by omega) (by omega) (by omega) rfl (by omega)
  apply of_op
  simp only [decodeOp, decodeC12, h0, h1, h2, h3, h4, h5]
  refine dz_ok rfl ?_
  rfl

theorem vsig (g : Nat) (d : Nat) (a : Nat) : Statement (.vsig g d a) := by
  intro x y hw he
  replace hw : (g < 16 && d < 64 && a < 64) = true := hw
  cases (show some ((1610612736 + g * 8388608 + 1310720 + d * 4096 + a * 64 : Nat), (0 : Nat)) = some (x, y) from he)
  simp only [Bool.and_eq_true, decide_eq_true_eq] at hw
  refine ⟨by omega, by omega, fun r hr => ?_⟩
  obtain ⟨h0, h1, h2, h3, h4, h5⟩ := shape2 (r := r) (n := 1611923456) (c := 12) (o := 5) (v23 := g) (v12 := d) (v6 := a) (by decide) (by decide) (by omega) (by omega) (by omega) rfl (by omega)
  apply of_op
  simp only [decodeOp, decodeC12, h0, h1, h2, h3, h4, h5]
  refine dz_ok rfl ?_
  rfl

theorem vsin (g : Nat) (d : Nat) (a : Nat) : Statement (.vsin g d a) := by
  intro x y hw he
  replace hw : (g < 16 && d < 64 && a < 64) = true := hw
  cases (show some ((1610612736 + g * 8388608 + 1572864 + d * 4096 + a * 64 : Nat), (0 : Nat)) = some (x, y) from he)
  simp only [Bool.and_eq_true, decide_eq_true_eq] at hw
  refine ⟨by omega, by omega, fun r hr => ?_⟩
  obtain ⟨h0, h1, h2, h3, h4, h5⟩ := shape2 (r := r) (n := 1612185600) (c := 12) (o := 6) (v23 := g) (v12 := d) (v6 := a) (by decide) (by decide) (by omega) (by omega) (by omega) rfl (by omega)
  apply of_op
  simp only [decodeOp, decodeC12, h0, h1, h2, h3, h4, h5]
  refine dz_ok rfl ?_
  rfl

theorem vcos (g : Nat) (d : Nat) (a : Nat) : Statement (.vcos g d a) := by
  intro x y hw he
  replace hw : (g < 16 && d < 64 && a < 64) = true := hw
  cases (show some ((1610612736 + g * 8388608 + 1835008 + d * 4096 + a * 64 : Nat), (0 : Nat)) = some (x, y) from he)
  simp only [Bool.and_eq_true, decide_eq_true_eq] at hw
  refine ⟨by omega, by omega, fun r hr => ?_⟩
  obtain ⟨h0, h1, h2, h3, h4, h5⟩ := shape2 (r := r) (n := 1612447744) (c := 12) (o := 7) (v23 := g) (v12 := d) (v6 := a) (by decide) (by decide) (by omega) (by omega) (by omega) rfl (by omega)
  apply of_op
  simp only [decodeOp, decodeC12, h0, h1, h2, h3, h4, h5]
  refine dz_ok rfl ?_
  rfl

theorem verf (g : Nat) (d : Nat) (a : Nat) : Statement (.verf g d a) := by
  intro x y hw he
  replace hw : (g < 16 && d < 64 && a < 64) = true := hw
  cases (show some ((1610612736 + g * 8388608 + 2097152 + d * 4096 + a * 64 : Nat), (0 : Nat)) = some (x, y) from he)
  simp only [Bool.and_eq_true, decide_eq_true_eq] at hw
  refine ⟨by omega, by omega, fun r hr => ?_⟩
  obtain ⟨h0, h1, h2, h3, h4, h5⟩ := shape2 (r := r) (n := 1612709888) (c := 12) (o := 8) (v23 := g) (v12 := d) (v6 := a) (by decide) (by decide) (by omega) (by omega) (by omega) rfl (by omega)
  apply of_op
  simp only [decodeOp, decodeC12, h0, h1, h2, h3, h4, h5]
  refine dz_ok rfl ?_
  rfl

theorem wstr (g : Nat) (f : Nat) (a : Nat) (b : Nat) (acq : Bool) (sc : Nat) : Statement (.wstr g f a b acq sc) := by
  intro x y hw he
  replace hw : (g < 16 && f < 64 && a < 64 && b < 64 && planeFmt f && sc < 6) = true := hw
  cases (show some ((1744830464 + g * 8388608 + f * 4096 + a * 64 + b : Nat), (acq.toNat + sc * 2 : Nat)) = some (x, y) from he)
  simp only [Bool.and_eq_true, decide_eq_true_eq] at hw
  have b_acq := toNat_lt acq
  refine ⟨by omega, by omega, fun r hr => ?_⟩
  obtain ⟨h0, h1, h2, h3, h4, h5⟩ := shape1 (r := r) (n := 1744830464) (c := 13) (o := 0) (v23 := g) (v12 := f) (v6 := a) (v0 := b) (by decide) (by decide) (by omega) (by omega) (by omega) (by omega) rfl (by omega)
  apply of_op
  simp only [decodeOp, decodeC13, h0, h1, h2, h3, h4, h5]
  refine dz_ok (by unfold fld; omega) ?_
  congr 1 <;> first | omega | (unfold fld; omega) | (apply bit_eq; first | rfl | omega | (unfold fld; omega))

theorem wld (g : Nat) : Statement (.wld g) := by
  intro x y hw he
  replace hw : (decide (g < 16)) = true := hw
  cases (show some ((1744830464 + g * 8388608 + 262144 : Nat), (0 : Nat)) = some (x, y) from he)
  simp only [Bool.and_eq_true, decide_eq_true_eq] at hw
  refine ⟨by omega, by omega, fun r hr => ?_⟩
  obtain ⟨h0, h1, h2, h3⟩ := shape18 (r := r) (n := 1745092608) (c := 13) (o := 1) (v23 := g) (by decide) (by decide) (by omega) rfl (by omega)
  apply of_op
  simp only [decodeOp, decodeC13, h0, h1, h2, h3]
  refine dz_ok rfl ?_
  rfl

theorem wscl (g : Nat) (a : Nat) (acq : Bool) (sc : Nat) : Statement (.wscl g a acq sc) := by
  intro x y hw he
  replace hw : (g < 16 && a < 64 && sc < 6) = true := hw
  cases (show some ((1744830464 + g * 8388608 + 524288 + a * 64 : Nat), (acq.toNat + sc * 2 : Nat)) = some (x, y) from he)
  simp only [Bool.and_eq_true, decide_eq_true_eq] at hw
  have b_acq := toNat_lt acq
  refine ⟨by omega, by omega, fun r hr => ?_⟩
  obtain ⟨h0, h1, h2, h3, h4, h5⟩ := shape36 (r := r) (n := 1745354752) (c := 13) (o := 2) (v23 := g) (v6 := a) (by decide) (by decide) (by omega) (by omega) rfl (by omega)
  apply of_op
  simp only [decodeOp, decodeC13, h0, h1, h2, h3, h4, h5]
  refine dz_ok (by unfold fld; omega) ?_
  congr 1 <;> first | omega | (unfold fld; omega) | (apply bit_eq; first | rfl | omega | (unfold fld; omega))

theorem wswap (g : Nat) : Statement (.wswap g) := by
  intro x y hw he
  replace hw : (decide (g < 16)) = true := hw
  cases (show some ((1744830464 + g * 8388608 + 786432 : Nat), (0 : Nat)) = some (x, y) from he)
  simp only [Bool.and_eq_true, decide_eq_true_eq] at hw
  refine ⟨by omega, by omega, fun r hr => ?_⟩
  obtain ⟨h0, h1, h2, h3⟩ := shape18 (r := r) (n := 1745616896) (c := 13) (o := 3) (v23 := g) (by decide) (by decide) (by omega) rfl (by omega)
  apply of_op
  simp only [decodeOp, decodeC13, h0, h1, h2, h3]
  refine dz_ok rfl ?_
  rfl

theorem mma (g : Nat) (d : Nat) (a : Nat) (n : Nat) (zs : Bool) : Statement (.mma g d a n zs) := by
  intro x y hw he
  replace hw : (g < 16 && d < 64 && a < 64 && 1 ≤ n && n ≤ 64 && d + n ≤ 64) = true := hw
  cases (show some ((1744830464 + g * 8388608 + 1048576 + d * 4096 + a * 64 : Nat), (zs.toNat + (n - 1) * 2 : Nat)) = some (x, y) from he)
  simp only [Bool.and_eq_true, decide_eq_true_eq] at hw
  have b_zs := toNat_lt zs
  refine ⟨by omega, by omega, fun r hr => ?_⟩
  obtain ⟨h0, h1, h2, h3, h4, h5⟩ := shape2 (r := r) (n := 1745879040) (c := 13) (o := 4) (v23 := g) (v12 := d) (v6 := a) (by decide) (by decide) (by omega) (by omega) (by omega) rfl (by omega)
  apply of_op
  simp only [decodeOp, decodeC13, h0, h1, h2, h3, h4, h5]
  refine dz_ok (by unfold fld; omega) ?_
  congr 1 <;> first | omega | (unfold fld; omega) | (apply bit_eq; first | rfl | omega | (unfold fld; omega))

theorem mrd (g : Nat) (d : Nat) (a : Nat) (b : Nat) (n : Nat) : Statement (.mrd g d a b n) := by
  intro x y hw he
  replace hw : (g < 16 && d < 64 && a < 64 && b < 32 && 1 ≤ n && n ≤ 64 && a + n ≤ 64) = true := hw
  cases (show some ((1744830464 + g * 8388608 + 1310720 + d * 4096 + a * 64 + b : Nat), ((n - 1) : Nat)) = some (x, y) from he)
  simp only [Bool.and_eq_true, decide_eq_true_eq] at hw
  refine ⟨by omega, by omega, fun r hr => ?_⟩
  obtain ⟨h0, h1, h2, h3, h4, h5⟩ := shape1 (r := r) (n := 1746141184) (c := 13) (o := 5) (v23 := g) (v12 := d) (v6 := a) (v0 := b) (by decide) (by decide) (by omega) (by omega) (by omega) (by omega) rfl (by omega)
  apply of_op
  simp only [decodeOp, decodeC13, h0, h1, h2, h3, h4, h5]
  refine dz_ok (by unfold fld; omega) ?_
  congr 1; first | omega | (unfold fld; omega)

theorem acfg (g : Nat) (f : Nat) : Statement (.acfg g f) := by
  intro x y hw he
  replace hw : (g < 16 && f < 64 && acctCode f) = true := hw
  cases (show some ((1744830464 + g * 8388608 + 1572864 + f : Nat), (0 : Nat)) = some (x, y) from he)
  simp only [Bool.and_eq_true, decide_eq_true_eq] at hw
  refine ⟨by omega, by omega, fun r hr => ?_⟩
  obtain ⟨h0, h1, h2, h3, h4⟩ := shape37 (r := r) (n := 1746403328) (c := 13) (o := 6) (v23 := g) (v0 := f) (by decide) (by decide) (by omega) (by omega) rfl (by omega)
  apply of_op
  simp only [decodeOp, decodeC13, h0, h1, h2, h3, h4]
  refine dz_ok rfl ?_
  rfl

theorem fwdRead (g : Nat) (d : Nat) (a : Nat) (b : Nat) (c : Nat) : Statement (.fwdRead g d a b c) := by
  intro x y hw he
  replace hw : (g < 16 && d < 64 && a < 64 && b < 64 && 1 ≤ c && c ≤ 16 && d + c ≤ 64 && a + c ≤ 64) = true := hw
  cases (show some ((1744830464 + g * 8388608 + 1835008 + d * 4096 + a * 64 + b : Nat), ((c - 1) : Nat)) = some (x, y) from he)
  simp only [Bool.and_eq_true, decide_eq_true_eq] at hw
  refine ⟨by omega, by omega, fun r hr => ?_⟩
  obtain ⟨h0, h1, h2, h3, h4, h5⟩ := shape1 (r := r) (n := 1746665472) (c := 13) (o := 7) (v23 := g) (v12 := d) (v6 := a) (v0 := b) (by decide) (by decide) (by omega) (by omega) (by omega) (by omega) rfl (by omega)
  apply of_op
  simp only [decodeOp, decodeC13, h0, h1, h2, h3, h4, h5]
  refine dz_ok (by unfold fld; omega) ?_
  congr 1; first | omega | (unfold fld; omega)

theorem fwdDelta (g : Nat) (d : Nat) (a : Nat) (b : Nat) (c : Nat) : Statement (.fwdDelta g d a b c) := by
  intro x y hw he
  replace hw : (g < 16 && d < 64 && a < 64 && b < 64 && 1 ≤ c && c ≤ 16 && d + c ≤ 64 && a + 3 * c + 1 ≤ 64) = true := hw
  cases (show some ((1744830464 + g * 8388608 + 2097152 + d * 4096 + a * 64 + b : Nat), ((c - 1) : Nat)) = some (x, y) from he)
  simp only [Bool.and_eq_true, decide_eq_true_eq] at hw
  refine ⟨by omega, by omega, fun r hr => ?_⟩
  obtain ⟨h0, h1, h2, h3, h4, h5⟩ := shape1 (r := r) (n := 1746927616) (c := 13) (o := 8) (v23 := g) (v12 := d) (v6 := a) (v0 := b) (by decide) (by decide) (by omega) (by omega) (by omega) (by omega) rfl (by omega)
  apply of_op
  simp only [decodeOp, decodeC13, h0, h1, h2, h3, h4, h5]
  refine dz_ok (by unfold fld; omega) ?_
  congr 1; first | omega | (unfold fld; omega)

theorem fwdOuter (g : Nat) (d : Nat) (a : Nat) (b : Nat) (c : Nat) : Statement (.fwdOuter g d a b c) := by
  intro x y hw he
  replace hw : (g < 16 && d < 64 && a < 64 && b < 64 && 1 ≤ c && c ≤ 16 && d + c ≤ 64 && a + 3 * c + 1 ≤ 64) = true := hw
  cases (show some ((1744830464 + g * 8388608 + 2359296 + d * 4096 + a * 64 + b : Nat), ((c - 1) : Nat)) = some (x, y) from he)
  simp only [Bool.and_eq_true, decide_eq_true_eq] at hw
  refine ⟨by omega, by omega, fun r hr => ?_⟩
  obtain ⟨h0, h1, h2, h3, h4, h5⟩ := shape1 (r := r) (n := 1747189760) (c := 13) (o := 9) (v23 := g) (v12 := d) (v6 := a) (v0 := b) (by decide) (by decide) (by omega) (by omega) (by omega) (by omega) rfl (by omega)
  apply of_op
  simp only [decodeOp, decodeC13, h0, h1, h2, h3, h4, h5]
  refine dz_ok (by unfold fld; omega) ?_
  congr 1; first | omega | (unfold fld; omega)

theorem opu (g : Nat) (d : Nat) (a : Nat) (b : Nat) (c : Nat) : Statement (.opu g d a b c) := by
  intro x y hw he
  replace hw : (g < 16 && d < 64 && a < 64 && b < 64 && 1 ≤ c && c ≤ 16 && a + c ≤ 64 && b + c ≤ 64) = true := hw
  cases (show some ((1744830464 + g * 8388608 + 2621440 + d * 4096 + a * 64 + b : Nat), ((c - 1) : Nat)) = some (x, y) from he)
  simp only [Bool.and_eq_true, decide_eq_true_eq] at hw
  refine ⟨by omega, by omega, fun r hr => ?_⟩
  obtain ⟨h0, h1, h2, h3, h4, h5⟩ := shape1 (r := r) (n := 1747451904) (c := 13) (o := 10) (v23 := g) (v12 := d) (v6 := a) (v0 := b) (by decide) (by decide) (by omega) (by omega) (by omega) (by omega) rfl (by omega)
  apply of_op
  simp only [decodeOp, decodeC13, h0, h1, h2, h3, h4, h5]
  refine dz_ok (by unfold fld; omega) ?_
  congr 1; first | omega | (unfold fld; omega)

theorem sfork (g : Nat) (d : Nat) (a : Nat) (b : Nat) : Statement (.sfork g d a b) := by
  intro x y hw he
  replace hw : (g < 16 && d < 64 && a < 64 && b < 64) = true := hw
  cases (show some ((1744830464 + g * 8388608 + 2883584 + d * 4096 + a * 64 + b : Nat), (0 : Nat)) = some (x, y) from he)
  simp only [Bool.and_eq_true, decide_eq_true_eq] at hw
  refine ⟨by omega, by omega, fun r hr => ?_⟩
  obtain ⟨h0, h1, h2, h3, h4, h5⟩ := shape1 (r := r) (n := 1747714048) (c := 13) (o := 11) (v23 := g) (v12 := d) (v6 := a) (v0 := b) (by decide) (by decide) (by omega) (by omega) (by omega) (by omega) rfl (by omega)
  apply of_op
  simp only [decodeOp, decodeC13, h0, h1, h2, h3, h4, h5]
  refine dz_ok rfl ?_
  rfl

theorem ssnap (g : Nat) (a : Nat) (b : Nat) : Statement (.ssnap g a b) := by
  intro x y hw he
  replace hw : (g < 16 && a < 64 && b < 64) = true := hw
  cases (show some ((1744830464 + g * 8388608 + 3145728 + a * 64 + b : Nat), (0 : Nat)) = some (x, y) from he)
  simp only [Bool.and_eq_true, decide_eq_true_eq] at hw
  refine ⟨by omega, by omega, fun r hr => ?_⟩
  obtain ⟨h0, h1, h2, h3, h4, h5⟩ := shape19 (r := r) (n := 1747976192) (c := 13) (o := 12) (v23 := g) (v6 := a) (v0 := b) (by decide) (by decide) (by omega) (by omega) (by omega) rfl (by omega)
  apply of_op
  simp only [decodeOp, decodeC13, h0, h1, h2, h3, h4, h5]
  refine dz_ok rfl ?_
  rfl

theorem sroll (g : Nat) (a : Nat) (b : Nat) : Statement (.sroll g a b) := by
  intro x y hw he
  replace hw : (g < 16 && a < 64 && b < 64) = true := hw
  cases (show some ((1744830464 + g * 8388608 + 3407872 + a * 64 + b : Nat), (0 : Nat)) = some (x, y) from he)
  simp only [Bool.and_eq_true, decide_eq_true_eq] at hw
  refine ⟨by omega, by omega, fun r hr => ?_⟩
  obtain ⟨h0, h1, h2, h3, h4, h5⟩ := shape19 (r := r) (n := 1748238336) (c := 13) (o := 13) (v23 := g) (v6 := a) (v0 := b) (by decide) (by decide) (by omega) (by omega) (by omega) rfl (by omega)
  apply of_op
  simp only [decodeOp, decodeC13, h0, h1, h2, h3, h4, h5]
  refine dz_ok rfl ?_
  rfl

theorem savg (g : Nat) (d : Nat) (a : Nat) (b : Nat) (wd : Nat) (fs : Bool) : Statement (.savg g d a b wd fs) := by
  intro x y hw he
  replace hw : (g < 16 && d < 64 && a < 64 && b < 64 && wd < 32) = true := hw
  cases (show some ((1744830464 + g * 8388608 + 3670016 + d * 4096 + a * 64 + b : Nat), (wd + fs.toNat * 32 : Nat)) = some (x, y) from he)
  simp only [Bool.and_eq_true, decide_eq_true_eq] at hw
  have b_fs := toNat_lt fs
  refine ⟨by omega, by omega, fun r hr => ?_⟩
  obtain ⟨h0, h1, h2, h3, h4, h5⟩ := shape1 (r := r) (n := 1748500480) (c := 13) (o := 14) (v23 := g) (v12 := d) (v6 := a) (v0 := b) (by decide) (by decide) (by omega) (by omega) (by omega) (by omega) rfl (by omega)
  apply of_op
  simp only [decodeOp, decodeC13, h0, h1, h2, h3, h4, h5]
  refine dz_ok (by unfold fld; omega) ?_
  congr 1 <;> first | omega | (unfold fld; omega) | (apply bit_eq; first | rfl | omega | (unfold fld; omega))

theorem sfree (g : Nat) (a : Nat) : Statement (.sfree g a) := by
  intro x y hw he
  replace hw : (g < 16 && a < 64) = true := hw
  cases (show some ((1744830464 + g * 8388608 + 3932160 + a * 64 : Nat), (0 : Nat)) = some (x, y) from he)
  simp only [Bool.and_eq_true, decide_eq_true_eq] at hw
  refine ⟨by omega, by omega, fun r hr => ?_⟩
  obtain ⟨h0, h1, h2, h3, h4, h5⟩ := shape36 (r := r) (n := 1748762624) (c := 13) (o := 15) (v23 := g) (v6 := a) (by decide) (by decide) (by omega) (by omega) rfl (by omega)
  apply of_op
  simp only [decodeOp, decodeC13, h0, h1, h2, h3, h4, h5]
  refine dz_ok rfl ?_
  rfl

theorem smove (g : Nat) (d : Nat) (a : Nat) (b : Nat) : Statement (.smove g d a b) := by
  intro x y hw he
  replace hw : (g < 16 && d < 64 && a < 64 && b < 64) = true := hw
  cases (show some ((1744830464 + g * 8388608 + 4194304 + d * 4096 + a * 64 + b : Nat), (0 : Nat)) = some (x, y) from he)
  simp only [Bool.and_eq_true, decide_eq_true_eq] at hw
  refine ⟨by omega, by omega, fun r hr => ?_⟩
  obtain ⟨h0, h1, h2, h3, h4, h5⟩ := shape1 (r := r) (n := 1749024768) (c := 13) (o := 16) (v23 := g) (v12 := d) (v6 := a) (v0 := b) (by decide) (by decide) (by omega) (by omega) (by omega) (by omega) rfl (by omega)
  apply of_op
  simp only [decodeOp, decodeC13, h0, h1, h2, h3, h4, h5]
  refine dz_ok rfl ?_
  rfl

theorem sqry (g : Nat) (d : Nat) (a : Nat) : Statement (.sqry g d a) := by
  intro x y hw he
  replace hw : (g < 16 && d < 64 && a < 64) = true := hw
  cases (show some ((1744830464 + g * 8388608 + 4456448 + d * 4096 + a * 64 : Nat), (0 : Nat)) = some (x, y) from he)
  simp only [Bool.and_eq_true, decide_eq_true_eq] at hw
  refine ⟨by omega, by omega, fun r hr => ?_⟩
  obtain ⟨h0, h1, h2, h3, h4, h5⟩ := shape2 (r := r) (n := 1749286912) (c := 13) (o := 17) (v23 := g) (v12 := d) (v6 := a) (by decide) (by decide) (by omega) (by omega) (by omega) rfl (by omega)
  apply of_op
  simp only [decodeOp, decodeC13, h0, h1, h2, h3, h4, h5]
  refine dz_ok rfl ?_
  rfl

theorem ewait (g : Nat) (m : Nat) : Statement (.ewait g m) := by
  intro x y hw he
  replace hw : (g < 16 && m < 64 && 1 ≤ m) = true := hw
  cases (show some ((1879048192 + g * 8388608 + m : Nat), (0 : Nat)) = some (x, y) from he)
  simp only [Bool.and_eq_true, decide_eq_true_eq] at hw
  refine ⟨by omega, by omega, fun r hr => ?_⟩
  obtain ⟨h0, h1, h2, h3, h4⟩ := shape37 (r := r) (n := 1879048192) (c := 14) (o := 0) (v23 := g) (v0 := m) (by decide) (by decide) (by omega) (by omega) rfl (by omega)
  apply of_op
  simp only [decodeOp, decodeC14, h0, h1, h2, h3, h4]
  refine dz_ok rfl ?_
  rfl

theorem epoll (g : Nat) (d : Nat) (en : Nat) : Statement (.epoll g d en) := by
  intro x y hw he
  replace hw : (g < 16 && d < 64 && en < 64 && en < 6) = true := hw
  cases (show some ((1879048192 + g * 8388608 + 262144 + d * 4096 + en : Nat), (0 : Nat)) = some (x, y) from he)
  simp only [Bool.and_eq_true, decide_eq_true_eq] at hw
  refine ⟨by omega, by omega, fun r hr => ?_⟩
  obtain ⟨h0, h1, h2, h3, h4, h5⟩ := shape38 (r := r) (n := 1879310336) (c := 14) (o := 1) (v23 := g) (v12 := d) (v0 := en) (by decide) (by decide) (by omega) (by omega) (by omega) rfl (by omega)
  apply of_op
  simp only [decodeOp, decodeC14, h0, h1, h2, h3, h4, h5]
  refine dz_ok rfl ?_
  rfl

theorem tsub (g : Nat) (a : Nat) : Statement (.tsub g a) := by
  intro x y hw he
  replace hw : (g < 16 && a < 64) = true := hw
  cases (show some ((1879048192 + g * 8388608 + 524288 + a * 64 : Nat), (0 : Nat)) = some (x, y) from he)
  simp only [Bool.and_eq_true, decide_eq_true_eq] at hw
  refine ⟨by omega, by omega, fun r hr => ?_⟩
  obtain ⟨h0, h1, h2, h3, h4, h5⟩ := shape36 (r := r) (n := 1879572480) (c := 14) (o := 2) (v23 := g) (v6 := a) (by decide) (by decide) (by omega) (by omega) rfl (by omega)
  apply of_op
  simp only [decodeOp, decodeC14, h0, h1, h2, h3, h4, h5]
  refine dz_ok rfl ?_
  rfl

theorem tdone (g : Nat) : Statement (.tdone g) := by
  intro x y hw he
  replace hw : (decide (g < 16)) = true := hw
  cases (show some ((1879048192 + g * 8388608 + 786432 : Nat), (0 : Nat)) = some (x, y) from he)
  simp only [Bool.and_eq_true, decide_eq_true_eq] at hw
  refine ⟨by omega, by omega, fun r hr => ?_⟩
  obtain ⟨h0, h1, h2, h3⟩ := shape18 (r := r) (n := 1879834624) (c := 14) (o := 3) (v23 := g) (by decide) (by decide) (by omega) rfl (by omega)
  apply of_op
  simp only [decodeOp, decodeC14, h0, h1, h2, h3]
  refine dz_ok rfl ?_
  rfl

theorem launch (g : Nat) (d : Nat) (a : Nat) : Statement (.launch g d a) := by
  intro x y hw he
  replace hw : (g < 16 && d < 64 && a < 64) = true := hw
  cases (show some ((1879048192 + g * 8388608 + 1048576 + d * 4096 + a * 64 : Nat), (0 : Nat)) = some (x, y) from he)
  simp only [Bool.and_eq_true, decide_eq_true_eq] at hw
  refine ⟨by omega, by omega, fun r hr => ?_⟩
  obtain ⟨h0, h1, h2, h3, h4, h5⟩ := shape2 (r := r) (n := 1880096768) (c := 14) (o := 4) (v23 := g) (v12 := d) (v6 := a) (by decide) (by decide) (by omega) (by omega) (by omega) rfl (by omega)
  apply of_op
  simp only [decodeOp, decodeC14, h0, h1, h2, h3, h4, h5]
  refine dz_ok rfl ?_
  rfl

theorem ljoin (g : Nat) (a : Nat) : Statement (.ljoin g a) := by
  intro x y hw he
  replace hw : (g < 16 && a < 64) = true := hw
  cases (show some ((1879048192 + g * 8388608 + 1310720 + a * 64 : Nat), (0 : Nat)) = some (x, y) from he)
  simp only [Bool.and_eq_true, decide_eq_true_eq] at hw
  refine ⟨by omega, by omega, fun r hr => ?_⟩
  obtain ⟨h0, h1, h2, h3, h4, h5⟩ := shape36 (r := r) (n := 1880358912) (c := 14) (o := 5) (v23 := g) (v6 := a) (by decide) (by decide) (by omega) (by omega) rfl (by omega)
  apply of_op
  simp only [decodeOp, decodeC14, h0, h1, h2, h3, h4, h5]
  refine dz_ok rfl ?_
  rfl

theorem range (g : Nat) (d : Nat) (a : Nat) (b : Nat) : Statement (.range g d a b) := by
  intro x y hw he
  replace hw : (g < 16 && d < 64 && a < 64 && b < 64) = true := hw
  cases (show some ((1879048192 + g * 8388608 + 1572864 + d * 4096 + a * 64 + b : Nat), (0 : Nat)) = some (x, y) from he)
  simp only [Bool.and_eq_true, decide_eq_true_eq] at hw
  refine ⟨by omega, by omega, fun r hr => ?_⟩
  obtain ⟨h0, h1, h2, h3, h4, h5⟩ := shape1 (r := r) (n := 1880621056) (c := 14) (o := 6) (v23 := g) (v12 := d) (v6 := a) (v0 := b) (by decide) (by decide) (by omega) (by omega) (by omega) (by omega) rfl (by omega)
  apply of_op
  simp only [decodeOp, decodeC14, h0, h1, h2, h3, h4, h5]
  refine dz_ok rfl ?_
  rfl

theorem gbar (g : Nat) : Statement (.gbar g) := by
  intro x y hw he
  replace hw : (decide (g < 16)) = true := hw
  cases (show some ((1879048192 + g * 8388608 + 1835008 : Nat), (0 : Nat)) = some (x, y) from he)
  simp only [Bool.and_eq_true, decide_eq_true_eq] at hw
  refine ⟨by omega, by omega, fun r hr => ?_⟩
  obtain ⟨h0, h1, h2, h3⟩ := shape18 (r := r) (n := 1880883200) (c := 14) (o := 7) (v23 := g) (by decide) (by decide) (by omega) rfl (by omega)
  apply of_op
  simp only [decodeOp, decodeC14, h0, h1, h2, h3]
  refine dz_ok rfl ?_
  rfl

theorem yield_ (g : Nat) : Statement (.yield_ g) := by
  intro x y hw he
  replace hw : (decide (g < 16)) = true := hw
  cases (show some ((1879048192 + g * 8388608 + 2097152 : Nat), (0 : Nat)) = some (x, y) from he)
  simp only [Bool.and_eq_true, decide_eq_true_eq] at hw
  refine ⟨by omega, by omega, fun r hr => ?_⟩
  obtain ⟨h0, h1, h2, h3⟩ := shape18 (r := r) (n := 1881145344) (c := 14) (o := 8) (v23 := g) (by decide) (by decide) (by omega) rfl (by omega)
  apply of_op
  simp only [decodeOp, decodeC14, h0, h1, h2, h3]
  refine dz_ok rfl ?_
  rfl

theorem qcnt (g : Nat) (d : Nat) (a : Nat) : Statement (.qcnt g d a) := by
  intro x y hw he
  replace hw : (g < 16 && d < 64 && a < 64) = true := hw
  cases (show some ((1879048192 + g * 8388608 + 2359296 + d * 4096 + a * 64 : Nat), (0 : Nat)) = some (x, y) from he)
  simp only [Bool.and_eq_true, decide_eq_true_eq] at hw
  refine ⟨by omega, by omega, fun r hr => ?_⟩
  obtain ⟨h0, h1, h2, h3, h4, h5⟩ := shape2 (r := r) (n := 1881407488) (c := 14) (o := 9) (v23 := g) (v12 := d) (v6 := a) (by decide) (by decide) (by omega) (by omega) (by omega) rfl (by omega)
  apply of_op
  simp only [decodeOp, decodeC14, h0, h1, h2, h3, h4, h5]
  refine dz_ok rfl ?_
  rfl

theorem spage (g : Nat) (a : Nat) (b : Nat) : Statement (.spage g a b) := by
  intro x y hw he
  replace hw : (g < 16 && a < 64 && b < 64) = true := hw
  cases (show some ((1879048192 + g * 8388608 + 2621440 + a * 64 + b : Nat), (0 : Nat)) = some (x, y) from he)
  simp only [Bool.and_eq_true, decide_eq_true_eq] at hw
  refine ⟨by omega, by omega, fun r hr => ?_⟩
  obtain ⟨h0, h1, h2, h3, h4, h5⟩ := shape19 (r := r) (n := 1881669632) (c := 14) (o := 10) (v23 := g) (v6 := a) (v0 := b) (by decide) (by decide) (by omega) (by omega) (by omega) rfl (by omega)
  apply of_op
  simp only [decodeOp, decodeC14, h0, h1, h2, h3, h4, h5]
  refine dz_ok rfl ?_
  rfl

theorem cpy (g : Nat) (a : Nat) : Statement (.cpy g a) := by
  intro x y hw he
  replace hw : (g < 16 && a < 64) = true := hw
  cases (show some ((1879048192 + g * 8388608 + 2883584 + a * 64 : Nat), (0 : Nat)) = some (x, y) from he)
  simp only [Bool.and_eq_true, decide_eq_true_eq] at hw
  refine ⟨by omega, by omega, fun r hr => ?_⟩
  obtain ⟨h0, h1, h2, h3, h4, h5⟩ := shape36 (r := r) (n := 1881931776) (c := 14) (o := 11) (v23 := g) (v6 := a) (by decide) (by decide) (by omega) (by omega) rfl (by omega)
  apply of_op
  simp only [decodeOp, decodeC14, h0, h1, h2, h3, h4, h5]
  refine dz_ok rfl ?_
  rfl

theorem push (g : Nat) (a : Nat) (b : Nat) : Statement (.push g a b) := by
  intro x y hw he
  replace hw : (g < 16 && a < 64 && b < 64) = true := hw
  cases (show some ((1879048192 + g * 8388608 + 3145728 + a * 64 + b : Nat), (0 : Nat)) = some (x, y) from he)
  simp only [Bool.and_eq_true, decide_eq_true_eq] at hw
  refine ⟨by omega, by omega, fun r hr => ?_⟩
  obtain ⟨h0, h1, h2, h3, h4, h5⟩ := shape19 (r := r) (n := 1882193920) (c := 14) (o := 12) (v23 := g) (v6 := a) (v0 := b) (by decide) (by decide) (by omega) (by omega) (by omega) rfl (by omega)
  apply of_op
  simp only [decodeOp, decodeC14, h0, h1, h2, h3, h4, h5]
  refine dz_ok rfl ?_
  rfl

theorem resultLanding (a0 : Nat) (a1 : Nat) (a2 : Nat) : Statement (.resultLanding a0 a1 a2) := none_encoded rfl

theorem pendingResultLands (a0 : Nat) (a1 : Nat) (a2 : Nat) : Statement (.pendingResultLands a0 a1 a2) := none_encoded rfl

theorem shadeMissService (a0 : Nat) (a1 : Nat) : Statement (.shadeMissService a0 a1) := none_encoded rfl

theorem trapEntry (a0 : Nat) (a1 : Nat) (a2 : Nat) (a3 : Nat) (a4 : Nat) (a5 : Nat) (a6 : Word) : Statement (.trapEntry a0 a1 a2 a3 a4 a5 a6) := none_encoded rfl

theorem recoveryRewind (a0 : Nat) (a1 : Nat) (a2 : Nat) : Statement (.recoveryRewind a0 a1 a2) := none_encoded rfl

theorem gangFailure (a0 : Nat) (a1 : Nat) (a2 : Nat) : Statement (.gangFailure a0 a1 a2) := none_encoded rfl

theorem gangPlacement (a0 : Nat) : Statement (.gangPlacement a0) := none_encoded rfl

theorem preemption (a0 : Nat) : Statement (.preemption a0) := none_encoded rfl

theorem gangReturn (a0 : Nat) : Statement (.gangReturn a0) := none_encoded rfl

theorem gbarCompletion (a0 : Nat) : Statement (.gbarCompletion a0) := none_encoded rfl

theorem rowDrain (a0 : Nat) : Statement (.rowDrain a0) := none_encoded rfl

theorem gangRetirement (a0 : Nat) : Statement (.gangRetirement a0) := none_encoded rfl

theorem waitBudgetPreemption (a0 : Nat) : Statement (.waitBudgetPreemption a0) := none_encoded rfl

theorem deadlineHalt (a0 : Nat) : Statement (.deadlineHalt a0) := none_encoded rfl

theorem periodStart : Statement (.periodStart) := none_encoded rfl

theorem sliceStart (a0 : Nat) : Statement (.sliceStart a0) := none_encoded rfl

theorem rateWindowStart : Statement (.rateWindowStart) := none_encoded rfl

theorem decompressBlock (a0 : Nat) (a1 : Nat) : Statement (.decompressBlock a0 a1) := none_encoded rfl

theorem planeLoadComplete (a0 : Nat) (a1 : Nat) : Statement (.planeLoadComplete a0 a1) := none_encoded rfl

theorem scaleLoadComplete (a0 : Nat) (a1 : Nat) : Statement (.scaleLoadComplete a0 a1) := none_encoded rfl

theorem wswapEffect (a0 : Nat) (a1 : Nat) : Statement (.wswapEffect a0 a1) := none_encoded rfl

theorem mrdComplete (a0 : Nat) (a1 : Nat) : Statement (.mrdComplete a0 a1) := none_encoded rfl

theorem stateEngineComplete (a0 : Nat) (a1 : Nat) : Statement (.stateEngineComplete a0 a1) := none_encoded rfl

theorem copyOnWriteComplete (a0 : Nat) (a1 : Nat) : Statement (.copyOnWriteComplete a0 a1) := none_encoded rfl

theorem copyComplete (a0 : Nat) (a1 : Nat) : Statement (.copyComplete a0 a1) := none_encoded rfl

theorem pushComplete (a0 : Nat) (a1 : Nat) : Statement (.pushComplete a0 a1) := none_encoded rfl

theorem arrivalRegistration (a0 : Nat) (a1 : Nat) (a2 : Word) : Statement (.arrivalRegistration a0 a1 a2) := none_encoded rfl

theorem pagerServe (a0 : Nat) : Statement (.pagerServe a0) := none_encoded rfl

theorem pageInComplete (a0 : Nat) : Statement (.pageInComplete a0) := none_encoded rfl

theorem pageOutComplete (a0 : Nat) : Statement (.pageOutComplete a0) := none_encoded rfl

theorem stateMoveComplete (a0 : Nat) (a1 : Nat) (a2 : Nat) : Statement (.stateMoveComplete a0 a1 a2) := none_encoded rfl

theorem retentionEntry (a0 : Nat) (a1 : Nat) (a2 : Nat) : Statement (.retentionEntry a0 a1 a2) := none_encoded rfl

theorem retentionExit (a0 : Nat) (a1 : Nat) (a2 : Nat) : Statement (.retentionExit a0 a1 a2) := none_encoded rfl

theorem taskDispatch (a0 : Nat) : Statement (.taskDispatch a0) := none_encoded rfl

theorem taskStart (a0 : Nat) (a1 : Nat) : Statement (.taskStart a0 a1) := none_encoded rfl

theorem ringRefill (a0 : Nat) (a1 : Nat) : Statement (.ringRefill a0 a1) := none_encoded rfl

theorem postedWritePerform (a0 : Nat) (a1 : Nat) (a2 : Nat) : Statement (.postedWritePerform a0 a1 a2) := none_encoded rfl

theorem fenceActionsComplete (a0 : Nat) (a1 : Nat) (a2 : Nat) : Statement (.fenceActionsComplete a0 a1 a2) := none_encoded rfl

theorem translationDropAck (a0 : Nat) (a1 : Nat) (a2 : Nat) : Statement (.translationDropAck a0 a1 a2) := none_encoded rfl

theorem waitRecheck (a0 : Nat) (a1 : Nat) (a2 : Nat) : Statement (.waitRecheck a0 a1 a2) := none_encoded rfl

theorem hotPageProposal (a0 : Nat) (a1 : Nat) (a2 : Nat) (a3 : Word) (a4 : Word) : Statement (.hotPageProposal a0 a1 a2 a3 a4) := none_encoded rfl

theorem migrationFreeze (a0 : Nat) (a1 : Nat) : Statement (.migrationFreeze a0 a1) := none_encoded rfl

theorem migrationCopyComplete (a0 : Nat) (a1 : Nat) : Statement (.migrationCopyComplete a0 a1) := none_encoded rfl

theorem launchRecordSubmit (a0 : Nat) (a1 : Nat) (a2 : Nat) (a3 : List Word) : Statement (.launchRecordSubmit a0 a1 a2 a3) := none_encoded rfl

theorem taskRecordSubmit (a0 : Nat) (a1 : Nat) (a2 : Nat) (a3 : List Word) : Statement (.taskRecordSubmit a0 a1 a2 a3) := none_encoded rfl

theorem eqcfgWrite (a0 : Nat) (a1 : Half) : Statement (.eqcfgWrite a0 a1) := none_encoded rfl

theorem eqheadWrite (a0 : Nat) (a1 : Half) : Statement (.eqheadWrite a0 a1) := none_encoded rfl

theorem registerWrite (a0 : Nat) (a1 : Nat) (a2 : HostAccess) : Statement (.registerWrite a0 a1 a2) := none_encoded rfl

theorem heldEventDelivery (a0 : Nat) : Statement (.heldEventDelivery a0) := none_encoded rfl

theorem msixMessage (a0 : Nat) : Statement (.msixMessage a0) := none_encoded rfl

theorem create (a0 : Word) : Statement (.create a0) := none_encoded rfl

theorem close (a0 : Word) : Statement (.close a0) := none_encoded rfl

theorem warm (a0 : Word) (a1 : List Byte) : Statement (.warm a0 a1) := none_encoded rfl

theorem attest (a0 : Word) (a1 : Word) : Statement (.attest a0 a1) := none_encoded rfl

theorem checkpoint : Statement (.checkpoint) := none_encoded rfl

theorem restore (a0 : Word) : Statement (.restore a0) := none_encoded rfl

theorem param (a0 : Word) (a1 : Word) (a2 : Word) : Statement (.param a0 a1 a2) := none_encoded rfl

theorem power : Statement (.power) := none_encoded rfl

theorem jobCheckpoint (a0 : Nat) : Statement (.jobCheckpoint a0) := none_encoded rfl

theorem hbmArrayError (a0 : Nat) (a1 : Bool) (a2 : Word) (a3 : Word) (a4 : Nat) : Statement (.hbmArrayError a0 a1 a2 a3 a4) := none_encoded rfl

theorem hbmParityRetry (a0 : Nat) (a1 : Nat) (a2 : Nat) (a3 : Nat) (a4 : Nat) (a5 : Bool) (a6 : Word) (a7 : Half) (a8 : Bool) : Statement (.hbmParityRetry a0 a1 a2 a3 a4 a5 a6 a7 a8) := none_encoded rfl

theorem laneSwap (a0 : Nat) (a1 : Nat) (a2 : Nat) (a3 : Nat) (a4 : Nat) (a5 : Bool) (a6 : Word) (a7 : Half) : Statement (.laneSwap a0 a1 a2 a3 a4 a5 a6 a7) := none_encoded rfl

theorem flitReceive (a0 : Nat) (a1 : List Byte) : Statement (.flitReceive a0 a1) := none_encoded rfl

theorem linkRetrain (a0 : Nat) (a1 : Bool) : Statement (.linkRetrain a0 a1) := none_encoded rfl

theorem meshLinkFailure (a0 : Nat) (a1 : Nat) (a2 : Bool) : Statement (.meshLinkFailure a0 a1 a2) := none_encoded rfl

theorem sensorRead (a0 : Int) (a1 : Nat) (a2 : Nat) : Statement (.sensorRead a0 a1 a2) := none_encoded rfl

theorem powerRemoval : Statement (.powerRemoval) := none_encoded rfl

theorem coldStart (a0 : ConfigRecord) : Statement (.coldStart a0) := none_encoded rfl

theorem retentionEntryEnd (a0 : Nat) (a1 : Nat) (a2 : Nat) : Statement (.retentionEntryEnd a0 a1 a2) := none_encoded rfl

theorem returnTileMovesComplete (a0 : Nat) : Statement (.returnTileMovesComplete a0) := none_encoded rfl

theorem hostApertureAccess (a : Nat) (b : HostAccess) : Statement (.hostApertureAccess a b) := none_encoded rfl

end Sys2Proof.Laws.EncodesBack
end

