-- ==== Sys2Proof/Tests/Slice0.lean ====
section
/-! SUPPORT. The model's own tests: ill-formed terms that WellFormed refuses and well-formed ones that it accepts, every encoded operation decoded
from a word written out from the spec's formats (R65 to R69 and each chapter's table), results worked by hand or in the spec, and for every
obligation with hypotheses a state that meets them (test_meets_<its name>). -/

set_option Elab.async false -- one proof at a time: many at once exhaust the memory of a build

namespace Sys2Proof.Tests
open Sys2Proof Sys2Proof.Machine

/-! ## WellFormed refuses, WellFormed accepts -/

theorem test_wf_refuses_integer : ([
    .add 16 0 0 0, .add 0 64 0 0, .add 0 0 64 0, .add 0 0 0 64, .sub 16 0 0 0, .sub 0 64 0 0, .sub 0 0 64 0, .sub 0 0 0 64, .and_ 16 0 0 0,
    .and_ 0 64 0 0, .and_ 0 0 64 0, .and_ 0 0 0 64, .or_ 16 0 0 0, .or_ 0 64 0 0, .or_ 0 0 64 0, .or_ 0 0 0 64, .xor 16 0 0 0, .xor 0 64 0 0,
    .xor 0 0 64 0, .xor 0 0 0 64, .andn 16 0 0 0, .andn 0 64 0 0, .andn 0 0 64 0, .andn 0 0 0 64, .shl 16 0 0 0, .shl 0 64 0 0, .shl 0 0 64 0,
    .shl 0 0 0 64, .shr 16 0 0 0, .shr 0 64 0 0, .shr 0 0 64 0, .shr 0 0 0 64, .sra 16 0 0 0, .sra 0 64 0 0, .sra 0 0 64 0, .sra 0 0 0 64,
    .rot 16 0 0 0, .rot 0 64 0 0, .rot 0 0 64 0, .rot 0 0 0 64, .mul 16 0 0 0, .mul 0 64 0 0, .mul 0 0 64 0, .mul 0 0 0 64, .mulh 16 0 0 0,
    .mulh 0 64 0 0, .mulh 0 0 64 0, .mulh 0 0 0 64, .mulhu 16 0 0 0, .mulhu 0 64 0 0, .mulhu 0 0 64 0, .mulhu 0 0 0 64, .min 16 0 0 0,
    .min 0 64 0 0, .min 0 0 64 0, .min 0 0 0 64, .max 16 0 0 0, .max 0 64 0 0, .max 0 0 64 0, .max 0 0 0 64, .minu 16 0 0 0, .minu 0 64 0 0,
    .minu 0 0 64 0, .minu 0 0 0 64, .maxu 16 0 0 0, .maxu 0 64 0 0, .maxu 0 0 64 0, .maxu 0 0 0 64, .sel 16 0 0 0 0, .sel 0 64 0 0 0,
    .sel 0 0 64 0 0, .sel 0 0 0 64 0, .sel 0 0 0 0 16, .clz 16 0 0, .clz 0 64 0, .clz 0 0 64, .ctz 16 0 0, .ctz 0 64 0, .ctz 0 0 64,
    .popc 16 0 0, .popc 0 64 0, .popc 0 0 64, .brev 16 0 0, .brev 0 64 0, .brev 0 0 64, .sext 16 0 0 0, .sext 0 64 0 0, .sext 0 0 64 0,
    .sext 0 0 0 64, .zext 16 0 0 0, .zext 0 64 0 0, .zext 0 0 64 0, .zext 0 0 0 64, .div 16 0 0 0, .div 0 64 0 0, .div 0 0 64 0, .div 0 0 0 64,
    .divu 16 0 0 0, .divu 0 64 0 0, .divu 0 0 64 0, .divu 0 0 0 64, .rem 16 0 0 0, .rem 0 64 0 0, .rem 0 0 64 0, .rem 0 0 0 64, .remu 16 0 0 0,
    .remu 0 64 0 0, .remu 0 0 64 0, .remu 0 0 0 64] : List Instr).all (fun i => !i.wf) = true := by decide

theorem test_wf_refuses_immediate : ([
    .addi 16 0 0 0, .addi 0 64 0 0, .addi 0 0 64 0, .addi 0 0 0 16384, .addi 0 0 0 (-16385), .andi 16 0 0 0, .andi 0 64 0 0, .andi 0 0 64 0,
    .andi 0 0 0 16384, .andi 0 0 0 (-16385), .ori 16 0 0 0, .ori 0 64 0 0, .ori 0 0 64 0, .ori 0 0 0 16384, .ori 0 0 0 (-16385), .xori 16 0 0 0,
    .xori 0 64 0 0, .xori 0 0 64 0, .xori 0 0 0 16384, .xori 0 0 0 (-16385), .shli 16 0 0 0, .shli 0 64 0 0, .shli 0 0 64 0, .shli 0 0 0 64,
    .shri 16 0 0 0, .shri 0 64 0 0, .shri 0 0 64 0, .shri 0 0 0 64, .srai 16 0 0 0, .srai 0 64 0 0, .srai 0 0 64 0, .srai 0 0 0 64,
    .muli 16 0 0 0, .muli 0 64 0 0, .muli 0 0 64 0, .muli 0 0 0 16384, .muli 0 0 0 (-16385), .movi 16 0 0, .movi 0 64 0, .movi 0 0 1048576,
    .movi 0 0 (-1048577), .movw 16 0 0 0, .movw 0 64 0 0, .movw 0 0 65536 0, .movw 0 0 0 4, .mini 16 0 0 0, .mini 0 64 0 0, .mini 0 0 64 0,
    .mini 0 0 0 16384, .mini 0 0 0 (-16385), .maxi 16 0 0 0, .maxi 0 64 0 0, .maxi 0 0 64 0, .maxi 0 0 0 16384, .maxi 0 0 0 (-16385)] : List Instr).all (fun i => !i.wf) = true := by decide

theorem test_wf_refuses_compare : ([
    .cmp 16 .eq 0 0 0, .cmp 0 .eq 8 0 0, .cmp 0 .eq 0 64 0, .cmp 0 .eq 0 0 64, .cmp 0 .un 0 0 0, .cmpi 16 .eq 0 0 0, .cmpi 0 .eq 8 0 0,
    .cmpi 0 .eq 0 64 0, .cmpi 0 .eq 0 0 16384, .cmpi 0 .eq 0 0 (-16385), .cmpi 0 .un 0 0 0, .pand 16 0 0 0, .pand 0 16 0 0, .pand 0 0 16 0,
    .pand 0 0 0 16, .por 16 0 0 0, .por 0 16 0 0, .por 0 0 16 0, .por 0 0 0 16, .pxor 16 0 0 0, .pxor 0 16 0 0, .pxor 0 0 16 0, .pxor 0 0 0 16,
    .pandn 16 0 0 0, .pandn 0 16 0 0, .pandn 0 0 16 0, .pandn 0 0 0 16, .pnot 16 0 0, .pnot 0 16 0, .pnot 0 0 16, .pmov 16 0 0, .pmov 0 16 0,
    .pmov 0 0 16, .fcmp 16 .eq 0 0 0, .fcmp 0 .eq 8 0 0, .fcmp 0 .eq 0 32 0, .fcmp 0 .eq 0 0 32, .fcmp 0 .bs 0 0 0] : List Instr).all (fun i => !i.wf) = true := by decide

theorem test_wf_refuses_branch : ([
    .br 16 0, .br 0 134217728, .br 0 (-134217729), .call 16 0 0, .call 0 64 0, .call 0 0 2097152, .call 0 0 (-2097153), .brx 16 0, .brx 0 64,
    .ret 16 0, .ret 0 64, .loop 4 0 1, .loop 0 64 1, .loop 0 0 1048576, .loop 0 0 0, .loopi 4 1 1, .loopi 0 16384 1, .loopi 0 1 4096,
    .loopi 0 1 0, .lbrk 16 0, .lbrk 0 4] : List Instr).all (fun i => !i.wf) = true := by decide

theorem test_wf_refuses_float : ([
    .fadd 16 0 0 0 false, .fadd 0 32 0 0 false, .fadd 0 0 32 0 false, .fadd 0 0 0 32 false, .fsub 16 0 0 0 false, .fsub 0 32 0 0 false,
    .fsub 0 0 32 0 false, .fsub 0 0 0 32 false, .fmul 16 0 0 0 false, .fmul 0 32 0 0 false, .fmul 0 0 32 0 false, .fmul 0 0 0 32 false,
    .ffma 16 0 0 0 false, .ffma 0 32 0 0 false, .ffma 0 0 32 0 false, .ffma 0 0 0 32 false, .fdiv 16 0 0 0 false, .fdiv 0 32 0 0 false,
    .fdiv 0 0 32 0 false, .fdiv 0 0 0 32 false, .fsqrt 16 0 0 false, .fsqrt 0 32 0 false, .fsqrt 0 0 32 false, .fmin 16 0 0 0 false,
    .fmin 0 32 0 0 false, .fmin 0 0 32 0 false, .fmin 0 0 0 32 false, .fmax 16 0 0 0 false, .fmax 0 32 0 0 false, .fmax 0 0 32 0 false,
    .fmax 0 0 0 32 false, .fabs 16 0 0 false, .fabs 0 32 0 false, .fabs 0 0 32 false, .fneg 16 0 0 false, .fneg 0 32 0 false, .fneg 0 0 32 false,
    .fcvt 16 0 0 0 1, .fcvt 0 0 0 7 1, .fcvt 0 0 0 0 7, .fcvt 0 0 0 1 1, .fcvt 0 32 0 0 1, .fcvt 0 64 0 0 2, .fcvt 0 0 32 0 1, .fcvt 0 0 64 2 1,
    .fclass 16 0 0 false, .fclass 0 64 0 false, .fclass 0 0 32 false, .fmov 16 0 0 false, .fmov 0 32 0 false, .fmov 0 0 32 false,
    .fnum 16 0 0 false, .fnum 0 64 0 false, .fnum 0 0 32 false, .fden 16 0 0 false, .fden 0 64 0 false, .fden 0 0 32 false,
    .fmake 16 0 0 0 false, .fmake 0 32 0 0 false, .fmake 0 0 64 0 false, .fmake 0 0 0 64 false, .frnd 16 0 0 0 false, .frnd 0 32 0 0 false,
    .frnd 0 0 32 0 false, .frnd 0 0 0 64 false] : List Instr).all (fun i => !i.wf) = true := by decide

theorem test_wf_refuses_system : ([
    .aadd 16 0 0 0, .aadd 0 16 0 0, .aadd 0 0 16 0, .aadd 0 0 0 64, .aset 16 0 0, .aset 0 16 0, .aset 0 0 64, .amset 16 0 0 0, .amset 0 16 0 0,
    .amset 0 0 64 0, .amset 0 0 0 64, .sysrd 16 0 0, .sysrd 0 64 0, .sysrd 0 0 4096, .sysrd 0 0 7, .syswr 16 0 0, .syswr 0 64 0, .syswr 0 0 4096,
    .syswr 0 0 7, .trap 16 0, .trap 0 256, .eret 16, .cmpt 16 0 0 0, .cmpt 0 64 0 0, .cmpt 0 0 64 0, .cmpt 0 0 0 64, .cmpt 0 3 0 0,
    .cmpt 0 1 32 0, .cmpt 0 1 0 32, .nop 16, .exit 16, .cntrd 16 0 0, .cntrd 0 64 0, .cntrd 0 0 4096, .cntrd 0 0 10, .cntrdc 16 0 0,
    .cntrdc 0 64 0, .cntrdc 0 0 4096, .cntrdc 0 0 10, .cntrdc 0 1 0, .cntrdc 0 56 0, .cntsnap 16, .xlinv 16 0 0, .xlinv 0 64 0, .xlinv 0 0 64] : List Instr).all (fun i => !i.wf) = true := by decide

theorem test_wf_refuses_memory : ([
    .ldB 16 0 0 0 .none 0, .ldB 0 16 0 0 .none 0, .ldB 0 0 16 0 .none 0, .ldB 0 0 0 64 .none 0, .ldB 0 0 0 0 .none 2048,
    .ldB 0 0 0 0 .none (-2049), .ldH 16 0 0 0 .none 0, .ldH 0 16 0 0 .none 0, .ldH 0 0 16 0 .none 0, .ldH 0 0 0 64 .none 0,
    .ldH 0 0 0 0 .none 2048, .ldH 0 0 0 0 .none (-2049), .ldW 16 0 0 0 .none 0, .ldW 0 16 0 0 .none 0, .ldW 0 0 16 0 .none 0,
    .ldW 0 0 0 64 .none 0, .ldW 0 0 0 0 .none 2048, .ldW 0 0 0 0 .none (-2049), .ldD 16 0 0 0 .none 0, .ldD 0 16 0 0 .none 0,
    .ldD 0 0 16 0 .none 0, .ldD 0 0 0 64 .none 0, .ldD 0 0 0 0 .none 2048, .ldD 0 0 0 0 .none (-2049), .stB 16 0 0 0 .none 0,
    .stB 0 16 0 0 .none 0, .stB 0 0 16 0 .none 0, .stB 0 0 0 64 .none 0, .stB 0 0 0 0 .none 2048, .stB 0 0 0 0 .none (-2049),
    .stH 16 0 0 0 .none 0, .stH 0 16 0 0 .none 0, .stH 0 0 16 0 .none 0, .stH 0 0 0 64 .none 0, .stH 0 0 0 0 .none 2048,
    .stH 0 0 0 0 .none (-2049), .stW 16 0 0 0 .none 0, .stW 0 16 0 0 .none 0, .stW 0 0 16 0 .none 0, .stW 0 0 0 64 .none 0,
    .stW 0 0 0 0 .none 2048, .stW 0 0 0 0 .none (-2049), .stD 16 0 0 0 .none 0, .stD 0 16 0 0 .none 0, .stD 0 0 16 0 .none 0,
    .stD 0 0 0 64 .none 0, .stD 0 0 0 0 .none 2048, .stD 0 0 0 0 .none (-2049)] : List Instr).all (fun i => !i.wf) = true := by decide

theorem test_wf_refuses_rows_and_tags : ([
    .vld 16 0 0 0 .none 0, .vld 0 16 0 0 .none 0, .vld 0 0 16 0 .none 0, .vld 0 0 0 64 .none 0, .vld 0 0 0 0 .none 2048,
    .vld 0 0 0 0 .none (-2049), .vst 16 0 0 0 .none 0, .vst 0 16 0 0 .none 0, .vst 0 0 16 0 .none 0, .vst 0 0 0 64 .none 0,
    .vst 0 0 0 0 .none 2048, .vst 0 0 0 0 .none (-2049), .vlds 16 0 0 0 .none 0, .vlds 0 16 0 0 .none 0, .vlds 0 0 16 0 .none 0,
    .vlds 0 0 0 64 .none 0, .vlds 0 0 0 0 .none 2048, .vlds 0 0 0 0 .none (-2049), .vsts 16 0 0 0 .none 0, .vsts 0 16 0 0 .none 0,
    .vsts 0 0 16 0 .none 0, .vsts 0 0 0 64 .none 0, .vsts 0 0 0 0 .none 2048, .vsts 0 0 0 0 .none (-2049), .ldf 16 0 0 false 0 .none 0,
    .ldf 0 16 0 false 0 .none 0, .ldf 0 0 16 false 0 .none 0, .ldf 0 0 0 false 32 .none 0, .ldf 0 0 0 false 0 .none 2048,
    .ldf 0 0 0 false 0 .none (-2049), .stf 16 0 0 false 0 .none 0, .stf 0 16 0 false 0 .none 0, .stf 0 0 16 false 0 .none 0,
    .stf 0 0 0 false 32 .none 0, .stf 0 0 0 false 0 .none 2048, .stf 0 0 0 false 0 .none (-2049), .ldk 16 0 0 .none 0, .ldk 0 16 0 .none 0,
    .ldk 0 0 64 .none 0, .ldk 0 0 0 .none 2048, .ldk 0 0 0 .none (-2049), .tlook 16 0 0, .tlook 0 64 0, .tlook 0 0 64, .tset 16 0 0,
    .tset 0 64 0, .tset 0 0 64, .tclr 16 0, .tclr 0 64, .tinv 16] : List Instr).all (fun i => !i.wf) = true := by decide

theorem test_wf_refuses_atomics : ([
    .amo 16 1 0 0 0 .add false, .amo 0 16 0 0 0 .add false, .amo 0 1 16 0 0 .add false, .amo 0 1 0 64 0 .add false, .amo 0 1 0 0 64 .add false,
    .amo 0 0 0 0 0 .add false, .red 16 1 0 0 .add false, .red 0 16 0 0 .add false, .red 0 1 16 0 .add false, .red 0 1 0 64 .add false,
    .red 0 0 0 0 .add false, .red 0 1 0 0 .swap false, .red 0 1 0 0 .cas false, .fence 16 1 0, .fence 0 65536 0, .fence 0 1 8, .fence 0 0 0,
    .fence 0 1 6, .fenceD 16, .row 16, .watch 16 0 .none 0, .watch 0 16 .none 0, .watch 0 0 .none 2048, .watch 0 0 .none (-2049), .waitw 16,
    .kinv 16] : List Instr).all (fun i => !i.wf) = true := by decide

theorem test_wf_refuses_vector_a : ([
    .vadd 16 0 0 0, .vadd 0 64 0 0, .vadd 0 0 64 0, .vadd 0 0 0 64, .vsub 16 0 0 0, .vsub 0 64 0 0, .vsub 0 0 64 0, .vsub 0 0 0 64,
    .vmul 16 0 0 0, .vmul 0 64 0 0, .vmul 0 0 64 0, .vmul 0 0 0 64, .vfma 16 0 0 0, .vfma 0 64 0 0, .vfma 0 0 64 0, .vfma 0 0 0 64,
    .vmin 16 0 0 0, .vmin 0 64 0 0, .vmin 0 0 64 0, .vmin 0 0 0 64, .vmax 16 0 0 0, .vmax 0 64 0 0, .vmax 0 0 64 0, .vmax 0 0 0 64, .vabs 16 0 0,
    .vabs 0 64 0, .vabs 0 0 64, .vneg 16 0 0, .vneg 0 64 0, .vneg 0 0 64, .vand 16 0 0 0, .vand 0 64 0 0, .vand 0 0 64 0, .vand 0 0 0 64,
    .vor 16 0 0 0, .vor 0 64 0 0, .vor 0 0 64 0, .vor 0 0 0 64, .vxor 16 0 0 0, .vxor 0 64 0 0, .vxor 0 0 64 0, .vxor 0 0 0 64, .vnot 16 0 0,
    .vnot 0 64 0, .vnot 0 0 64, .vshl 16 0 0 0, .vshl 0 64 0 0, .vshl 0 0 64 0, .vshl 0 0 0 64, .vshr 16 0 0 0, .vshr 0 64 0 0, .vshr 0 0 64 0,
    .vshr 0 0 0 64, .vsra 16 0 0 0, .vsra 0 64 0 0, .vsra 0 0 64 0, .vsra 0 0 0 64, .vsel 16 0 0 0 0, .vsel 0 64 0 0 0, .vsel 0 0 64 0 0,
    .vsel 0 0 0 64 0, .vsel 0 0 0 0 16, .vdot4 16 0 0 0 false false, .vdot4 0 64 0 0 false false, .vdot4 0 0 64 0 false false,
    .vdot4 0 0 0 64 false false, .vcmx 16 0 0 0, .vcmx 0 64 0 0, .vcmx 0 0 64 0, .vcmx 0 0 0 64] : List Instr).all (fun i => !i.wf) = true := by decide

theorem test_wf_refuses_vector_b : ([
    .vcmp 16 .eq 0 0 0, .vcmp 0 .eq 8 0 0, .vcmp 0 .eq 0 64 0, .vcmp 0 .eq 0 0 64, .vshuf 16 0 0 0, .vshuf 0 64 0 0, .vshuf 0 0 64 0,
    .vshuf 0 0 0 64, .vrot 16 0 0 0, .vrot 0 64 0 0, .vrot 0 0 64 0, .vrot 0 0 0 512, .vcvt 16 0 0 0 0 false, .vcvt 0 64 0 0 0 false,
    .vcvt 0 0 64 0 0 false, .vcvt 0 0 0 0 64 false, .vcvt 0 0 0 64 0 false, .vcvt 0 0 0 34 0 false, .vcvt 0 0 0 0 34 false,
    .vpack 16 0 0 0 0 false, .vpack 0 64 0 0 0 false, .vpack 0 0 64 0 0 false, .vpack 0 0 0 64 0 false, .vpack 0 0 0 0 4 false,
    .vpack 0 0 0 0 1 true, .vunpk 16 0 0 0 false, .vunpk 0 64 0 0 false, .vunpk 0 0 64 0 false, .vunpk 0 0 0 4 false, .vreds 16 0 0,
    .vreds 0 64 0, .vreds 0 0 64, .vredm 16 0 0 false, .vredm 0 64 0 false, .vredm 0 0 64 false, .vidx 16 0, .vidx 0 64] : List Instr).all (fun i => !i.wf) = true := by decide

theorem test_wf_refuses_vector_lane : ([
    .vbcast 16 0 0, .vbcast 0 64 0, .vbcast 0 0 64, .vext 16 0 0 0, .vext 0 64 0 0, .vext 0 0 64 0, .vext 0 0 0 32768, .vins 16 0 0 0,
    .vins 0 64 0 0, .vins 0 0 64 0, .vins 0 0 0 32768, .vshli 16 0 0 0, .vshli 0 64 0 0, .vshli 0 0 64 0, .vshli 0 0 0 64, .vshri 16 0 0 0,
    .vshri 0 64 0 0, .vshri 0 0 64 0, .vshri 0 0 0 64, .vsrai 16 0 0 0, .vsrai 0 64 0 0, .vsrai 0 0 64 0, .vsrai 0 0 0 64, .vaddi 16 0 0 0,
    .vaddi 0 64 0 0, .vaddi 0 0 64 0, .vaddi 0 0 0 16384, .vaddi 0 0 0 (-16385), .vmovi 16 0 0, .vmovi 0 64 0, .vmovi 0 0 16384,
    .vmovi 0 0 (-16385)] : List Instr).all (fun i => !i.wf) = true := by decide

theorem test_wf_refuses_special : ([
    .vexp 16 0 0, .vexp 0 64 0, .vexp 0 0 64, .vlog 16 0 0, .vlog 0 64 0, .vlog 0 0 64, .vrcp 16 0 0, .vrcp 0 64 0, .vrcp 0 0 64, .vrsq 16 0 0,
    .vrsq 0 64 0, .vrsq 0 0 64, .vtanh 16 0 0, .vtanh 0 64 0, .vtanh 0 0 64, .vsig 16 0 0, .vsig 0 64 0, .vsig 0 0 64, .vsin 16 0 0,
    .vsin 0 64 0, .vsin 0 0 64, .vcos 16 0 0, .vcos 0 64 0, .vcos 0 0 64, .verf 16 0 0, .verf 0 64 0, .verf 0 0 64] : List Instr).all (fun i => !i.wf) = true := by decide

theorem test_wf_refuses_matrix : ([
    .wstr 16 0 0 0 false 0, .wstr 0 64 0 0 false 0, .wstr 0 0 64 0 false 0, .wstr 0 0 0 64 false 0, .wstr 0 33 0 0 false 0,
    .wstr 0 0 0 0 false 6, .wld 16, .wscl 16 0 false 0, .wscl 0 64 false 0, .wscl 0 0 false 6, .wswap 16, .mma 16 0 0 1 false,
    .mma 0 64 0 1 false, .mma 0 0 64 1 false, .mma 0 0 0 0 false, .mma 0 0 0 65 false, .mma 0 63 0 2 false, .mrd 16 0 0 0 1, .mrd 0 64 0 0 1,
    .mrd 0 0 64 0 1, .mrd 0 0 0 32 1, .mrd 0 0 0 0 0, .mrd 0 0 0 0 65, .mrd 0 0 63 0 2, .acfg 16 32, .acfg 0 64, .acfg 0 1, .fwdRead 16 0 0 0 1,
    .fwdRead 0 64 0 0 1, .fwdRead 0 0 64 0 1, .fwdRead 0 0 0 64 1, .fwdRead 0 0 0 0 0, .fwdRead 0 0 0 0 17, .fwdRead 0 63 0 0 2,
    .fwdRead 0 0 63 0 2, .fwdDelta 16 0 0 0 1, .fwdDelta 0 64 0 0 1, .fwdDelta 0 0 64 0 1, .fwdDelta 0 0 0 64 1, .fwdDelta 0 0 0 0 0,
    .fwdDelta 0 0 0 0 17, .fwdDelta 0 63 0 0 2, .fwdDelta 0 0 61 0 1, .fwdOuter 16 0 0 0 1, .fwdOuter 0 64 0 0 1, .fwdOuter 0 0 64 0 1,
    .fwdOuter 0 0 0 64 1, .fwdOuter 0 0 0 0 0, .fwdOuter 0 0 0 0 17, .fwdOuter 0 63 0 0 2, .fwdOuter 0 0 61 0 1, .opu 16 0 0 0 1,
    .opu 0 64 0 0 1, .opu 0 0 64 0 1, .opu 0 0 0 64 1, .opu 0 0 0 0 0, .opu 0 0 0 0 17, .opu 0 0 63 0 2, .opu 0 0 0 63 2, .sfork 16 0 0 0,
    .sfork 0 64 0 0, .sfork 0 0 64 0, .sfork 0 0 0 64, .ssnap 16 0 0, .ssnap 0 64 0, .ssnap 0 0 64, .sroll 16 0 0, .sroll 0 64 0, .sroll 0 0 64,
    .savg 16 0 0 0 0 false, .savg 0 64 0 0 0 false, .savg 0 0 64 0 0 false, .savg 0 0 0 64 0 false, .savg 0 0 0 0 32 false, .sfree 16 0,
    .sfree 0 64, .smove 16 0 0 0, .smove 0 64 0 0, .smove 0 0 64 0, .smove 0 0 0 64, .sqry 16 0 0, .sqry 0 64 0, .sqry 0 0 64] : List Instr).all (fun i => !i.wf) = true := by decide

theorem test_wf_refuses_engine : ([
    .ewait 16 1, .ewait 0 64, .ewait 0 0, .epoll 16 0 0, .epoll 0 64 0, .epoll 0 0 64, .epoll 0 0 6, .tsub 16 0, .tsub 0 64, .tdone 16,
    .launch 16 0 0, .launch 0 64 0, .launch 0 0 64, .ljoin 16 0, .ljoin 0 64, .range 16 0 0 0, .range 0 64 0 0, .range 0 0 64 0, .range 0 0 0 64,
    .gbar 16, .yield_ 16, .qcnt 16 0 0, .qcnt 0 64 0, .qcnt 0 0 64, .spage 16 0 0, .spage 0 64 0, .spage 0 0 64, .cpy 16 0, .cpy 0 64,
    .push 16 0 0, .push 0 64 0, .push 0 0 64] : List Instr).all (fun i => !i.wf) = true := by decide

theorem test_wf_refuses_event : ([
    .resultLanding 12 0 0, .resultLanding 0 16 0, .resultLanding 0 0 4, .pendingResultLands 12 0 0, .pendingResultLands 0 16 0,
    .pendingResultLands 0 0 4, .shadeMissService 12 0, .shadeMissService 0 16, .trapEntry 12 0 0 0 0 0 0, .trapEntry 0 16 0 0 0 0 0,
    .trapEntry 0 0 4 0 0 0 0, .trapEntry 0 0 0 256 0 0 0, .trapEntry 0 0 0 0 256 0 0, .trapEntry 0 0 0 0 0 8 0, .recoveryRewind 12 0 0,
    .recoveryRewind 0 16 0, .recoveryRewind 0 0 4, .gangPlacement 12, .deadlineHalt 64, .sliceStart 64, .decompressBlock 12 0,
    .decompressBlock 0 16, .planeLoadComplete 12 0, .planeLoadComplete 0 16, .scaleLoadComplete 12 0, .scaleLoadComplete 0 16, .wswapEffect 12 0,
    .wswapEffect 0 16, .mrdComplete 12 0, .mrdComplete 0 16, .stateEngineComplete 12 0, .stateEngineComplete 0 16, .copyOnWriteComplete 12 0,
    .copyOnWriteComplete 0 16, .copyComplete 12 0, .copyComplete 0 16, .pushComplete 12 0, .pushComplete 0 16, .arrivalRegistration 12 0 0,
    .arrivalRegistration 0 64 0, .pagerServe 12, .pageInComplete 12, .pageOutComplete 12, .stateMoveComplete 12 0 0, .stateMoveComplete 0 16 0,
    .stateMoveComplete 0 0 4, .retentionEntry 12 0 0, .retentionEntry 0 36 0, .retentionEntry 0 0 16, .retentionExit 12 0 0,
    .retentionExit 0 36 0, .retentionExit 0 0 16, .taskDispatch 12, .taskStart 12 0, .taskStart 0 16, .ringRefill 12 0, .ringRefill 0 16,
    .postedWritePerform 12 0 0, .postedWritePerform 0 16 0, .fenceActionsComplete 12 0 0, .fenceActionsComplete 0 16 0,
    .fenceActionsComplete 0 0 4, .translationDropAck 12 0 0, .translationDropAck 0 16 0, .translationDropAck 0 0 4, .waitRecheck 12 0 0,
    .waitRecheck 0 16 0, .waitRecheck 0 0 4, .hotPageProposal 12 1 0 0 0, .hotPageProposal 0 1 64 0 0, .hotPageProposal 0 12 0 0 0,
    .migrationFreeze 12 0, .migrationCopyComplete 12 0, .launchRecordSubmit 0 12 0 (List.replicate 8 0),
    .launchRecordSubmit 33 0 0 (List.replicate 8 0), .launchRecordSubmit 0 0 0 [], .launchRecordSubmit 0 0 8 (List.replicate 8 0),
    .taskRecordSubmit 0 12 0 (List.replicate 8 0), .taskRecordSubmit 33 0 0 (List.replicate 8 0), .taskRecordSubmit 0 0 0 [],
    .taskRecordSubmit 0 0 16 (List.replicate 8 0), .eqcfgWrite 33 0, .eqheadWrite 33 0, .registerWrite 33 0 (.read 8), .heldEventDelivery 33,
    .msixMessage 33, .warm 0 [], .jobCheckpoint 64, .hbmArrayError 12 false 0 0 0, .hbmParityRetry 12 0 0 0 0 false 0 0 false,
    .hbmParityRetry 0 2 0 0 0 false 0 0 false, .hbmParityRetry 0 0 64 0 0 false 0 0 false, .hbmParityRetry 0 0 0 32 0 false 0 0 false,
    .laneSwap 12 0 0 0 0 false 0 0, .laneSwap 0 2 0 0 0 false 0 0, .laneSwap 0 0 64 0 0 false 0 0, .laneSwap 0 0 0 32 0 false 0 0,
    .flitReceive 16 (List.replicate 256 0), .flitReceive 0 [], .linkRetrain 16 false, .meshLinkFailure 8 12 false, .meshLinkFailure 0 5 false,
    .sensorRead 0 12 0, .retentionEntryEnd 12 0 0, .retentionEntryEnd 0 36 0, .retentionEntryEnd 0 0 16] : List Instr).all (fun i => !i.wf) = true := by decide

theorem test_wf_accepts_1 : ([
    .add 0 0 0 0, .sub 0 0 0 0, .and_ 0 0 0 0, .or_ 0 0 0 0, .xor 0 0 0 0, .andn 0 0 0 0, .shl 0 0 0 0, .shr 0 0 0 0, .sra 0 0 0 0, .rot 0 0 0 0,
    .mul 0 0 0 0, .mulh 0 0 0 0, .mulhu 0 0 0 0, .min 0 0 0 0, .max 0 0 0 0, .minu 0 0 0 0, .maxu 0 0 0 0, .sel 0 0 0 0 0, .clz 0 0 0,
    .ctz 0 0 0, .popc 0 0 0, .brev 0 0 0, .sext 0 0 0 0, .zext 0 0 0 0, .div 0 0 0 0, .divu 0 0 0 0, .rem 0 0 0 0, .remu 0 0 0 0, .addi 0 0 0 0,
    .andi 0 0 0 0, .ori 0 0 0 0, .xori 0 0 0 0, .shli 0 0 0 0, .shri 0 0 0 0, .srai 0 0 0 0, .muli 0 0 0 0, .movi 0 0 0, .movw 0 0 0 0,
    .mini 0 0 0 0, .maxi 0 0 0 0, .cmp 0 .eq 0 0 0, .cmpi 0 .eq 0 0 0, .pand 0 0 0 0, .por 0 0 0 0, .pxor 0 0 0 0, .pandn 0 0 0 0, .pnot 0 0 0,
    .pmov 0 0 0, .fcmp 0 .eq 0 0 0, .br 0 0, .call 0 0 0, .brx 0 0, .ret 0 0, .loop 0 0 1, .loopi 0 1 1, .lbrk 0 0, .fadd 0 0 0 0 false,
    .fsub 0 0 0 0 false, .fmul 0 0 0 0 false, .ffma 0 0 0 0 false, .fdiv 0 0 0 0 false, .fsqrt 0 0 0 false, .fmin 0 0 0 0 false,
    .fmax 0 0 0 0 false, .fabs 0 0 0 false] : List Instr).all Instr.wf = true := by decide

theorem test_wf_accepts_2 : ([
    .fneg 0 0 0 false, .fcvt 0 0 0 0 1, .fclass 0 0 0 false, .fmov 0 0 0 false, .fnum 0 0 0 false, .fden 0 0 0 false, .fmake 0 0 0 0 false,
    .frnd 0 0 0 0 false, .aadd 0 0 0 0, .aset 0 0 0, .amset 0 0 0 0, .sysrd 0 0 0, .syswr 0 0 0, .trap 0 0, .eret 0, .cmpt 0 0 0 0, .nop 0,
    .exit 0, .cntrd 0 0 0, .cntrdc 0 0 0, .cntsnap 0, .xlinv 0 0 0, .ldB 0 0 0 0 .none 0, .ldH 0 0 0 0 .none 0, .ldW 0 0 0 0 .none 0,
    .ldD 0 0 0 0 .none 0, .stB 0 0 0 0 .none 0, .stH 0 0 0 0 .none 0, .stW 0 0 0 0 .none 0, .stD 0 0 0 0 .none 0, .vld 0 0 0 0 .none 0,
    .vst 0 0 0 0 .none 0, .vlds 0 0 0 0 .none 0, .vsts 0 0 0 0 .none 0, .ldf 0 0 0 false 0 .none 0, .stf 0 0 0 false 0 .none 0,
    .ldk 0 0 0 .none 0, .tlook 0 0 0, .tset 0 0 0, .tclr 0 0, .tinv 0, .amo 0 1 0 0 0 .add false, .red 0 1 0 0 .add false, .fence 0 1 0,
    .fenceD 0, .row 0, .watch 0 0 .none 0, .waitw 0, .kinv 0, .vadd 0 0 0 0, .vsub 0 0 0 0, .vmul 0 0 0 0, .vfma 0 0 0 0, .vmin 0 0 0 0,
    .vmax 0 0 0 0, .vabs 0 0 0, .vneg 0 0 0, .vand 0 0 0 0, .vor 0 0 0 0, .vxor 0 0 0 0, .vnot 0 0 0, .vshl 0 0 0 0, .vshr 0 0 0 0,
    .vsra 0 0 0 0, .vsel 0 0 0 0 0] : List Instr).all Instr.wf = true := by decide

theorem test_wf_accepts_3 : ([
    .vdot4 0 0 0 0 false false, .vcmx 0 0 0 0, .vcmp 0 .eq 0 0 0, .vshuf 0 0 0 0, .vrot 0 0 0 0, .vcvt 0 0 0 0 0 false, .vpack 0 0 0 0 0 false,
    .vunpk 0 0 0 0 false, .vreds 0 0 0, .vredm 0 0 0 false, .vidx 0 0, .vbcast 0 0 0, .vext 0 0 0 0, .vins 0 0 0 0, .vshli 0 0 0 0,
    .vshri 0 0 0 0, .vsrai 0 0 0 0, .vaddi 0 0 0 0, .vmovi 0 0 0, .vexp 0 0 0, .vlog 0 0 0, .vrcp 0 0 0, .vrsq 0 0 0, .vtanh 0 0 0, .vsig 0 0 0,
    .vsin 0 0 0, .vcos 0 0 0, .verf 0 0 0, .wstr 0 0 0 0 false 0, .wld 0, .wscl 0 0 false 0, .wswap 0, .mma 0 0 0 1 false, .mrd 0 0 0 0 1,
    .acfg 0 32, .fwdRead 0 0 0 0 1, .fwdDelta 0 0 0 0 1, .fwdOuter 0 0 0 0 1, .opu 0 0 0 0 1, .sfork 0 0 0 0, .ssnap 0 0 0, .sroll 0 0 0,
    .savg 0 0 0 0 0 false, .sfree 0 0, .smove 0 0 0 0, .sqry 0 0 0, .ewait 0 1, .epoll 0 0 0, .tsub 0 0, .tdone 0, .launch 0 0 0, .ljoin 0 0,
    .range 0 0 0 0, .gbar 0, .yield_ 0, .qcnt 0 0 0, .spage 0 0 0, .cpy 0 0, .push 0 0 0, .resultLanding 0 0 0, .pendingResultLands 0 0 0,
    .shadeMissService 0 0, .trapEntry 0 0 0 0 0 0 0, .recoveryRewind 0 0 0, .gangFailure 0 0 0] : List Instr).all Instr.wf = true := by decide

theorem test_wf_accepts_4 : ([
    .gangPlacement 0, .preemption 0, .gangReturn 0, .gbarCompletion 0, .rowDrain 0, .gangRetirement 0, .waitBudgetPreemption 0, .deadlineHalt 0,
    .periodStart, .sliceStart 0, .rateWindowStart, .decompressBlock 0 0, .planeLoadComplete 0 0, .scaleLoadComplete 0 0, .wswapEffect 0 0,
    .mrdComplete 0 0, .stateEngineComplete 0 0, .copyOnWriteComplete 0 0, .copyComplete 0 0, .pushComplete 0 0, .arrivalRegistration 0 0 0,
    .pagerServe 0, .pageInComplete 0, .pageOutComplete 0, .stateMoveComplete 0 0 0, .retentionEntry 0 0 0, .retentionExit 0 0 0, .taskDispatch 0,
    .taskStart 0 0, .ringRefill 0 0, .postedWritePerform 0 0 0, .fenceActionsComplete 0 0 0, .translationDropAck 0 0 0, .waitRecheck 0 0 0,
    .hotPageProposal 0 1 0 0 0, .migrationFreeze 0 0, .migrationCopyComplete 0 0, .launchRecordSubmit 0 0 0 (List.replicate 8 0),
    .taskRecordSubmit 0 0 0 (List.replicate 8 0), .eqcfgWrite 0 0, .eqheadWrite 0 0, .registerWrite 0 0 (.write []), .heldEventDelivery 0, .msixMessage 0,
    .create 0, .close 0, .warm 0 (List.replicate 12 0), .attest 0 0, .checkpoint, .restore 0, .param 0 0 0, .power, .jobCheckpoint 0,
    .hbmArrayError 0 false 0 0 0, .hbmParityRetry 0 0 0 0 0 false 0 0 false, .laneSwap 0 0 0 0 0 false 0 0, .linkRetrain 0 false,
    .meshLinkFailure 0 4 false, .sensorRead 0 0 0, .powerRemoval, .coldStart default, .retentionEntryEnd 0 0 0, .returnTileMovesComplete 0,
    .hostApertureAccess 0 (.read 8)] : List Instr).all Instr.wf = true := by decide


/-! ## Every encoding, bit by bit -/

theorem test_decode_integer : ([
    (0b10000001100000000110101001001000, 0, .add 3 6 41 8), (0b10000001100001000110101001001000, 0, .sub 3 6 41 8), (0b10000001100010000110101001001000, 0, .and_ 3 6 41 8),
    (0b10000001100011000110101001001000, 0, .or_ 3 6 41 8), (0b10000001100100000110101001001000, 0, .xor 3 6 41 8), (0b10000001100101000110101001001000, 0, .andn 3 6 41 8),
    (0b10000001100110000110101001001000, 0, .shl 3 6 41 8), (0b10000001100111000110101001001000, 0, .shr 3 6 41 8), (0b10000001101000000110101001001000, 0, .sra 3 6 41 8),
    (0b10000001101001000110101001001000, 0, .rot 3 6 41 8), (0b10000001101010000110101001001000, 0, .mul 3 6 41 8), (0b10000001101011000110101001001000, 0, .mulh 3 6 41 8),
    (0b10000001101100000110101001001000, 0, .mulhu 3 6 41 8), (0b10000001101101000110101001001000, 0, .min 3 6 41 8), (0b10000001101110000110101001001000, 0, .max 3 6 41 8),
    (0b10000001101111000110101001001000, 0, .minu 3 6 41 8), (0b10000001110000000110101001001000, 0, .maxu 3 6 41 8), (0b10000000010001000110000111001000, 9, .sel 0 6 7 8 9),
    (0b10000000010010000110000111000000, 0, .clz 0 6 7), (0b10000000010011000110000111000000, 0, .ctz 0 6 7), (0b10000000010100000110000111000000, 0, .popc 0 6 7),
    (0b10000000010101000110000111000000, 0, .brev 0 6 7), (0b10000000010110000110000111011111, 0, .sext 0 6 7 31), (0b10000000010111000110000111011111, 0, .zext 0 6 7 31),
    (0b10000000011000000110000111001000, 0, .div 0 6 7 8), (0b10000000011001000110000111001000, 0, .divu 0 6 7 8), (0b10000000011010000110000111001000, 0, .rem 0 6 7 8),
    (0b10000000011011000110000111001000, 0, .remu 0 6 7 8)] : List (Nat × Nat × Instr)).all
      (fun x => decide (decodeSyl x.1 x.2.1 = .ok x.2.2)) = true := by decide

theorem test_decode_immediate : ([
    (0b10001001000000001000001011101000, 135, .addi 2 4 5 (-15384)), (0b10001001000010001000001011101000, 135, .andi 2 4 5 (-15384)),
    (0b10001001000100001000001011101000, 135, .ori 2 4 5 (-15384)), (0b10001001000110001000001011101000, 135, .xori 2 4 5 (-15384)),
    (0b10001001001110001000001011101000, 135, .muli 2 4 5 (-15384)), (0b10001001010100001000001011101000, 135, .mini 2 4 5 (-15384)),
    (0b10001001010110001000001011101000, 135, .maxi 2 4 5 (-15384)), (0b10001001001000001000001010111111, 0, .shli 2 4 5 63),
    (0b10001001001010001000001010111111, 0, .shri 2 4 5 63), (0b10001001001100001000001010111111, 0, .srai 2 4 5 63),
    (0b10001000010000001001111111111111, 127, .movi 0 4 1048575), (0b10001000010000001000000000000000, 128, .movi 0 4 (-1048576)),
    (0b10001000010010001001101010111100, 29, .movw 0 4 0xBABC 3)] : List (Nat × Nat × Instr)).all
      (fun x => decide (decodeSyl x.1 x.2.1 = .ok x.2.2)) = true := by decide

theorem test_decode_compare : ([
    (0b10010000100000100110010100001011, 0, .cmp 1 .lt 3 10 11), (0b10010000100110010110010101111111, 255, .cmpi 1 .gtu 3 10 (-1)),
    (0b10010000001000001100101010010000, 0, .pand 0 12 10 9), (0b10010000001000011100101010010000, 0, .por 0 12 10 9),
    (0b10010000001000101100101010010000, 0, .pxor 0 12 10 9), (0b10010000001000111100101010010000, 0, .pandn 0 12 10 9),
    (0b10010000001001001100101000000000, 0, .pnot 0 12 10), (0b10010000001001011100101000000000, 0, .pmov 0 12 10),
    (0b10010000001111011110111100011111, 0, .fcmp 0 .or 7 30 31)] : List (Nat × Nat × Instr)).all
      (fun x => decide (decodeSyl x.1 x.2.1 = .ok x.2.2)) = true := by decide

theorem test_decode_branch : ([
    (0b10011010100011111111111111111110, 255, .br 5 (-2)), (0b10011010100111111000000000000001, 128, .call 5 62 (-2097151)),
    (0b10011010101011111000000000000000, 0, .brx 5 62), (0b10011010101111111000000000000000, 0, .ret 5 62), (0b10011000010010100001000000000101, 1, .loop 2 33 4101),
    (0b10011000010111100001000000000101, 2, .loopi 3 161 5), (0b10011011111001000000000000000000, 0, .lbrk 7 1)] : List (Nat × Nat × Instr)).all
      (fun x => decide (decodeSyl x.1 x.2.1 = .ok x.2.2)) = true := by decide

theorem test_decode_float : ([
    (0b10100000100000011110010101001100, 1, .fadd 1 30 21 12 true), (0b10100000100001011110010101001100, 1, .fsub 1 30 21 12 true),
    (0b10100000100010011110010101001100, 1, .fmul 1 30 21 12 true), (0b10100000100011011110010101001100, 1, .ffma 1 30 21 12 true),
    (0b10100000100100011110010101001100, 1, .fdiv 1 30 21 12 true), (0b10100000100110011110010101001100, 1, .fmin 1 30 21 12 true),
    (0b10100000100111011110010101001100, 1, .fmax 1 30 21 12 true), (0b10100000110000011110010101001100, 1, .fmake 1 30 21 12 true),
    (0b10100000110001011110010101001100, 1, .frnd 1 30 21 12 true), (0b10100000100101011110010101000000, 0, .fsqrt 1 30 21 false),
    (0b10100000101000011110010101000000, 0, .fabs 1 30 21 false), (0b10100000101001011110010101000000, 0, .fneg 1 30 21 false),
    (0b10100000101100011110010101000000, 0, .fclass 1 30 21 false), (0b10100000101101011110010101000000, 0, .fmov 1 30 21 false),
    (0b10100000101110011110010101000000, 0, .fnum 1 30 21 false), (0b10100000101111011110010101000000, 0, .fden 1 30 21 false),
    (0b10100000101011011110010101001110, 0, .fcvt 1 30 21 1 6)] : List (Nat × Nat × Instr)).all
      (fun x => decide (decodeSyl x.1 x.2.1 = .ok x.2.2)) = true := by decide

theorem test_decode_system : ([
    (0b10101000000000001111001110001101, 0, .aadd 0 15 14 13), (0b10101000000001001111101100000000, 0, .aset 0 15 44),
    (0b10101000000010001111101100101101, 0, .amset 0 15 44 45), (0b10101000000100001001000100100000, 0, .sysrd 0 9 0x120),
    (0b10101000000101001001000000000110, 0, .syswr 0 9 6), (0b10101000000110000000000011111111, 0, .trap 0 255), (0b10101010000111000000000000000000, 0, .eret 4),
    (0b10101010001000000010110010110011, 0, .cmpt 4 2 50 51), (0b10101010001001000000000000000000, 0, .nop 4), (0b10101010001010000000000000000000, 0, .exit 4),
    (0b10101000001011000101001000000101, 0, .cntrd 0 5 0x205), (0b10101000001100110110100000000001, 0, .cntrdc 0 54 0x801),
    (0b10101000001101000000000000000000, 0, .cntsnap 0), (0b10101010001110000000010100010101, 0, .xlinv 4 20 21)] : List (Nat × Nat × Instr)).all
      (fun x => decide (decodeSyl x.1 x.2.1 = .ok x.2.2)) = true := by decide

theorem test_decode_memory : ([
    (0b10110000000001011110100001001110, 255, .ldB 0 5 14 33 .none (-2)), (0b10110000000101011110100001011110, 255, .ldH 0 5 14 33 .post (-2)),
    (0b10110000001001011110100001101110, 255, .ldW 0 5 14 33 .add (-2)), (0b10110000001101011110100001001110, 255, .ldD 0 5 14 33 .none (-2)),
    (0b10110000010001011110100001011110, 255, .stB 0 5 14 33 .post (-2)), (0b10110000010101011110100001101110, 255, .stH 0 5 14 33 .add (-2)),
    (0b10110000011001011110100001001110, 255, .stW 0 5 14 33 .none (-2)), (0b10110000011101011110100001011110, 255, .stD 0 5 14 33 .post (-2)),
    (0b10111001100001011110100001001111, 127, .vld 3 5 14 33 .none 2047), (0b10111001100101011110100001011111, 127, .vst 3 5 14 33 .post 2047),
    (0b10111001101001011110100001101111, 127, .vlds 3 5 14 33 .add 2047), (0b10111001101101011110100001001111, 127, .vsts 3 5 14 33 .none 2047),
    (0b10111000010001011110111111100000, 128, .ldf 0 5 14 true 31 .add (-2048)), (0b10111000010101011110011111000001, 0, .stf 0 5 14 false 31 .none 1),
    (0b10111000011000001110100001010000, 0, .ldk 0 14 33 .post 0), (0b10111000011100000100000101000000, 0, .tlook 0 4 5), (0b10111000011101000000000101000110, 0, .tset 0 5 6),
    (0b10111000011110000000000101000000, 0, .tclr 0 5), (0b10111000011111000000000000000000, 0, .tinv 0)] : List (Nat × Nat × Instr)).all
      (fun x => decide (decodeSyl x.1 x.2.1 = .ok x.2.2)) = true := by decide

theorem test_decode_atomics : ([
    (0b11000000000011110001101000101001, 16, .amo 0 15 1 40 41 .add true), (0b11000000000011110001101000101001, 17, .amo 0 15 1 40 41 .and true),
    (0b11000000000011110001101000101001, 18, .amo 0 15 1 40 41 .or true), (0b11000000000011110001101000101001, 19, .amo 0 15 1 40 41 .xor true),
    (0b11000000000011110001101000101001, 20, .amo 0 15 1 40 41 .min true), (0b11000000000011110001101000101001, 21, .amo 0 15 1 40 41 .max true),
    (0b11000000000011110001101000101001, 22, .amo 0 15 1 40 41 .minu true), (0b11000000000011110001101000101001, 23, .amo 0 15 1 40 41 .maxu true),
    (0b11000000000011110001101000101001, 24, .amo 0 15 1 40 41 .swap true), (0b11000000000011110001101000101001, 25, .amo 0 15 1 40 41 .cas true),
    (0b11000000000011110001101000101001, 26, .amo 0 15 1 40 41 .fadd true), (0b11000000000011110001101000101001, 27, .amo 0 15 1 40 41 .fmin true),
    (0b11000000000011110001101000101001, 28, .amo 0 15 1 40 41 .fmax true), (0b11000000000100010001000000101001, 10, .red 0 1 1 41 .fadd false),
    (0b11000001001010000000000000011010, 0, .fence 2 0x8001 5), (0b11000001001100000000000000000000, 0, .fenceD 2), (0b11000001010000000000000000000000, 0, .row 2),
    (0b11000001011000000000000000000000, 0, .waitw 2), (0b11000001011100000000000000000000, 0, .kinv 2), (0b11000001010100001001000000010011, 0, .watch 2 9 .post 3)] : List (Nat × Nat × Instr)).all
      (fun x => decide (decodeSyl x.1 x.2.1 = .ok x.2.2)) = true := by decide

theorem test_decode_vector_a : ([
    (0b11001111100000111111101010010101, 0, .vadd 15 63 42 21), (0b11001111100001111111101010010101, 0, .vsub 15 63 42 21),
    (0b11001111100010111111101010010101, 0, .vmul 15 63 42 21), (0b11001111100011111111101010010101, 0, .vfma 15 63 42 21),
    (0b11001111100100111111101010010101, 0, .vmin 15 63 42 21), (0b11001111100101111111101010010101, 0, .vmax 15 63 42 21),
    (0b11001111101000111111101010010101, 0, .vand 15 63 42 21), (0b11001111101001111111101010010101, 0, .vor 15 63 42 21),
    (0b11001111101010111111101010010101, 0, .vxor 15 63 42 21), (0b11001111101100111111101010010101, 0, .vshl 15 63 42 21),
    (0b11001111101101111111101010010101, 0, .vshr 15 63 42 21), (0b11001111101110111111101010010101, 0, .vsra 15 63 42 21),
    (0b11001111110001111111101010010101, 0, .vcmx 15 63 42 21), (0b11001111100110111111101010000000, 0, .vabs 15 63 42),
    (0b11001111100111111111101010000000, 0, .vneg 15 63 42), (0b11001111101011111111101010000000, 0, .vnot 15 63 42),
    (0b11001000101111111111101010010101, 13, .vsel 1 63 42 21 13), (0b11001000110000111111101010010101, 2, .vdot4 1 63 42 21 false true)] : List (Nat × Nat × Instr)).all
      (fun x => decide (decodeSyl x.1 x.2.1 = .ok x.2.2)) = true := by decide

theorem test_decode_vector_b : ([
    (0b11010000100000000110101010010101, 7, .vcmp 1 .geu 6 42 21), (0b11010000100001111100101010010101, 0, .vshuf 1 60 42 21),
    (0b11010000000011000110000101001100, 97, .vcvt 0 6 5 33 12 true), (0b11010000000110000001000010000000, 0, .vreds 0 1 2),
    (0b11010000101000111100000000000000, 0, .vidx 1 60), (0b11010000100010111100101010111110, 7, .vrot 1 60 42 510),
    (0b11010000100100111100101010010101, 4, .vpack 1 60 42 21 0 true), (0b11010000100101111100101010000000, 7, .vunpk 1 60 42 3 true),
    (0b11010000100111111100101010000000, 1, .vredm 1 60 42 true)] : List (Nat × Nat × Instr)).all
      (fun x => decide (decodeSyl x.1 x.2.1 = .ok x.2.2)) = true := by decide

theorem test_decode_special : ([
    (0b11100100100000111111101010000000, 0, .vexp 9 63 42), (0b11100100100001111111101010000000, 0, .vlog 9 63 42), (0b11100100100010111111101010000000, 0, .vrcp 9 63 42),
    (0b11100100100011111111101010000000, 0, .vrsq 9 63 42), (0b11100100100100111111101010000000, 0, .vtanh 9 63 42), (0b11100100100101111111101010000000, 0, .vsig 9 63 42),
    (0b11100100100110111111101010000000, 0, .vsin 9 63 42), (0b11100100100111111111101010000000, 0, .vcos 9 63 42), (0b11100100101000111111101010000000, 0, .verf 9 63 42)] : List (Nat × Nat × Instr)).all
      (fun x => decide (decodeSyl x.1 x.2.1 = .ok x.2.2)) = true := by decide

theorem test_decode_matrix : ([
    (0b11101000000000100101010100010101, 9, .wstr 0 37 20 21 true 4), (0b11101000000001000000000000000000, 0, .wld 0),
    (0b11101000000010000000010100000000, 10, .wscl 0 20 false 5), (0b11101000000011000000000000000000, 0, .wswap 0),
    (0b11101000000100000000010100000000, 127, .mma 0 0 20 64 true), (0b11101000000101000111010100011111, 43, .mrd 0 7 20 31 44),
    (0b11101000000110000000000000101000, 0, .acfg 0 40), (0b11101000000111000111001000001001, 15, .fwdRead 0 7 8 9 16),
    (0b11101000001000000111001000001001, 15, .fwdDelta 0 7 8 9 16), (0b11101000001001000111001000001001, 15, .fwdOuter 0 7 8 9 16),
    (0b11101000001010000111001000001001, 15, .opu 0 7 8 9 16), (0b11101000001011000111001000001001, 0, .sfork 0 7 8 9), (0b11101000001100000000001000001001, 0, .ssnap 0 8 9),
    (0b11101000001101000000001000001001, 0, .sroll 0 8 9), (0b11101000001110000111001000001001, 49, .savg 0 7 8 9 17 true),
    (0b11101000001111000000001000000000, 0, .sfree 0 8), (0b11101000010000000111001000001001, 0, .smove 0 7 8 9), (0b11101000010001000111001000000000, 0, .sqry 0 7 8)] : List (Nat × Nat × Instr)).all
      (fun x => decide (decodeSyl x.1 x.2.1 = .ok x.2.2)) = true := by decide

theorem test_decode_engine : ([
    (0b11110000000000000000000000100101, 0, .ewait 0 37), (0b11110000000001000111000000000101, 0, .epoll 0 7 5), (0b11110000000010000000001000000000, 0, .tsub 0 8),
    (0b11110000000011000000000000000000, 0, .tdone 0), (0b11110000000100000111001000000000, 0, .launch 0 7 8), (0b11110000000101000000001000000000, 0, .ljoin 0 8),
    (0b11110000000110000111001000001001, 0, .range 0 7 8 9), (0b11110000000111000000000000000000, 0, .gbar 0), (0b11110000001000000000000000000000, 0, .yield_ 0),
    (0b11110000001001000111001000000000, 0, .qcnt 0 7 8), (0b11110000001010000000001000001001, 0, .spage 0 8 9), (0b11110011001011000000001000000000, 0, .cpy 6 8),
    (0b11110011001100000000001000001001, 0, .push 6 8 9)] : List (Nat × Nat × Instr)).all
      (fun x => decide (decodeSyl x.1 x.2.1 = .ok x.2.2)) = true := by decide

theorem test_decode_vector_lane : ([
    (0b11011000100001111001010100000000, 0, .vbcast 1 60 42), (0b11011000100011111001010101111111, 255, .vext 1 60 42 32767),
    (0b11011000100101111001010100000001, 1, .vins 1 60 42 129), (0b11011000100111111001010100100001, 0, .vshli 1 60 42 33),
    (0b11011000101001111001010100100001, 0, .vshri 1 60 42 33), (0b11011000101011111001010100100001, 0, .vsrai 1 60 42 33),
    (0b11011000101101111001010101111111, 255, .vaddi 1 60 42 (-1)), (0b11011000101111111000000000000000, 128, .vmovi 1 60 (-16384))] : List (Nat × Nat × Instr)).all
      (fun x => decide (decodeSyl x.1 x.2.1 = .ok x.2.2)) = true := by decide


/-! ## States of the witnesses -/

/-- A strand of job 1 about to issue the group at 65540: tower 0, front end 0, strand 0. -/
def site : State :=
  { State.reset.withFetchWord 32 0 with cur := { core := 0, strand := 0, start := 65540, next := 65544, bundle := 65536 } }

/-- The same with its strand or its core changed; the marked group of a restart point; the group that ends at s3. -/
def siteS (f : Strand → Strand) : State := site.modStrand 0 0 f
def siteC (f : Core → Core) : State := site.modCore 0 f
def marked (s : State) : State := { s with cur := { s.cur with marked := true } }
def ending (s : State) : State := { s with cur := { s.cur with start := 65548, next := 65552, atS3 := true } }

/-- Predicates all true, X1 to X4 at the ends of their ranges, X5 to X8 small. -/
def full : State := siteS fun x =>
  { x with p := 0xFFFF, x := [(1, 0xFFFFFFFFFFFFFFFF), (2, 0x8000000000000000), (3, 0x7FFFFFFFFFFFFFFF), (4, 0xFFFFFFFF), (5, 1), (6, 64), (7, 7), (55, 63)] }

/-- In rational mode; predicates all true. -/
def rational : State := siteS fun x => { x with p := 0xFFFF, scfg := x.scfg ||| 0x8000 }


/-! ## Results, by hand from the spec's tables and examples -/

/-- What instruction i has in flight right after its issue from s: value and cycles left (R71). -/
def flying (s : State) (i : Instr) : List (Val × Nat) :=
  match exec i s with
  | .next t => (t.strand 0 0).inflight.map fun l => (l.val, l.left)
  | _ => []

/-- What it owes: values, flags and the cycles from the issue cycle to the landing, that cycle counted (R73). -/
def owing (s : State) (i : Instr) : List (List Val × BitVec 5 × Option Nat) :=
  match exec i s with
  | .next t => (t.strand 0 0).pend.map fun l => (l.vals, l.flags, l.due.map fun d => d + 1 - s.now)
  | _ => []

/-- The word that alone is in flight. -/
def flies (s : State) (i : Instr) (v : Word) (l : Nat := 1) : Bool := flying s i == [(.w v, l)]

/-- The word that alone is owed. -/
def owes1 (s : State) (i : Instr) (v : Word) (fl : BitVec 5) (l : Nat) : Bool := owing s i == [([.w v], fl, some l)]

/-- R145, on X1 = 2^64 − 1, X2 = −2^63, X3 = 2^63 − 1, X4 = 2^32 − 1, X5 = 1, X6 = 64, X7 = 7. -/
theorem test_class0_results :
    [flies full (.add 0 9 1 5) 0, flies full (.sub 0 9 0 5) 0xFFFFFFFFFFFFFFFF, flies full (.and_ 0 9 1 7) 7, flies full (.or_ 0 9 2 7) 0x8000000000000007,
      flies full (.xor 0 9 1 7) 0xFFFFFFFFFFFFFFF8, flies full (.andn 0 9 7 5) 6, flies full (.shl 0 9 7 6) 7, flies full (.shl 0 9 5 55) 0x8000000000000000,
      flies full (.shr 0 9 2 7) 0x0100000000000000, flies full (.sra 0 9 2 7) 0xFF00000000000000, flies full (.rot 0 9 2 5) 1,
      flies full (.mul 0 9 4 4) 0xFFFFFFFE00000001 3, flies full (.mulh 0 9 2 2) 0x4000000000000000 3, flies full (.mulhu 0 9 1 1) 0xFFFFFFFFFFFFFFFE 3,
      flies full (.min 0 9 1 5) 0xFFFFFFFFFFFFFFFF, flies full (.max 0 9 1 5) 1, flies full (.minu 0 9 1 5) 1, flies full (.maxu 0 9 1 5) 0xFFFFFFFFFFFFFFFF].all id = true := by decide +kernel

theorem test_class0_bits :
    [flies full (.clz 0 9 0) 64, flies full (.clz 0 9 4) 32, flies full (.ctz 0 9 0) 64, flies full (.ctz 0 9 6) 6, flies full (.popc 0 9 4) 32,
      flies full (.brev 0 9 5) 0x8000000000000000, flies full (.sext 0 9 7 2) 0xFFFFFFFFFFFFFFFF, flies full (.zext 0 9 1 4) 31, flies full (.sel 0 9 5 7 0) 1,
      flies site (.sel 0 9 0 0 3) 0].all id = true := by decide +kernel

/-- R147, R148; MOVW places its halfword and clears the rest. -/
theorem test_class1_results :
    [flies full (.addi 0 9 5 (-2)) 0xFFFFFFFFFFFFFFFF, flies full (.andi 0 9 1 (-16)) 0xFFFFFFFFFFFFFFF0, flies full (.ori 0 9 5 (-2)) 0xFFFFFFFFFFFFFFFF,
      flies full (.xori 0 9 7 5) 2, flies full (.shli 0 9 5 63) 0x8000000000000000, flies full (.shri 0 9 1 60) 15, flies full (.srai 0 9 2 63) 0xFFFFFFFFFFFFFFFF,
      flies full (.muli 0 9 7 (-3)) 0xFFFFFFFFFFFFFFEB 3, flies full (.movi 0 9 (-1)) 0xFFFFFFFFFFFFFFFF, flies full (.movw 0 9 0xABCD 2) 0x0000ABCD00000000,
      flies full (.mini 0 9 7 (-1)) 0xFFFFFFFFFFFFFFFF, flies full (.maxi 0 9 1 3) 3].all id = true := by decide +kernel

/-- R146: −2^63 ÷ −1 has 64 bits, a division by zero takes 6 cycles, −2^63 ÷ 7 = −1,317,624,576,693,539,401 rest −1 (61 bits). -/
theorem test_divides :
    [owes1 full (.div 0 9 2 1) 0x8000000000000000 0 38, owes1 full (.rem 0 9 2 1) 0 0 38, owes1 full (.divu 0 9 7 0) 0xFFFFFFFFFFFFFFFF 0 6,
      owes1 full (.remu 0 9 7 0) 7 0 6, owes1 full (.rem 0 9 2 7) 0xFFFFFFFFFFFFFFFF 0 37,
      owes1 full (.div 0 9 2 7) (-1317624576693539401) 0 37].all id = true := by decide +kernel

/-- The pair of predicates in flight. -/
def fliesPair (s : State) (i : Instr) (c : Bool) (l : Nat := 1) : Bool := flying s i == [(.b c, l), (.b (!c), l)]

/-- R149, R150. CMPI with an unsigned condition compares with the sign-extended immediate as an unsigned value. -/
theorem test_compares :
    [fliesPair full (.cmp 0 .lt 1 1 5) true, fliesPair full (.cmp 0 .ltu 1 1 5) false, fliesPair full (.cmpi 0 .ltu 1 5 (-1)) true, fliesPair full (.cmpi 0 .bs 1 7 8) false,
      fliesPair full (.cmp 0 .bc 1 7 6) true].all id = true ∧
      (flying (siteS fun x => { x with p := 5 }) (.pandn 0 4 2 1), flying full (.pnot 0 4 1), flying (siteS fun x => { x with p := 5 }) (.pxor 0 4 2 0)) =
        ([(.b true, 1)], [(.b false, 1)], [(.b false, 1)]) := by decide +kernel

/-! ### Floating -/

/-- In rational mode, with the rounding mode RRM m (R98) in bits 14 to 12 of SCFG. -/
def ratMode (m : Nat) (fs : Map Word) : State :=
  rational.modStrand 0 0 fun x => { x with f := fs, scfg := setBits x.scfg 14 12 m }

/-- "Rounding in rational mode, worked" (05): 3 / 2^29 × 1 / 2^29 by MED, VAL, DN, UP and TZ; underflow and inexact, 12 cycles. -/
theorem test_worked_rational_product :
    (List.range 5).map (fun m => owing (ratMode m [(1, 0x0580000020000000), (2, 0x0300000020000000)]) (.fmul 0 3 1 2 true)) =
      [0x0200000000000001, 0x03FFFFFFFFFFFFFF, 0x0200000000000001, 0x03FFFFFFFFFFFFFF, 0x0200000000000001].map
        fun (v : Word) => [([.w v], 0x18, some 12)] := by decide +kernel

/-- The same section: (2^56 − 1) + 3/2; overflow and inexact, 12 cycles. -/
theorem test_worked_rational_sum :
    (List.range 5).map (fun m => owing (ratMode m [(4, 0x71FFFFFFFFFFFFFF), (5, 0x0580000000000002)]) (.fadd 0 6 4 5 true)) =
      [0x0300000000000000, 0x71FFFFFFFFFFFFFF, 0x71FFFFFFFFFFFFFF, 0x0300000000000000, 0x71FFFFFFFFFFFFFF].map
        fun (v : Word) => [([.w v], 0x14, some 12)] := by decide +kernel

/-- "A fraction rounded to a small denominator" (07): FMAKE of 29/100 in 6 cycles, FRND to denominators at most 4 in 12. -/
theorem test_worked_make_and_round :
    owing (siteS fun x => { x with x := [(4, 29), (5, 100)] }) (.fmake 0 1 4 5 false) = [([.w 0x0BD0000000000064], 0, some 6)] ∧
      (List.range 5).map (fun m => owing (siteS fun x => { x with x := [(6, 4)], f := [(1, 0x0BD0000000000064)], scfg := setBits x.scfg 14 12 m }) (.frnd 0 2 1 6 false)) =
        [0x0300000000000003, 0x0300000000000004, 0x0300000000000004, 0x0300000000000003, 0x0300000000000004].map
          fun (v : Word) => [([.w v], 0x10, some 12)] := by decide +kernel

/-- IEEE mode (R97, R159, R161 to R164): F1 = 1, F2 = 3, F3 = −1, F4 a signalling NaN, F5 = 2^−1074, F6 = −0. -/
def ieeeSite : State := siteS fun x => { x with f := [(1, 0x3FF0000000000000), (2, 0x4008000000000000), (3, 0xBFF0000000000000), (4, 0x7FF0000000000001), (5, 1),
  (6, 0x8000000000000000)] }

/-- What the floating operation has in flight: word, flags NX, UF, OF, DZ, NV, latency. -/
def fliesFl (i : Instr) (v : Word) (fl : BitVec 5) (l : Nat) : Bool :=
  match exec i ieeeSite with
  | .next t => (t.strand 0 0).inflight.map (fun x => (x.val, x.flags, x.left)) == [(.w v, fl, l)]
  | _ => false

theorem test_ieee_results :
    [fliesFl (.fadd 0 7 1 2 true) 0x4010000000000000 0 4, fliesFl (.fsub 0 7 1 1 true) 0 0 4, fliesFl (.fmul 0 7 5 1 true) 1 0 4,
      fliesFl (.fmul 0 7 5 5 true) 0 0x18 4, fliesFl (.ffma 0 2 3 2 true) 0 0 4, fliesFl (.fadd 0 7 4 1 true) 0x7FF8000000000000 1 4,
      fliesFl (.fmin 0 7 6 0 true) 0x8000000000000000 0 4, fliesFl (.fmax 0 7 4 3 true) 0xBFF0000000000000 1 4, fliesFl (.fabs 0 7 3 true) 0x3FF0000000000000 0 1,
      fliesFl (.fneg 0 7 4 true) 0x7FF8000000000000 0 1, fliesFl (.fmov 0 7 4 true) 0x7FF0000000000001 0 1, fliesFl (.fclass 0 7 5 true) 0x20 0 1,
      fliesFl (.fclass 0 7 4 true) 0x100 0 1, fliesFl (.fcvt 0 7 2 1 3) 3 0 4, fliesFl (.fcvt 0 7 3 1 3) 0 1 4].all id = true := by decide +kernel

/-- 1 ÷ 3 rounds to nearest in 22 cycles; √1 in 22; √−1 is invalid in 6; √−0 is −0 in 6; 1 ÷ 0 divides by zero in 6. -/
theorem test_ieee_divide_and_root :
    [owes1 ieeeSite (.fdiv 0 7 1 2 true) 0x3FD5555555555555 0x10 22, owes1 ieeeSite (.fsqrt 0 7 1 true) 0x3FF0000000000000 0 22,
      owes1 ieeeSite (.fsqrt 0 7 3 true) 0x7FF8000000000000 1 6, owes1 ieeeSite (.fsqrt 0 7 6 true) 0x8000000000000000 0 6,
      owes1 ieeeSite (.fdiv 0 7 1 0 true) 0x7FF0000000000000 2 6].all id = true := by decide +kernel

/-- R166: the fields of 3/2 and of −29/100 as stored. -/
theorem test_fraction_fields :
    let s := siteS fun x => { x with f := [(1, 0x0580000000000002), (2, 0x8BD0000000000064)] }
    [flies s (.fnum 0 9 1 true) 3, flies s (.fden 0 9 1 true) 2, flies s (.fnum 0 9 2 true) (-29), flies s (.fden 0 9 2 true) 100].all id = true := by decide +kernel

/-! ### Vectors -/

/-- The row whose lanes of 32 bits are these; the rest v. -/
def row32 (xs : List Nat) (v : Nat := 0) : Row := rowOf 32 128 fun n => xs.getD n v

/-- A strand with ACCT c and the rows vs. -/
def vecSite (c : Nat) (vs : Map Row) : State := siteS fun x => { x with scfg := setBits x.scfg 9 4 c, v := vs, x := [(5, 0x4048F5C3)] }

/-- Lanes 0 to 3 of the row in flight, lanes left unwritten as none, and its latency. -/
def fliesRow (s : State) (i : Instr) : List (List (Option Nat) × Nat) :=
  match exec i s with
  | .next t => (t.strand 0 0).inflight.map fun l =>
      ((match l.val with
        | .row v m => (List.range 4).map fun n => if m.toNat / 2 ^ (32 * n) % 2 ^ 32 = 0 then none else some (v.toNat / 2 ^ (32 * n) % 2 ^ 32)
        | _ => []), l.left)
  | _ => []

/-- "A row converted into a bank format" (08): lane 0 then holds the bytes 32 7E 00 80, or 32 7F 00 80 without SAT; nothing beyond byte 127. -/
theorem test_worked_vcvt :
    let s := vecSite 33 [(5, row32 [0x3E99999A, 0x436C0000, 0x80000000, 0x7FC00000])]
    fliesRow s (.vcvt 0 6 5 33 12 true) = [([some 0x80007E32, some 0, some 0, some 0], 3)] ∧
      fliesRow s (.vcvt 0 6 5 33 12 false) = [([some 0x80007F32, some 0, some 0, some 0], 3)] := by decide +kernel

/-- The example of R192: the total 2^31 − 352, written as it is. -/
theorem test_worked_vdot4 :
    fliesRow (vecSite 33 [(1, row32 [2147483548]), (2, row32 [0x0001807F]), (3, row32 [0x0903FFFF])]) (.vdot4 0 1 2 3 false true) =
      [([some (2147483648 - 352), some 0, some 0, some 0], 4)] := by decide +kernel

/-- "Why the tree is fixed" (08): 2^24 + 1 + 1 − 2^24 is 1 by the tree; lanes 1 and up are not written. -/
theorem test_worked_vreds :
    fliesRow (vecSite 33 [(2, row32 [0x4B800000, 0x3F800000, 0x3F800000, 0xCB800000])]) (.vreds 0 1 2) =
      [([some 0x3F800000, none, none, none], 8)] := by decide +kernel

/-- "Four keys sorted in three stages" (08), its first stage: 7, −2, 5, 0 become −2, 7, 5, 0. -/
theorem test_worked_vcmx :
    fliesRow (vecSite 40 [(8, row32 [7, 0xFFFFFFFE, 5, 0]), (20, row32 [1, 0x80000000, 0x80000003, 2] 0x3FF)]) (.vcmx 0 9 8 20) =
      [([some 0xFFFFFFFE, some 7, some 5, some 0], 3)] := by decide +kernel

/-- Lanewise operations of R181 to R184 and R187 on binary32 and on integers: 1 + 2, 2^−149 × 1, |−2^31|, a shift of the encoding, 2,049 in lanes. -/
theorem test_lanes :
    let f := vecSite 33 [(1, row32 [0x3F800000, 1, 0x7F800001]), (2, row32 [0x40000000, 0x3F800000, 0x3F800000])]
    let n := vecSite 40 [(1, row32 [0x80000000, 7, 0xFFFFFFFF]), (2, row32 [1, 0xFFFFFFFF, 33])]
    [fliesRow f (.vadd 0 3 1 2), fliesRow f (.vmul 0 3 1 2), fliesRow n (.vabs 0 3 1), fliesRow n (.vadd 0 3 1 2), fliesRow n (.vshr 0 3 1 2),
      fliesRow f (.vmovi 0 3 2049), fliesRow n (.vaddi 0 3 1 (-1)), fliesRow f (.vidx 0 3), fliesRow n (.vrot 0 3 1 1), fliesRow n (.vshuf 0 3 1 2)] =
      [[([some 0x40400000, some 0x3F800000, some 0x7FC00000, some 0], 2)], [([some 0x40000000, some 1, some 0x7FC00000, some 0], 4)],
        [([some 0x80000000, some 7, some 1, some 0], 2)], [([some 0x80000001, some 6, some 32, some 0], 2)],
        [([some 0x40000000, some 0, some 0x7FFFFFFF, some 0], 2)], [([some 0x45001000, some 0x45001000, some 0x45001000, some 0x45001000], 2)],
        [([some 0x7FFFFFFF, some 6, some 0xFFFFFFFE, some 0xFFFFFFFF], 2)], [([some 0, some 0x3F800000, some 0x40000000, some 0x40400000], 2)],
        [([some 7, some 0xFFFFFFFF, some 0, some 0], 3)], [([some 7, some 0, some 0, some 0x80000000], 3)]] := by decide +kernel

/-- R187, R188, R191: X5 is 3.14 as binary32; VEXT extends the sign under an integer type only; VPACK saturates. -/
theorem test_lane_moves :
    let n := vecSite 40 [(1, row32 [0x80000000, 0x00012345, 0xFFFF0000]), (2, row32 [1])]
    fliesRow n (.vbcast 0 3 5) = [([some 0x4048F5C3, some 0x4048F5C3, some 0x4048F5C3, some 0x4048F5C3], 2)] ∧
      fliesRow n (.vins 0 3 5 2) = [([none, none, some 0x4048F5C3, none], 2)] ∧ flies n (.vext 0 9 1 0) 0xFFFFFFFF80000000 2 = true ∧
      flies (vecSite 33 [(1, row32 [0x80000000])]) (.vext 0 9 1 0) 0x80000000 2 = true ∧ flies n (.vext 0 9 1 512) 0 2 = true ∧
      fliesRow n (.vpack 0 3 1 2 1 false) = [([some 0x7FFF8000, some 0x00008000, some 0, some 0], 3)] := by decide +kernel

/-- R195 at values that need no rounding: e^0, 1 ÷ 4, 1 ÷ √4, sigmoid of 0, cos 0, ln 1; sin of infinity is a NaN. -/
theorem test_special_functions :
    let s := vecSite 33 [(1, row32 [0, 0x40800000, 0x3F800000, 0x7F800000])]
    (fliesRow s (.vexp 0 3 1)).map (fun r => (r.1.getD 0 none, r.1.getD 3 none, r.2)) = [(some 0x3F800000, some 0x7F800000, 12)] ∧
      (fliesRow s (.vrcp 0 3 1)).map (fun r => r.1) = [[some 0x7F800000, some 0x3E800000, some 0x3F800000, some 0]] ∧
      (fliesRow s (.vrsq 0 3 1)).map (fun r => r.1.getD 1 none) = [some 0x3F000000] ∧
      (fliesRow s (.vsig 0 3 1)).map (fun r => r.1.getD 0 none) = [some 0x3F000000] ∧
      (fliesRow s (.vcos 0 3 1)).map (fun r => r.1.getD 0 none) = [some 0x3F800000] ∧
      (fliesRow s (.vlog 0 3 1)).map (fun r => r.1.getD 2 none) = [some 0] ∧
      (fliesRow s (.vsin 0 3 1)).map (fun r => r.1.getD 3 none) = [some 0x7FC00000] := by decide +kernel

/-! ## One step, control, traps, memory -/

/-- The state after a step, or the state after reset. -/
def nextOf (o : Host.Outcome State Fault Refusal) : State := match o with | .next t => t | _ => State.reset

/-- The word of ADD X6, X7, X8 with G 0 (C 0, op 0): placed after reset, it issues, and step leaves the strand one group further. -/
theorem test_step_runs_add :
    decodeTableWord 32 0x000061C8 = some (.add 0 6 7 8) ∧ ((nextOf (step (State.reset.withFetchWord 32 0x000061C8))).strand 0 0).cIssue = 1 := by decide +kernel

/-- TRAP 7 at the entry: cause 0x06, detail 7, handler at SHV, TH set (R132, R133, R170); the group after begins four bytes on. -/
theorem test_trap :
    (match exec (.trap 0 7) (siteS fun x => { x with shv := 0x4000 }) with
      | .next t => let x := t.strand 0 0; (x.scause, x.sepc, x.sinfo, x.spc, x.th)
      | _ => (0, 0, 0, 0, false)) = (0x060700, 65540, 65544, 0x4000, true) := by decide +kernel

/-- ERET returns to SEPC and clears TH; without TH it is the cause 0x07, detail 1 (R171). -/
theorem test_eret :
    (match exec (.eret 0) (siteS fun x => { x.setTH true with sepc := 0x12344 }) with
      | .next t => let x := t.strand 0 0; (x.spc, x.th)
      | _ => (0, true)) = (0x12344, false) ∧
      (match exec (.eret 0) site with | .next t => (t.strand 0 0).scause | _ => 0) = 0x070100 := by decide +kernel

/-- BR two bundles on, RET to X1, CALL one bundle back with its link (R152). -/
theorem test_transfers :
    let at_ (i : Instr) (s : State) : Word := match exec i s with | .next t => (t.strand 0 0).spc | _ => 0
    let s := ending (siteS fun x => { x with x := [(1, 0x10000)] })
    at_ (.br 0 2) s / 16 = 65568 / 16 ∧ at_ (.ret 0 1) s / 16 = 0x1000 ∧ flies s (.call 0 9 (-1)) 65552 = true ∧ at_ (.call 0 9 (-1)) s / 16 = 65520 / 16 := by decide +kernel

/-- LOOPI 0, 3, end 3 in the bundle at 65536 (R154). -/
theorem test_loop_start :
    (match exec (.loopi 0 3 3) (ending site) with
      | .next t => let x := t.strand 0 0; ((x.getLS 0).toNat / 16 * 16, (x.getLE 0).toNat, (x.getLC 0).toNat)
      | _ => (0, 0, 0)) = (65552, 65584, 3) := by decide +kernel

/-- R250 with k = 3 and STEP = 4: offsets 0, 16, 8, 24, 4, 20, 12, 28 and then 0; a ring of 12 bytes by steps of 8. -/
theorem test_pointer_steps :
    let br : Word × Word := (0x8000000300000004, 0x100)
    [0x100, 0x110, 0x108, 0x118, 0x104, 0x114, 0x10C, 0x11C].map (fun a => stepPtr br a) =
        [0x110, 0x108, 0x118, 0x104, 0x114, 0x10C, 0x11C, 0x100] ∧
      stepPtr (0x4000000C00000008, 0x100) 0x100 = 0x108 ∧ stepPtr (0x4000000C00000008, 0x100) 0x108 = 0x104 := by decide +kernel

/-- Bytes of the scratchpad at 0 and 7 are 0x11 and 0x22, the last one 0x33 (R252): little-endian and zero-extended, latency 5 (R72). -/
theorem test_loads :
    let s := siteC fun c => { c.setStrand 0 { (c.strand 0) with a := [(1, 0x8000000000000000), (2, 0x8000000000007FFE)] } with
      scr := 1, near := [(0, 0x11), (7, 0x22), (32767, 0xB3)] }
    [flies s (.ldD 0 0 1 9 .none 0) 0x2200000000000011 5, flies s (.ldB 0 0 1 9 .none 7) 0x22 5, flies s (.ldH 0 0 2 9 .none 0) 0xB300 5,
      flies s (.ldf 0 0 1 false 9 .none 1) 0x22000000 5].all id = true := by decide +kernel

/-- R253, R207: ST.H of 0x1234 at scratchpad offset 2 in a class of the row buffer: bytes 34 12 under a mask of bits 2 and 3 in the line of bank byte 0. -/
theorem test_store_row :
    (match exec (.stH 0 0 1 9 .none 1) (siteC fun c => { c.setStrand 0 { (c.strand 0) with a := [(1, 0x8000000000000000)], x := [(9, 0xABCD1234)] } with scr := 1 }) with
      | .next t => (t.strand 0 0).rows.map fun r => (r.mask.toNat, r.data.toNat / 65536 % 65536, r.data.toNat / 65536 / 65536)
      | _ => []) = [(12, 0x1234, 0)] := by decide +kernel

/-- R259, R261: AMO.ADD.W of 0xFFFFFFFF at a scratchpad word that holds 2 is posted; performed, it answers 2 and leaves 1; a CAS that does not match leaves it. -/
theorem test_atomics :
    let s := siteC fun c => { c.setStrand 0 { (c.strand 0) with a := [(1, 0x8000000000000000)], x := [(5, 0xFFFFFFFF), (6, 9)] } with scr := 1, near := [(0, 2), (4, 7)] }
    let after (i : Instr) : Memory × List (List Val) := match exec i s with
      | .next t => let u := (t.core 0).sq.foldl (fun u e => u.performEntry 0 e) t
        ((u.core 0).near, (u.strand 0 0).pend.map (·.vals))
      | _ => ([], [])
    after (.amo 0 1 1 9 5 .add false) = ([(0, 1), (4, 7)], [[.w 2]]) ∧ after (.amo 0 1 1 6 5 .cas false) = ([(0, 2), (4, 7)], [[.w 2]]) := by decide +kernel

/-! ## Integers, predicates, compares, transfers -/

theorem test_meets_IntegerTwoOperandsAndDivision : ([
    .add 15 55 1 2, .sub 0 0 0 1, .and_ 0 1 1 1, .or_ 0 1 2 3, .xor 0 55 0 0, .andn 0 1 3 2, .shl 0 1 1 55, .shr 0 1 1 6, .sra 0 1 2 55, .rot 0 1 1 0,
    .mul 0 1 1 1, .mulh 0 1 2 2, .mulhu 0 1 1 1, .min 0 1 2 3, .max 0 1 2 3, .minu 0 1 0 1, .maxu 0 1 0 1, .div 15 1 2 1, .divu 0 55 1 0,
    .rem 0 1 2 1, .remu 0 0 1 5] : List Instr).all full.ready = true := by decide

theorem test_meets_IntegerOneOperandAndConstants : ([
    .clz 15 55 0, .ctz 0 1 0, .popc 0 1 1, .brev 0 1 2, .sext 0 1 4 31, .sext 0 1 2 63, .zext 0 1 1 0, .zext 0 1 1 63, .addi 0 1 1 16383,
    .addi 0 1 2 (-16384), .andi 0 1 1 (-1), .ori 0 1 0 (-16384), .xori 0 1 1 16383, .shli 0 1 1 63, .shri 0 1 1 63, .srai 0 1 2 63, .shli 0 1 1 0,
    .muli 0 1 2 (-16384), .mini 0 1 2 16383, .maxi 0 1 3 (-16384), .sel 15 0 1 2 15, .sel 0 55 1 2 0, .movi 0 1 (-1048576), .movi 0 0 1048575,
    .movw 15 55 0xFFFF 3, .movw 0 1 0 0] : List Instr).all full.ready = true := by decide

theorem test_meets_ComparesAndPredicates : ([
    .cmp 15 .eq 0 1 1, .cmp 0 .ne 7 1 2, .cmp 0 .lt 1 2 3, .cmp 0 .ge 1 3 2, .cmp 0 .le 1 2 2, .cmp 0 .gt 1 3 2, .cmp 0 .ltu 1 0 1, .cmp 0 .geu 1 1 1,
    .cmp 0 .leu 1 1 1, .cmp 0 .gtu 1 1 0, .cmp 0 .bs 1 1 2, .cmp 0 .bc 1 2 3, .cmpi 15 .eq 7 1 (-16384), .cmpi 0 .gtu 0 1 16383, .pand 15 15 0 15,
    .por 0 1 2 3, .pxor 0 1 2 2, .pandn 0 1 2 3, .pnot 0 15 0, .pmov 0 0 15] : List Instr).all full.ready = true := by decide

/-- Targets just below and just above what R144 admits, by offset and by register; the guard P15. -/
theorem test_meets_BranchesTransfer :
    let s := ending (siteS fun x => { x with p := 0xFFFF, x := [(1, 0x1FFFFFFFFFFFFF0), (2, 8), (3, 0x200000000000000), (4, 15)] })
    let goal (off : Int) : Nat := (s.cur.bundle + BitVec.ofInt 64 (16 * off)).toNat
    ([.br 15 (-4096), .br 0 2097151, .call 15 55 0, .call 0 0 (-4097), .brx 0 1, .brx 0 2, .brx 0 3, .ret 15 1, .ret 0 3, .ret 0 4] : List Instr).all s.ready = true ∧
      goal (-4096) = 0 ∧ goal 2097151 % 16 = 0 ∧ goal 2097151 < 2 ^ 57 ∧ goal (-4097) % 16 = 0 ∧ 2 ^ 57 ≤ goal (-4097) ∧
      ((s.opened (.brx 0 1)).xOp 1).toNat < 2 ^ 57 ∧ ((s.opened (.brx 0 1)).xOp 1).toNat % 16 = 0 ∧ ((s.opened (.brx 0 2)).xOp 2).toNat % 16 ≠ 0 ∧
      ((s.opened (.brx 0 3)).xOp 3).toNat = 2 ^ 57 ∧ ((s.opened (.ret 0 3)).xOp 3).toNat = 2 ^ 57 ∧ ((s.opened (.ret 0 4)).xOp 4).toNat % 16 = 15 ∧
      (s.strand 0 0).th = false := by decide

/-- A strand with loop 3 ending at the bundle, exhausted by its last pass, and loop 1 ending there too with passes left; one without loops; counts 0, 1, 2^32 − 1, 2^32. -/
theorem test_meets_HardwareLoops :
    let s := ending (siteS fun x => { x with x := [(1, 1), (2, 0xFFFFFFFF), (3, 0), (4, 0x100000000)] })
    let n := ending (siteS fun x => { x with le := [(3, 65536), (1, 65536), (0, 16)], lc := [(3, 1), (1, 2), (0, 5)] })
    let l := ending (siteS fun x => { x with le := [(3, 65536)], lc := [(3, 1)] })
    ([.loop 0 1 1, .loop 3 2 1048575, .loopi 0 1 1, .loopi 3 16383 4095, .loopi 3 0 1, .loopi 0 0 4095, .loop 1 3 7, .loop 3 4 1, .lbrk 0 0, .lbrk 0 3] : List Instr).all s.ready = true ∧
      (s.opened (.loop 1 3 7)).xOp 3 = 0 ∧ ((s.opened (.loop 3 4 1)).xOp 4).toNat = 2 ^ 32 ∧ (s.strand 0 0).th = false ∧
      ((s.opened (.loop 0 1 1)).xOp 1).toNat = 1 ∧ ((s.opened (.loop 3 2 1048575)).xOp 2).toNat = 2 ^ 32 - 1 ∧ (∀ m, m < 4 → (s.strand 0 0).getLC m = 0) ∧
      n.ready (.nop 0) = true ∧ n.cur.atS3 = true ∧ (n.strand 0 0).getLC 1 = 2 ∧ (n.strand 0 0).getLE 1 = n.cur.bundle ∧ (n.strand 0 0).getLC 2 = 0 ∧
      (n.strand 0 0).getLC 3 = 1 ∧ l.ready (.nop 0) = true ∧ (∀ h, h < 4 → ((l.strand 0 0).getLC h = 0 ∨ (l.strand 0 0).getLE h ≠ 65536) ∨ (l.strand 0 0).getLC h = 1) := by
  decide

/-! ## Floating point -/

/-- Whether a datum is finite, with this sign, and zero or not. -/
def finite (v : FVal) (neg zero : Bool) : Bool := match v with | .num n q => n == neg && q.isZero == zero | _ => false

theorem test_meets_IeeeArithmetic :
    ([.fadd 15 31 0 31 true, .fsub 0 0 1 2 false, .fmul 0 1 1 1 true, .ffma 0 31 0 31 false] : List Instr).all (fun i => full.ready i && !(full.opened i).me.rat) = true := by
  decide

/-- F1 is 1 and F31 is −1 as FS64 words; F2 zero, F3 and F4 the infinities, F5 a NaN. -/
theorem test_meets_RationalArithmetic :
    let s := rational.modStrand 0 0 fun x => { x with f := [(1, (fsOf fsRep .tz (.num false ⟨1, 1⟩)).1), (31, (fsOf fsRep .tz (.num true ⟨1, 2⟩)).1), (2, fsZero), (3, fsInf false),
      (4, fsInf true), (5, fsNaN)] }
    ([.fadd 15 31 1 31 true, .fsub 0 0 1 2 false, .fmul 0 1 1 1 true, .ffma 0 31 0 31 false, .fdiv 0 1 1 0 true, .fsqrt 0 1 1 true, .fsqrt 0 1 31 false, .fsqrt 0 1 2 true, .fsqrt 0 1 3 false, .fsqrt 0 1 4 true, .fsqrt 0 1 5 true] :
      List Instr).all (fun i => s.ready i && (s.opened i).me.rat) = true ∧
      finite (fsRead ((s.opened (.fsqrt 0 1 1 true)).fOp 1)).1 false false = true ∧ finite (fsRead ((s.opened (.fsqrt 0 1 31 false)).fOp 31)).1 true false = true ∧
      finite (fsRead ((s.opened (.fsqrt 0 1 2 true)).fOp 2)).1 false true = true ∧ (fsRead ((s.opened (.fsqrt 0 1 3 false)).fOp 3)).1 = .inf false ∧
      (fsRead ((s.opened (.fsqrt 0 1 4 true)).fOp 4)).1 = .inf true ∧ (fsRead ((s.opened (.fsqrt 0 1 5 true)).fOp 5)).1.isNan = true := by decide

/-- The smallest positive double, 4, the smallest negative one, −0, a quiet and a signalling NaN, infinity; the same for single. -/
theorem test_meets_IeeeDivideAndRoot :
    let s := full.modStrand 0 0 fun x => { x with f := [(1, 1), (2, 0x4010000000000000), (3, 0x8000000000000001), (4, 0x8000000000000000), (5, 0x7FF8000000000000),
      (6, 0x7FF0000000000001), (7, 0x7FF0000000000000), (8, 0x80000001), (9, 0x80000000), (10, 0x7F800000), (11, 0xFFF0000000000000), (12, 0xFF800000)] }
    let at_ (n : Nat) (dbl : Bool) : FVal := (ieeeOf dbl).decode ((s.opened (.fsqrt 0 0 n dbl)).fOp n).toNat
    ([.fdiv 15 31 1 2 true, .fdiv 0 31 8 9 false] ++ (List.range 12).map (fun n => .fsqrt 0 31 n true) ++ (List.range 13).map (fun n => .fsqrt 0 31 n false) :
      List Instr).all (fun i => s.ready i && !(s.opened i).me.rat) = true ∧
      finite (at_ 1 true) false false = true ∧ finite (at_ 2 true) false false = true ∧ finite (at_ 3 true) true false = true ∧ finite (at_ 4 true) true true = true ∧
      (at_ 5 true).isNan = true ∧ (at_ 6 true).isNan = true ∧ at_ 7 true = .inf false ∧ finite (at_ 1 false) false false = true ∧ finite (at_ 8 false) true false = true ∧
      finite (at_ 9 false) true true = true ∧ at_ 10 false = .inf false ∧
      finite (at_ 0 true) false true = true ∧ finite (at_ 0 false) false true = true ∧ at_ 11 true = .inf true ∧ at_ 12 false = .inf true := by decide

theorem test_meets_FloatSelectAndSign : ([.fmin 15 31 0 31 true, .fmax 0 1 1 2 false, .fabs 0 31 31 true, .fneg 0 0 0 false, .fmov 0 1 31 false,
    .fclass 0 55 31 true] : List Instr).all (fun i => full.ready i && !(full.opened i).me.rat && rational.ready i && (rational.opened i).me.rat) = true ∧
    ([.fnum 15 55 31 true, .fden 0 0 0 true] : List Instr).all (fun i => full.ready i && rational.ready i) = true := by decide

theorem test_meets_FloatConversions :
    ([.fmake 15 31 55 0 true, .frnd 0 31 31 55 true, .fcvt 15 31 31 0 1, .fcvt 0 31 31 0 6, .fcvt 0 31 55 2 0, .fcvt 0 31 55 5 6, .fcvt 0 55 31 6 2,
      .fcvt 0 55 31 1 5, .fcvt 0 31 31 6 0] : List Instr).all full.ready = true := by decide

theorem test_meets_FloatCompare : ([.fcmp 15 .eq 7 31 0, .fcmp 0 .ne 0 1 1, .fcmp 0 .lt 1 0 31, .fcmp 0 .ge 1 0 0, .fcmp 0 .le 1 0 0, .fcmp 0 .gt 1 0 0, .fcmp 0 .un 1 0 0,
    .fcmp 0 .or 1 0 0] : List Instr).all (fun i => full.ready i && !(full.opened i).me.rat && rational.ready i && (rational.opened i).me.rat) = true := by decide

/-! ## Pointers, registers by number, traps -/

/-- Control words at the ends of what R249 admits: k 1 and 24, z 0 and 20; and just outside: mode 3, bits 61 to 56, k 0 and 25, z 21. -/
theorem test_meets_PointersAndDescriptors :
    let s := siteS fun x => { x with p := 0xFFFF, x := [(1, 0x8000000100000001), (2, 0x8000001800100000), (3, 0x40FFFFFF80000000), (4, 0xC000000000000000), (5, 0x0100000000000000),
      (6, 0x8000000000000001), (7, 0x8000001900000001), (8, 0x8000000100200000), (9, 0x8000002100000001)] }
    let c (n : Nat) : Word := (s.opened (.amset 0 0 n 0)).xOp n
    ([.aadd 15 15 15 55, .aset 0 15 55, .amset 15 15 1 55] ++ (List.range 10).map (fun n => .amset 0 0 n 0) : List Instr).all s.ready = true ∧
      (∀ n ∈ [0, 3], bits (c n) 63 62 ≠ 3 ∧ bits (c n) 61 56 = 0 ∧ bits (c n) 63 62 ≠ 2) ∧
      (∀ n ∈ [1, 2], bits (c n) 63 62 = 2 ∧ bits (c n) 61 56 = 0 ∧ bits (c n) 55 37 = 0 ∧ 1 ≤ bits (c n) 36 32 ∧ bits (c n) 36 32 ≤ 24 ∧ ∃ z, z < 21 ∧ bits (c n) 31 0 = 2 ^ z) ∧
      bits (c 4) 63 62 = 3 ∧ bits (c 5) 61 56 ≠ 0 ∧ bits (c 6) 36 32 = 0 ∧ bits (c 7) 36 32 = 25 ∧ bits (c 8) 31 0 = 2 ^ 21 ∧ bits (c 9) 55 37 = 1 ∧
      (s.strand 0 0).th = false := by decide

theorem test_meets_RegisterAndCounterReads :
    ((List.range 7 ++ [0x10, 0x13, 0x14, 0x17, 0x18, 0x1B, 0x30, 0x3F, 0x40, 0x4F, 0x50, 0x5F, 0x100, 0x11F, 0x120]).map (fun n => Instr.sysrd 0 55 n)).all full.ready = true ∧
      ([.cntrd 0 0 0x205, .cntrd 0 55 0, .cntrd 0 1 0xA05, .cntrdc 0 54 0x205, .cntrdc 0 2 0xA05, .cntsnap 0, .nop 15, .cmpt 15 0 7 7, .cmpt 0 1 31 31, .cmpt 0 2 63 63] :
        List Instr).all full.ready = true ∧
      (full.opened (.cmpt 15 0 7 7)).xOp 7 = (full.opened (.cmpt 15 0 7 7)).xOp 7 := by decide +kernel

theorem test_meets_SystemRegisterWrite :
    (([0x0, 0x1, 0x2, 0x3, 0x4, 0x5, 0x6, 0x10, 0x13, 0x14, 0x17, 0x18, 0x1B, 0x30, 0x5F, 0x100, 0x11F, 0x120]).map (fun n => Instr.syswr 0 1 n)).all full.ready = true ∧
      fmtOk (((full.opened (.syswr 0 5 0x100)).xOp 5).toNat % 64) = true := by decide

/-- TRAP 0 and TRAP 255, within a bundle and at s3 of a bundle in which no loop ends. -/
theorem test_meets_SoftwareTrap :
    let e := ending (siteS fun x => { x with le := [(3, 65552)], lc := [(3, 2)] })
    ([.trap 0 0, .trap 15 255] : List Instr).all full.ready = true ∧ (full.strand 0 0).th = false ∧ full.cur.atS3 = false ∧ e.ready (.trap 0 255) = true ∧ e.cur.atS3 = true ∧
      (e.strand 0 0).th = false ∧ ∀ m, m < 4 → (e.strand 0 0).getLC m = 0 ∨ (e.strand 0 0).getLE m ≠ e.cur.bundle := by decide

theorem test_meets_ReturnAndExit :
    let h := siteS fun x => x.setTH true
    let m := siteS fun x => x.setTM true
    h.ready (.eret 0) = true ∧ (h.strand 0 0).th = true ∧ site.ready (.eret 0) = true ∧ (site.strand 0 0).th = false ∧ full.ready (.exit 15) = true ∧ (full.strand 0 0).tm = false ∧
      m.ready (.exit 0) = true ∧ (m.strand 0 0).tm = true ∧ (m.strand 0 0).th = false := by decide

/-! ## Loads, stores, atomics, fences -/

/-- A strand with one scratchpad bank: A1 at its first byte, A2 at its last, A3 at its last doubleword, A4 at the mapped page, A15 at the page's last
doubleword; the L1 lines of both, a doubleword on the constant path and one in answer to a direct load. -/
def memSite : State := siteC fun c => { c.setStrand 0 { (c.strand 0) with
    p := 0xFFFF, x := [(1, 0xFFFFFFFFFFFFFFFF), (55, 7)], f := [(31, 0x3FF0000000000000)]
    a := [(1, 0x8000000000000000), (2, 0x8000000000007FFF), (3, 0x8000000000007FF8), (4, 65536), (15, 131064)] } with
  scr := 1, near := [(0, 0x11), (7, 0x22), (32767, 0x33)], l1 := [(1024, { data := List.replicate 64 1 }), (2047, { data := List.replicate 64 2 })]
  fills := [{ need := .konst 65536, bytes := List.replicate 8 3 }, { need := .direct 65536 8 15, bytes := List.replicate 8 4 },
    { need := .direct 131064 8 1, bytes := List.replicate 8 5 }] }

/-- A load's address and what is read there. -/
def loadsAt (s : State) (i : Instr) (oc p n : Nat) (u : Upd) (f : Int) : Bool :=
  s.ready i && ((s.opened i).loadBytes 0 0 oc ((s.opened i).accessAt p u f n) n).isOk

def storesAt (s : State) (i : Instr) (oc p n : Nat) (u : Upd) (f : Int) (w : Word) : Bool :=
  s.ready i && ((s.opened i).storeBytes 0 0 oc ((s.opened i).accessAt p u f n) ((List.range n).map fun j => BitVec.ofNat 8 (w.toNat / 256 ^ j))).isOk

/-- The first and the last bytes of the bank, of the page and the ends of the offset, in classes 0, 1 and 15; a row buffer that holds a store to the loaded line. -/
theorem test_meets_LoadsDeliverBytes :
    let r := memSite.modStrand 0 0 fun x => { x with rows := [{ line := 65536, phys := 1024, mask := 1, data := 0x99, row := 0 }] }
    let met : Nat × Nat × Nat × Nat := match r.parts 0 65536 8 false with
      | .ok [p] => (match r.readPart 0 0 0 p with | .ok (v, bs, _) => (p.line, bs.length, (v.core 0).errs.length, (v.strand 0 0).rows.length) | .error _ => (0, 0, 0, 0))
      | _ => (0, 0, 0, 0)
    met = (1024, 8, 0, 1) ∧ (r.strand 0 0).heldBack 0 = [] ∧
      loadsAt memSite (.ldB 15 0 1 55 .none 0) 0 1 1 .none 0 = true ∧ loadsAt memSite (.ldB 0 1 2 1 .post 0) 1 2 1 .post 0 = true ∧
      loadsAt memSite (.ldB 0 1 2 1 .none (-2048)) 1 2 1 .none (-2048) = true ∧ loadsAt memSite (.ldH 0 1 2 1 .none (-1)) 1 2 2 .none (-1) = true ∧
      loadsAt memSite (.ldW 0 1 4 1 .add 2047) 1 4 4 .add 2047 = true ∧ loadsAt memSite (.ldD 0 0 3 1 .post 0) 0 3 8 .post 0 = true ∧
      loadsAt memSite (.ldD 0 15 4 1 .none 0) 15 4 8 .none 0 = true ∧ loadsAt memSite (.ldD 0 1 15 0 .none 0) 1 15 8 .none 0 = true ∧
      loadsAt memSite (.ldf 15 1 1 false 31 .none 0) 1 1 4 .none 0 = true ∧ loadsAt memSite (.ldf 0 1 15 true 31 .add (-2048)) 1 15 8 .add (-2048) = true ∧
      spaceOf 0x8000000000007FF8 = .scr ∧ (memSite.core 0).scrOff 0x8000000000007FF8 8 = some 32760 ∧ (memSite.core 0).scrOff 0x8000000000000000 32768 = some 0 ∧
      (memSite.strand 0 0).heldBack 15 = [] ∧ (memSite.strand 0 0).rows = [] ∧ (memSite.core 0).nearErr = [] ∧ memSite.waiting 0 = [] ∧
      (memSite.tower (towerOf 0)).out = [] := by decide +kernel

theorem test_meets_StoresComplete :
    storesAt memSite (.stB 15 0 1 55 .none 0) 0 1 1 .none 0 7 = true ∧ storesAt memSite (.stB 0 1 2 1 .post 0) 1 2 1 .post 0 0xFFFFFFFFFFFFFFFF = true ∧
      storesAt memSite (.stH 0 1 2 1 .none (-1)) 1 2 2 .none (-1) 0xFFFFFFFFFFFFFFFF = true ∧ storesAt memSite (.stW 0 0 4 0 .add 2047) 0 4 4 .add 2047 0 = true ∧
      storesAt memSite (.stD 0 15 3 1 .post 0) 15 3 8 .post 0 0xFFFFFFFFFFFFFFFF = true ∧ storesAt memSite (.stD 0 15 15 1 .none 0) 15 15 8 .none 0 0xFFFFFFFFFFFFFFFF = true ∧
      storesAt memSite (.stf 15 1 1 false 31 .none 0) 1 1 4 .none 0 0x3FF0000000000000 = true ∧
      storesAt memSite (.stf 0 0 15 true 31 .add (-2048)) 0 15 8 .add (-2048) 0x3FF0000000000000 = true := by decide

/-- A queued access of strand 0. -/
def posted : SqEntry := { uid := 1, strand := 0, cls := 1, kind := .store, job := 1, va := 0, pa := 0 }

/-- A direct store to the bank's last bytes, one to the page and a class-0 store complete. -/
theorem test_meets_StoreFrame :
    (∃ t, exec (.stB 0 1 2 1 .post 0) memSite = .next t) ∧ (∃ t, exec (.stH 0 1 1 1 .none 0) memSite = .next t) ∧ (∃ t, exec (.stW 0 15 4 1 .add 1) memSite = .next t) ∧
      (∃ t, exec (.stD 0 0 3 1 .none 0) memSite = .next t) ∧ ([.stB 0 1 2 1 .post 0, .stH 0 1 1 1 .none 0, .stW 0 15 4 1 .add 1, .stD 0 0 3 1 .none 0] : List Instr).all
      memSite.ready = true ∧ (memSite.core 0).scrOff 0x8000000000007FFF 1 = some 32767 ∧ (memSite.strand 0 0).xlinv = none ∧ (memSite.core 0).sqLen ≤ 30 ∧
      Memory.wf (memSite.core 0).near = true ∧ ({ posted with scr := true, pa := 32767, bytes := [7] } : SqEntry).kind = .store ∧ posted.scr = false ∧ region posted.pa = 0 ∧
      region (2 ^ 45) = 1 ∧ region (2 ^ 46) = 2 ∧ Memory.wf site.mem = true ∧ site.migrating 65528 = false ∧ (∀ c ∈ site.cores, c.2.l1 = []) ∧ (∀ t ∈ site.towers, t.2.out = []) ∧
      aopNew .cas 64 0 1 5 = none ∧ (aopNew .add 64 0 1 5).isSome = true :=
  ⟨⟨_, rfl⟩, ⟨_, rfl⟩, ⟨_, rfl⟩, ⟨_, rfl⟩, by decide, by decide, by decide, by decide, by decide, rfl, by decide⟩

/-- A doubleword here and one of a peer (pages 0x10000 and 0x30000); KINV of a strand without accesses and of one with an atomic held for a migration. -/
theorem test_meets_ConstantPath :
    let o := memSite.opened (.ldk 15 4 55 .post 0)
    let got (s : State) : Bool := let u := ((s.opened (.kinv 0)).release 0 0).pushHome 0 fun _ => true
      u.released 0 0 && (u.tower 0).out.isEmpty
    let held := memSite.modTower 0 fun t => { t with held := [(0, { posted with kind := .amo, pa := 65536 })] }
    let far : Tlb := { fetchTlb with vpn := 3, pfn := 2 ^ 45 / 65536 }
    let peer := (memSite.modStrand 0 0 fun x => { x with a := [(4, 0x30000)] }).modCore 0 fun c =>
      { c with tlb1 := far :: c.tlb1, fills := [{ need := .konst (far.pa 0x30000), bytes := List.replicate 8 3 }] }
    memSite.ready (.ldk 15 4 55 .post 0) = true ∧ spaceOf (o.accessAt 4 .post 0 8) = .glob ∧ (o.accessAt 4 .post 0 8).toNat % 8 = 0 ∧
      o.reached 0 (o.accessAt 4 .post 0 8) = .ok fetchTlb ∧ (o.strand 0 0).heldBack 16 = [] ∧ ((o.core 0).fill? (.konst (fetchTlb.pa 65536))).isSome = true ∧
      memSite.ready (.kinv 15) = true ∧ got memSite = true ∧ held.ready (.kinv 0) = true ∧ got held = false ∧
      region (far.pa 0x30000) = 1 ∧ (peer.setPort 0 { up := true, peer := peerOf (far.pa 0x30000) }).reached 0 0x30000 = .ok far ∧ peer.ready (.ldk 0 4 55 .none 0) = true ∧ (peer.opened (.ldk 0 4 55 .none 0)).accessAt 4 .none 0 8 = 0x30000 ∧
      peer.mapped 0 0x30000 false = .ok far ∧ ((peer.core 0).fill? (.konst (far.pa 0x30000))).isSome = true := by decide +kernel

/-- Queued accesses to the bank's first word and its last doubleword: an atomic that writes, a compare and swap that does not, a reduction. -/
theorem test_meets_ScratchpadAtomics :
    let e (k : SqKind) (op : Aop) (dbl : Bool) (pa : Nat) (c : Word) : SqEntry := { posted with scr := true, kind := k, op := op, dbl := dbl, pa := pa, operand := 5, comparand := c }
    let new (e : SqEntry) : Option Nat :=
      let n := if e.dbl then 8 else 4
      aopNew e.op (8 * n) (ofLE (rdBytes (memSite.core 0).near e.pa n)) (e.operand.toNat % 256 ^ n) (e.comparand.toNat % 256 ^ n)
    new (e .amo .add false 0 0) = some 0x16 ∧ new (e .amo .cas false 0 0x11) = some 5 ∧ new (e .amo .cas true 32760 9) = none ∧ (new (e .red .maxu true 32760 0)).isSome = true ∧
      (e .amo .add false 0 0).scr = true ∧ (memSite.core 0).nearErr = [] ∧ (memSite.core 0).nearPois = [] ∧ Memory.wf (memSite.core 0).near = true := by decide

theorem test_meets_PostedAtomics :
    let pt (a : Word) (n : Nat) : Option (Bool × Nat) := match memSite.atomPart 0 0 a n with | .ok p => some (p.scr, p.pa) | .error _ => none
    ([.amo 15 1 4 55 1 .swap false, .amo 0 14 15 1 55 .cas true, .red 15 1 4 1 .fmin false, .red 0 14 15 1 .or true, .amo 15 1 1 55 1 .add false, .amo 0 15 3 1 55 .cas true,
      .red 15 1 1 1 .fadd false, .red 0 15 3 1 .maxu true] : List Instr).all memSite.ready = true ∧
      pt 65536 4 = some (false, 65536) ∧ pt 131064 8 = some (false, 131064) ∧ pt 0x8000000000000000 4 = some (true, 0) ∧ pt 0x8000000000007FF8 8 = some (true, 32760) ∧
      (memSite.opened (.amo 15 1 1 55 1 .add false)).aOp 1 = 0x8000000000000000 ∧ (memSite.opened (.red 0 15 3 1 .maxu true)).aOp 3 = 0x8000000000007FF8 ∧
      (memSite.core 0).sqLen < 32 := by decide

/-- ROW in a marked group, and the same after a rewind to it. -/
theorem test_meets_FencesAndRows :
    let r := marked (siteS fun x => { x with fresh := false, rewound := true, rown := 5, restart := { addr := 65540, row := 4 } })
    ([.fence 15 1 0, .fence 0 0xFFFF 5, .fence 0 1 1, .fenceD 15] : List Instr).all full.ready = true ∧
      (marked full).ready (.row 15) = true ∧ ((marked full).opened (.row 15)).me.rown = ((marked full).opened (.row 15)).me.restart.row ∧
      r.ready (.row 0) = true ∧ (r.opened (.row 0)).me.rown ≠ (r.opened (.row 0)).me.restart.row := by decide

/-- The last line of the page; no watch armed; one triggered; one entered and not triggered. -/
theorem test_meets_WatchAndWait :
    let o := memSite.opened (.watch 15 15 .none 0)
    let w (t e : Bool) : State := siteS fun x => { x with watch := some { line := 1024, va := 65536, snap := List.replicate 64 0, entered := e, triggered := t } }
    memSite.ready (.watch 15 15 .none 0) = true ∧ o.umbraMay (o.jobOf 0) 131008 64 false = true ∧ fetchTlb.pa (o.accessAt 15 .none 0 64).toNat / 64 = 2047 ∧ spaceOf (o.accessAt 15 .none 0 64) = .glob ∧ o.mapped 0 (o.accessAt 15 .none 0 64) false = .ok fetchTlb ∧
      (o.strand 0 0).heldBack 0 = [] ∧ region (fetchTlb.pa (o.accessAt 15 .none 0 64).toNat / 64 * 64) ≠ 1 ∧ memSite.ready (.waitw 15) = true ∧ (memSite.strand 0 0).watch = none ∧
      (w true false).ready (.waitw 0) = true ∧ (w false true).ready (.waitw 0) = true ∧ ((w true false).strand 0 0).watch.map (·.triggered) = some true ∧
      ((w false true).strand 0 0).watch.map (fun x => (x.triggered, x.entered)) = some (false, true) := by decide

/-- Slot 0 and the last slot of one bank, a key present and one absent; the key zero, a slot too far, a full table; XLINV of an address and of all, with nothing before it,
with an atomic of the strand held for a migration, with an operand of 2. -/
theorem test_meets_TagsAndTranslations :
    let s := siteC fun c => { c.setStrand 0 { (c.strand 0) with p := 0xFFFF, x := [(1, 0xFFFFFFFFFFFFFFFF), (2, 7), (3, 8), (4, 65536), (5, 1)] } with
      scr := 1, tags := [(0xFFFFFFFFFFFFFFFF, 7)] }
    let h := s.modTower 0 fun t => { t with held := [(0, { posted with kind := .amo, pa := 65536 })] }
    let f := siteC fun c => { c.setStrand 0 { (c.strand 0) with x := [(1, 1), (2, 7), (3, 0x9999)] } with
      scr := 1, tags := (List.range 256).map fun n => (BitVec.ofNat 64 (n + 1), n) }
    ([.tlook 15 55 1, .tlook 0 1 2, .tset 15 1 2, .tset 0 2 0, .tclr 15 1, .tinv 15, .xlinv 15 4 0, .xlinv 0 0 5] : List Instr).all s.ready = true ∧
      s.xOp 1 ≠ 0 ∧ (s.xOp 2).toNat < (s.core 0).scr * 32768 / 4096 ∧ (s.core 0).tags.length < 256 ∧ s.xOp 2 ≠ 0 ∧
      f.ready (.tset 0 1 2) = true ∧ (f.xOp 2).toNat < (f.core 0).scr * 32768 / 4096 ∧ ((f.core 0).tags.find? fun e => e.1 == f.xOp 1).isSome = true ∧
      (s.strand 0 0).xlinv = none ∧ (s.xOp 5).toNat ≤ 1 ∧ s.xOp 0 = 0 ∧ (s.strand 0 0).th = false ∧ (s.core 0).scr * 32768 / 4096 ≤ (s.xOp 3).toNat ∧
      ([.tset 0 0 2, .tset 0 1 3, .xlinv 0 4 2] : List Instr).all s.ready = true ∧ 1 < (s.xOp 2).toNat ∧
      f.ready (.tset 0 3 2) = true ∧ f.xOp 3 ≠ 0 ∧ ((f.core 0).tags.find? fun e => e.1 == f.xOp 3) = none ∧ (f.core 0).tags.length = 256 ∧
      (∀ i ∈ [Instr.xlinv 15 4 0, .xlinv 0 0 5], ((s.opened i).loadPush 0 0 15 0 0 false).loadClear 0 0 15 0 0 false = true) ∧
      h.ready (.xlinv 0 4 0) = true ∧ (h.strand 0 0).xlinv = none ∧ ((h.opened (.xlinv 0 4 0)).loadPush 0 0 15 0 0 false).loadClear 0 0 15 0 0 false = false := by
  decide +kernel

/-- The clause on pointers: byte loads with each kind of update, whatever A2 and AM2 hold. -/
theorem test_meets_PointersAndDescriptors_moves :
    loadsAt memSite (.ldB 0 1 2 1 .post 0) 1 2 1 .post 0 = true ∧ loadsAt memSite (.ldB 0 1 2 1 .add (-2048)) 1 2 1 .add (-2048) = true ∧
      loadsAt memSite (.ldB 15 0 1 55 .none 0) 0 1 1 .none 0 = true := by decide

/-! ## Rows -/

/-- The element type of a code of SCFG.ACCT: 33 binary32, 32 binary16, 40 and 38 integers of 32 and 16 bits. -/
def typed (n : Nat) : State := full.modStrand 0 0 fun x =>
  { x with scfg := setBits x.scfg 9 4 n, l := [(1, BitVec.allOnes 512), (15, 1)], v := [(1, BitVec.allOnes 8192), (63, 1)] }

theorem test_meets_VectorLanes : ([.vadd 15 63 1 63, .vsub 0 1 1 1, .vmul 0 1 1 1, .vfma 1 1 1 1, .vmin 0 1 63 1, .vmax 0 63 1 1, .vabs 0 1 1, .vneg 0 1 1,
    .vand 0 1 1 1, .vor 0 1 1 1, .vxor 0 1 1 1, .vnot 15 63 63, .vshl 0 1 1 1, .vshr 0 1 1 1, .vsra 0 1 1 1, .vshli 0 1 1 31, .vshri 0 1 1 0, .vsrai 0 1 1 7,
    .vaddi 0 1 1 (-64), .vmovi 15 63 63] : List Instr).all (fun i => ([33, 32, 40, 38] : List Nat).all fun n => (typed n).ready i) = true := by decide

theorem test_meets_VectorMoves : ([.vsel 15 63 1 63 15, .vshuf 15 63 1 63, .vrot 0 1 1 511, .vidx 15 63, .vbcast 0 1 55, .vcmx 0 63 1 1, .vins 15 63 55 511,
    .vext 15 55 63 511, .vext 0 1 1 0, .vdot4 15 63 1 1 true false, .vdot4 0 1 1 63 false true] : List Instr).all
      (fun i => ([33, 38] : List Nat).all fun n => (typed n).ready i) = true := by decide

theorem test_meets_VectorCompareConvertReduce : ([.vcmp 15 .eq 7 63 1, .vcmp 0 .ne 0 1 1, .vcmp 0 .lt 0 1 1, .vcmp 0 .ge 0 1 1, .vcmp 0 .le 0 1 1, .vcmp 0 .gt 0 1 1,
    .vcvt 15 63 1 33 12 true, .vcvt 0 1 1 32 33 false, .vpack 0 63 1 1 0 true, .vpack 0 63 1 1 3 false, .vunpk 15 63 1 0 true, .vunpk 0 1 1 3 false, .vreds 0 1 63,
    .vredm 15 63 1 true, .vredm 0 1 1 false] : List Instr).all (fun i => ([33, 38] : List Nat).all fun n => (typed n).ready i) = true ∧
    (typed 32).ready (.vcmp 0 .un 0 1 1) = true ∧ (typed 40).ready (.vcmp 0 .gtu 0 1 1) = true := by decide

theorem test_meets_SpecialFunctions : ([.vexp 15 63 1, .vlog 0 1 1, .vrcp 0 1 1, .vrsq 0 1 1, .vtanh 0 1 1, .vsig 0 1 1, .vsin 0 1 1, .vcos 0 1 1,
    .verf 15 63 1] : List Instr).all (fun i => (typed 33).ready i && (typed 32).ready i) = true ∧
    (match ieee32.decode 1 with | .num neg q => !neg && !q.isZero | _ => false) = true ∧
    (match ieee16.decode 0xFBFF with | .num neg q => neg && !q.isZero | _ => false) = true := by decide

/-- Bank 0 holds binary32; L1 selects lanes 0 and 1, L2 none; A1 stands at the bank, A4 at the mapped page, AM1 and AM4 step by 4. -/
def rowSite : State := siteC fun c => { c.setStrand 0 { (c.strand 0) with
    l := [(1, 3)], a := [(1, 0x8000000000000000), (4, 65536)], am := [(1, (4, 0)), (4, (4, 0))], v := [(63, 0x3F8000003F800000)] } with
  scr := 1, bfmt := [(0, 33)], l1 := [(1024, { data := List.replicate 64 1 })]
  fills := [{ need := .direct 65536 8 15, bytes := List.replicate 8 4 }] }

def rowOk (i : Instr) (oc g p : Nat) (u : Upd) (strided load : Bool) : Bool :=
  let o := rowSite.opened i
  let r := o.rowAcc g p u 0 strided
  rowSite.ready i && !r.lanes.isEmpty && o.me.heldBack oc == [] && (o.strand 0 0).xlinv == none &&
    match o.rowParts 0 r strided (!load) with
    | .ok ps => o.sqRoom 0 0 ps.length && if load then (o.readParts 0 0 oc ps).isOk else decide ((o.strand 0 0).rows.length + (o.strand 0 0).newLines ps ≤ 256)
    | .error _ => false

theorem test_meets_RowAccesses :
    ([.vld 2 0 1 63 .none 0, .vlds 2 1 1 1 .post 0, .vst 2 0 1 63 .none 2047, .vsts 2 15 1 1 .post 0] : List Instr).all rowSite.ready = true ∧
      ((rowSite.opened (.vld 2 0 1 63 .none 0)).rowAcc 2 1 .none 0 false).lanes = [] ∧ ((rowSite.opened (.vlds 2 1 1 1 .post 0)).rowAcc 2 1 .post 0 true).lanes = [] ∧
      rowOk (.vld 1 0 1 63 .none 0) 0 1 1 .none false true = true ∧ rowOk (.vld 1 1 4 1 .post 0) 1 1 4 .post false true = true ∧
      rowOk (.vlds 1 0 1 63 .post 0) 0 1 1 .post true true = true ∧ rowOk (.vlds 1 1 4 1 .post 0) 1 1 4 .post true true = true ∧
      rowOk (.vst 1 0 1 63 .none 0) 0 1 1 .none false false = true ∧ rowOk (.vst 1 15 4 63 .none 0) 15 1 4 .none false false = true ∧
      rowOk (.vsts 1 0 4 63 .post 0) 0 1 4 .post true false = true ∧ rowOk (.vsts 1 1 1 63 .post 0) 1 1 1 .post true false = true := by decide +kernel

/-! ## Weights, the array, fast weights, states -/

def wholeTile : FifoTile := { fmt := 32, elems := [1, 0, 2], blocks := 1, base := 65536, remaining := 0 }
def loaderCmd (kind : CmdKind) : Cmd := { uid := 1, strand := 0, job := 1, kind := kind }

/-- WSTR at the last doubleword below 2^57 and of no tile; a whole tile, one that lacks a block, none; WSCL in scratchpad; WSWAP without and with a WLD. -/
theorem test_meets_WeightPath :
    let s := siteC fun c => { c.setStrand 0 { (c.strand 0) with p := 0xFFFF, x := [(1, 0x1FFFFFFFFFFFFF8), (2, 0xFFFFFFFF), (3, 0x8000000000007E00)] } with
      scr := 1, fifo := [wholeTile] }
    let part := siteC fun c => { c with fifo := [{ wholeTile with remaining := 1 }] }
    let wld := siteC fun c => { c with cmds := [(1, [loaderCmd (.wld wholeTile)])] }
    ([.wstr 15 32 1 2 true 5, .wstr 0 0 1 0 false 0, .wld 15, .wscl 15 3 true 5, .wscl 0 3 false 0, .wswap 15, .acfg 15 33, .acfg 0 40] : List Instr).all s.ready = true ∧
      bits (s.xOp 1) 63 57 = 0 ∧ (s.xOp 1).toNat % 8 = 0 ∧ (s.core 0).engineFull 0 = false ∧ bits (s.xOp 2) 31 0 = 2 ^ 32 - 1 ∧ bits (s.xOp 0) 31 0 = 0 ∧
      wholeTile.fail = none ∧ wholeTile.remaining = 0 ∧ (s.core 0).engineFull 1 = false ∧ (s.xOp 3).toNat % 64 = 0 ∧
      ((s.opened (.wscl 15 3 true 5)).parts 0 (s.xOp 3) (4 * (s.opened (.wscl 15 3 true 5)).me.ncols) false).isOk = true ∧ (s.core 0).cmdsOf 1 = [] ∧
      part.ready (.wld 0) = true ∧ (part.strand 0 0).th = false ∧ (part.strand 0 0).recov < 2 ∧ site.ready (.wld 0) = true ∧ (site.core 0).fifo = [] ∧
      wld.ready (.wswap 0) = true ∧ loaderCmd (.wld wholeTile) ∈ (wld.core 0).cmdsOf 1 := by decide

/-- The formats of plane and bank give one pass or two, fractions or integers; the last row of the bank alone and its first sixteen. -/
def arraySite (plane bank acct : Nat) : State := siteC fun c => { c.setStrand 0 { (c.strand 0) with
    p := 0xFFFF, scfg := setBits (c.strand 0).scfg 9 4 acct, x := [(1, 0x8000000000000000 + BitVec.ofNat 64 (32768 - 128 * fmtBytes bank)), (2, 0x8000000000000000)] } with
  scr := 1, bfmt := [(0, BitVec.ofNat 32 bank)], active := { fmt := plane } }

def runsAt (s : State) (i : Instr) (d a n p w : Nat) : Bool :=
  let o := s.opened i
  let c := o.core 0
  let f := (mget c.bfmt 0 0).toNat % 64
  s.ready i && decide (spaceOf (o.xOp a) = .scr) && (c.scrOff (o.xOp a) 1).isSome && mmaShape c.active.fmt f == some (p, w) && o.me.acct == w &&
    o.me.inflight == [] && decide (d < 64) && bits (o.xOp a) 14 0 % (128 * fmtBytes f) == 0 && decide (bits (o.xOp a) 14 0 + n * (128 * fmtBytes f) ≤ 32768) &&
    !(mget c.bfmt 0 0).getLsbD 31 && c.active.resident && c.mmaLeft == 0 && c.cmdsOf 6 == [] && c.cmdsOf 1 == [] && c.nearErr == [] && c.nearPois == [] && c.errs == []

theorem test_meets_ArrayMultiplies :
    runsAt (arraySite 0 0 33) (.mma 15 63 1 1 false) 63 1 1 1 33 = true ∧ runsAt (arraySite 32 0 33) (.mma 0 0 2 16 true) 0 2 16 2 33 = true ∧
      runsAt (arraySite 0 32 33) (.mma 0 5 1 1 false) 5 1 1 2 33 = true ∧ runsAt (arraySite 36 37 40) (.mma 0 48 2 16 true) 48 2 16 1 40 = true := by decide +kernel

theorem test_meets_ResultWriter :
    let ok (s : State) (i : Instr) (d n : Nat) : Bool :=
      let o := s.opened i
      let f := (mget (o.core 0).bfmt (bits (o.xOp d) 19 15) 0).toNat % 64
      s.ready i && decide (spaceOf (o.xOp d) = .scr) && ((o.core 0).scrOff (o.xOp d) 1).isSome && bits (o.xOp d) 19 0 % fmtBytes f == 0 &&
        decide (bits (o.xOp d) 14 0 + n * o.me.ncols * fmtBytes f ≤ 32768) && !(o.core 0).engineFull 2
    ok (arraySite 0 0 33) (.mrd 15 1 63 31 1) 1 1 = true ∧ ok (arraySite 0 33 40) (.mrd 0 2 48 0 16) 2 16 = true := by decide

/-- Handle 1 of the job: a state of two tiles in slab 0 of the tower, its entry at hand; X1 names its last tile, X2 the handle, X3 a handle of another
generation, X4 and X5 small. -/
def stateSite : State :=
  let s := siteC fun c => c.setStrand 0 { (c.strand 0) with
    p := 0xFFFF, x := [(1, 0x100000001), (2, 1), (3, 0x2000001), (4, 3), (5, 0x10), (6, 2), (7, 0xF)] }
  { s with
    mem := wrWord (wrWord s.mem 131072 (twResident (256 * (s.slabsOf 0).headD 0))) 131080 (twResident (256 * (s.slabsOf 0).headD 0 + 2))
    handles := [(1, { v := true, job := 1, nt := 2, tiles := 131072, snap := 8, snaps := [(3, 131088)] }), (2, { v := true, job := 1, nt := 2, tiles := 131072 })]
    towers := s.towers.map fun (e : Nat × Tower) => if e.1 = 0 then (0, { e.2 with hcache := [1, 2], slots := [(256 * (s.slabsOf 0).headD 0, {}), (256 * (s.slabsOf 0).headD 0 + 2, {})] }) else e }

theorem test_meets_FastWeights :
    let w := twResident (256 * (site.slabsOf 0).headD 0 + 2)
    let found (i : Instr) (s : State) : Option Word := match (s.opened i).fwdLookup 0x100000001 with | .ok v => some v | .error _ => none
    let own (i : Instr) : Option Word :=
      let o := stateSite.opened i
      if (o.core 0).engineFull 3 then none else ((o.readTile 0 w).1.ownTile 1 1).map (·.2)
    let is : List Instr := [.fwdRead 15 63 0 1 1, .fwdDelta 15 62 0 1 2, .fwdOuter 0 0 60 1 1, .opu 15 1 62 60 2]
    is.all stateSite.ready = true ∧ stateSite.xOp 1 = 0x100000001 ∧ bits (stateSite.xOp 1) 23 0 = 1 ∧ bits (stateSite.xOp 1) 47 32 = 1 ∧
      is.all (fun i => found i stateSite == some w && own i == some w) = true ∧
      (let s := stateSite.modTower 0 fun t => { t with stateq := [{ uid := 5, core := 0, strand := 0, job := 1, kind := .snap 1 2 0 }] }
       s.ready (.fwdRead 15 63 0 1 1) = true ∧ (match s.refLookup 0 0x100000001 with | .ok v => v == w | .error _ => false) = true ∧ s.statesAhead 0 1 = true) := by
  decide +kernel


/-- The operands of each form: creation of 1 and of 65,535 tiles, handle 1, snapshot 3 held and snapshot 2 not, a move to tower 1 and to the same tower's peer; with a tile
array allocated and without. -/
theorem test_meets_StateInstructions :
    let arena (s : State) : State := { s with jobs := s.jobs.map fun e => (e.1, { e.2 with arenaBase := 0x40000, arenaSize := 0x10000 }) }
    let s := arena (stateSite.modStrand 0 0 fun x =>
      { x with x := [(1, 1), (2, 2), (3, 0x2000001), (4, 3), (5, 0x10), (6, 2), (7, 1), (8, 0x1FFFF), (9, 5), (55, 11)], f := [(31, 0x3F000000)] })
    let made := s.modCore 0 fun c => { c with fills := [{ need := .alloc }] }
    ([.sfork 15 55 0 7, .sfork 0 55 0 8, .sfork 0 55 1 0, .ssnap 15 1 4, .ssnap 0 1 6, .sroll 15 1 4, .sfree 15 1, .smove 15 55 1 5, .smove 0 55 1 55, .savg 15 1 2 2 31 false,
      .savg 0 2 1 1 31 true, .sqry 15 55 1, .ssnap 0 3 4, .sroll 0 3 4, .sfree 0 3, .smove 0 55 3 5, .sfree 0 9] : List Instr).all s.ready = true ∧
      bits (s.xOp 7) 15 0 = 1 ∧ bits (s.xOp 8) 15 0 = 65535 ∧ bits (s.xOp 8) 63 17 = 0 ∧ bits (s.xOp 1) 23 0 ≠ 0 ∧
      (match s.handleLookup 0 (s.xOp 1), s.handleLookup 0 (s.xOp 2) with | .ok n, .ok m => n == 1 && m == 2 | _, _ => false) = true ∧
      bits (s.xOp 4) 63 2 = 0 ∧ (mfind (s.handle 1).snaps (bits (s.xOp 4) 1 0)).isSome = true ∧ mfind (s.handle 1).snaps (bits (s.xOp 6) 1 0) = none ∧
      ((s.core 0).fill? .alloc).isSome = false ∧ ((made.opened (.sfork 15 55 0 7)).core 0).fill? .alloc = some { need := .alloc } ∧
      ([.sfork 15 55 0 7, .sfork 0 55 1 0, .ssnap 0 1 6] : List Instr).all made.ready = true ∧
      (match made.handleLookup 0 (made.xOp 1) with | .ok n => n == 1 | _ => false) = true ∧ mfind (made.handle 1).snaps (bits (made.xOp 6) 1 0) = none ∧
      ((made.opened (.ssnap 0 1 6)).arenaAlloc 1 (arrayBytes 2)).any (fun v => !(v.2.core 0).engineFull 3) = true ∧ s.snapHeld 0 1 3 = true ∧ (s.core 0).engineFull 3 = false ∧
      bits (s.xOp 5) 3 0 ≤ 11 ∧ bitOf (s.xOp 5) 4 = true ∧ bits (s.xOp 55) 3 0 = 11 ∧ bitOf (s.xOp 55) 4 = false ∧ (s.handle 1).twr ≠ 11 ∧
      (s.handle 1).nt = (s.handle 2).nt ∧ (s.handle 1).fmt16 = (s.handle 2).fmt16 ∧ (s.handle 1).away = false ∧ (s.handle 2).away = false ∧
      s.handleHit 0 (bits (s.xOp 3) 23 0) = true ∧ (s.handle (bits (s.xOp 3) 23 0)).gen ≠ bits (s.xOp 3) 31 24 ∧ (s.strand 0 0).th = false := by
  decide +kernel

/-! ## Queues, tasks, launches, copies -/

theorem test_meets_QueueInstructions :
    let s := stateSite.modStrand 0 0 fun x => { x with x := [(1, 1), (3, 0x2000001), (4, 3), (7, 0x70), (8, 0x3F)] }
    ([.ewait 15 63, .ewait 0 1, .qcnt 15 55 7, .qcnt 0 1 0, .qcnt 0 1 8, .yield_ 15, .gbar 15, .spage 15 1 4, .spage 0 3 0] : List Instr).all s.ready = true ∧
      (∀ e, e < 6 → (s.opened (.ewait 15 63)).me.engineCount e = 0) ∧ bits (s.xOp 7) 63 8 = 0 ∧ (s.queueCount 0 0 0x70).isSome = true ∧ (s.queueCount 0 0 0).isSome = true ∧
      (s.queueCount 0 0 0x3F).isSome = true ∧ (s.opened (.gbar 15)).me.tm = false ∧ bits (s.xOp 4) 63 2 = 0 ∧ s.handleFault 0 1 (s.xOp 1) = none ∧
      s.handleFault 0 1 (s.xOp 3) ≠ none ∧ (s.tower 0).hints.length < 64 := by decide

theorem test_meets_EnginePoll : ([.epoll 15 55 5, .epoll 0 0 0] : List Instr).all full.ready = true := by decide

/-- A launch record for the strand's own entry, and a task record with a close marker's; both in scratchpad. -/
def taskSite (limit : Nat) (pend : Map PendEntry) (kind : Nat) (pools : Map Pool) : State :=
  let s := siteC fun c => { c.setStrand 0 { (c.strand 0) with
      p := 0xFFFF, x := [(1, 0x8000000000000000), (2, 0x8000000000007FC0), (3, 0x8000000000000040), (4, 0x1F), (5, 0xFFFFFFFFFFFFFFFF), (6, 0x100000000), (7, 0x1000001FF), (8, 0xF), (9, 0x10)] } with
    scr := 1, near := wrWord (wrWord (wrWord (wrWord [] 0 65536) 24 1) 48 0x0000840000000000) 32712 0x80 }
  { s with
    mem := wrWord (wrWord s.mem 0x1000000 0x8000000001001000) 0x1001000 0xF000000000000000
    jobs := s.jobs.map fun e => (e.1, { e.2 with root := 0x1000000 })
    launches := s.launches.map fun e => (e.1, { e.2 with limit := limit, words := e.2.words.set 0 (BitVec.ofNat 64 (65536 + kind)) })
    gangs := s.gangs.map fun e => (e.1, { e.2 with tmask := 1 })
    towers := s.towers.map fun (e : Nat × Tower) => if e.1 = 0 then (0, { e.2 with pend := pend, pools := pools }) else e }

def recordAt (s : State) (i : Instr) (x : Nat) : Option (State × List Word) := match (s.opened i).readRecord 0 0 (s.xOp x) with | .ok r => some r | .error _ => none

def launchCheck (s : State) (x : Nat) : Option Bool :=
  (recordAt s (.launch 0 55 x) x).bind fun r => let u := r.1.release 0 0
    match u.job? (u.jobOf 0) with | some j => if u.released 0 0 && (u.launchOf 0).isSome then some (u.checkRecord 0 u.uid j r.2).isOk else none | none => none

def taskOk (s : State) (x : Nat) (close : Bool) : Bool :=
  match recordAt s (.tsub 0 x) x with
  | some r => bitOf (tCtl r.2) 7 == close && bits (tCtl r.2) 3 0 == 0 && !taskBad r.2 false && (close || ((r.1.release 0 0).released 0 0 && ((r.1.release 0 0).acceptTask 0 0 r.2).isSome))
  | none => false

/-- Counter 15 set to its largest limits and a chunk of it; a child already done and an entry in use again; records accepted, refused, too deep, without an
entry; a task and a close marker; TDONE without a task and of a task. -/
theorem test_meets_TasksAndLaunches :
    let pool : Pool := { launch := 1, job := 1, guarded := false }
    let run : TaskRun := { words := [], orig := [], uid := 9, pool := 0, guarded := false }
    let s := taskSite 8 [(255, ⟨true, 0, 2⟩)] 1 [(0, pool)]
    let deep := taskSite 0 [] 0 []
    let none_ := taskSite 8 ((List.range 256).map fun e => (e, ⟨true, 0, 2⟩)) 0 []
    let busy := s.modStrand 0 0 fun x => { x.setTM true with task := some run }
    ([.range 15 55 4 5, .range 0 55 8 5, .ljoin 15 6, .ljoin 0 7, .launch 0 55 1, .launch 15 55 3, .tsub 15 1, .tsub 0 2, .tdone 15] : List Instr).all s.ready = true ∧
      bits (s.xOp 4) 63 5 = 0 ∧ bitOf (s.xOp 4) 4 = true ∧ bits (s.xOp 5) 47 32 = 65535 ∧ bits (s.xOp 5) 55 48 = 255 ∧ bits (s.xOp 5) 63 56 = 255 ∧
      bits (s.xOp 8) 63 5 = 0 ∧ bitOf (s.xOp 8) 4 = false ∧
      (∀ n ∈ [6, 7], bits (s.xOp n) 63 33 = 0 ∧ bitOf (s.xOp n) 32 = true ∧ bits (s.xOp n) 31 20 = 0 ∧ bits (s.xOp n) 19 16 = 0 ∧
        (((s.tower 0).pendEntry (bits (s.xOp n) 7 0)).live && ((s.tower 0).pendEntry (bits (s.xOp n) 7 0)).gen == bits (s.xOp n) 15 8) = false) ∧
      launchCheck s 1 = some true ∧ launchCheck s 3 = some false ∧ (s.tower 0).pendFree ≠ [] ∧ ((s.launchOf 0).map fun l => (l.depth, l.limit)) = some (0, 8) ∧
      deep.ready (.launch 0 55 1) = true ∧ launchCheck deep 1 = some true ∧ ((deep.launchOf 0).map fun l => (l.depth, l.limit)) = some (0, 0) ∧
      none_.ready (.launch 0 55 1) = true ∧ launchCheck none_ 1 = some true ∧ (none_.tower 0).pendFree = [] ∧
      taskOk s 1 false = true ∧ taskOk s 2 true = true ∧ s.pool? 0 0 = some pool ∧ s.jobOf 0 = 1 ∧
      (s.opened (.tdone 15)).isTaskStrand 0 0 = true ∧ (s.strand 0 0).task = none ∧ busy.ready (.tdone 0) = true ∧ (busy.opened (.tdone 0)).isTaskStrand 0 0 = true ∧
      (busy.strand 0 0).task = some run ∧ (busy.strand 0 0).tm = true := by decide +kernel

/-- Descriptors at the mapped page, and at its byte 8; a receiver's descriptor there too. -/
theorem test_meets_CopiesAndPushes :
    let s := siteS fun x => { x with p := 0xFFFF, x := [(1, 65536), (2, 65544), (3, 131056)] }
    ([.cpy 15 1, .cpy 0 2, .push 15 1 3, .push 0 3 1] : List Instr).all s.ready = true ∧ s.descCheck 0 (s.xOp 1) = none ∧ (s.core 0).engineFull 4 = false ∧
      spaceOf (s.xOp 2) = .glob ∧ (s.xOp 2).toNat % 16 ≠ 0 ∧ (s.strand 0 0).th = false ∧
      (match s.pushCheck 0 (s.xOp 1) (s.xOp 3), s.pushCheck 0 (s.xOp 3) (s.xOp 1) with | .ok p, .ok q => p == 131056 && q == 65536 | _, _ => false) = true ∧
      (s.core 0).engineFull 5 = false := by decide


/-! ## Events: results, traps, gangs -/

/-- Results one and more cycles from landing, on the last strand of the last core; a pending one due now and one still to come; a frozen core. -/
theorem test_meets_ResultsLandInRegisters :
    let l (n : Nat) : Landing := { dest := .x n, left := n, val := .w 5 }
    let p (d : Option Nat) : Pending := { dests := [.x 1], vals := [.w 5], due := d, tag := 1 }
    let s := ({ site with now := 7 } : State).modStrand 191 3 fun x => { x with inflight := [l 3, l 1, l 2], pend := [p (some 8), p none, p (some 7)] }
    let z := s.modCore 191 fun c => { c with frozen := some { needs := [.room 1], due := 100 } }
    s.frozenNow 191 = false ∧ (s.strand 191 3).inflight = [l 3] ++ l 1 :: [l 2] ∧ (l 1).left = 1 ∧ (∀ y ∈ [l 3], y.left ≠ 1) ∧ z.frozenNow 191 = true ∧
      (s.strand 191 3).pend = [p (some 8), p none] ++ p (some 7) :: [] ∧ 7 ≤ s.now ∧ (∀ y ∈ [p (some 8), p none], ∀ e ∈ y.due, s.now < e) := by decide

/-- A running strand outside a trap, of which no recovery or one has been; one that recovers with nothing in flight and its cause cleared. -/
theorem test_meets_TrapsAndRewinds :
    let r := siteS fun x => { x with recov := 1 }
    let third := siteS fun x => { x with recov := 2, fresh := false }
    let h := siteS fun x => x.setTH true
    let c (code detail : Nat) : State := siteS fun x => { x with st := .recovering code detail }
    (site.strand 0 0).st = .running ∧ (site.strand 0 0).th = false ∧ (site.strand 0 0).recov < 2 ∧ (r.strand 0 0).st = .running ∧ (r.strand 0 0).recov < 2 ∧
      (site.strand 0 3).st ≠ .running ∧ (r.strand 0 0).sealed.recov < 2 ∧ 2 ≤ (third.strand 0 0).sealed.recov ∧ (third.strand 0 0).th = false ∧ (third.strand 0 0).st = .running ∧
      (h.strand 0 0).th = true ∧ (h.strand 0 0).st = .running ∧ (h.core 0).gang = some 1 ∧ (h.gang? 1).isSome = true ∧ (c 0x15 1).causeCleared 0 ((c 0x15 1).strand 0 0) 0x15 1 = true ∧
      ((c 3 1).strand 0 0).st = .recovering 3 1 ∧ ((c 3 5).strand 0 0).inflight = [] ∧ ((c 3 5).strand 0 0).pend = [] ∧
      (c 3 5).causeCleared 0 ((c 3 5).strand 0 0) 3 5 = true ∧ (c 8 1).causeCleared 0 ((c 8 1).strand 0 0) 8 1 = true := by decide

/-- Launch 1 not yet placed, heading queue 0 of tower 0. -/
def queued : State :=
  { site with
    cores := [], gangs := [], launches := [(1, { fetchLaunch with placed := 0 })]
    towers := site.towers.map fun (e : Nat × Tower) => if e.1 = 0 then (0, { e.2 with lq := [(0, [{ words := fetchLaunch.words, job := 1, fn := 1, launch := some 1 }])] }) else e }

/-- The gang with its strands changed. -/
def gangSite (f : Gang → Gang) (x : Strand → Strand) (words : List Word) : State :=
  let s := ({ siteS x with now := 9 } : State).modGang 1 f
  { s with launches := [(1, { fetchLaunch with words := words })] }

theorem queued_units : queued.unitsOf 0 = [.launch 1] := by
  have h (b : Bool) : queued.childrenOf 0 b = [] := by
    unfold State.childrenOf
    rw [show queued.launches.filter _ = [] from rfl]
    simp
  unfold State.unitsOf
  rw [h, h]
  decide

theorem test_meets_GangsLive :
    let b := gangSite (fun g => { g with arrived := [0], lastAt := 8 }) (fun x => { x with st := .atBarrier }) fetchLaunch.words
    let r := gangSite id (fun x => { x with rown := 1 }) fetchLaunch.words
    let t := gangSite (fun g => { g with tmask := 1 }) (fun x => { x with rown := 1, rows := [{ line := 65536, phys := 1024, mask := 1, data := 1, row := 0 }] }) fetchLaunch.words
    let d := gangSite id (fun x => { x with st := .inactive }) (fetchLaunch.words.set 6 0x0010840000000000)
    let home (s : State) : Bool := ((s.writeBack 0).pushHome 0 fun e => e.1 == 0).coreHome 0 true
    queued.startReady = true ∧ queued.unitsOf 0 = [.launch 1] ∧ (queued.launch? 1 = some { fetchLaunch with placed := 0 } ∧
      queued.mayPlace 1 { fetchLaunch with placed := 0 } = true ∧ queued.coresFor { fetchLaunch with placed := 0 } = some [0] ∧
      (b.gang? 1).map b.barrierDone = some true ∧ (b.strand 0 0).st = .atBarrier ∧
      (r.gang? 1).map (fun g => (g.phase, r.rowAdvances g, r.tasksToDrain g)) = some (.running, true, []) ∧
      (site.gang? 1).map (fun g => (g.phase, site.rowAdvances g, site.tasksToDrain g)) = some (.running, false, []) ∧
      (t.gang? 1).map (fun g => (g.phase, t.rowAdvances g, t.tasksToDrain g)) = some (.running, false, [0]) ∧
      (d.gang? 1).map (fun g => (d.gangDone g, g.cores)) = some (true, [0]) ∧
      (d.launch? 1).map (fun y => (decide (y.retired + 1 < recGangs y.words), y.child)) = some (true, none) ∧
      home d = true ∧ home { d with hostAcks := [(0, 0, 1, 99)] } = false) :=
  ⟨by decide, queued_units, by decide⟩


/-- A gang running, stopping, beyond and within its budget, saved with its save area (in host memory) readable and poisoned, returning; a job beyond its deadline and within. -/
theorem test_meets_GangsStop :
    let job (f : Job → Job) (s : State) : State := s.modJob 1 f
    let saved (l : List Nat) : State :=
      let s := job (fun j => { j with latency := true, root := 0x1000000 }) (gangSite (fun g => { g with phase := .saved }) id (fetchLaunch.words.set 3 0x100001))
      { s with cores := [], mem := wrWord (wrWord s.mem 0x1000000 0x8000000001001000) 0x1001000 0xF000400000000000, memPois := l }
    let beyond := job (fun j => { j with latency := true, wbud := 4 }) (gangSite (fun g => { g with wsum := 5 }) id fetchLaunch.words)
    let noted := beyond.modGang 1 fun g => { g with exceeded := true }
    let late := job (fun j => { j with dcnt := 1 }) site
    let moving := gangSite (fun g => { g with phase := .moving 9 }) id fetchLaunch.words
    ((site.gang? 1).map (·.phase) = some .running ∧
      ((gangSite (fun g => { g with phase := .preempting 2 }) id fetchLaunch.words).gang? 1).map (·.phase) = some (.preempting 2) ∧
      (beyond.gang? 1).map (fun g => (g.phase, g.wsum, g.exceeded)) = some (.running, 5, false) ∧ (noted.gang? 1).map (·.exceeded) = some true ∧ (noted.job? 1).isSome = true ∧ (beyond.job? 1).map (fun j => (j.latency, j.wbud)) = some (true, 4) ∧
      (site.job? 1).map (fun j => (j.wbud, j.latency, j.halted, j.dline, j.dcnt)) = some (0, false, false, 0, 0) ∧ (site.gang? 1).map (·.wsum) = some 0 ∧
      (late.job? 1).map (fun j => (j.latency, j.halted, j.dline, j.dcnt)) = some (false, false, 0, 1) ∧
      (((saved []).gang? 1).map fun g => ((saved []).mayReturn g, (saved []).returnCores g)) = some (true, some [0]) ∧ ((saved []).launch? 1).isSome = true ∧
      (((saved []).gang? 1).map fun g => match (saved []).vread 1 ((saved []).saveBase g) g.imageLen with | .ok (_, p) => some p | .error _ => none) = some (some false) ∧
      (((saved [2199023288320]).gang? 1).map fun g => ((saved [2199023288320]).mayReturn g, match (saved [2199023288320]).vread 1 ((saved [2199023288320]).saveBase g) g.imageLen with
        | .ok (_, p) => some p | .error _ => none)) = some (true, some true)) ∧
      ((moving.gang? 1).map (fun g => (g.phase, g.reqs == [] && g.busy == 0 && g.follows.all moving.stateAwake && (moving.tower g.tower).stateq == [])) = some (.moving 9, true) ∧
      9 ≤ moving.now ∧ (moving.gang? 1).map (fun g => (moving.slabPairs 1 g g.former g.cores).isEmpty && g.late.isEmpty && g.stopAfter.isNone) = some true ∧
      (((saved []).gang? 1).map fun g => ((saved []).vfetch g.tower g.job ((saved []).saveBase g) g.imageLen).2) = some false) := by constructor <;> decide +kernel


/-! ## Engines, timers, pages, the pager, tasks -/

/-- The job with tables that map the low gigabyte, and a cycle at which the engines of core 0 act. -/
def mappedSite (f : Core → Core) (cells : Memory → Memory) : State :=
  let s := siteC f
  { s with now := 100, mem := wrWord (wrWord (cells s.mem) 0x1000000 0x8000000001001000) 0x1001000 0xF400000000000000
           jobs := s.jobs.map fun e => (e.1, { e.2 with root := 0x1000000 }) }

def engineCmd (kind : CmdKind) : Cmd := { uid := 1, strand := 0, job := 1, kind := kind, started := true, due := 100, moved := true }
def engineSite (e : Nat) (kind : CmdKind) : State := mappedSite (fun c => { c with cmds := [(e, [engineCmd kind])] }) id
def streamAt (va : Word) : Stream := { fmt := 0, next := va, tiles := 1, strand := 0, job := 1, acq := none }
/-- A descriptor of one byte of format 0 from 131584 to 131648, for tower 11 and job 1, with the key. -/
def withDesc (key : Word) (m : Memory) : Memory :=
  wrWord (wrWord (wrWord (wrWord (wrWord m 131072 (0x10000000000 + 0xB000000000 + 0x40000000)) 131080 131584) 131088 131648) 131104 key) 131120 1
def pushCmd (key : Word) (remote : Bool) : Cmd :=
  { engineCmd (.push 131072 131072 [] remote) with desc := rdBytes (withDesc key []) 131072 160, rdesc := rdBytes (withDesc 0 []) 131072 160 }
def pushAt (key : Word) : State := mappedSite (fun c => { c with cmds := [(5, [pushCmd key false])] }) (withDesc 0)
/-- A copy by that descriptor, which also asks for a release of scope 5 if rel. -/
def copyCmd (rel : Bool) : Cmd :=
  let m := withDesc 0 []
  { engineCmd (.cpy 131072 []) with desc := rdBytes (if rel then wrWord m 131072 (rdWord m 131072 + 0x680000000000) else m) 131072 160 }
def copyAt (rel : Bool) : State := mappedSite (fun c => { c with cmds := [(4, [copyCmd rel])] }) (withDesc 0)

/-- Whether a copy that has moved is at the head, and whether its release is clear then: a host write of the copies is still to be acknowledged. -/
def copyResult (rel : Bool) : Option (Bool × Bool) :=
  let s : State := { copyAt rel with hostAcks := [(0, 8, 0, 999)] }
  let x := copyCmd rel
  let d := parseDesc x.desc
  match s.transferDone 0 4 with
  | some y =>
    let p := if d.rel && decide (4 ≤ d.scope) then s.pushHome 0 fun e => e.1 == 0 && e.2.tag == x.uid && decide (8 ≤ e.2.strand) else s
    some (y == x && y.status == none, p.relClear 0 x d)
  | none => none

/-- Whether a push of this key that has moved is alone at the head with its key to register, its writes performed; and whether its arrival finds room. -/
def pushResult (s : State) (key : Word) : Option (Bool × Bool) :=
  match (s.core 0).cmdsOf 5 with
  | [x] => if (parseDesc x.desc).key = key ∧ x.moved ∧ x.status = none ∧ !x.keyed then
      let e := parseDesc x.rdesc
      some (s.pushClear x.uid e, (s.registerArrival e.rtwr e.rjob key).isSome)
    else none
  | _ => none

/-- A good block (mode 1, sixteen values all zero, no bit of the sum set) and a bad one; the heads of the engines' queues in their last cycle; a push of one byte with a
key and without; an arrival on tower 11. -/
theorem test_meets_EnginesComplete :
    let good := (mappedSite (fun c => { c with streams := [streamAt 131072] }) fun m => wrWord m 131072 0x9800000001).modTower 0 fun x =>
      { x with umbra := [(1024, {}), (1025, {})] }
    let block (s : State) : Option Bool := (s.decompressReady 0).bind fun st =>
      match (s.engineView 0).vread st.job st.next.toNat 8 with
      | .ok (hd, false) => match (s.engineView 0).vread st.job st.next.toNat (max 8 (bits (BitVec.ofNat 64 (ofLE hd)) 47 32)) with
        | .ok (bs, false) => if (s.vfetch 0 st.job st.next.toNat bs.length).2 then none else some (holigBlock (fmtBytes st.fmt) bs).isSome
        | _ => none
      | _ => none
    let loaded := (mappedSite (fun c => { c with cmds := [(1, [{ engineCmd (.wscl [(true, 0, 64)] 512 false) with data := [5, 6] }])] }) id).headDone 0 1
    let d : Desc := { parseDesc (copyCmd false).desc with src := 0x8000000000007FFC }
    let route : Route := { d := d, sf := 0, relay := some (d.relay []), into := none }
    let site2 := siteC fun c => { c with scr := 1 }
    let waits5 : State := { pushAt 5 with hostAcks := [(16 * 11, 6, 1, 99)] }
    let waits (s : State) (e : Nat) : Option CmdKind := ((s.core 0).cmdsOf e).head?.map (·.kind)
    (block good = some true ∧ block (mappedSite (fun c => { c with streams := [streamAt 131072] }) id) = some false ∧
      ((engineSite 1 (.wld wholeTile)).headDone 0 1).map (·.kind) = some (.wld wholeTile) ∧
      ((engineSite 1 (.wscl [(false, 131072, 64)] 512 false)).headDone 0 1).map (·.kind) = some (.wscl [(false, 131072, 64)] 512 false) ∧
      waits (engineSite 1 .wswap) 1 = some .wswap ∧ ((engineSite 1 .wswap).core 0).mmaLeft = 0 ∧ ((engineSite 1 .wswap).core 0).readBefore ((engineSite 1 .wswap).now + 1) 1 = false ∧
      ((engineSite 2 (.mrd 32760 2 [1, 2, 3, 4, 5, 6, 7, 8] false)).headDone 0 2).map (·.kind) = some (.mrd 32760 2 [1, 2, 3, 4, 5, 6, 7, 8] false) ∧
      Memory.wf ((engineSite 2 (.mrd 32760 2 [1, 2, 3, 4, 5, 6, 7, 8] false)).core 0).near = true ∧
      (((engineSite 3 (.state 4 8)).core 0).cmdsOf 3).find? (fun y => y.started && decide (y.due ≤ (engineSite 3 (.state 4 8)).now)) = some (engineCmd (.state 4 8)) ∧
      loaded.map (fun x => (x.kind, x.data)) = some (.wscl [(true, 0, 64)] 512 false, [5, 6]) ∧
      route.d.sfb = false ∧ spaceOf (route.d.srcAt 0) = .scr ∧ (route.d.srcAt 0).toNat % fmtBytes route.sf = 0 ∧
        (site2.core 0).scrOff (route.d.srcAt 0) (fmtBytes route.sf) = some 32764 ∧ (site2.core 0).nearErr = [] ∧ (site2.core 0).nearPois = [] ∧ route.into = none ∧
      (route.d.relay []).scl = false ∧ misplaced (route.d.relay []).fb (route.d.relay []).dst.dst ((route.d.relay []).dst.dstAt 63) (fmtBytes (route.d.relay []).df) = false) ∧
      (((engineSite 4 (.cpy 65536 [])).transferDone 0 4).map (fun x => (x.kind, x.status)) = some (.cpy 65536 [], none) ∧
      copyResult false = some (true, true) ∧ copyResult true = some (true, false) ∧
      ((mappedSite (fun c => { c with cmds := [(4, [{ engineCmd (.cpy 65536 []) with status := some 0 }])] }) id).transferDone 0 4).map (·.status) = some (some 0) ∧
      ((mappedSite (fun c => { c with cmds := [(5, [{ engineCmd (.push 65536 65536 [] true) with status := some 0 }])] }) id).transferDone 0 5).map
        (fun x => (x.kind, x.status)) = some (.push 65536 65536 [] true, some 0) ∧
      ((pushAt 5).transferDone 0 5).map (fun x => (x.kind, x.status)) = some (.push 131072 131072 [] false, none) ∧
      (((pushAt 5).pushKeys 0).transferDone 0 5).map (fun x => (x.status, x.keyed)) = some (none, true) ∧
      ((waits5.pushKeys 0).transferDone 0 5).map (fun x => (x.status, x.keyed)) = some (none, false) ∧ waits5.pushClear 1 (parseDesc (pushCmd 5 false).rdesc) = false ∧
      pushResult ((pushAt 5).modTower 11 fun x => { x with arrivals := (List.range 1024).map fun n => { job := 2, key := BitVec.ofNat 64 (n + 1), registered := false } }) 5 = some (true, false) ∧
      pushResult (pushAt 5) 5 = some (true, true) ∧ pushResult (pushAt 0) 0 = some (true, true) ∧ ((pushAt 0).tower 11).arrivals.length < 1024) := by constructor <;> decide +kernel

/-- A period start and the cycle after it; a slice that has ended and one that runs; a bank at the threshold, entering and leaving in their last cycle. -/
theorem test_meets_TimersTick :
    let at_ (n : Nat) (f : Job → Job) : State := { site with now := n, jobs := site.jobs.map fun e => (e.1, f e.2) }
    let bank (n : Nat) (b : Bank) : State := { site with now := n, towers := site.towers.map fun (e : Nat × Tower) => if e.1 = 11 then (11, { e.2 with banks := [(255, b)] }) else e }
    (at_ Config.period id).now % Config.period = 0 ∧ (at_ (Config.period + 1) id).now % Config.period ≠ 0 ∧ ((at_ Config.period id).job? 1).isSome = true ∧
      ((at_ Config.period fun j => { j with latency := true, sliceOn := true, slice := 9, sper := 9 }).job? 1).map (fun j => (j.latency, j.sliceOn, decide (j.slice ≤ j.sper))) =
        some (true, true, true) ∧
      ((at_ Config.period fun j => { j with latency := true }).job? 1).map (fun j => (j.latency, j.sliceOn, decide (j.created < Config.period))) = some (true, false, true) ∧
      (at_ (2 * Config.rateWindow) id).now % Config.rateWindow = 0 ∧ (mfind (at_ (2 * Config.rateWindow) id).towers 11).isSome = true ∧
      ((at_ 65536 id).bank 0 0 0).mode = 0 ∧ ((at_ 65536 id).bank 0 0 0).lastUse + (at_ 65536 id).idleLimit ≤ 65536 ∧
      ((bank 5 { mode := 1, due := 5 }).bank 11 15 15).mode = 1 ∧ ((bank 5 { mode := 1, due := 5 }).bank 11 15 15).due ≤ 5 ∧
      ((bank 5 { mode := 3, due := 5, waiting := true }).bank 11 15 15).mode = 3 ∧ ((bank 5 { mode := 3, due := 5, waiting := true }).bank 11 15 15).due ≤ 5 := by decide +kernel


/-- A page of 2 MiB of the job at 0x200000, in tower 0, that tower 11 made hot. -/
def hotSite (m : List Migration) : State :=
  { site with
    now := 100
    mem := wrByte (wrWord (wrWord (wrWord site.mem 0x1000000 0x8000000001001000) 0x1001000 0x8000000001002000) 0x1002008 0xF000000000200000) 0x3FFFFF 7
    jobs := site.jobs.map fun e => (e.1, { e.2 with root := 0x1000000 })
    towers := site.towers.map fun (e : Nat × Tower) => if e.1 = 0 then (0, { e.2 with hot := [(0x20, 11, 4096)], migr := m }) else e }

theorem test_meets_PagesMigrate :
    let m (f : Bool) : Migration := { job := 1, va := 0x200000, bits := 21, old := 0x200000, new := 11 * 2 ^ 37, frozen := f, due := 100 }
    let page (s : State) : Option (Nat × Nat × Bool × Bool) := match s.walk 1 0x3FFFFF with | .ok e => some (e.pfn * 2 ^ e.bits, e.bits, e.pin, e.dup) | .error _ => none
    page (hotSite []) = some (0x200000, 21, false, false) ∧ region 0x200000 = 0 ∧ homeTower 0x200000 = 0 ∧
      (((hotSite []).tower 0).cntOf 0x108).toNat ≤ ((hotSite []).tower 0).hotOf 0x200000 21 11 ∧ region (11 * 2 ^ 37) = 0 ∧ homeTower (11 * 2 ^ 37) = 11 ∧
      (11 * 2 ^ 37) % 2 ^ 21 = 0 ∧ ((hotSite [m false]).tower 0).migr[0]? = some (m false) ∧ page (hotSite [m false]) = some ((m false).old, (m false).bits, false, false) ∧
      ((hotSite [m true]).tower 0).migr[0]? = some (m true) ∧ (m true).due ≤ (hotSite [m true]).now ∧ Memory.wf (hotSite [m true]).mem = true ∧
      (∀ c ∈ (hotSite [m true]).cores, c.2.l1 = []) ∧ (∀ c ∈ (hotSite [m true]).towers, c.2.held = [] ∧ c.2.out = []) ∧ ((hotSite []).tower 0).migr.length < 4 ∧
      4 ≤ ((hotSite (List.replicate 4 (m false))).tower 0).migr.length ∧ page (hotSite (List.replicate 4 (m false))) = some (0x200000, 21, false, false) ∧ (m true).old + 2 ^ (m true).bits ≤ (m true).new ∧
      (walkReads ((m true).copy (hotSite [m true]).mem) 0x200000 3 0x1000000).getLast? = some 0x1002008 := by decide +kernel

/-- A freeze whose need is met and one whose need is not; hints to keep and to release; a fault and a hint of a handle that is gone; moves that have moved their last
byte; a move within the device with room at its destination and without. -/
theorem test_meets_PagerServes :
    let frozen (n : Need) : State := stateSite.modCore 0 fun c => { c with frozen := some { needs := [n], due := 0 }, strands := c.strands.map fun e => (e.1,
      { e.2 with fences := [{ mask := 1, scope := 4, dup := false, uid := 1, due := 9 }] }) }
    let tower (f : Tower → Tower) : State := stateSite.modTower 0 f
    let paged (inward : Bool) : State := (tower fun t => { t with moves := [{ handle := 3, inward := inward, reqs := [] }] }).setHandle 3
      { v := true, job := 1, nt := 1, tiles := 0x50000, res := 2, inward := inward }
    let op : StateOp := { uid := 5, core := 0, strand := 0, job := 1, kind := .move 1 1, started := true }
    let moves (room : Nat) : State := ((tower fun t => { t with stateq := [op] }).setHandle 1 { v := true, job := 1, nt := 1, tiles := 0x50000 }).modJob 1 fun j => { j with arenaBase := 0x60000, arenaSize := room }
    let arrives (s : State) : Option Bool := match s.arriveState 1 (s.handle 1).job (s.handle 1).fmt16 (s.handle 1).snap (s.tilesOf (s.handle 1)).2 with
      | .ok (_, w) => if bitOf w 63 then none else some true | .error e => if e < 8 then some false else none
    let shade (d : Bool) : Bool := ((frozen .fence).modCore 0 fun c => { c with errs := [{ sram := .shade, word := 5, dbl := d }] }).coreErrs 0 (fun e => decide (e.sram = .shade)) |>.2
    (∀ n ∈ [Need.cycles 1, .fence], (frozen n).frozenNow 0 = true ∧ ((frozen n).walkFetch 0 n).walkPoisoned 0 [n] = false) ∧ shade true = true ∧ shade false = false ∧
      ({ frozen (.tlb 1 0) with memPois := [0] } : State).walkPoisoned 0 [.tlb 1 0] = true ∧
      ([Need.cycles 1].all fun n => (frozen (.cycles 1)).needMet 0 n) = true ∧ ([Need.fence].all fun n => ((frozen .fence).serveNeed 0 .fence).needMet 0 n) = false ∧
      (∀ c ∈ [2, 3], ((tower fun t => { t with hints := [(1, c)] }).tower 0).hints = [(1, c)]) ∧ (stateSite.handle 1).v = true ∧ (stateSite.handle 1).twr = 0 ∧ (stateSite.handle 1).res = 0 ∧
      (stateSite.tower 0).faults = [] ∧ ((tower fun t => { t with faults := [(9, 0)] }).serveFault 0).isSome = true ∧
      ((tower fun t => { t with hints := [(9, 0)] }).serveFault 0).isNone = true ∧ ((tower fun t => { t with hints := [(9, 0)] }).serveHints 0).isSome = true ∧
      (stateSite.serveFault 0).isNone = true ∧ (stateSite.serveHints 0).isNone = true ∧
      (((paged true).tower 0).moveDone true).isSome = true ∧ ((paged true).tower 0).stateq = [] ∧ ((paged true).tower 0).faults = [] ∧
      (let o := ((paged true).endMove 0 3).modTower 0 fun x => { x with faults := x.faults.filter fun e => e.1 != 3 }
       (o.roomFor ((paged true).handle 3) [] ((o.framesOf ((paged true).handle 3)).length + o.zeroCount ((paged true).handle 3))).map
         fun ps => o.slabsReady 0 ((ps.map (· / 256)).eraseDups)) = some true ∧ ((paged false).tower 0).stateq = [] ∧ ((paged false).touchState 3).stateAwake 3 = true ∧
      (((paged false).tower 0).moveDone false).isSome = true ∧
      ((moves 0).tower 0).stateq.find? (fun y => y.core == 0 && y.strand == 0 && y.started && y.reqs.isEmpty && y.busy == 0) = some op ∧
      arrives (moves 0x10000) = some true ∧ arrives (moves 0) = some false := by decide +kernel

theorem test_meets_TasksAndAccessesProceed :
    let r : TaskRec := { words := [65536, 0, 0, 0, 0, 0, 0, 9], delivered := [65536, 0, 0, 0, 0, 0, 0, 9], registered := true, uid := 4 }
    let pool (f : Pool → Pool) : Map Pool := [(0, f { launch := 1, job := 1, guarded := false })]
    let send := taskSite 8 [] 1 (pool fun p => { p with queue := [r] })
    let ring := taskSite 8 [] 1 (pool fun p => { p with ringq := [r], ring := 0x100000, ringHead := 63 })
    let z : Staged := { words := r.words, orig := r.words, uid := 4, pool := 0, guarded := false, stagedAt := 0 }
    let start := (send.modCore 0 fun c => { c with staging := [z] }).modStrand 0 0 fun x => { x with st := .parked .task }
    let e : SqEntry := { uid := 8, strand := 0, cls := 1, kind := .store, job := 1, va := 131072, pa := 131072, bytes := [1] }
    let queue (s : State) (f : List FenceMark) : State := (s.modCore 0 fun c => { c with sq := [e] }).modStrand 0 0 fun x => { x with fences := f }
    let mark : FenceMark := { mask := 2, scope := 2, dup := false, uid := 3, due := 0 }
    let clear (s : State) (m : FenceMark) : Bool := let a := s.fenceActs 0 0 m []; a.1.fenceClear 0 0 a.2
    let w : Watch := { line := 2048, va := 131072, snap := List.replicate 64 1, entered := false, triggered := false }
    let watch := siteS fun x => { x with st := .parked .watch, watch := some w }
    (send.nextAssignment 0).map (fun a => (a.1, a.2.1, a.2.2.1)) = some (0, 0, r) ∧ start.nextStart 0 = some (0, z) ∧
      (ring.pool? 0 0).map (fun p => (decide (p.queue.length < 32), decide (p.refillAt ≤ ring.now), (ring.tower 0).discarding 0, p.ringq)) = some (true, true, false, [r]) ∧
      ((ring.pool? 0 0).map fun p => ring.vmay p.job (p.ringAddr p.ringHead) 64) = some true ∧ watch.umbraMay (watch.jobOf 0) (w.line * 64) 64 false = true ∧
      ((ring.pool? 0 0).map fun p => match ring.vread p.job (p.ringAddr p.ringHead) 64 with | .ok (_, po) => po | .error _ => true) = some false ∧
      ((queue site []).core 0).sq[0]? = some e ∧ (queue site []).mayPerform 0 e = true ∧ (queue site [mark]).mayPerform 0 e = false ∧
      ((queue site [mark]).strand 0 0).fences = [mark] ∧ mark.due ≤ site.now ∧ mark.scope < 3 ∧ clear (queue site [mark]) mark = true ∧
      (([0, 1, 2, 3, 4, 5] : List Nat).all fun n => clear (siteS fun x => { x with fences := [{ mark with scope := n }] }) { mark with scope := n }) = true ∧
      clear { siteS fun x => { x with fences := [{ mark with scope := 5 }] } with hostAcks := [(0, 0, 1, 99)] } { mark with scope := 5 } = false ∧ ((siteS fun x => { x with xlinv := some 0 }).strand 0 0).xlinv = some 0 ∧
      (watch.strand 0 0).st = .parked .watch ∧ (watch.strand 0 0).watch = some w ∧ region (w.line * 64) ≠ 1 ∧ rdBytes watch.mem (w.line * 64) 64 ≠ w.snap := by decide +kernel


/-! ## The host, the links, starts -/

theorem test_meets_HostAccesses :
    let words (a c : Word) : List Word := [a, c, 0, 1, 0, 0, 0x0000840000000000, 0]
    let fn (f : Fn) : State := { taskSite 8 [] 1 [(0, { launch := 1, job := 1, guarded := false })] with fns := [(32, f), (0, f)] }
    let off := fn {}
    let full := off.modTower 11 fun x => { x with lq := [(7, List.replicate 64 default)] }
    let moving := off.modTower 0 fun x => { x with migr := [{ job := 1, va := 0, bits := 16, old := 2 ^ 36 - 65536, new := 2 ^ 37, frozen := true, due := 9 }] }
    let on := fn { eqcfg := 0x306, bound := some 1, held := [[1]], msixDue := true, eqhead := 5, eqtail := 7 }
    (words 65536 0).length = 8 ∧ recJob (words 65536 0) = 1 ∧ (off.job? 1).map (·.latency) = some false ∧ (on.fn 32).bound = some 1 ∧ (off.fn 32).bound = none ∧
      (mget (off.tower 11).lq 7 []).length < 64 ∧ 64 ≤ (mget (full.tower 11).lq 7 []).length ∧ (full.job? 1).map (·.latency) = some (decide (7 < 4)) ∧
      (off.job? 1).map (·.latency) ≠ some (decide (3 < 4)) ∧ barRange 32 0xC100 = false ∧ barRange 0 0x70800 = false ∧
      ((off.pool? 0 0).map fun p => (p.finished, p.closed, p.job, taskBad (words 65536 0) p.guarded, taskBad (words 0 0x80) p.guarded)) = some (false, false, 1, false, false) ∧
      bitOf (tCtl (words 65536 0)) 7 = false ∧ bitOf (tCtl (words 0 0x80)) 7 = true ∧ (off.acceptTask 0 0 (words 65536 0)).isSome = true ∧
      ((fn {}).modPool 0 0 fun p => { p with ringq := List.replicate 64 default }).acceptTask 0 0 (words 65536 0) = none ∧
      (off.fn 32).en = false ∧ (on.fn 32).en = true ∧ (7 - (on.fn 32).eqhead).toNat ≤ ((on.fn 32).eqtail - (on.fn 32).eqhead).toNat ∧
      ((on.fn 32).eqtail - (on.fn 32).eqhead).toNat < (8 - (on.fn 32).eqhead).toNat ∧ (on.fn 32).held = [[1]] ∧ (on.fn 32).full = false ∧ (on.fn 32).msixDue = true ∧
      (on.fn 32).eqcfg.toNat.testBit 9 = true ∧ (on.fn 32).msixLast = none ∧ region (2 ^ 36 - 8) = 0 ∧ frameOk (2 ^ 36 - 8) = true ∧ off.apbase.toNat = 0 ∧
      off.migrating (2 ^ 36 - 8) = false ∧ moving.migrating (2 ^ 36 - 8) = true ∧ (2 ^ 36 - 8) % 65536 + 8 ≤ 65536 ∧ 2 ^ 36 < 2 ^ 36 - 7 + 8 ∧
      (off.fn 0).en = false ∧ (on.fn 0).en = true := by decide +kernel

/-- Wherever the handle table stands, one of these eight bytes lie outside it. -/
theorem test_meets_HostAccesses_table (s : State) : ∃ pa, (pa = 0 ∨ pa = 2 ^ 36 - 8) ∧ ∀ i, i < 8 → s.handleByte (pa + i) = none := by
  have none_ (a : Nat) (h : a < Config.handleBase ∨ Config.handleBase + 2 ^ 30 ≤ a) : s.handleByte a = none := if_neg (by omega)
  by_cases h : Config.handleBase < 8
  · exact ⟨2 ^ 36 - 8, .inr rfl, fun i _ => none_ _ (.inr (by omega))⟩
  · exact ⟨0, .inl rfl, fun i _ => none_ _ (.inl (by omega))⟩

/-- A machine without jobs whose host memory holds, at address 0, the record of job 63 with a checkpoint area of `len` bytes, and in that area a commit record of an
empty image; tables map the low gigabyte. -/
def createSite (len : Word) : State :=
  let put (m : Memory) (e : Nat × Word) : Memory := wrWord m e.1 e.2
  { State.reset with
    mem := [(0x200000, 0xC0DE5A1E), (0x200008, 7), (0x1000000, 0x8000000001001000), (0x1001000, 0xF000000000000000), (2 ^ 46, 0x20013F), (2 ^ 46 + 8, 0xFFFF),
      (2 ^ 46 + 40, 1), (2 ^ 46 + 72, 0x1000000), (2 ^ 46 + 96, if len = 0 then 0 else 0x200000), (2 ^ 46 + 104, len)].foldl put []
    images := [([], { launches := [], gangs := [], towers := [], states := [] })] }

def made (len : Word) : Option (Nat × Nat × Nat) := match (createSite len).createCheck 0 with | .ok j => some (j.num, j.fn, j.ckptLen) | .error _ => none

def committed (s : State) : Option (Option (Word × Nat × List Byte)) :=
  match s.createCheck 0 with | .ok j => some (((s.createJob j).areaRead j).commitBest j) | .error _ => none

def rebuilt (len : Word) : Bool :=
  match (createSite len).createCheck 0 with
  | .ok j => let u := ((createSite len).createJob j).areaRead j
    ((u.images.find? fun e => e.1 == []).any fun e => (u.rebuild j.num e.2).isSome) && (u.deviceCount - 1) % 16 == 0 && u.topology == 0
  | .error _ => false

theorem test_meets_MailboxCommands : made 4096 = some (63, 32, 4096) ∧ made 0 = some (63, 32, 0) ∧
    (match (createSite 0).createCheck 128 with | .ok _ => false | .error _ => true) = true ∧ committed (createSite 4096) = some (some (7, 0, [])) ∧ rebuilt 4096 = true ∧
    committed { createSite 4096 with mem := wrWord (createSite 4096).mem 0x200000 0 } = some none := by decide +kernel

/-- A checkpoint of job 1 at the given point. -/
def checkpointSite (r : Option CkptRun) : State := { (site.modJob 1 fun j => { j with ckptLen := 4096 }) with ckpt := [1], ckptRun := r, gangs := [] }

/-- Its other clauses: CLOSE of a job that is not, of one with launches, with FORCE and without launches; addresses at their limit; parameters at the ends of their ranges and
just outside, for tower 11 and for none; a start with one value of START still to come, answered or not; a checkpoint before, at and after its image. -/
theorem test_meets_MailboxCommands_rest :
    (([0x3F, 1, 0x101] : List Word).all fun a => bits a 63 9 == 0 && bits a 7 6 == 0) = true ∧ (site.job? (bits 0x3F 5 0)).isNone = true ∧ (site.job? (bits 1 5 0)).isSome = true := by decide

theorem test_meets_MailboxCommands_close :
    bitOf 1 8 = false ∧ site.hasLaunches 1 = true ∧ bitOf 0x101 8 = true ∧ ({ site with launches := [] } : State).hasLaunches 1 = false := by decide

theorem test_meets_MailboxCommands_limits :
    bits 1 63 1 = 0 ∧ 1 < (2 : Word).toNat ∧ bits 0x1FFFFFFFFFFF 63 45 = 0 ∧ site.ckpt = [] ∧ (11 : Word).toNat ≤ 11 ∧ bits 0xFFFFF 63 20 = 0 ∧ 11 < (12 : Word).toNat ∧ (12 : Word) ≠ 0 ∧
      (16 : Word).toNat ≤ 16 ∧ 16 < (17 : Word).toNat ∧ (0xFFFF : Word).toNat < 65536 ∧ 65536 ≤ (0x10000 : Word).toNat ∧ 2 ^ 20 ≤ (0x100000 : Word).toNat ∧
      (0x1FFFFF0000 : Word).toNat % 65536 = 0 ∧ (0x1FFFFF0000 : Word).toNat < 2 ^ 48 ∧ region (0x1FFFFF0000 : Word).toNat = 0 ∧ frameOk (0x1FFFFF0000 : Word).toNat = true ∧
      (15 : Word).toNat < 16 ∧ 16 ≤ (16 : Word).toNat ∧ (16 : Word) ≠ 0xFF ∧ 13 < (14 : Word).toNat := by decide

theorem test_meets_MailboxCommands_starts :
    let s : State := { State.reset with startNext := [5], mailbox := { State.reset.mailbox with busy := true } }
    s.powered = true ∧ s.turn = .start ∧ (∀ e ∈ s.agenda, s.now < e.1) ∧ s.mailbox.busy = true ∧ ({ s with startNext := [4, 5] } : State).startNext = 4 :: [5] := by decide

theorem test_meets_MailboxCommands_checkpoints :
    (checkpointSite none).ckpt.head? = some 1 ∧ ((checkpointSite none).job? 1).map (fun j => (j.halted, j.ckptLen)) = some (false, 4096) ∧
      (checkpointSite (some { job := 1 })).ckptRun.map (·.step) = some 0 ∧ (∀ e ∈ (checkpointSite none).gangs, e.2.job = 1 → e.2.phase = .saved) ∧
      (checkpointSite (some { job := 1, step := 2 })).ckptRun.map (fun r => (r.step, r.status)) = some (2, 0) ∧ (checkpointSite none).acksIn 1 = true := by decide

theorem crc64_zeros (n : Nat) : crc64 (List.replicate n 0) = 0 := by
  unfold crc64
  induction n with
  | zero => rfl
  | succ n ih => rw [List.replicate_succ, List.foldl_cons, show crcByte 0 0 = 0 by decide, ih]

/-- A flit of 248 zero bytes with the check bytes given. -/
def zeroFlit (check : List Byte) : List Byte := List.replicate 248 0 ++ check

theorem test_flit_check : flitIntact (zeroFlit (List.replicate 8 0)) = true ∧ flitIntact (zeroFlit [0, 0, 0, 0, 0, 0, 0, 1]) = false := by
  have h (c : List Byte) : (zeroFlit c).take 248 = List.replicate 248 0 := List.take_left' List.length_replicate
  constructor <;> (unfold flitIntact; rw [h, crc64_zeros]; decide +kernel)

/-- An address of tower 11, with no error in the window, with a first retry and after four failed on lane 31; spares left, and none; readings of 109.9 and 110.0 degrees; a port up and one down; flits of the test before. -/
theorem test_meets_ErrorsLinksAndPower :
    let addr : Word := 11 * 2 ^ 37 + 0x12345E0
    let st := stackOf addr.toNat
    let pc := channelOf addr.toNat
    let s (n : Nat) (l : Map (Nat × Nat × Nat)) : State := site.modTower 11 fun t => { t with spares := [(st * 64 + pc, n)], laneFails := l }
    let tried : Map (Nat × Nat × Nat) := [(addr.toNat / 32, 31, 4, 6)]
    let up : State := site.setPort 15 { up := true }
    ofTower 11 addr = true ∧ ofTower 10 addr = false ∧ ofChannel 11 st pc addr = true ∧ mget ((s 1 []).tower 11).layerErr (st * 16 + bits (0x1E0000000000 : Word) 44 41) 0 = 0 ∧
      ((s 1 []).tower 11).retries addr 31 = (31, 0, 0) ∧ ((s 1 tried).tower 11).retries addr 31 = (31, 4, 6) ∧
      mget ((s 1 tried).tower 11).spares (st * 64 + pc) 0 < 2 ∧ 2 ≤ mget ((s 2 tried).tower 11).spares (st * 64 + pc) 0 ∧ meshLink 11 7 = true ∧ meshLink 0 11 = false ∧
      (1099 : Int) < 1100 ∧ site.tripDue = none ∧ ({ site with tripDue := some 9 } : State).tripDue.isSome = true ∧ (up.port 15).up = true ∧ (site.port 15).up = false ∧
      (headerWord (w64 (ofLE ((zeroFlit (List.replicate 8 0)).take 8)))).nak = false ∧
      ((site.setPort 15 { up := true, retrainDue := some 5 }).port 15).retrainDue.isSome = true ∧ (default : ConfigRecord).fwSigOk = false := by decide +kernel


/-! ## Encodings, the step, the machine as a whole -/

/-- Fields at their largest values: an immediate of −16,384 with its lend byte, the largest registers. -/
theorem test_meets_DecodeOfEncode :
    let i : Instr := .addi 15 63 63 (-16384)
    i.wf = true ∧ (encode i).isSome = true ∧ ((encode i).map fun e => (decide (e.1 < 2 ^ 31), decide (e.2 < 256))) = some (true, true) := by decide

theorem test_meets_EncodeOfDecode : (0xBFFFFFFF : Nat) < 2 ^ 32 ∧ (match decodeSyl 0x080082E8 7, decodeSyl 0x880082E8 255 with | .ok _, .ok _ => true | _, _ => false) = true := by
  decide

/-- The group that a placed word makes: one syllable that decodes, and one that does not; and a bundle without header that holds a NOP at each place. -/
theorem test_meets_StepRunsDecoded :
    let s (w : Nat) : State := State.reset.withFetchWord 32 w
    let ok (w : Nat) : Bool := match (s w).fetchGroup 0 65540 with
      | .ok f => f.bundles.all ((s w).bundleMay 0) && f.enc == [] && (match f.syls with | [y] => (match decodeOp y.word y.lend with | .ok _ => 0 | .error (_, none) => 1 | .error (_, some _) => 2) == (if w = 0x000061C8 then 0 else if w = 0x10260000 then 1 else 2) | _ => false)
      | .error _ => false
    let n : State := { State.reset.withFetchWord 32 0 with mem := wrBytes [] 65536 ((List.replicate 4 0xA8240000).flatMap fun v => toLE 4 v) }
    ([0x000061C8, 0x10260000, 0xA8240001].all fun w => ok w && (s w).powered && (s w).turn == .core 0 && (s w).nextCore 0 == some 0 && !(s w).frozenNow 0 && ((s w).core 0).gap == 0 &&
        ((s w).core 0).run == some 0 && (s w).mayIssue 0 0 && ((s w).strand 0 0).xlinv == none && ((s w).strand 0 0).stub == none && ((s w).strand 0 0).spc == 65540) = true ∧
      ([65536, 65540, 65544, 65548].all fun (a : Word) => bits a 63 57 == 0 && n.xlate 0 (n.jobOf 0) 65536 == .ok fetchTlb && region (fetchTlb.pa 65536) == 0 && fetchTlb.x &&
        fld (ofLE (rdBytes n.mem (fetchTlb.pa 65536) 4)) 27 4 != 15 && stopBit (ofLE (rdBytes n.mem (fetchTlb.pa 65536 + 4 * (a.toNat / 4 % 4)) 4))) = true := by decide +kernel

theorem test_meets_NoStopWhilePowered :
    let off (l : List (Nat × Instr)) : State := { State.reset with powered := false, agenda := l }
    State.reset.powered = true ∧ (off []).powered = false ∧ (∀ e ∈ (off []).agenda, ∀ c, e.2 ≠ .coldStart c) ∧ ∃ e ∈ (off [(0, .coldStart default)]).agenda, ∃ c, e.2 = .coldStart c :=
  ⟨rfl, rfl, fun _ h => (List.not_mem_nil h).elim, (0, .coldStart default), List.mem_cons_self .., default, rfl⟩

/-- Every operation of the statement reaches a next state. -/
theorem test_meets_RegisterFrame : ([.add 0 1 2 3, .sub 0 1 2 3, .and_ 0 1 2 3, .or_ 0 1 2 3, .xor 0 1 2 3, .andn 0 1 2 3, .shl 0 1 2 3, .shr 0 1 2 3, .sra 0 1 2 3, .rot 0 1 2 3,
    .mul 0 1 2 3, .mulh 0 1 2 3, .min 0 1 2 3, .max 0 1 2 3, .sel 0 1 2 3 4, .clz 0 1 2, .popc 0 1 2, .brev 0 1 2, .addi 0 1 2 3, .andi 0 1 2 3, .shli 0 1 2 3, .muli 0 1 2 3,
    .movi 0 1 2, .movw 0 1 2 3, .div 0 1 2 3, .remu 0 1 2 3, .cmp 0 .eq 3 1 2, .cmpi 0 .eq 3 1 2, .pand 0 1 2 3, .pnot 0 1 2, .fadd 0 1 2 3 true, .fmul 0 1 2 3 true, .ffma 0 1 2 3 true,
    .fdiv 0 1 2 3 true, .fsqrt 0 1 2 true, .fmin 0 1 2 3 true, .fneg 0 1 2 true, .fmov 0 1 2 true, .fnum 0 1 2 true, .fmake 0 1 2 3 true, .fcmp 0 .eq 3 1 2, .aadd 0 1 2 3, .aset 0 1 2,
    .amset 0 1 2 3, .sysrd 0 1 2, .cntrd 0 1 0x205, .cntrdc 0 2 0x205, .nop 0, .vadd 0 1 2 3, .vmul 0 1 2 3, .vfma 0 1 2 3, .vsel 0 1 2 3 4, .vshl 0 1 2 3, .vcmp 0 .eq 1 2 3, .vshuf 0 1 2 3,
    .vrot 0 1 2 3, .vunpk 0 1 2 0 true, .vreds 0 1 2, .vidx 0 1, .vbcast 0 1 2, .vext 0 1 2 3, .vins 0 1 2 3, .vexp 0 1 2, .vrcp 0 1 2, .tlook 0 1 2, .epoll 0 1 2,
    .mulhu 0 1 2 3, .minu 0 1 2 3, .maxu 0 1 2 3, .ctz 0 1 2, .sext 0 1 2 3, .zext 0 1 2 3, .ori 0 1 2 3, .xori 0 1 2 3, .shri 0 1 2 3, .srai 0 1 2 3, .mini 0 1 2 3, .maxi 0 1 2 3,
    .divu 0 1 2 3, .rem 0 1 2 3, .por 0 1 2 3, .pxor 0 1 2 3, .pandn 0 1 2 3, .pmov 0 1 2, .fsub 0 1 2 3 true, .fmax 0 1 2 3 true, .fabs 0 1 2 true, .fclass 0 1 2 true, .fden 0 1 2 true,
    .fcvt 0 1 2 0 1, .frnd 0 1 2 3 true, .cntsnap 0, .br 0 1, .call 0 1 2, .brx 0 1, .ret 0 1, .vsub 0 1 2 3, .vmin 0 1 2 3, .vmax 0 1 2 3, .vabs 0 1 2, .vneg 0 1 2, .vand 0 1 2 3,
    .vor 0 1 2 3, .vxor 0 1 2 3, .vnot 0 1 2, .vshr 0 1 2 3, .vsra 0 1 2 3, .vshli 0 1 2 3, .vshri 0 1 2 3, .vsrai 0 1 2 3, .vaddi 0 1 2 3, .vmovi 0 1 2, .vcvt 0 1 2 33 32 true,
    .vpack 0 1 2 3 0 true, .vredm 0 1 2 true, .vdot4 0 1 2 3 true false, .vcmx 0 1 2 3, .vlog 0 1 2, .vrsq 0 1 2, .vtanh 0 1 2, .vsig 0 1 2, .vsin 0 1 2, .vcos 0 1 2, .verf 0 1 2,
    .qcnt 0 1 2] : List Instr).all
      (fun i => match exec i full with | .next _ => true | _ => false) = true := by decide +kernel

/-- A branch that does not end at s3, ROW in an unmarked group; a guard that is false, without and with a pending destination. -/
theorem test_meets_GuardAndEncodingChecks :
    let p := siteS fun x => { x with pend := [{ dests := [.x 5], vals := [.w 1], due := none, tag := 1 }] }
    (gopOf (.br 0 1) site).isSome = true ∧ lowest (encBad site.cur [site.infoOf (.br 0 1)]) = some (0, 8) ∧ lowest (encBad site.cur [site.infoOf (.row 0)]) = some (0, 13) ∧
      (site.strand 0 0).th = false ∧ encBad site.cur [site.infoOf (.add 15 5 1 2)] = [] ∧ (site.opened (.add 15 5 1 2)).guardOk (site.infoOf (.add 15 5 1 2)) = false ∧
      pendingStops (site.strand 0 0) (site.infoOf (.add 15 5 1 2)) = [] ∧ encBad p.cur [p.infoOf (.add 15 5 1 2)] = [] ∧
      (p.opened (.add 15 5 1 2)).guardOk (p.infoOf (.add 15 5 1 2)) = false ∧ (p.infoOf (.add 15 5 1 2)).dests.any (fun r => !r.isPort && !r.isNull && (p.strand 0 0).isPending r) = true ∧
      (p.strand 0 0).th = false := by decide

theorem test_meets_StepKeepsMemoryForm : Memory.wf State.reset.mem = true ∧ Memory.wf (State.reset.withFetchWord 32 0x000061C8).mem = true ∧
    (match step (State.reset.withFetchWord 32 0x000061C8) with | .next t => !t.mem.isEmpty | _ => false) = true := by decide +kernel

end Sys2Proof.Tests
end

section
/-! Proofs of what the device does about memory errors, hot readings, links and starts (R384 to R388, R393, R402 to R411). First the facts about
maps, words, towers and ports that they need, one for each operation of the state; then one lemma for each event; the obligation puts these together. -/

namespace Sys2Proof.Machine

/-! ## Maps, byte memories and fields of words -/

@[simp] theorem mget_mdel_self {α : Type} (m : Map α) (k : Nat) (d : α) : mget (mdel m k) k d = d := by
  have h : mfind (mdel m k) k = none := by
    unfold mdel
    induction m with
    | nil => rfl
    | cons e r ih =>
      obtain ⟨j, v⟩ := e
      by_cases hj : j = k
      · simpa [List.filter_cons, hj] using ih
      · simpa [List.filter_cons, hj, mfind] using ih
  simp [mget, h]

@[simp] theorem mput_mput_self {α : Type} (m : Map α) (k : Nat) (v w : α) : mput (mput m k v) k w = mput m k w := by
  induction m with
  | nil => simp [mput]
  | cons e r ih =>
    obtain ⟨j, u⟩ := e
    by_cases hj : j = k
    · simp [mput, hj]
    · by_cases hk : k < j
      · simp [mput, hj, hk]
      · simp [mput, hj, hk, ih]

/-- A memory kept where p holds of the address reads as before there, and as zero elsewhere. -/
theorem rdByte_filter (p : Nat → Bool) (m : Memory) (a : Nat) : rdByte (m.filter fun c => p c.1) a = if p a then rdByte m a else 0 := by
  induction m with
  | nil => simp [rdByte]
  | cons c r ih =>
    obtain ⟨x, b⟩ := c
    by_cases hx : x = a
    · subst hx
      by_cases hp : p x
      · simp [hp, rdByte]
      · simp [hp, ih]
    · by_cases hp : p x
      · simp [hp, rdByte, hx, ih]
      · simp [hp, rdByte, hx, ih]

/-- A replaced field stands between the bits above it and the bits below it. -/
theorem toNat_setBits (x : Word) {hi lo : Nat} (v : Nat) (hlo : lo ≤ hi) (hhi : hi < 64) :
    (setBits x hi lo v).toNat = x.toNat / 2 ^ (hi + 1) * 2 ^ (hi + 1) + v % 2 ^ (hi + 1 - lo) * 2 ^ lo + x.toNat % 2 ^ lo := by
  have hpow : 2 ^ (hi + 1) = 2 ^ lo * 2 ^ (hi + 1 - lo) := by rw [← pow_add]; congr 1; omega
  have hw : 2 ^ 64 = 2 ^ (hi + 1) * 2 ^ (63 - hi) := by rw [← pow_add]; congr 1; omega
  have hsplit := Nat.mod_add_div x.toNat (2 ^ lo)
  have hfield := Nat.mod_add_div (x.toNat / 2 ^ lo) (2 ^ (hi + 1 - lo))
  have hupper : x.toNat / 2 ^ (hi + 1) < 2 ^ (63 - hi) := by
    rw [Nat.div_lt_iff_lt_mul (by positivity), Nat.mul_comm, ← hw]; exact x.isLt
  have hv := Nat.mod_lt v (show 0 < 2 ^ (hi + 1 - lo) by positivity)
  have hr := Nat.mod_lt x.toNat (show 0 < 2 ^ lo by positivity)
  have hq : x.toNat / 2 ^ lo / 2 ^ (hi + 1 - lo) = x.toNat / 2 ^ (hi + 1) := by rw [Nat.div_div_eq_div_mul, hpow]
  rw [hq] at hfield
  unfold setBits bits
  rw [BitVec.toNat_ofNat]
  generalize x.toNat / 2 ^ (hi + 1) = top at *
  generalize x.toNat % 2 ^ lo = low at *
  generalize x.toNat / 2 ^ lo % 2 ^ (hi + 1 - lo) = mid at *
  generalize v % 2 ^ (hi + 1 - lo) = new at *
  have hx : x.toNat = top * 2 ^ (hi + 1) + mid * 2 ^ lo + low := by
    rw [← hsplit, ← hfield, hpow]; ring
  have hsub : x.toNat - mid * 2 ^ lo + new * 2 ^ lo = top * 2 ^ (hi + 1) + new * 2 ^ lo + low := by omega
  rw [hsub]
  refine Nat.mod_eq_of_lt ?_
  calc top * 2 ^ (hi + 1) + new * 2 ^ lo + low
      < top * 2 ^ (hi + 1) + (new + 1) * 2 ^ lo := by rw [Nat.add_one_mul]; omega
    _ ≤ top * 2 ^ (hi + 1) + 2 ^ (hi + 1 - lo) * 2 ^ lo := by gcongr; exact hv
    _ = (top + 1) * 2 ^ (hi + 1) := by rw [hpow]; ring
    _ ≤ 2 ^ (63 - hi) * 2 ^ (hi + 1) := by gcongr; exact hupper
    _ = 2 ^ 64 := by rw [hw]; ring

/-- START with a runtime stop reads failed, step 7, and the code (R411). -/
theorem bits_stopWord (w : Word) {code : Nat} (h : code < 256) :
    bits (stopWord w code) 63 60 = 2 ∧ bits (stopWord w code) 59 56 = 7 ∧ bits (stopWord w code) 55 48 = code := by
  have hw := w.isLt
  simp only [bits, stopWord, toNat_setBits _ _ (show 48 ≤ 55 by decide) (by decide), toNat_setBits _ _ (show 56 ≤ 59 by decide) (by decide),
    toNat_setBits _ _ (show 60 ≤ 63 by decide) (by decide)]
  omega

/-- START's state, step and code are read back from it (R411). -/
theorem bits_startWord {state step code try_ refused : Nat} (hstate : state < 16) (hstep : step < 16) (hcode : code < 256) (htry : try_ < 16)
    (href : refused < 4096) :
    bits (startWord state step code try_ refused) 63 60 = state ∧ bits (startWord state step code try_ refused) 59 56 = step ∧
      bits (startWord state step code try_ refused) 55 48 = code := by
  simp only [bits, startWord, w64, BitVec.toNat_ofNat]
  omega

/-! ## Towers and ports under an update -/

@[simp] theorem tower_setTower_self (s : State) (t : Nat) (x : Tower) : (s.setTower t x).tower t = x := by simp [State.tower]
@[simp] theorem tower_modTower_self (s : State) (t : Nat) (f : Tower → Tower) : (s.modTower t f).tower t = f (s.tower t) := by simp [State.modTower]
@[simp] theorem port_setPort_self (s : State) (p : Nat) (x : Port) : (s.setPort p x).port p = x := by simp [State.port]
@[simp] theorem setPort_setPort_self (s : State) (p : Nat) (x y : Port) : (s.setPort p x).setPort p y = s.setPort p y := by simp [State.setPort]

/-- What an acknowledgement covers does not take a port down. -/
@[simp] theorem acked_up (x : Port) (ack : Nat) : (x.acked ack).up = x.up := by unfold Port.acked; split <;> rfl

@[simp] theorem logArray_cntOf (x : Tower) (e : List Word) (n : Nat) : (x.logArray e).cntOf n = x.cntOf n := rfl
@[simp] theorem logArray_layerErr (x : Tower) (e : List Word) : (x.logArray e).layerErr = x.layerErr := rfl
@[simp] theorem logBus_cnt (x : Tower) (e : List Word) : (x.logBus e).cnt = x.cnt := rfl

/-! ## Error counters (R350, R360) -/

@[simp] theorem tower_requestCkpt (s : State) (t : Nat) : s.requestCkpt.tower t = s.tower t := rfl
theorem tower_selfTestDue (s : State) (b : Bool) (t : Nat) : ({ s with selfTestDue := b } : State).tower t = s.tower t := rfl

/-- An error on tower t changes its total, its windowed count and the requests made in the window, and nothing else of the tower. -/
theorem bumpErr_tower (s : State) (t e : Nat) : ∃ c r, (s.bumpErr t e).tower t =
    { s.tower t with cnt := mput (mput (s.tower t).cnt (0x120 + e) (satInc ((s.tower t).cntOf (0x120 + e)))) (0x130 + e) c, requested := r } := by
  unfold State.bumpErr State.bump
  dsimp only
  split <;> split <;>
    exact ⟨_, _, by simp only [tower_requestCkpt, tower_selfTestDue, tower_modTower_self, tower_setTower_self]; rfl⟩

/-- The total of the errors of kind e is one up. -/
theorem bumpErr_total (s : State) (t e : Nat) : ((s.bumpErr t e).tower t).cntOf (0x120 + e) = satInc ((s.tower t).cntOf (0x120 + e)) := by
  obtain ⟨c, r, h⟩ := bumpErr_tower s t e
  rw [h]
  simp [Tower.cntOf, mget_mput_ne _ _ _ (show 0x120 + e ≠ 0x130 + e by omega)]

/-- Every counter but the total and the windowed count of the kind stays. -/
theorem bumpErr_cntOf_ne (s : State) (t : Nat) {e n : Nat} (h1 : n ≠ 0x120 + e) (h2 : n ≠ 0x130 + e) :
    ((s.bumpErr t e).tower t).cntOf n = (s.tower t).cntOf n := by
  obtain ⟨c, r, h⟩ := bumpErr_tower s t e
  rw [h]
  simp [Tower.cntOf, mget_mput_ne _ _ _ h1, mget_mput_ne _ _ _ h2]

@[simp] theorem bumpErr_spares (s : State) (t e : Nat) : ((s.bumpErr t e).tower t).spares = (s.tower t).spares := by
  obtain ⟨c, r, h⟩ := bumpErr_tower s t e; rw [h]
@[simp] theorem bumpErr_layerErr (s : State) (t e : Nat) : ((s.bumpErr t e).tower t).layerErr = (s.tower t).layerErr := by
  obtain ⟨c, r, h⟩ := bumpErr_tower s t e; rw [h]
@[simp] theorem bumpErr_memPois (s : State) (t e : Nat) : (s.bumpErr t e).memPois = s.memPois := by
  unfold State.bumpErr; dsimp only; split <;> split <;> simp [State.requestCkpt]

/-! ## Poison (R384) -/

@[simp] theorem poisonSector_mem (s : State) (pa : Nat) : (s.poisonSector pa).mem = s.mem := rfl
@[simp] theorem poisonSector_tower (s : State) (pa t : Nat) : (s.poisonSector pa).tower t = s.tower t := rfl
theorem mem_poisonSector (s : State) (pa : Nat) : pa / 32 ∈ (s.poisonSector pa).memPois := List.mem_cons_self ..

/-! ## Events to the host touch no tower (R397) -/

@[simp] theorem trigger_towers (s : State) (l : List Nat) : (s.trigger l).towers = s.towers := by
  unfold State.trigger
  refine foldl_keeps (fun u : State => u.towers = s.towers) _ (fun u e hu => ?_) _ rfl
  refine foldl_keeps (fun u : State => u.towers = s.towers) _ (fun u i hu => ?_) _ hu
  dsimp only
  split
  · split
    · split <;> simpa using hu
    · exact hu
  · exact hu

@[simp] theorem putMem_towers (s : State) (cells : List Host.Cell) : (s.putMem cells).towers = s.towers := by simp [State.putMem, State.cleanSectors]

@[simp] theorem pushEvent_towers (s : State) (n : Nat) (r : List Word) : (s.pushEvent n r).towers = s.towers := by simp [State.pushEvent, State.poke]

@[simp] theorem deliverHeld_towers (s : State) (n m : Nat) : (s.deliverHeld n m).towers = s.towers := by
  induction m generalizing s with
  | zero => rfl
  | succ m ih =>
    unfold State.deliverHeld
    dsimp only
    split
    · split
      · rw [ih]; simp
      · rfl
    · rfl

@[simp] theorem postRecord_towers (s : State) (n : Nat) (r : List Word) : (s.postRecord n r).towers = s.towers := by
  unfold State.postRecord
  dsimp only
  split
  · simp
  · split <;> simp

@[simp] theorem postEvent_tower (s : State) (n ty job t htag : Nat) (ws : List Word) (u : Nat) : (s.postEvent n ty job t htag ws).tower u = s.tower u := by
  simp [State.tower, State.postEvent]

/-! ## Memory errors, retries, lane tests (R384 to R388) -/

/-- An array error at an address that the tower does not keep is none. -/
theorem exec_hbmArrayError_elsewhere {t : Nat} {addr : Word} (h : ofTower t addr = false) (unc : Bool) (loc : Word) (syms : Nat) (s : State) :
    exec (.hbmArrayError t unc loc addr syms) s = .next s := by
  simp [exec, execHbmArrayError, h]

/-- A corrected array error is counted; no byte is lost. -/
theorem hbmArrayError_corrected {t : Nat} {addr : Word} (h : ofTower t addr = true) (loc : Word) (syms : Nat) (s : State) :
    Ends (.hbmArrayError t false loc addr syms) s fun u =>
      (u.tower t).cntOf (0x120 + 2) = satInc ((s.tower t).cntOf (0x120 + 2)) ∧ u.mem = s.mem ∧ u.memPois = s.memPois := by
  refine ⟨_, by simp only [exec, execHbmArrayError, h, Bool.not_true, Bool.not_false, Bool.false_eq_true, if_false, if_true]; rfl, ?_, by simp, by simp⟩
  rw [bumpErr_total, tower_modTower_self, logArray_cntOf]

/-- An uncorrectable one, the first of its layer, is counted and poisons its sector. -/
theorem hbmArrayError_uncorrectable {t : Nat} {loc addr : Word} {s : State} (h : ofTower t addr = true)
    (hl : mget (s.tower t).layerErr (stackOf addr.toNat * 16 + bits loc 44 41) 0 = 0) (syms : Nat) :
    Ends (.hbmArrayError t true loc addr syms) s fun u =>
      (u.tower t).cntOf (0x120 + 3) = satInc ((s.tower t).cntOf (0x120 + 3)) ∧ addr.toNat / 32 ∈ u.memPois ∧ u.mem = s.mem := by
  refine ⟨_, by
    simp only [exec, execHbmArrayError, h, Bool.not_true, Bool.false_eq_true, if_false, if_true, bumpErr_layerErr, poisonSector_tower, tower_modTower_self,
      logArray_layerErr, hl, Nat.zero_add, Nat.not_ofNat_le_one, false_and]
    rfl, ?_, ?_, by simp⟩
  · rw [tower_setTower_self]
    refine Eq.trans (bumpErr_total _ t 3) ?_
    rw [poisonSector_tower, tower_modTower_self, logArray_cntOf]
  · rw [setTower_memPois, bumpErr_memPois]
    exact mem_poisonSector _ _

/-- The next retry of a burst whose lane test is not due is counted; where it passes the burst is done, where it fails the lane's failures in a row
go on. -/
theorem hbmParityRetry_next {t stack pc lane tries : Nat} {addr : Word} {s : State} (h : ofChannel t stack pc addr = true)
    (hr : tries = ((s.tower t).retries addr lane).2.2 + 1) (hn : ((s.tower t).retries addr lane).2.1 < 4) (wr : Bool) (mism : Half) (ok : Bool) :
    Ends (.hbmParityRetry t stack pc lane tries wr addr mism ok) s fun u =>
      (u.tower t).cntOf (0x120 + 4) = satInc ((s.tower t).cntOf (0x120 + 4)) ∧ u.mem = s.mem ∧
        ((u.tower t).retries addr lane).2.1 =
          if ok then 0 else if ((s.tower t).retries addr lane).1 = lane then ((s.tower t).retries addr lane).2.1 + 1 else 1 := by
  have hgo : ¬((!ofChannel t stack pc addr) = true ∨ tries ≠ ((s.tower t).retries addr lane).2.2 + 1 ∨ 4 ≤ ((s.tower t).retries addr lane).2.1) := by
    simp [h, hr, hn]
  refine ⟨_, by simp only [exec, execHbmParityRetry]; rw [if_neg hgo], ?_, by simp, ?_⟩
  · rw [tower_modTower_self]
    refine Eq.trans ?_ (bumpErr_total s t 4)
    cases ok with
    | true => simp only [if_true, Tower.cntOf, logBus_cnt]
    | false => simp only [Bool.false_eq_true, if_false, Tower.cntOf]
  · rw [tower_modTower_self]
    cases ok <;> simp [Tower.retries]

/-- With a spare left, the lane test swaps the lane and counts the swap. -/
theorem laneSwap_spare {t stack pc lane tries : Nat} {addr : Word} {s : State} (h : ofChannel t stack pc addr = true)
    (hl : ((s.tower t).retries addr lane).1 = lane) (hn : 4 ≤ ((s.tower t).retries addr lane).2.1) (hr : tries = ((s.tower t).retries addr lane).2.2 + 1)
    (hs : mget (s.tower t).spares (stack * 64 + pc) 0 < 2) (wr : Bool) (mism : Half) :
    Ends (.laneSwap t stack pc lane tries wr addr mism) s fun u =>
      mget (u.tower t).spares (stack * 64 + pc) 0 = mget (s.tower t).spares (stack * 64 + pc) 0 + 1 ∧
        (u.tower t).cntOf (0x120 + 5) = satInc ((s.tower t).cntOf (0x120 + 5)) := by
  refine ⟨_, by
    simp only [exec, execLaneSwap, h, hl, hr, hs, Nat.not_lt.2 hn, if_true, Bool.not_true, Bool.false_eq_true, ne_eq, not_true, false_or, if_false]
    rfl, ?_, ?_⟩
  · simp
  · rw [postEvent_tower, bumpErr_total, bumpErr_cntOf_ne _ _ (by decide) (by decide), tower_modTower_self, tower_modTower_self]
    simp only [Tower.cntOf, logBus_cnt]

/-- Without one, the burst is poisoned. -/
theorem laneSwap_noSpare {t stack pc lane tries : Nat} {addr : Word} {s : State} (h : ofChannel t stack pc addr = true)
    (hl : ((s.tower t).retries addr lane).1 = lane) (hn : 4 ≤ ((s.tower t).retries addr lane).2.1) (hr : tries = ((s.tower t).retries addr lane).2.2)
    (hs : 2 ≤ mget (s.tower t).spares (stack * 64 + pc) 0) (wr : Bool) (mism : Half) :
    Ends (.laneSwap t stack pc lane tries wr addr mism) s fun u => addr.toNat / 32 ∈ u.memPois ∧ u.mem = s.mem := by
  refine ⟨_, by
    simp only [exec, execLaneSwap, h, hl, hr, Nat.not_lt.2 hs, Nat.not_lt.2 hn, Bool.not_true, Bool.false_eq_true, ne_eq, not_true, false_or, if_false,
      Nat.add_zero]
    rfl, mem_poisonSector _ _, by simp⟩

/-! ## Temperature and power (R393) -/

theorem sensorRead_below {deci : Int} (h : deci < 1100) (t die : Nat) (s : State) :
    Ends (.sensorRead deci t die) s fun u => u.tempDeci = deci ∧ u.tempAt = (t, die) ∧ u.jobs = s.jobs ∧ u.tripDue = s.tripDue :=
  ⟨{ s with tempDeci := deci, tempAt := (t, die) }, by simp [exec, execSensorRead, Int.not_le.2 h], rfl, rfl, rfl, rfl⟩

theorem exec_sensorRead_hot {deci : Int} (h : 1100 ≤ deci) (t die : Nat) {s : State} (hs : s.tripDue = none) :
    exec (.sensorRead deci t die) s =
      .next { ({ s with tempDeci := deci, tempAt := (t, die) } : State).haltAll with tripDue := some (s.now + 18000000) } := by
  simp [exec, execSensorRead, h, hs]

theorem powerRemoval_due {s : State} (h : s.tripDue.isSome = true) :
    Ends .powerRemoval s fun u => u.powered = false ∧ u.tripDue = none ∧ bits u.start 63 60 = 2 ∧ bits u.start 59 56 = 7 ∧ bits u.start 55 48 = 1 :=
  ⟨{ s with powered := false, tripDue := none, start := stopWord s.start 1 }, by simp [exec, execPowerRemoval, h], rfl, rfl, bits_stopWord _ (by decide)⟩

theorem exec_powerRemoval_notDue {s : State} (h : s.tripDue = none) : exec .powerRemoval s = .next s := by
  simp [exec, execPowerRemoval, h]

/-! ## Ports (R402 to R406) -/

/-- A flit that fails its check is answered with NAK and not taken. -/
theorem flitReceive_broken {port : Nat} {raw : List Byte} {s : State} (hp : port < 16) (hu : (s.port port).up = true) (hi : flitIntact raw = false) :
    Ends (.flitReceive port raw) s fun u => (u.port port).nakOut = true ∧ (u.port port).rxq = (s.port port).rxq ∧ u.mem = s.mem :=
  ⟨s.setPort port { s.port port with nakOut := true }, by simp [exec, execFlitReceive, Nat.not_le.2 hp, hu, hi], by simp⟩

theorem exec_flitReceive_down {port : Nat} {s : State} (hp : port < 16) (hu : (s.port port).up = false) (raw : List Byte) :
    exec (.flitReceive port raw) s = .next (s.trainFlit port raw) := by
  simp [exec, execFlitReceive, Nat.not_le.2 hp, hu]

/-- An intact flit without NAK: its acknowledgement and stops are obeyed, and the port takes it. -/
theorem exec_flitReceive_intact {port : Nat} {raw : List Byte} {s : State} (hp : port < 16) (hu : (s.port port).up = true) (hi : flitIntact raw = true)
    (hn : (headerWord (w64 (ofLE (raw.take 8)))).nak = false) :
    exec (.flitReceive port raw) s =
      .next ((s.setPort port (Port.take { (s.port port).acked (headerWord (w64 (ofLE (raw.take 8)))).ack with
        stopTx := (headerWord (w64 (ofLE (raw.take 8)))).stop } s.fabric raw)).pumpPort port) := by
  simp [exec, execFlitReceive, Nat.not_le.2 hp, hu, hi, hn]

theorem exec_linkRetrain_ok {port : Nat} {s : State} (h : (s.port port).retrainDue.isSome = true) :
    exec (.linkRetrain port true) s = .next ((s.setPort port { s.port port with retrainDue := none, retrained := true }).pumpPort port) := by
  simp [exec, execLinkRetrain, Option.isSome_iff_ne_none.1 h]

theorem exec_linkRetrain_failed {port : Nat} {s : State} (h : (s.port port).retrainDue.isSome = true) :
    exec (.linkRetrain port false) s = .next (s.portDown port) := by
  simp [exec, execLinkRetrain, Option.isSome_iff_ne_none.1 h]

/-! ## The mesh (R18, R407) -/

/-- Towers have a link where they are one hop apart. -/
theorem meshLink_iff_hops {a b : Nat} (ha : a < 12) (hb : b < 12) : meshLink a b = true ↔ hops a b = 1 := by
  simp only [meshLink, hops, ha, hb, decide_true, Bool.true_and, Bool.or_eq_true, Bool.and_eq_true, beq_iff_eq]
  omega

theorem exec_meshLinkFailure_retrained (a b : Nat) (s : State) : exec (.meshLinkFailure a b true) s = .next s := by
  simp [exec, execMeshLinkFailure]

theorem exec_meshLinkFailure_noLink {a b : Nat} (h : meshLink a b = false) (s : State) : exec (.meshLinkFailure a b false) s = .next s := by
  simp [exec, execMeshLinkFailure, h]

theorem meshLinkFailure_stops {a b : Nat} (h : meshLink a b = true) (s : State) :
    Ends (.meshLinkFailure a b false) s fun u => bits u.start 63 60 = 2 ∧ bits u.start 55 48 = 2 ∧ u.meshDown = s.meshDown ++ [(a, b)] := by
  obtain ⟨hstate, -, hcode⟩ := bits_stopWord s.start (show 2 < 256 by decide)
  exact ⟨{ s.haltAll with meshDown := s.meshDown ++ [(a, b)], start := stopWord s.start 2 }, by simp [exec, execMeshLinkFailure, h], hstate, hcode, rfl⟩

/-! ## Cold start (R410, R411) -/

/-- A firmware image whose signature does not hold ends the start in step 1 of its first attempt. -/
theorem startAttempts_unsigned {cfg : ConfigRecord} (h : cfg.fwSigOk = false) (train : Nat → Bool) (found : Option (List (BitVec 40))) (gmask : List Byte) :
    startAttempts (fun n => startAttempt cfg (train n) found gmask) 3 1 = ([], [startWord 0 1 0 1 0, startWord 2 1 1 1 0]) := by
  simp [startAttempts, startAttempt, h, startSteps]

theorem hostMem_rdByte (s : State) (a : Nat) : rdByte s.hostMem a = if region a = 2 then rdByte s.mem a else 0 := by
  simpa [State.hostMem] using rdByte_filter (fun x => region x == 2) s.mem a

/-- A cold start leaves nothing placed and no job, and of memory the host's alone; unsigned firmware is refused in step 1. -/
theorem coldStart_ends (cfg : ConfigRecord) (s : State) :
    Ends (.coldStart cfg) s fun u => u.now = 0 ∧ u.jobs = [] ∧ u.gangs = [] ∧ u.handles = [] ∧ u.cores = [] ∧ u.cfg = cfg ∧ u.powered = true ∧
      (cfg.fwSigOk = false → bits u.start 63 60 = 0 ∧ bits u.start 59 56 = 1 ∧ ∃ w, u.startNext = [w] ∧ bits w 63 60 = 2 ∧ bits w 59 56 = 1 ∧ bits w 55 48 = 1) ∧
      ∀ x, rdByte u.mem x = if region x = 2 then rdByte s.mem x else 0 := by
  obtain ⟨tables, words, hw⟩ : ∃ l w, startAttempts (fun n => startAttempt cfg (cfg.trainOk.getD (n - 1) true) (some cfg.newDefects) cfg.gmask) 3 1 = (l, w) :=
    ⟨_, _, rfl⟩
  refine ⟨_, by simp only [exec, execColdStart, hw]; rfl, rfl, rfl, rfl, rfl, rfl, rfl, rfl, fun h => ?_, hostMem_rdByte s⟩
  obtain ⟨-, rfl⟩ := Prod.mk.inj (hw.symm.trans (startAttempts_unsigned h _ _ _))
  obtain ⟨hstate, hstep, -⟩ := bits_startWord (state := 0) (step := 1) (code := 0) (try_ := 1) (refused := 0) (by decide) (by decide) (by decide) (by decide)
    (by decide)
  exact ⟨hstate, hstep, _, rfl, bits_startWord (by decide) (by decide) (by decide) (by decide) (by decide)⟩

/-- Settles O51: one lemma for each event, in the order of the statement. -/
theorem errorsLinksAndPower : Obligations.ErrorsLinksAndPower := by
  intro t stack pc lane tries port a b die wr ok loc addr syms mism deci raw cfg s
  exact ⟨fun h => hbmArrayError_corrected h loc syms s, fun h unc => exec_hbmArrayError_elsewhere h unc loc syms s, fun h hl => hbmArrayError_uncorrectable h hl syms,
    fun h hr hn => hbmParityRetry_next h hr hn wr mism ok, fun h hl hn hr hs => laneSwap_spare h hl hn hr hs wr mism,
    fun h hl hn hr hs => laneSwap_noSpare h hl hn hr hs wr mism, fun h => sensorRead_below h t die s, fun h hs => exec_sensorRead_hot h t die hs,
    powerRemoval_due, exec_powerRemoval_notDue, flitReceive_broken, fun hp hu => exec_flitReceive_down hp hu raw, exec_flitReceive_intact,
    exec_linkRetrain_ok, exec_linkRetrain_failed, meshLink_iff_hops, exec_meshLinkFailure_retrained a b s, fun h => exec_meshLinkFailure_noLink h s,
    fun h => meshLinkFailure_stops h s, coldStart_ends cfg s⟩

end Sys2Proof.Machine
end

section
/-! Proofs of the step in a core's turn (R32, R54, R57, R84, R357): the turn comes to the issue of the fetched group, a group of one syllable to its
instruction or its cause, and a bundle without header to the words of memory. -/

set_option Elab.async false -- as in the laws above: one proof at a time keeps the build within its memory

namespace Sys2Proof.Machine

/-! ## A core's turn -/

theorem map_id (o : Out) : (o.map fun t => t) = o := by cases o <;> rfl

/-- The state as the turn of core k begins, the next core's turn noted. -/
def State.inTurn (s : State) (k : Nat) : State := { s with turn := .core (k + 1) }

@[simp] theorem inTurn_core (s : State) (k j : Nat) : (s.inTurn k).core j = s.core j := rfl
@[simp] theorem inTurn_strand (s : State) (k j i : Nat) : (s.inTurn k).strand j i = s.strand j i := rfl
@[simp] theorem inTurn_frozenNow (s : State) (k j : Nat) : (s.inTurn k).frozenNow j = s.frozenNow j := rfl
@[simp] theorem inTurn_mayIssue (s : State) (k j i : Nat) : (s.inTurn k).mayIssue j i = s.mayIssue j i := rfl
@[simp] theorem inTurn_fetchGroup (s : State) (k j : Nat) (a : Word) : (s.inTurn k).fetchGroup j a = s.fetchGroup j a := rfl

/-- A step in the turn of core k takes that core's turn. -/
theorem step_core {s : State} {n k : Nat} (hp : s.powered = true) (ht : s.turn = .core n) (hn : s.nextCore n = some k) :
    step s = coreTurn k (s.inTurn k) := by
  simp [step, stepCycle, State.inTurn, hp, ht, hn]

/-- A core that is neither frozen nor in a gap, whose running strand may issue, takes that strand's turn. -/
theorem coreTurn_running {s : State} {k i : Nat} (hz : s.frozenNow k = false) (hg : (s.core k).gap = 0) (hr : (s.core k).run = some i)
    (hm : s.mayIssue k i = true) : coreTurn k s = (issueTurn k i s).map fun t => t.transferStart k := by
  simp [coreTurn, State.select, hz, hg, hr, hm]

/-- A fetched group whose bundles the gauge admits issues, in a strand that is in no drain stub and follows no XLINV. -/
theorem issueTurn_fetched {s : State} {k i : Nat} {f : Fetched} (hx : (s.strand k i).xlinv = none) (hs : (s.strand k i).stub = none)
    (hf : s.fetchGroup k (s.strand k i).spc = .ok f) (hb : ∀ b ∈ f.bundles, s.bundleMay k b = true) :
    issueTurn k i s = (let g := (f.bundles.foldl (fun z b => z.bundleUse k b) s).groupOf k i f; issueFetched g.2.1 g.2.2 g.1) := by
  have hall : f.bundles.all (s.bundleMay k) = true := List.all_eq_true.2 hb
  simp only [issueTurn, hx, hs, hf, hall, Option.isSome_none, Bool.false_eq_true, if_false, Bool.not_true, Bool.false_and]
  exact map_id _

/-! ## A group of one syllable -/

/-- An operation of class 3 that is its group's only one stands in the bundle where the group ends (R59). -/
theorem classThreeBad_singleton (y : Syl) : classThreeBad [y] = [] := by simp [classThreeBad]

/-- A mirror pair needs two operations (R70). -/
theorem ctx_mirror_le_one (f : Fetched) (k i : Nat) {n : Nat} (hn : n ≤ 1) : (f.ctx k i n).mirror = [] := by
  simp only [Fetched.ctx, List.filter_eq_nil_iff, decide_eq_true_eq]
  omega

/-- So the context does not tell one operation from none. -/
theorem ctx_le_one (f : Fetched) (k i : Nat) {n : Nat} (hn : n ≤ 1) : f.ctx k i n = f.ctx k i 1 := by
  have h := (ctx_mirror_le_one f k i hn).trans (ctx_mirror_le_one f k i le_rfl).symm
  unfold Fetched.ctx at h ⊢
  simp only at h ⊢
  rw [h]

/-- The state in which the group of the one syllable y issues. -/
def State.atSyl (s : State) (k i : Nat) (f : Fetched) (y : Syl) : State :=
  ({ s with cur := f.ctx k i 1 } : State).modStrand k i fun x => { x with spc := y.addr }

theorem groupOf_decoded (s : State) (k j : Nat) {f : Fetched} {y : Syl} {i : Instr} (hy : f.syls = [y]) (he : f.enc = [])
    (hd : decodeOp y.word y.lend = .ok i) : s.groupOf k j f = (s.atSyl k j f y, [], [i]) := by
  simp [State.groupOf, State.atSyl, hy, he, hd, decodeSyls, classThreeBad_singleton, Fetched.ctx]

theorem groupOf_undecoded (s : State) (k j : Nat) {f : Fetched} {y : Syl} {d : Nat} {o : Option Instr} (hy : f.syls = [y]) (he : f.enc = [])
    (hd : decodeOp y.word y.lend = .error (d, o)) : s.groupOf k j f = (s.atSyl k j f y, [(0, d)], o.toList) := by
  have ho : o.toList.length ≤ 1 := by cases o <;> simp
  simp only [State.groupOf, State.atSyl, hy, he, hd, decodeSyls, classThreeBad_singleton, List.nil_append, List.append_nil, ctx_le_one f k j ho]
  rw [show (f.ctx k j 1).start = y.addr by simp [Fetched.ctx, hy]]

/-- The lowest of a list that begins with a condition at position 0 stands there too, and has no higher detail. -/
theorem lowest_cons_zero (d : Nat) (l : List (Nat × Nat)) : ∃ c, lowest ((0, d) :: l) = some (0, c) ∧ c ≤ d := by
  cases h : lowest l with
  | none => exact ⟨d, by simp [lowest, h], le_rfl⟩
  | some e =>
    obtain ⟨p, c⟩ := e
    by_cases hc : p = 0 ∧ c < d
    · exact ⟨c, by simp [lowest, h, hc], hc.2.le⟩
    · exact ⟨d, by simp [lowest, h, hc], le_rfl⟩

/-- A group whose first syllable does not decode takes cause 0x01, with its detail or a lower one; with its own where no operation is known. -/
theorem issueFetched_undecoded (d : Nat) (o : Option Instr) (s : State) (hm : s.cur.mirror = []) :
    ∃ c, c ≤ d ∧ (o = none → c = d) ∧
      issueFetched [(0, d)] o.toList s = .next ((s.takeCause s.cur.core s.cur.strand 0x01 c 0 s.cur.start 0).spend) := by
  have hi : issueFetched [(0, d)] o.toList s = issueGroup [(0, d)] (o.toList.filterMap fun i => gopOf i s) s := rfl
  rw [hi]
  cases o with
  | none =>
    have hn : lowest ([(0, d)] ++ encBad s.cur []) = some (0, d) := by simp [encBad, portsBad, conflictsBad, lowest, hm]
    refine ⟨d, le_rfl, fun _ => rfl, ?_⟩
    unfold issueGroup
    simp only [Option.toList_none, List.filterMap_nil, List.map_nil, hn]
  | some i =>
    obtain ⟨c, hl, hc⟩ := lowest_cons_zero d (encBad s.cur (((some i).toList.filterMap fun i => gopOf i s).map (·.info)))
    refine ⟨c, hc, nofun, ?_⟩
    unfold issueGroup
    simp only [List.singleton_append, hl]

/-! ## The syllable of a bundle without header -/

theorem bundleAt_mapped {s : State} {k : Nat} {b : Word} {e : Tlb} (hb : bits b 63 57 = 0) (hx : s.xlate k (s.jobOf k) b.toNat = .ok e)
    (hr : region (e.pa b.toNat) = 0) (he : e.x = true) :
    s.bundleAt k b = .ok ((List.range 4).map fun i => ofLE (rdBytes s.mem (e.pa b.toNat + 4 * i) 4)) := by
  simp [State.bundleAt, hb, hx, hr, he]

/-- A syllable with its T bit set, in a bundle without header, is a group of its own; its words meet no condition (R55, R57). -/
theorem pieceOf_headerless {b : Word} {ws : Bundle} {p : Nat} (hh : headerOf ws = none) (ht : stopBit (ws.getD p 0) = true) (n : Nat) (first : Bool) :
    pieceOf b ws p n first = { syls := [⟨ws.getD p 0, 0, b, p⟩], enc := [], mirror := [], marked := false } := by
  have hl : lendOf none p = 0 := by cases p <;> rfl
  have hy : sylsFrom b ws none 4 p = [⟨ws.getD p 0, 0, b, p⟩] := by
    unfold sylsFrom
    simp only [hl, ht, or_true, if_true]
  simp [pieceOf, hh, firstPos, hy, fld]

theorem fetchGroup_headerless {s : State} {k : Nat} {a : Word} {ws : Bundle} (hb : s.bundleAt k (a &&& 0xFFFFFFFFFFFFFFF0) = .ok ws)
    (hh : headerOf ws = none) (ht : stopBit (ws.getD (a.toNat / 4 % 4) 0) = true) :
    s.fetchGroup k a =
      .ok { syls := [⟨ws.getD (a.toNat / 4 % 4) 0, 0, a &&& 0xFFFFFFFFFFFFFFF0, a.toNat / 4 % 4⟩], enc := [], mirror := [], marked := false } := by
  simp only [State.fetchGroup, hb, pieceOf_headerless hh ht]
  simp only [List.getLast?_singleton, Option.any_some, ht, if_true]

/-- The first syllable of a bundle without header is the word that memory holds at its address, a group of its own where its T bit is set. -/
theorem fetchGroup_mapped {s : State} {k : Nat} {a : Word} {e : Tlb} (hb : bits (a &&& 0xFFFFFFFFFFFFFFF0) 63 57 = 0)
    (hx : s.xlate k (s.jobOf k) (a &&& 0xFFFFFFFFFFFFFFF0 : Word).toNat = .ok e) (hr : region (e.pa (a &&& 0xFFFFFFFFFFFFFFF0 : Word).toNat) = 0) (he : e.x = true)
    {word : Nat → Nat} (hword : ∀ m, word m = ofLE (rdBytes s.mem (e.pa (a &&& 0xFFFFFFFFFFFFFFF0 : Word).toNat + 4 * m) 4))
    (hh : fld (word 0) 27 4 ≠ 15) (ht : stopBit (word (a.toNat / 4 % 4)) = true) :
    s.fetchGroup k a =
      .ok { syls := [⟨word (a.toNat / 4 % 4), 0, a &&& 0xFFFFFFFFFFFFFFF0, a.toNat / 4 % 4⟩], enc := [], mirror := [], marked := false } := by
  have hat := bundleAt_mapped hb hx hr he
  simp only [← hword] at hat
  have hget (m : Nat) (hm : m < 4) : ((List.range 4).map word).getD m 0 = word m := by simp [List.getD_eq_getElem?_getD, hm]
  have hpos := hget (a.toNat / 4 % 4) (Nat.mod_lt _ (by decide))
  have hhead : headerOf ((List.range 4).map word) = none := by rw [headerOf, hget 0 (by decide), if_neg hh]
  rw [fetchGroup_headerless hat hhead (by rw [hpos]; exact ht), hpos]

/-- The step in the turn of a core whose running strand fetches f is the issue of f (R32, R57, R357). -/
theorem step_fetched {s : State} {n k j : Nat} {f : Fetched} (hp : s.powered = true) (ht : s.turn = .core n) (hn : s.nextCore n = some k)
    (hz : s.frozenNow k = false) (hg : (s.core k).gap = 0) (hr : (s.core k).run = some j) (hm : s.mayIssue k j = true)
    (hx : (s.strand k j).xlinv = none) (hs : (s.strand k j).stub = none) (hf : s.fetchGroup k (s.strand k j).spc = .ok f)
    (hb : ∀ b ∈ f.bundles, (s.inTurn k).bundleMay k b = true) :
    step s = (let g := (f.bundles.foldl (fun z b => z.bundleUse k b) (s.inTurn k)).groupOf k j f
      (issueFetched g.2.1 g.2.2 g.1).map fun t => t.transferStart k) :=
  calc step s = coreTurn k (s.inTurn k) := step_core hp ht hn
    _ = (issueTurn k j (s.inTurn k)).map fun t => t.transferStart k := coreTurn_running (by simpa) (by simpa) (by simpa) (by simpa)
    _ = _ := by rw [issueTurn_fetched (by simpa) (by simpa) (by simpa) hb]

theorem decodeOp_of_decodeSyl {w e : Nat} {i : Instr} (h : decodeSyl w e = .ok i) : decodeOp w e = .ok i := by
  unfold decodeSyl at h
  split at h
  · next hd => rwa [← Except.ok.inj h]
  · exact nomatch h

/-- Settles O55: the step is the issue of the fetched group, which runs the one instruction that it holds or takes its cause. -/
theorem stepRunsDecoded : Obligations.StepRunsDecoded := by
  intro s n k j u a
  constructor
  case right =>
    intro e b p word hb hx hr he hh ht
    exact fetchGroup_mapped hb hx hr he (fun _ => rfl) hh ht
  intro f y v hp ht hn hz hg hr hm hx hs hf hy he hb
  have hstep := step_fetched hp ht hn hz hg hr hm hx hs hf hb
  refine ⟨fun i hi => ?_, fun d o ho => ?_⟩
  · rw [groupOf_decoded _ k j hy he (decodeOp_of_decodeSyl hi)] at hstep
    exact hstep
  · rw [groupOf_undecoded _ k j hy he ho] at hstep
    have hstart : (v.atSyl k j f y).cur.start = y.addr := by simp [State.atSyl, Fetched.ctx, hy]
    obtain ⟨c, hc, hcd, hi⟩ := issueFetched_undecoded d o (v.atSyl k j f y) (ctx_mirror_le_one f k j le_rfl)
    rw [hstart] at hi
    exact ⟨c, hc, hcd, hstep.trans (congrArg (fun z : Out => z.map fun t => t.transferStart k) hi)⟩

end Sys2Proof.Machine
end

section
/-! What the work on L1, the way home, the page walks and the tiles leaves alone: the gangs, the launches and the accepted state instructions, and of
a core all but its L1. -/

set_option Elab.async false -- as in the laws above: one proof at a time keeps the build within its memory

namespace Sys2Proof.Machine

/-- From s to u no gang, no launch and no accepted state instruction has changed. -/
structure KeepsWork (s u : State) : Prop where
  gangs : u.gangs = s.gangs
  launches : u.launches = s.launches
  stateq : ∀ t, (u.tower t).stateq = (s.tower t).stateq

/-- And of every core nothing but its L1 and the latent errors of its SRAMs. -/
structure OnlyL1 (s u : State) : Prop extends KeepsWork s u where
  core : ∀ k, ∃ l e, u.core k = { s.core k with l1 := l, errs := e }

/-! ## Any change of these kinds -/

namespace KeepsWork

variable {s u v : State}

theorem refl (s : State) : KeepsWork s s := ⟨rfl, rfl, fun _ => rfl⟩

theorem trans (h : KeepsWork s u) (h' : KeepsWork u v) : KeepsWork s v :=
  ⟨h'.gangs.trans h.gangs, h'.launches.trans h.launches, fun t => (h'.stateq t).trans (h.stateq t)⟩

theorem gang? (h : KeepsWork s u) (n : Nat) : u.gang? n = s.gang? n := by rw [State.gang?, h.gangs]; rfl
theorem launch? (h : KeepsWork s u) (n : Nat) : u.launch? n = s.launch? n := by rw [State.launch?, h.launches]; rfl

/-- A further change that leaves towers alone. -/
theorem step (h : KeepsWork s u) (hg : v.gangs = u.gangs) (hl : v.launches = u.launches) (ht : v.towers = u.towers) : KeepsWork s v :=
  ⟨hg.trans h.gangs, hl.trans h.launches, fun t => by rw [State.tower, ht]; exact h.stateq t⟩

theorem modTower (h : KeepsWork s u) (t : Nat) {f : Tower → Tower} (hf : ∀ x, (f x).stateq = x.stateq := by intro x; rfl) : KeepsWork s (u.modTower t f) := by
  refine ⟨h.gangs, h.launches, fun n => ?_⟩
  rw [← h.stateq n]
  by_cases hn : n = t
  · subst hn; rw [tower_modTower_self, hf]
  · simp [State.tower, mget_mput_ne _ _ _ hn]

theorem modCore (h : KeepsWork s u) (k : Nat) (f : Core → Core) : KeepsWork s (u.modCore k f) := h.step rfl rfl rfl
theorem modStrand (h : KeepsWork s u) (k i : Nat) (f : Strand → Strand) : KeepsWork s (u.modStrand k i f) := h.step rfl rfl rfl
theorem setStrand (h : KeepsWork s u) (k i : Nat) (x : Strand) : KeepsWork s (u.setStrand k i x) := h.step rfl rfl rfl
theorem modHandle (h : KeepsWork s u) (i : Nat) (f : HEntry → HEntry) : KeepsWork s (u.modHandle i f) := h.step rfl rfl rfl
theorem spend (h : KeepsWork s u) : KeepsWork s u.spend := h.step rfl rfl rfl

theorem foldl {α : Type} {f : State → α → State} (h : KeepsWork s u) (hf : ∀ v x, KeepsWork s v → KeepsWork s (f v x)) (l : List α) :
    KeepsWork s (l.foldl f u) :=
  foldl_keeps (KeepsWork s) f hf l h

end KeepsWork

namespace OnlyL1

variable {s u v : State}

theorem refl (s : State) : OnlyL1 s s := ⟨.refl s, fun _ => ⟨_, _, rfl⟩⟩

/-- A further change that leaves towers and cores alone. -/
theorem step (h : OnlyL1 s u) (hg : v.gangs = u.gangs) (hl : v.launches = u.launches) (ht : v.towers = u.towers) (hc : v.cores = u.cores) : OnlyL1 s v :=
  ⟨h.toKeepsWork.step hg hl ht, fun k => by rw [State.core, hc]; exact h.core k⟩

theorem spend (h : OnlyL1 s u) : OnlyL1 s u.spend := h.step rfl rfl rfl rfl
theorem setUid (h : OnlyL1 s u) (n : Nat) : OnlyL1 s { u with uid := n } := h.step rfl rfl rfl rfl
theorem poisonBytes (h : OnlyL1 s u) (pa n : Nat) : OnlyL1 s (u.poisonBytes pa n) := h.step rfl rfl rfl rfl

theorem modTower (h : OnlyL1 s u) (t : Nat) {f : Tower → Tower} (hf : ∀ x, (f x).stateq = x.stateq := by intro x; rfl) : OnlyL1 s (u.modTower t f) :=
  ⟨h.toKeepsWork.modTower t hf, h.core⟩

theorem modCore (h : OnlyL1 s u) (k : Nat) {f : Core → Core} 
    (hf : ∀ c, f c = { c with l1 := (f c).l1, errs := (f c).errs } := by intro c; rfl) : OnlyL1 s (u.modCore k f) := by
  refine ⟨h.toKeepsWork.modCore k f, fun j => ?_⟩
  obtain ⟨l, e, hj⟩ := h.core j
  by_cases hk : j = k
  · subst hk
    exact ⟨_, _, by rw [core_modCore_self, hf (u.core j), hj]⟩
  · exact ⟨l, e, by rw [core_modCore_ne u f hk, hj]⟩

theorem foldl {α : Type} {f : State → α → State} (h : OnlyL1 s u) (hf : ∀ v x, OnlyL1 s v → OnlyL1 s (f v x)) (l : List α) : OnlyL1 s (l.foldl f u) :=
  foldl_keeps (OnlyL1 s) f hf l h

/-! ## Counting errors (R217, R360) -/

theorem modJob (h : OnlyL1 s u) (j : Nat) (f : Job → Job) : OnlyL1 s (u.modJob j f) := by
  unfold State.modJob; split <;> exact h.step rfl rfl rfl rfl

theorem requestCkpt (h : OnlyL1 s u) : OnlyL1 s u.requestCkpt := h.step rfl rfl rfl rfl
theorem bump (h : OnlyL1 s u) (t n : Nat) : OnlyL1 s (u.bump t n) := h.modTower t

theorem noteSelfTest (h : OnlyL1 s u) (e : Nat) : OnlyL1 s (if e = 1 then { u with selfTestDue := true } else u) := by
  split; exacts [h.step rfl rfl rfl rfl, h]

theorem bumpErr (h : OnlyL1 s u) (t e : Nat) : OnlyL1 s (u.bumpErr t e) := by
  have hcount (c : Word) := ((h.bump t (0x120 + e)).modTower t (f := fun x => { x with cnt := mput x.cnt (0x130 + e) c })).noteSelfTest e
  unfold State.bumpErr
  dsimp only
  split
  · exact ((hcount _).modTower t).requestCkpt
  · exact hcount _

/-- The errors of words that are read are corrected and counted. -/
theorem bumpErrs (h : OnlyL1 s u) (t : Nat) (l : List SramErr) : OnlyL1 s (l.foldl (fun s e => if e.dbl then s else s.bumpErr t 0) u) :=
  h.foldl (fun _ _ hv => by split; exacts [hv, hv.bumpErr t 0]) l

theorem coreErrs (h : OnlyL1 s u) (k : Nat) (f : SramErr → Bool) : OnlyL1 s (u.coreErrs k f).1 := by
  unfold State.coreErrs
  dsimp only
  split
  · exact h
  · exact (h.bumpErrs _ _).modCore k (f := fun c => { c with errs := c.errs.filter fun e => !f e })

theorem towerErrs (h : OnlyL1 s u) (t : Nat) (f : SramErr → Bool) : OnlyL1 s (u.towerErrs t f).1 := by
  unfold State.towerErrs
  dsimp only
  split
  · exact h
  · exact (h.bumpErrs _ _).modTower t (f := fun x => { x with errs := x.errs.filter fun e => !f e })

theorem l1Checked (h : OnlyL1 s u) (k ln : Nat) (l : L1Line) : OnlyL1 s (u.l1Checked k ln l).1 := h.coreErrs k _

/-! ## L1 and the way home (R204, R209, R279) -/

theorem toOut (h : OnlyL1 s u) (k : Nat) (e : SqEntry) : OnlyL1 s (u.toOut k e) := ((h.setUid _).modTower _).spend

theorem dropLine (h : OnlyL1 s u) (k ln : Nat) : OnlyL1 s (u.dropLine k ln) := by
  unfold State.dropLine
  split
  · exact h
  · have hdel := h.modCore k (f := fun c => { c with l1 := mdel c.l1 ln })
    dsimp only
    split
    · exact hdel
    · exact ((hdel.l1Checked k ln _).setUid _).foldl (fun _ e hv => hv.toOut k e) _

theorem dropOthers (h : OnlyL1 s u) (k ln : Nat) : OnlyL1 s (u.dropOthers k ln) := by
  have hdrop (l : Map Core) : OnlyL1 s (l.foldl (fun s e => s.dropLine e.1 ln) u) := h.foldl (fun _ e hv => hv.dropLine e.1 ln) l
  unfold State.dropOthers
  dsimp only
  split
  · exact (hdrop _).dropLine k ln
  · exact hdrop _

theorem performL2 (h : OnlyL1 s u) (k : Nat) (e : SqEntry) : OnlyL1 s (u.performL2 k e) :=
  ((h.foldl (fun _ ln hv => hv.dropOthers k ln) _).modCore k).toOut k e

theorem writeBackLine (h : OnlyL1 s u) (k ln : Nat) : OnlyL1 s (u.writeBackLine k ln) := by
  unfold State.writeBackLine
  split
  · exact h
  · dsimp only
    split
    · exact h
    · exact ((h.l1Checked k ln _).setUid _).foldl (fun _ e hv => hv.performL2 k e) _

theorem writeBack (h : OnlyL1 s u) (k : Nat) : OnlyL1 s (u.writeBack k) := by
  unfold State.writeBack
  exact h.foldl (fun _ e hv => hv.writeBackLine k e.1) _

theorem acquire (h : OnlyL1 s u) (k : Nat) : OnlyL1 s (u.acquire k) := by
  have hback (l : Map L1Line) := h.foldl (f := fun s (e : Nat × L1Line) => s.writeBackLine k e.1) (fun _ e hv => hv.writeBackLine k e.1) l
  unfold State.acquire
  exact ((hback _).modCore k).modTower _

/-! ## Reads at their home (R209, R213, R355) -/

theorem umbraEvict (h : OnlyL1 s u) (t : Nat) : OnlyL1 s (u.umbraEvict t) := by
  unfold State.umbraEvict
  dsimp only
  split
  · exact h.spend
  · split
    · exact (h.modTower t).spend
    · exact (h.modTower t).spend.modJob _ _

theorem umbraUse (h : OnlyL1 s u) (job pa n : Nat) (w : Bool) : OnlyL1 s (u.umbraUse job pa n w) := by
  have hcharge (b : Nat) : OnlyL1 s (if b = 0 then u else u.charge job (homeTower pa) 0 (cdiv b 64)) := by split; exacts [h, h.modJob _ _]
  unfold State.umbraUse
  split
  · exact h
  · refine (hcharge _).foldl (fun v ln hv => ?_) _
    have hroom : OnlyL1 s (if (mfind (v.tower (homeTower pa)).umbra ln).isSome then v else v.umbraEvict (homeTower pa)) := by
      split; exacts [hv, hv.umbraEvict _]
    exact hroom.modTower _

theorem hotCount (h : OnlyL1 s u) (t pa : Nat) : OnlyL1 s (u.hotCount t pa) := by
  unfold State.hotCount
  split
  · exact h.modTower _
  · exact h

theorem umbraErrs (h : OnlyL1 s u) (t pa n : Nat) : OnlyL1 s (u.umbraErrs t pa n).1 := by
  unfold State.umbraErrs
  exact (h.towerErrs t _).foldl (fun _ a hv => hv.poisonBytes a 8) _

theorem homeFetch (h : OnlyL1 s u) (t job pa n : Nat) : OnlyL1 s (u.homeFetch t job pa n).1 := by
  unfold State.homeFetch
  split
  · exact h
  · exact ((h.umbraUse job pa n false).hotCount t pa).umbraErrs _ pa n

theorem vfetch (h : OnlyL1 s u) (t job va n : Nat) : OnlyL1 s (u.vfetch t job va n).1 := by
  refine foldl_keeps (fun a : State × Bool => OnlyL1 s a.1) _ (fun a p ha => ?_) _ h
  dsimp only
  split
  · exact ha.homeFetch t job _ _
  · exact ha

end OnlyL1

/-! ## Strands that wait (R266, R333) -/

namespace KeepsWork

variable {s u : State}

theorem bump (h : KeepsWork s u) (t n : Nat) : KeepsWork s (u.bump t n) := h.modTower t

theorem takeWait (h : KeepsWork s u) (k i kind : Nat) (key : Word) : KeepsWork s (u.takeWait k i kind key).1 := by
  unfold State.takeWait
  dsimp only
  split
  · exact h.modTower (towerOf k) (f := fun t => { t with waits := t.waits.filter (fun w => !(w.core == k && w.strand == i && w.kind == kind)) ++ [⟨k, i, kind, key⟩] })
  · exact h.bump _ _

theorem wake (h : KeepsWork s u) (k i kind : Nat) : KeepsWork s (u.wake k i kind) := by
  unfold State.wake State.dropWait
  exact (h.modTower _).modStrand k i _

theorem wakeAbsent (h : KeepsWork s u) (n : Nat) : KeepsWork s (u.wakeAbsent n) := by
  unfold State.wakeAbsent
  refine h.foldl (fun v e hv => hv.foldl (fun w i hw => ?_) _) _
  split
  · split; exacts [hw.wake e.1 i 2, hw]
  · exact hw

theorem trigger (h : KeepsWork s u) (l : List Nat) : KeepsWork s (u.trigger l) := by
  unfold State.trigger
  refine h.foldl (fun v e hv => hv.foldl (fun w i hw => ?_) _) _
  dsimp only
  split
  · split
    · split
      · exact (hw.setStrand _ _ _).modStrand _ _ _
      · exact hw.setStrand _ _ _
    · exact hw
  · exact hw

theorem setMem (h : KeepsWork s u) (m : Memory) (p : List Past) : KeepsWork s { u with mem := m, past := p } := h.step rfl rfl rfl
theorem cleanSectors (h : KeepsWork s u) (cells : List Host.Cell) : KeepsWork s (u.cleanSectors cells) := h.step rfl rfl rfl

theorem putMem (h : KeepsWork s u) (cells : List Host.Cell) : KeepsWork s (u.putMem cells) := by
  unfold State.putMem
  exact ((h.setMem _ _).cleanSectors cells).trigger _

/-- A returning strand is parked again, or made ready (R268, R333). -/
theorem rejoinStrand (h : KeepsWork s u) (k i : Nat) : KeepsWork s (u.rejoinStrand k i) := by
  have hready (v : State) (hv : KeepsWork s v) : KeepsWork s (v.modStrand k i fun x => { x with st := .ready, landFirst := true }) := hv.modStrand k i _
  unfold State.rejoinStrand
  extract_lets x free v
  have hv : KeepsWork s v := by
    unfold v
    split
    · refine modStrand ?_ k i _
      split; exacts [h.takeWait k i 1 _, h]
    · exact h
  clear_value v
  cases x.st with
  | parked p =>
    cases p with
    | watch => exact hready v hv
    | absent n tile =>
      dsimp only
      split
      · exact hready v hv
      · exact (hv.takeWait k i 2 _).modTower _
    | join id => dsimp only; split; exacts [hv.takeWait k i 3 _, hready v hv]
    | task => dsimp only; split; exacts [hv.modStrand k i _, hv.takeWait k i 4 _]
  | _ => exact hv

/-! ## Tiles (R218, R246) -/

theorem setTower (h : KeepsWork s u) {t : Nat} {x : Tower} (hx : x.stateq = (u.tower t).stateq) : KeepsWork s (u.setTower t x) := by
  refine ⟨h.gangs, h.launches, fun n => ?_⟩
  rw [← h.stateq n]
  by_cases hn : n = t
  · subst hn; rw [tower_setTower_self, hx]
  · simp [State.tower, mget_mput_ne _ _ _ hn]

theorem touchSlab (h : KeepsWork s u) (t slab : Nat) : KeepsWork s (u.touchSlab t slab) := by
  unfold State.touchSlab
  exact h.modTower t

theorem touchState (h : KeepsWork s u) (i : Nat) : KeepsWork s (u.touchState i) := by
  unfold State.touchState
  exact h.foldl (fun _ b hv => hv.touchSlab _ b) _

theorem mapTileWords (h : KeepsWork s u) (e : HEntry) (f : Word → Word) : KeepsWork s (u.mapTileWords e f) := by
  unfold State.mapTileWords
  exact h.foldl (fun _ _ hv => hv.putMem _) _

theorem readTile (h : KeepsWork s u) (t : Nat) (w : Word) : KeepsWork s (u.readTile t w).1 := by
  have herr (f : SramErr → Bool) := h.trans ((OnlyL1.refl u).towerErrs t f).toKeepsWork
  unfold State.readTile
  dsimp only
  split
  · exact h
  · split
    · exact (herr _).modTower t (f := fun y => { y with slots := mput y.slots (twKey w) _ })
    · exact herr _

theorem followTile (h : KeepsWork s u) (t job : Nat) (pair : Nat × Nat) (key : Nat) : KeepsWork s (u.followTile t job pair key) := by
  -- The definition is unfolded before its arguments stand: with `twResident key` in place the kernel would evaluate that word.
  suffices hfun : ∀ f, f = @State.followTile → KeepsWork s (f u t job pair key) from hfun _ rfl
  intro f hf
  delta State.followTile at hf
  have hr := h.readTile t (twResident key)
  rw [hf]
  beta_reduce
  split
  next v tile hread =>
  rw [hread] at hr
  extract_lets x n to? y
  cases to? with
  | none => exact hr
  | some w =>
    refine foldl (spend (hr.setTower ?_)) (fun _ e hv => hv.mapTileWords e.2 _) _
    split <;> rfl

theorem endFollow (h : KeepsWork s u) (g : Gang) (pairs : List (Nat × Nat)) : KeepsWork s (u.endFollow g pairs) := by
  unfold State.endFollow
  refine foldl (h.foldl (fun v key hv => ?_) _) (fun v i hv => ?_) _
  · split; exacts [hv.followTile g.tower g.job _ key, hv]
  · dsimp only
    split
    · exact hv.modHandle i _
    · exact (hv.modHandle i _).wakeAbsent i

end KeepsWork

end Sys2Proof.Machine
end

section
/-! Proofs of the life of a gang (R37 to R39, R285): placement, barrier, rows, retirement. -/

set_option Elab.async false -- as in the laws above: one proof at a time keeps the build within its memory

namespace Sys2Proof.Machine

/-! ## Gangs and launches under an update -/

theorem mfind_mdel_self {α : Type} (m : Map α) (k : Nat) : mfind (mdel m k) k = none := by
  unfold mdel
  induction m with
  | nil => rfl
  | cons e r ih =>
    obtain ⟨j, v⟩ := e
    by_cases hj : j = k
    · simpa [List.filter_cons, hj] using ih
    · simpa [List.filter_cons, hj, mfind] using ih

@[simp] theorem gang?_modGang_self (s : State) (n : Nat) (f : Gang → Gang) : (s.modGang n f).gang? n = (s.gang? n).map f := by
  cases h : s.gang? n with
  | none => simp [State.modGang, h]
  | some g => simp only [State.modGang, h]; simp [State.gang?]

@[simp] theorem modGang_cores (s : State) (n : Nat) (f : Gang → Gang) : (s.modGang n f).cores = s.cores := by unfold State.modGang; split <;> rfl
@[simp] theorem modGang_mem (s : State) (n : Nat) (f : Gang → Gang) : (s.modGang n f).mem = s.mem := by unfold State.modGang; split <;> rfl
@[simp] theorem modGang_strand (s : State) (n : Nat) (f : Gang → Gang) (k i : Nat) : (s.modGang n f).strand k i = s.strand k i := by
  rw [State.strand, State.core, modGang_cores]; rfl

@[simp] theorem launch?_modLaunch_self (s : State) (n : Nat) (f : Launch → Launch) : (s.modLaunch n f).launch? n = (s.launch? n).map f := by
  cases h : s.launch? n with
  | none => simp [State.modLaunch, h]
  | some x => simp only [State.modLaunch, h]; simp [State.launch?]

@[simp] theorem modLaunch_cores (s : State) (n : Nat) (f : Launch → Launch) : (s.modLaunch n f).cores = s.cores := by unfold State.modLaunch; split <;> rfl
@[simp] theorem modLaunch_gangs (s : State) (n : Nat) (f : Launch → Launch) : (s.modLaunch n f).gangs = s.gangs := by unfold State.modLaunch; split <;> rfl
@[simp] theorem modJob_cores (s : State) (n : Nat) (f : Job → Job) : (s.modJob n f).cores = s.cores := by unfold State.modJob; split <;> rfl
@[simp] theorem modJob_gangs (s : State) (n : Nat) (f : Job → Job) : (s.modJob n f).gangs = s.gangs := by unfold State.modJob; split <;> rfl

/-! ## Placement (R37, R138) -/

/-- The placer serves a launch that may be placed and whose cores are free. -/
theorem exec_gangPlacement_launch {s : State} {t l : Nat} {r : List Unit3} {x : Launch} {cs : List Nat} (hs : s.startReady = true)
    (hu : s.unitsOf t = .launch l :: r) (hl : s.launch? l = some x) (hm : s.mayPlace l x = true) (hc : s.coresFor x = some cs) :
    exec (.gangPlacement t) s = .next (s.placeGang l x cs) := by
  simp [exec, execGangPlacement, hs, hu, pick1, State.serveUnit, hl, hm, hc]

/-- A strand as placement leaves it. -/
theorem launchStrand_fields (w : List Word) (num t f gsi gcn gci start : Nat) (on : Bool) :
    let y := launchStrand w num t f gsi gcn gci start on
    y.spc = recEntry w ∧ y.shv = recTrap w ∧ y.getX 1 = recArg w ∧ y.th = false ∧ y.tm = false ∧ y.st = if on then .ready else .inactive := by
  have hsst (i : Nat) (hi : i < 41) : bitOf (identSst t f gsi gcn gci) i = false := by
    have hmul : t * 2 ^ 60 + f * 2 ^ 56 + gsi * 2 ^ 50 + gcn * 2 ^ 45 + gci * 2 ^ 41 =
        (t * 2 ^ 19 + f * 2 ^ 15 + gsi * 2 ^ 9 + gcn * 2 ^ 4 + gci) * 2 ^ 41 := by ring
    rw [bitOf, identSst, w64, BitVec.toNat_ofNat, hmul, Nat.testBit_mod_two_pow, Nat.testBit_mul_two_pow]
    simp [hi]
  refine ⟨rfl, rfl, ?_, hsst 30 (by decide), hsst 31 (by decide), rfl⟩
  simp [launchStrand, Strand.getX, Strand.setX, mget_mput_ne]

/-- Strand i of a core as placement leaves it. -/
theorem strand_placeCore (c : Core) (gang : Nat) (x : Launch) (num t f gcn gci start : Nat) (errs : List (Nat × Bool)) {i : Nat} (hi : i < 4) :
    (placeCore c gang x num t f gcn gci start errs).strand i =
      launchStrand x.words num t f (4 * gci + i) gcn gci start ((recSmask x.words).testBit i) := by
  interval_cases i <;> rfl

/-- After the placement of a gang on core k alone, that core and the gangs are as the placement of the core leaves them, but for L1. -/
theorem placeGang_one (s : State) (l : Nat) (x : Launch) (k : Nat) :
    ∃ (g : Gang) (start : Nat) (errs : List (Nat × Bool)) (m : Map L1Line) (e : List SramErr), g.cores = [k] ∧
      (s.placeGang l x [k]).gangs = mput s.gangs s.uid g ∧
        (s.placeGang l x [k]).core k = { placeCore (s.core k) s.uid x x.placed x.tower (k % 16) 1 0 start errs with l1 := m, errs := e } := by
  unfold State.placeGang
  extract_lets w gid within start g s1 s2 s3 stubs s4 s5 s6
  have hs3 : OnlyL1 s2 s3 := by
    unfold s3
    split
    · exact (OnlyL1.refl s2).foldl (fun _ j hv => hv.acquire j) _
    · exact .refl s2
  have hs4 : OnlyL1 s2 s4 := by
    unfold s4
    split
    · split
      · exact hs3.modTower _
      · exact (hs3.modTower _).modTower _
    · exact hs3
  have hend (p : Prop) [Decidable p] (f : Tower → Tower) :
      (if p then s6.modTower x.tower f else s6).gangs = s4.gangs ∧ (if p then s6.modTower x.tower f else s6).core k = s4.core k := by
    have h6 : s6.core k = s4.core k := by rw [State.core, State.core, modJob_cores, modLaunch_cores]
    split <;> exact ⟨by simp [s6, s5], h6⟩
  obtain ⟨m, e, hcore⟩ := hs4.core k
  refine ⟨g, start, Config.sramErrors (s.freeCtr + 1), m, e, rfl, (hend _ _).1.trans hs4.gangs, (hend _ _).2.trans (hcore.trans ?_)⟩
  have hcore2 : s2.core k = placeCore (s.core k) gid x x.placed x.tower (k % 16) 1 0 start (Config.sramErrors (s.freeCtr + 1)) := by
    simp only [s2, List.zipIdx_cons, List.zipIdx_nil, List.foldl_cons, List.foldl_nil, core_modCore_self]
    rfl
  rw [hcore2]

/-- A launch's gang of one core is placed in launch state. -/
theorem gangPlacement_one {s : State} {t l k : Nat} {r : List Unit3} {x : Launch} (hs : s.startReady = true) (hu : s.unitsOf t = .launch l :: r)
    (hl : s.launch? l = some x) (hm : s.mayPlace l x = true) (hc : s.coresFor x = some [k]) :
    Ends (.gangPlacement t) s fun u =>
      (u.core k).gang = some s.uid ∧ (u.core k).near = [] ∧ (u.gang? s.uid).map (·.cores) = some [k] ∧ ∀ i, i < 4 →
        let y := u.strand k i
        y.spc = recEntry x.words ∧ y.shv = recTrap x.words ∧ y.getX 1 = recArg x.words ∧ y.th = false ∧ y.tm = false ∧
          y.st = if (recSmask x.words).testBit i then .ready else .inactive := by
  obtain ⟨g, start, errs, m, e, hcores, hgangs, hcore⟩ := placeGang_one s l x k
  refine ⟨_, exec_gangPlacement_launch hs hu hl hm hc, by rw [hcore]; rfl, by rw [hcore]; rfl, by simp [State.gang?, hgangs, hcores], fun i hi => ?_⟩
  have hstrand : (s.placeGang l x [k]).strand k i = (placeCore (s.core k) s.uid x x.placed x.tower (k % 16) 1 0 start errs).strand i := by
    rw [State.strand, hcore]; rfl
  rw [hstrand, strand_placeCore _ _ _ _ _ _ _ _ _ _ hi]
  exact launchStrand_fields ..

/-! ## The barrier (R38) -/

/-- What the completion of the barrier does to the strand of gang strand index n. -/
def State.leaveBarrier (s : State) (g : Gang) (n : Nat) : State :=
  s.modStrand (g.ofGsi n).1 (g.ofGsi n).2 fun x => if x.st = .atBarrier then { x with st := .ready, landFirst := true } else x

theorem exec_gbarCompletion_done {s : State} {gang : Nat} {g : Gang} (hg : s.gang? gang = some g) (hb : s.barrierDone g = true) :
    exec (.gbarCompletion gang) s = .next ((g.arrived.foldl (fun s n => s.leaveBarrier g n) s).modGang gang fun g => { g with arrived := [] }) := by
  simp only [exec, execGbarCompletion, hg, hb, if_true]
  rfl

theorem leaveBarrier_st_self (s : State) (g : Gang) (n : Nat) :
    ((s.leaveBarrier g n).strand (g.ofGsi n).1 (g.ofGsi n).2).st =
      if (s.strand (g.ofGsi n).1 (g.ofGsi n).2).st = .atBarrier then .ready else (s.strand (g.ofGsi n).1 (g.ofGsi n).2).st := by
  rw [State.leaveBarrier, strand_modStrand_self]
  split <;> rfl

theorem leaveBarrier_strand_ne (s : State) {g : Gang} {n k i : Nat} (h : g.ofGsi n ≠ (k, i)) : (s.leaveBarrier g n).strand k i = s.strand k i := by
  by_cases hk : k = (g.ofGsi n).1
  · subst hk
    exact strand_modStrand_ne s _ _ fun hi => h (by rw [hi])
  · rw [State.strand, State.leaveBarrier, core_modStrand_ne s _ _ hk]; rfl

/-- A ready strand stays ready as strands leave the barrier. -/
theorem leaveBarrier_ready {s : State} {g : Gang} {n k i : Nat} (h : (s.strand k i).st = .ready) : ((s.leaveBarrier g n).strand k i).st = .ready := by
  by_cases hn : g.ofGsi n = (k, i)
  · have hself := leaveBarrier_st_self s g n
    rw [hn] at hself
    simp [hself, h]
  · rw [leaveBarrier_strand_ne s hn, h]

/-- A strand at the barrier is ready once the strands of a list with it have left. -/
theorem foldl_leaveBarrier_ready {g : Gang} {n : Nat} {l : List Nat} (hn : n ∈ l) (s : State)
    (hs : (s.strand (g.ofGsi n).1 (g.ofGsi n).2).st = .atBarrier) :
    ((l.foldl (fun s n => s.leaveBarrier g n) s).strand (g.ofGsi n).1 (g.ofGsi n).2).st = .ready := by
  have hkeep (l : List Nat) {s : State} (h : (s.strand (g.ofGsi n).1 (g.ofGsi n).2).st = .ready) :=
    foldl_keeps (fun u : State => (u.strand (g.ofGsi n).1 (g.ofGsi n).2).st = .ready) (fun s n => s.leaveBarrier g n) (fun _ _ hu => leaveBarrier_ready hu) l h
  induction l generalizing s with
  | nil => exact absurd hn List.not_mem_nil
  | cons m l ih =>
    rw [List.foldl_cons]
    by_cases hm : g.ofGsi m = g.ofGsi n
    · have hself := leaveBarrier_st_self s g m
      rw [hm, hs] at hself
      exact hkeep l (by simpa using hself)
    · have hne : n ≠ m := fun h => hm (by rw [h])
      exact ih ((List.mem_cons.1 hn).resolve_left hne) _ (by rw [leaveBarrier_strand_ne s (k := (g.ofGsi n).1) (i := (g.ofGsi n).2) hm, hs])

/-- A barrier at which every active strand has arrived makes them ready. -/
theorem gbarCompletion_ready {s : State} {gang : Nat} {g : Gang} (hg : s.gang? gang = some g) (hb : s.barrierDone g = true) :
    Ends (.gbarCompletion gang) s fun u => (u.gang? gang).map (·.arrived) = some [] ∧
      ∀ n ∈ g.arrived, (s.strand (g.ofGsi n).1 (g.ofGsi n).2).st = .atBarrier → (u.strand (g.ofGsi n).1 (g.ofGsi n).2).st = .ready := by
  have hwork : KeepsWork s (g.arrived.foldl (fun s n => s.leaveBarrier g n) s) := (KeepsWork.refl s).foldl (fun _ _ hv => hv.modStrand _ _ _) _
  refine ⟨_, exec_gbarCompletion_done hg hb, by simp [hwork.gang?, hg], fun n hn hs => ?_⟩
  rw [modGang_strand]
  exact foldl_leaveBarrier_ready hn s hs

/-! ## Rows (R285) -/

/-- In a cycle a part of what is left drains, and not nothing. -/
theorem drainCount_bounds (s : State) {n : Nat} (h : 0 < n) : 0 < s.drainCount n ∧ s.drainCount n ≤ n := by
  have hlt := Nat.mod_lt (Config.pick s.freeCtr n) h
  unfold State.drainCount
  omega

theorem exec_rowDrain_running {s : State} {gang : Nat} {g : Gang} (hg : s.gang? gang = some g) (hp : g.phase = .running) :
    exec (.rowDrain gang) s = .next ((s.tasksToDrain g).foldl (fun s n => s.drainTask g n) (s.advanceRow gang g)) := by
  simp [exec, execRowDrain, hg, hp]

theorem advanceRow_of_rowAdvances {s : State} {gang : Nat} {g : Gang} (h : s.rowAdvances g = true) :
    s.advanceRow gang g =
      let d := (s.drainRow g (s.drainCount (s.rowUnits g))).spend
      if d.rowUnits g = 0 then d.modGang gang fun h => { h with gadv := h.gadv + 1 } else d := by
  simp [State.advanceRow, h]

theorem advanceRow_of_not {s : State} {gang : Nat} {g : Gang} (h : s.rowAdvances g = false) : s.advanceRow gang g = s := by
  simp [State.advanceRow, h]

/-! ## Retirement (R39) -/

theorem freeCore_core (s : State) (k : Nat) : (s.freeCore k).core k = ((s.writeBack k).core k).freed := core_modCore_self (s.writeBack k) k _

theorem freeCore_keepsWork (s : State) (k : Nat) : KeepsWork s (s.freeCore k) := by
  unfold State.freeCore
  exact (((OnlyL1.refl s).writeBack k).toKeepsWork.modCore k _).modTower _

/-- Core k as a retiring gang leaves it: its scratchpad is discarded, and it is free. -/
def State.vacate (s : State) (k : Nat) : State := (s.modCore k fun c => { c with near := [], nearPois := [], tags := [] }).freeCore k

theorem vacate_keepsWork (s : State) (k : Nat) : KeepsWork s (s.vacate k) := ((KeepsWork.refl s).modCore k _).trans (freeCore_keepsWork _ k)

theorem vacate_core (s : State) (k : Nat) : ((s.vacate k).core k).gang = none ∧ ((s.vacate k).core k).near = [] := by
  obtain ⟨l, e, h⟩ := ((OnlyL1.refl (s.modCore k fun c => { c with near := [], nearPois := [], tags := [] })).writeBack k).core k
  rw [State.vacate, freeCore_core, h, core_modCore_self]
  exact ⟨rfl, rfl⟩

/-- A launch of which a gang has not retired is not complete (R43). -/
theorem completeLaunch_of_retired_ne {s : State} {l : Nat} {x : Launch} (hl : s.launch? l = some x) (h : x.retired ≠ recGangs x.words) :
    s.completeLaunch l = s := by
  simp [State.completeLaunch, State.launchComplete, hl, h]

theorem gangRetirement_away {s : State} {gang k : Nat} {g : Gang} {y : Launch} (hg : s.gang? gang = some g) (hd : s.gangDone g = true)
    (hk : g.cores = [k]) (hl : ((s.writeBack k).pushHome (towerOf k) fun e => e.1 == k).launch? g.launch = some y)
    (hh : ((s.writeBack k).pushHome (towerOf k) fun e => e.1 == k).coreHome k y.child.isNone = false) :
    exec (.gangRetirement gang) s = .next ((s.writeBack k).pushHome (towerOf k) fun e => e.1 == k) := by
  simp [exec, execGangRetirement, hg, hd, hk, hl, hh]

/-- The state v once a gang of launch l has left its core k. -/
def State.withoutGang (v : State) (gang k l : Nat) : State :=
  ({ v.vacate k with gangs := mdel (v.vacate k).gangs gang } : State).modLaunch l fun y => { y with retired := y.retired + 1 }

theorem withoutGang_gang? (v : State) (gang k l : Nat) : (v.withoutGang gang k l).gang? gang = none := by
  rw [State.withoutGang, State.gang?, modLaunch_gangs]
  exact mfind_mdel_self _ _

theorem withoutGang_core (v : State) (gang k l : Nat) : (v.withoutGang gang k l).core k = (v.vacate k).core k := by
  rw [State.withoutGang, State.core, modLaunch_cores]; rfl

theorem withoutGang_launch? {v : State} {l : Nat} {y : Launch} (hl : v.launch? l = some y) (gang k : Nat) :
    (v.withoutGang gang k l).launch? l = some { y with retired := y.retired + 1 } := by
  have h : ({ v.vacate k with gangs := mdel (v.vacate k).gangs gang } : State).launch? l = some y := ((vacate_keepsWork v k).launch? l).trans hl
  simp [State.withoutGang, h]

/-- A gang that is done, with its writes home, frees its core. -/
theorem gangRetirement_home {s : State} {gang k : Nat} {g : Gang} {y : Launch} (hg : s.gang? gang = some g) (hd : s.gangDone g = true)
    (hk : g.cores = [k]) (hl : ((s.writeBack k).pushHome (towerOf k) fun e => e.1 == k).launch? g.launch = some y)
    (hh : ((s.writeBack k).pushHome (towerOf k) fun e => e.1 == k).coreHome k y.child.isNone = true) (hr : y.retired + 1 < recGangs y.words) :
    Ends (.gangRetirement gang) s fun u =>
      u.gang? gang = none ∧ (u.core k).gang = none ∧ (u.core k).near = [] ∧ (u.launch? g.launch).map (·.retired) = some (y.retired + 1) := by
  generalize hv : ((s.writeBack k).pushHome (towerOf k) fun e => e.1 == k) = v at hl hh
  have hexec : exec (.gangRetirement gang) s = .next ((v.withoutGang gang k g.launch).completeLaunch g.launch) := by
    simp only [exec, execGangRetirement, hg, hd, hk, hv, hl, hh, List.foldl_cons, List.foldl_nil, List.all_cons, List.all_nil, Bool.and_true, if_true]
    rfl
  have hlaunch := withoutGang_launch? hl gang k
  rw [completeLaunch_of_retired_ne hlaunch hr.ne] at hexec
  obtain ⟨hgang, hnear⟩ := vacate_core v k
  rw [← withoutGang_core v gang k g.launch] at hgang hnear
  exact ⟨_, hexec, withoutGang_gang? v gang k _, hgang, hnear, by rw [hlaunch]; rfl⟩

/-- Settles O42: one lemma for each event, in the order of the statement. -/
theorem gangsLive : Obligations.GangsLive := by
  intro t gang l k x r g s
  refine ⟨gangPlacement_one, fun hg => ⟨gbarCompletion_ready hg, fun n => drainCount_bounds s, fun hp ha ht => ?_, fun hp ha => ⟨fun ht => ?_, fun n ht => ?_⟩, ?_⟩⟩
  · rw [exec_rowDrain_running hg hp, ht, advanceRow_of_rowAdvances ha]; rfl
  · rw [exec_rowDrain_running hg hp, ht, advanceRow_of_not ha]; rfl
  · rw [exec_rowDrain_running hg hp, ht, advanceRow_of_not ha]; rfl
  · intro v y hd hk hl
    exact ⟨gangRetirement_home hg hd hk hl, gangRetirement_away hg hd hk hl⟩

end Sys2Proof.Machine
end

section
/-! Proofs of how a gang stops and returns (R49 to R51, R246, R372, R374). -/

set_option Elab.async false -- as in the laws above: one proof at a time keeps the build within its memory

namespace Sys2Proof.Machine

/-! ## Stopping (R49, R374) -/

theorem preemption_running {s : State} {gang : Nat} {g : Gang} (hg : s.gang? gang = some g) (hp : g.phase = .running) :
    Ends (.preemption gang) s fun u => (u.gang? gang).map (·.phase) = some (.preempting 2) ∧ u.cores = s.cores ∧ u.mem = s.mem :=
  ⟨s.beginPreempt gang 2, by simp [exec, execPreemption, hg, hp], by simp [State.beginPreempt, hg, hp], modGang_cores .., modGang_mem ..⟩

theorem exec_preemption_preempting {s : State} {gang r : Nat} {g : Gang} (hg : s.gang? gang = some g) (hp : g.phase = .preempting r) :
    exec (.preemption gang) s =
      .next (let u := g.cores.foldl (fun u k => (u.stopCore g k).pushHome (towerOf k) fun e => e.1 == k) s; if u.readyToSave g then u.saveGang gang g else u) := by
  simp only [exec, execPreemption, hg, hp]
  split <;> rfl

/-! ## Budgets and deadlines (R50, R51) -/

theorem exec_waitBudgetPreemption_beyond {s : State} {gang : Nat} {g : Gang} {j : Job} (hg : s.gang? gang = some g) (hj : s.job? g.job = some j)
    (hl : j.latency = true) (hp : g.phase = .running) (hb : j.wbud < g.wsum) (he : g.exceeded = false) :
    exec (.waitBudgetPreemption gang) s =
      .next (((s.postJob 3 g.job g.tower (match s.launch? g.launch with | some l => l.htag | none => 0)
        [w64 (numMask g.arrived), w64 (numMask ((List.range (4 * g.cores.length)).filter fun n => match (s.gsiStrand g n).st with | .parked _ => true | _ => false)),
          w64 (s.portBits g), w64 (s.portBits g / 2 ^ 64), w64 (s.saveBase g)]).modGang gang fun y => { y with exceeded := true }).beginPreempt gang 3) := by
  simp only [exec, execWaitBudgetPreemption, hg, hj, hp]
  exact if_pos ⟨hl, trivial, hb, by simp [he]⟩

theorem exec_waitBudgetPreemption_within {s : State} {gang : Nat} {g : Gang} {j : Job} (hg : s.gang? gang = some g) (hj : s.job? g.job = some j)
    (h : j.wbud ≥ g.wsum ∨ g.exceeded = true) : exec (.waitBudgetPreemption gang) s = .next s := by
  have hno (p q : Prop) : ¬(p ∧ q ∧ j.wbud < g.wsum ∧ (!g.exceeded) = true) := by
    rintro ⟨-, -, hlt, hex⟩
    rcases h with h | h
    · exact absurd hlt (Nat.not_lt.2 h)
    · simp [h] at hex
  simp only [exec, execWaitBudgetPreemption, hg, hj]
  exact if_neg (hno _ _)

theorem exec_deadlineHalt_beyond {s : State} {job : Nat} {j : Job} (hj : s.job? job = some j) (hl : j.latency = false) (hh : j.halted = false)
    (hd : j.dline < j.dcnt) : exec (.deadlineHalt job) s = .next (s.haltJob job true true) := by
  simp [exec, execDeadlineHalt, hj, hl, hh, hd]

theorem exec_deadlineHalt_within {s : State} {job : Nat} {j : Job} (hj : s.job? job = some j) (hd : j.dcnt ≤ j.dline) :
    exec (.deadlineHalt job) s = .next s := by
  simp [exec, execDeadlineHalt, hj, Nat.not_lt.2 hd]

/-! ## The return (R49, R246, R372) -/

/-- A gang that returns holds its new cores, and its strands may issue or its tiles follow it. -/
def Gang.returnedOn (h : Gang) (cs : List Nat) : Prop := h.cores = cs ∧ (h.phase = .running ∨ ∃ d, h.phase = .moving d) ∧ h.hidden = []

/-- The state in which a gang has its new cores and runs. -/
def State.resumed (s : State) (gang : Nat) (g : Gang) (cs : List Nat) : State :=
  s.modGang gang fun y => { y with phase := .running, cores := cs, former := g.cores, hidden := [], staged := [], streams := [], victimOf := none }

section

variable {s : State} {gang : Nat} {g : Gang} {cs : List Nat} {l : Launch}

/-- The tiles that follow a gang leave it on its new cores. -/
theorem startFollow_returnedOn {u : State} {h : Gang} (hu : u.gang? gang = some h) (hr : h.returnedOn cs) (g : Gang) (pairs : List (Nat × Nat)) (hs late : List Nat) :
    ∃ h, (u.startFollow gang g pairs hs late).gang? gang = some h ∧ h.returnedOn cs := by
  obtain ⟨hcores, -, hhidden⟩ := hr
  unfold State.startFollow
  extract_lets tile bytes u1 u2
  have h1 : KeepsWork u u1 := (KeepsWork.refl u).foldl (fun _ i hv => (hv.touchState i).modHandle i _) _
  have h2 : KeepsWork u u2 := by
    unfold u2
    split
    · exact h1
    · exact h1.foldl (fun _ p hv => hv.touchSlab _ p.2) _
  exact ⟨{ h with phase := .moving u2.now, follows := hs, late := late, reqs := requests bytes 4, busy := 0 }, by rw [gang?_modGang_self, h2.gang?, hu]; rfl,
    hcores, .inr ⟨_, rfl⟩, hhidden⟩

/-- Once its cores are restored, a gang is on them whether or not tiles follow, and whatever its strands wait for. -/
theorem resumed_returnedOn {u : State} (hu : (u.gang? gang).isSome) (g : Gang) (c : Prop) {_ : Decidable c} (pairs : List (Nat × Nat)) (hs late : List Nat) :
    ∃ h, (cs.foldl (fun s k => (List.range 4).foldl (fun s i => s.rejoinStrand k i) s)
      (if c then u.resumed gang g cs else (u.resumed gang g cs).startFollow gang g pairs hs late)).gang? gang = some h ∧ h.returnedOn cs := by
  obtain ⟨h, hh⟩ := Option.isSome_iff_exists.1 hu
  have hres := gang?_modGang_self u gang fun y => { y with phase := .running, cores := cs, former := g.cores, hidden := [], staged := [], streams := [], victimOf := none }
  rw [hh, Option.map_some] at hres
  have hrejoin (v : State) : KeepsWork v (cs.foldl (fun s k => (List.range 4).foldl (fun s i => s.rejoinStrand k i) s) v) :=
    (KeepsWork.refl v).foldl (fun _ k hv => hv.foldl (fun _ i hw => hw.rejoinStrand k i) _) _
  rw [(hrejoin _).gang?]
  split
  · exact ⟨_, hres, rfl, .inl rfl, rfl⟩
  · exact startFollow_returnedOn hres ⟨rfl, .inl rfl, rfl⟩ g pairs hs late

/-- A save area that is read has none of the three faults that fail the return. -/
theorem readable_not_bad {ε : Type} {b : Bool} {r : Except ε (List Byte × Bool)} {bs : List Byte} (hv : b = false) (hr : r = .ok (bs, false)) :
    ¬(b = true ∨ (∃ e, r = .error e) ∨ ∃ bs, r = .ok (bs, true)) := by
  simp [hv, hr]

theorem gang?_foldl_isSome {β : Type} {f : State → β → State} (hf : ∀ u e, (u.gang? gang).isSome → ((f u e).gang? gang).isSome) (es : List β) {u : State}
    (hu : (u.gang? gang).isSome) : ((es.foldl f u).gang? gang).isSome :=
  List.foldlRecOn es f hu fun u hu e _ => hf u e hu

/-- What a gang that may return comes to: its failure where its save area cannot be read or holds an uncorrectable word, or its return. -/
theorem exec_gangReturn_cases {p : Out → Prop} (hg : s.gang? gang = some g) (hm : s.mayReturn g = true) (hc : s.returnCores g = some cs)
    (hl : s.launch? g.launch = some l) {v : State × Bool} (hv : s.vfetch g.tower g.job (s.saveBase g) g.imageLen = v)
    (hbad : (v.2 = true ∨ (∃ e, v.1.vread g.job (s.saveBase g) g.imageLen = .error e) ∨ ∃ bs, v.1.vread g.job (s.saveBase g) g.imageLen = .ok (bs, true)) →
      p (.next (v.1.sched (.gangFailure gang 0 4))))
    (hok : ∀ bs u, v.2 = false → v.1.vread g.job (s.saveBase g) g.imageLen = .ok (bs, false) → (∃ h, u.gang? gang = some h ∧ h.returnedOn cs) → p (.next u)) :
    p (exec (.gangReturn gang) s) := by
  have hwork : KeepsWork s v.1 := hv ▸ ((OnlyL1.refl s).vfetch _ _ _ _).toKeepsWork
  -- The length of the image stays a variable: with `Gang.imageLen` in place the kernel would evaluate it when it compares two reads.
  suffices h : ∀ len : Gang → Nat, len = Gang.imageLen → p (execGangReturn gang s) from h _ rfl
  intro len hlen
  unfold execGangReturn
  rw [← hlen] at hv hbad hok ⊢
  simp only [hg, hm, hc, hl, hv, Bool.not_true, Bool.false_eq_true, if_false]
  cases hb : v.2 with
  | true => exact hbad (.inl hb)
  | false =>
    cases hr : v.1.vread g.job (s.saveBase g) (len g) with
    | error e => exact hbad (.inr (.inl ⟨e, hr⟩))
    | ok b =>
      obtain ⟨bs, po⟩ := b
      cases po with
      | true => exact hbad (.inr (.inr ⟨bs, hr⟩))
      | false =>
        refine hok bs _ hb hr (resumed_returnedOn ?_ g _ _ _ _)
        rw [(KeepsWork.refl _).spend.gang?]
        refine gang?_foldl_isSome (fun u e hu => ?_) _ (by rw [hwork.gang?, hg]; rfl)
        rw [gang?_modGang_self, Option.isSome_map, (((OnlyL1.refl u).foldl (fun _ ln hw => hw.dropLine e.1 ln) _).toKeepsWork.modCore e.1 _).gang?]
        exact hu

end

/-! ## The end of the moves (R246) -/

theorem serveStates_of_stateq_nil {s : State} {t : Nat} (h : (s.tower t).stateq = []) : s.serveStates t = s := by
  rw [State.serveStates, h]
  rfl

theorem returnTileMovesComplete_running {s : State} {gang d : Nat} {g : Gang} (hg : s.gang? gang = some g) (hp : g.phase = .moving d) (hd : d ≤ s.now)
    (hreqs : g.reqs = []) (hbusy : g.busy = 0) (hawake : g.follows.all s.stateAwake = true)
    (hslabs : ∀ p ∈ s.slabPairs gang g g.former g.cores, (s.tower g.tower).slabAwake p.2 = true) (hlate : g.late = []) (hstop : g.stopAfter = none)
    (hq : (s.tower g.tower).stateq = []) :
    Ends (.returnTileMovesComplete gang) s fun u => (u.gang? gang).map (·.phase) = some .running := by
  have hkeep : KeepsWork s (s.endFollow g (s.slabPairs gang g g.former g.cores)) := (KeepsWork.refl s).endFollow _ _
  have hserve := serveStates_of_stateq_nil ((hkeep.stateq g.tower).trans hq)
  have hall : (s.slabPairs gang g g.former g.cores).all (fun p => (s.tower g.tower).slabAwake p.2) = true := List.all_eq_true.2 hslabs
  refine ⟨_, by simp only [exec, execReturnTileMovesComplete, hg, hp]; rw [if_neg (by simp [hd, hreqs, hbusy, hawake, hall]), hserve, hlate, if_pos ⟨rfl, rfl⟩], ?_⟩
  beta_reduce
  rw [gang?_modGang_self, hkeep.gang?, hg]
  simp [hstop]

/-! ## The failure (R372) -/

theorem exec_gangFailure {s : State} {gang : Nat} {g : Gang} (hg : s.gang? gang = some g) (gsi reason : Nat) :
    let tag := match s.launch? g.launch with | some l => l.htag | none => 0
    let o := if g.phase = .saved then s else s.undoCauses g
    let u := if g.phase = .saved then o else (o.writeItems g.tower g.job (o.saveBase g) (o.gangImage g true)).1
    let x := if g.phase = .saved then g.hidden.getD gsi {} else o.gsiStrand g gsi
    let v := if reason = 3 then { u with selfTestDue := true } else u
    exec (.gangFailure gang gsi reason) s =
      .next ((v.postJob 7 g.job g.tower tag [x.scause, x.sepc, x.sinfo, w64 (gsi % 64 + reason * 256), w64 (s.saveBase g)]).haltLaunch g.launch) := by
  have hundo : KeepsWork s (s.undoCauses g) := (KeepsWork.refl s).foldl (fun _ k hv => hv.foldl (fun _ i hw => hw.modStrand k i _) _) _
  have hbase : (s.undoCauses g).saveBase g = s.saveBase g := by rw [State.saveBase, hundo.launch?]; rfl
  simp only [exec, execGangFailure, hg]
  by_cases hp : g.phase = .saved
  · simp only [if_pos hp] <;> rfl
  · simp only [if_neg hp, hbase, hundo.launch?] <;> rfl

/-- Settles O43: the clauses in turn; a return is its failure where the save area cannot be read, and else leaves the gang on its new cores. -/
theorem gangsStop : Obligations.GangsStop := by
  unfold Obligations.GangsStop
  intro gang gsi reason job g s hg
  refine ⟨preemption_running hg, fun r => exec_preemption_preempting hg, fun j hj hl hp hb he => exec_waitBudgetPreemption_beyond hg hj hl hp hb he,
    fun j hj h => exec_waitBudgetPreemption_within hg hj h, fun j hj hl hh hd => exec_deadlineHalt_beyond hj hl hh hd, fun j hj hd => exec_deadlineHalt_within hj hd,
    fun hm cs l hc hl => ⟨fun hbad => ?_, fun bs hv hr => ?_⟩,
    fun d hp hd hreqs hbusy hawake hslabs hlate hstop hq => returnTileMovesComplete_running hg hp hd hreqs hbusy hawake hslabs hlate hstop hq,
    exec_gangFailure hg gsi reason⟩
  · exact exec_gangReturn_cases (p := fun o => o = .next _) hg hm hc hl rfl (fun _ => rfl) fun bs u hv hr _ => absurd hbad (readable_not_bad hv hr)
  · exact exec_gangReturn_cases (p := fun o => ∃ u, o = .next u ∧ ∃ h, u.gang? gang = some h ∧ h.returnedOn cs) hg hm hc hl rfl (fun h => absurd h (readable_not_bad hv hr)) fun bs u _ _ hu => ⟨u, rfl, hu⟩

end Sys2Proof.Machine
end

section
/-! Proofs about the encodings (R54, R56, R65 to R69). `Statement` and its lemma for each instruction stand in Laws/PerInstr.lean; for the other direction,
a decoder's fields are cut out of the word, and here they are put together again. -/

set_option Elab.async false -- one proof at a time: many at once exhaust the memory of a build

namespace Sys2Proof.Laws.EncodesBack

variable {w e : Nat}

/-- What is read from word w and lend byte e, if anything, is encoded to w without its stop bit and to e. -/
def Reencodes (w e : Nat) (d : Dec) : Prop := ∀ i, d = .ok i → encode i = some (w % 2 ^ 31, e)

theorem unlisted_reencodes : Reencodes w e unlisted := by
  intro i h
  simp [unlisted] at h

theorem dz_reencodes {z x y : Nat} {i : Instr} (hi : encode i = some (x, y)) (h : z = 0 → x = w % 2 ^ 31 ∧ y = e) : Reencodes w e (dz z i) := by
  intro j hj
  unfold dz at hj
  split at hj
  next hz =>
    cases hj
    obtain ⟨rfl, rfl⟩ := h hz
    exact hi
  next => cases hj

theorem guardless_reencodes {g x y : Nat} {i : Instr} (hi : encode i = some (x, y)) (h : g = 0 → x = w % 2 ^ 31 ∧ y = e) : Reencodes w e (guardless g i) := by
  intro j hj
  unfold guardless at hj
  split at hj
  next => cases hj
  next hg =>
    cases hj
    obtain ⟨rfl, rfl⟩ := h (not_not.1 hg)
    exact hi

theorem condCode_of_condOf {n : Nat} {c : Cond} (h : condOf n = some c) : condCode c = n := by
  unfold condOf at h
  split at h <;> cases h <;> rfl

theorem updCode_of_updOf {n : Nat} {u : Upd} (h : updOf n = some u) : updCode u = n := by
  unfold updOf at h
  split at h <;> cases h <;> rfl

theorem aopCode_of_aopOf {n : Nat} {a : Aop} (h : aopOf n = some a) : aopCode a = n := by
  unfold aopOf at h
  split at h <;> cases h <;> rfl

theorem withCond_reencodes {n : Nat} {k : Cond → Dec} (h : ∀ c, condCode c = n → Reencodes w e (k c)) : Reencodes w e (withCond n k) := by
  unfold withCond
  split
  next c hc => exact h c (condCode_of_condOf hc)
  next => exact unlisted_reencodes

theorem withUpd_reencodes {n : Nat} {k : Upd → Dec} (h : ∀ u, updCode u = n → Reencodes w e (k u)) : Reencodes w e (withUpd n k) := by
  unfold withUpd
  split
  next u hu => exact h u (updCode_of_updOf hu)
  next => exact unlisted_reencodes

theorem withAop_reencodes {n : Nat} {k : Aop → Dec} (h : ∀ a, aopCode a = n → Reencodes w e (k a)) : Reencodes w e (withAop n k) := by
  unfold withAop
  split
  next a ha => exact h a (aopCode_of_aopOf ha)
  next => exact unlisted_reencodes

theorem bit_toNat (x lo : Nat) : (fld x lo 1 == 1).toNat = fld x lo 1 := by
  rcases Nat.mod_two_eq_zero_or_one (x / 2 ^ lo) with h | h <;> simp [fld, h]

theorem ux_sx (n u : Nat) : ux n (sx n u) = u % 2 ^ n := by
  unfold ux sx
  split
  · rw [← Int.natCast_emod, Int.toNat_natCast]
  · rw [Int.sub_emod_right, ← Int.natCast_emod, Int.toNat_natCast]

/-! ## The fields that make up a word and a lend byte -/

/-- A field of n + m bits is its high m bits above its low n bits. -/
theorem fld_cut (x lo n m hi len : Nat) (h : lo + n = hi) (hl : n + m = len) : fld x lo len = fld x hi m * 2 ^ n + fld x lo n := by
  subst h hl
  simp only [fld, Nat.pow_add, ← Nat.div_div_eq_div_mul]
  rw [Nat.mod_mul]
  ring

theorem low_cut (x n m len : Nat) (h : n + m = len) : fld x 0 len = fld x n m * 2 ^ n + fld x 0 n := fld_cut x 0 n m n len (Nat.zero_add n) h

theorem lend_cut {x : Nat} (hx : x < 256) (n m : Nat) (h : n + m = 8) : x = fld x n m * 2 ^ n + fld x 0 n := by
  rw [← low_cut x n m 8 h]
  simp only [fld]
  omega

theorem fld_lt (x lo n : Nat) : fld x lo n < 2 ^ n := Nat.mod_lt _ (Nat.two_pow_pos n)

/-- The word of a class whose op codes have n bits, n being 5, 4 or 3 (R66). -/
theorem word_cut (x m n : Nat) (h : m + n = 23) : x % 2 ^ 31 = fld x 27 4 * 2 ^ 27 + fld x 23 4 * 2 ^ 23 + fld x m n * 2 ^ m + fld x 0 m := by
  rw [Nat.add_assoc _ _ (fld x 0 m), ← low_cut x m n 23 h, Nat.add_assoc, ← low_cut x 23 4 27 rfl, ← low_cut x 27 4 31 rfl]
  simp only [fld, Nat.pow_zero, Nat.div_one]

/-! ## One lemma a class -/

theorem decodeC0_reencodes (he : e < 256) (hc : fld w 27 4 = 0) : Reencodes w e (decodeC0 w e) := by
  have hw := word_cut w 18 5 rfl
  have h18 := low_cut w 12 6 18 rfl
  have h12 := low_cut w 6 6 12 rfl
  have he4 := lend_cut he 4 4 rfl
  unfold decodeC0
  split
  case h_29 => exact unlisted_reencodes
  all_goals
    refine dz_reencodes rfl fun hz => ?_
    omega


theorem decodeC1_reencodes (he : e < 256) (hc : fld w 27 4 = 1) : Reencodes w e (decodeC1 w e) := by
  have hw := word_cut w 19 4 rfl
  have h19 := low_cut w 13 6 19 rfl
  have h13 := low_cut w 7 6 13 rfl
  have h7 := low_cut w 6 1 7 rfl
  have hl := fld_lt w 0 7
  have hl' := fld_lt w 0 13
  unfold decodeC1
  split
  case h_13 => exact unlisted_reencodes
  case h_5 | h_6 | h_7 | h_10 =>
    refine dz_reencodes rfl fun hz => ?_
    omega
  all_goals
    refine dz_reencodes rfl fun hz => ?_
    simp only [ux_sx]
    omega


theorem decodeC2_reencodes (he : e < 256) (hc : fld w 27 4 = 2) : Reencodes w e (decodeC2 w e) := by
  have hw := word_cut w 20 3 rfl
  have h20 := low_cut w 16 4 20 rfl
  have h16 := low_cut w 13 3 16 rfl
  have h13 := low_cut w 7 6 13 rfl
  have h7 := low_cut w 6 1 7 rfl
  have hl := fld_lt w 0 7
  unfold decodeC2
  split
  case h_5 => exact unlisted_reencodes
  case h_4 =>
    have h16' := low_cut w 12 4 16 rfl
    have h12 := low_cut w 8 4 12 rfl
    have h8 := low_cut w 4 4 8 rfl
    split
    case h_7 => exact unlisted_reencodes
    all_goals
      refine dz_reencodes rfl fun hz => ?_
      omega
  case h_2 =>
    refine withCond_reencodes fun c hcc => dz_reencodes rfl fun hz => ?_
    simp only [ux_sx]
    omega
  all_goals
    refine withCond_reencodes fun c hcc => dz_reencodes rfl fun hz => ?_
    omega


theorem decodeC3_reencodes (he : e < 256) (hc : fld w 27 4 = 3) : Reencodes w e (decodeC3 w e) := by
  have hw := word_cut w 20 3 rfl
  have h20 := low_cut w 14 6 20 rfl
  have h20' := low_cut w 18 2 20 rfl
  have h18 := low_cut w 12 6 18 rfl
  have hl := fld_lt w 0 20
  have hl' := fld_lt w 0 14
  have hl6 := fld_lt w 12 6
  have hl12 := fld_lt w 0 12
  unfold decodeC3
  split
  case h_8 => exact unlisted_reencodes
  case h_1 | h_2 =>
    refine dz_reencodes rfl fun hz => ?_
    simp only [ux_sx]
    omega
  case h_5 | h_6 =>
    refine guardless_reencodes rfl fun hg => ?_
    omega
  all_goals
    refine dz_reencodes rfl fun hz => ?_
    omega


theorem decodeC4_reencodes (he : e < 256) (hc : fld w 27 4 = 4) : Reencodes w e (decodeC4 w e) := by
  have hw := word_cut w 18 5 rfl
  have h18 := low_cut w 12 6 18 rfl
  have h12 := low_cut w 6 6 12 rfl
  have h6 := low_cut w 3 3 6 rfl
  have he1 := lend_cut he 1 7 rfl
  have hb := bit_toNat e 0
  unfold decodeC4
  split
  case h_18 => exact unlisted_reencodes
  all_goals
    refine dz_reencodes rfl fun hz => ?_
    omega


theorem decodeC5_reencodes (hc : fld w 27 4 = 5) : Reencodes w e (decodeC5 w e) := by
  have hw := word_cut w 18 5 rfl
  have h18 := low_cut w 12 6 18 rfl
  have h12 := low_cut w 6 6 12 rfl
  have h18' := low_cut w 8 10 18 rfl
  unfold decodeC5
  split
  case h_15 => exact unlisted_reencodes
  all_goals
    refine dz_reencodes rfl fun hz => ?_
    omega


theorem decodeC6_reencodes (he : e < 256) (hc : fld w 27 4 = 6) : Reencodes w e (decodeC6 w e) := by
  have hw := word_cut w 20 3 rfl
  have h20 := low_cut w 16 4 20 rfl
  have h16 := low_cut w 12 4 16 rfl
  have h12 := low_cut w 6 6 12 rfl
  have h6 := low_cut w 4 2 6 rfl
  have hl := fld_lt w 0 4
  have hop := fld_lt w 20 3
  unfold decodeC6
  split
  all_goals
    refine withUpd_reencodes fun u hu => dz_reencodes rfl fun hz => ?_
    simp only [ux_sx, imp_false] at *
    omega


theorem decodeC7_reencodes (he : e < 256) (hc : fld w 27 4 = 7) : Reencodes w e (decodeC7 w e) := by
  have hw := word_cut w 20 3 rfl
  have h20 := low_cut w 16 4 20 rfl
  have h16 := low_cut w 12 4 16 rfl
  have h12 := low_cut w 6 6 12 rfl
  have h6 := low_cut w 4 2 6 rfl
  have hl := fld_lt w 0 4
  have hop := fld_lt w 20 3
  have h12' := fld_cut w 6 5 1 11 6 rfl rfl
  have hb := bit_toNat w 11
  unfold decodeC7
  split
  case h_8 =>
    have hop2 := fld_lt w 18 2
    have h20' := low_cut w 18 2 20 rfl
    have h18 := low_cut w 12 6 18 rfl
    split
    all_goals
      refine dz_reencodes rfl fun hz => ?_
      simp only [imp_false] at *
      omega
  all_goals
    refine withUpd_reencodes fun u hu => dz_reencodes rfl fun hz => ?_
    simp only [ux_sx]
    omega


theorem decodeC8_reencodes (he : e < 256) (hc : fld w 27 4 = 8) : Reencodes w e (decodeC8 w e) := by
  have hw := word_cut w 20 3 rfl
  have h20 := low_cut w 16 4 20 rfl
  have h16 := low_cut w 12 4 16 rfl
  have h12 := low_cut w 6 6 12 rfl
  have h6 := low_cut w 4 2 6 rfl
  have hl := fld_lt w 0 4
  have hop := fld_lt w 20 3
  have hb := bit_toNat e 4
  have h20' := low_cut w 4 16 20 rfl
  have h4 := low_cut w 1 3 4 rfl
  have he5 := lend_cut he 5 3 rfl
  have he4 := low_cut e 4 1 5 rfl
  unfold decodeC8
  split
  case h_1 | h_2 =>
    refine withAop_reencodes fun a ha => dz_reencodes rfl fun hz => ?_
    omega
  case h_6 =>
    refine withUpd_reencodes fun u hu => dz_reencodes rfl fun hz => ?_
    simp only [ux_sx]
    omega
  case h_8 =>
    refine dz_reencodes rfl fun hz => ?_
    simp only [imp_false] at *
    omega
  all_goals
    refine dz_reencodes rfl fun hz => ?_
    omega


theorem decodeC9_reencodes (he : e < 256) (hc : fld w 27 4 = 9) : Reencodes w e (decodeC9 w e) := by
  have hw := word_cut w 18 5 rfl
  have h18 := low_cut w 12 6 18 rfl
  have h12 := low_cut w 6 6 12 rfl
  have he4 := lend_cut he 4 4 rfl
  have he2 := lend_cut he 2 6 rfl
  have he1 := low_cut e 1 1 2 rfl
  have hb0 := bit_toNat e 0
  have hb1 := bit_toNat e 1
  unfold decodeC9
  split
  case h_19 => exact unlisted_reencodes
  all_goals
    refine dz_reencodes rfl fun hz => ?_
    omega


theorem decodeC10_reencodes (he : e < 256) (hc : fld w 27 4 = 10) : Reencodes w e (decodeC10 w e) := by
  have hw := word_cut w 18 5 rfl
  have h18 := low_cut w 12 6 18 rfl
  have h12 := low_cut w 6 6 12 rfl
  have h18' := fld_cut w 12 3 3 15 6 rfl rfl
  have hl := fld_lt w 0 6
  have he4 := lend_cut he 4 4 rfl
  have he7 := lend_cut he 7 1 rfl
  have he6 := low_cut e 6 1 7 rfl
  have he3 := lend_cut he 3 5 rfl
  have he2 := low_cut e 2 1 3 rfl
  have he1 := lend_cut he 1 7 rfl
  have hb0 := bit_toNat e 0
  have hb2 := bit_toNat e 2
  have hb6 := bit_toNat e 6
  unfold decodeC10
  split
  case h_10 => exact unlisted_reencodes
  case h_1 =>
    refine withCond_reencodes fun c hcc => dz_reencodes rfl fun hz => ?_
    omega
  all_goals
    refine dz_reencodes rfl fun hz => ?_
    omega


theorem decodeC11_reencodes (he : e < 256) (hc : fld w 27 4 = 11) : Reencodes w e (decodeC11 w e) := by
  have hw := word_cut w 19 4 rfl
  have h19 := low_cut w 13 6 19 rfl
  have h13 := low_cut w 7 6 13 rfl
  have h7 := low_cut w 6 1 7 rfl
  have hl := fld_lt w 0 7
  unfold decodeC11
  split
  case h_9 => exact unlisted_reencodes
  case h_7 | h_8 =>
    refine dz_reencodes rfl fun hz => ?_
    simp only [ux_sx]
    omega
  all_goals
    refine dz_reencodes rfl fun hz => ?_
    omega


theorem decodeC12_reencodes (hc : fld w 27 4 = 12) : Reencodes w e (decodeC12 w e) := by
  have hw := word_cut w 18 5 rfl
  have h18 := low_cut w 12 6 18 rfl
  have h12 := low_cut w 6 6 12 rfl
  unfold decodeC12
  split
  case h_10 => exact unlisted_reencodes
  all_goals
    refine dz_reencodes rfl fun hz => ?_
    omega


theorem decodeC13_reencodes (he : e < 256) (hc : fld w 27 4 = 13) : Reencodes w e (decodeC13 w e) := by
  have hw := word_cut w 18 5 rfl
  have h18 := low_cut w 12 6 18 rfl
  have h12 := low_cut w 6 6 12 rfl
  have h18' := low_cut w 6 12 18 rfl
  have he4 := lend_cut he 4 4 rfl
  have he1 := low_cut e 1 3 4 rfl
  have he7 := lend_cut he 7 1 rfl
  have he1' := low_cut e 1 6 7 rfl
  have he6 := lend_cut he 6 2 rfl
  have he5 := low_cut e 5 1 6 rfl
  have hb0 := bit_toNat e 0
  have hb5 := bit_toNat e 5
  unfold decodeC13
  split
  case h_19 => exact unlisted_reencodes
  all_goals
    refine dz_reencodes rfl fun hz => ?_
    omega


theorem decodeC14_reencodes (hc : fld w 27 4 = 14) : Reencodes w e (decodeC14 w e) := by
  have hw := word_cut w 18 5 rfl
  have h18 := low_cut w 12 6 18 rfl
  have h12 := low_cut w 6 6 12 rfl
  have h18' := low_cut w 6 12 18 rfl
  unfold decodeC14
  split
  case h_14 => exact unlisted_reencodes
  all_goals
    refine dz_reencodes rfl fun hz => ?_
    omega


theorem decodeOp_reencodes (he : e < 256) : Reencodes w e (decodeOp w e) := by
  unfold decodeOp
  split
  case h_1 hc => exact decodeC0_reencodes he hc
  case h_2 hc => exact decodeC1_reencodes he hc
  case h_3 hc => exact decodeC2_reencodes he hc
  case h_4 hc => exact decodeC3_reencodes he hc
  case h_5 hc => exact decodeC4_reencodes he hc
  case h_6 hc => exact decodeC5_reencodes hc
  case h_7 hc => exact decodeC6_reencodes he hc
  case h_8 hc => exact decodeC7_reencodes he hc
  case h_9 hc => exact decodeC8_reencodes he hc
  case h_10 hc => exact decodeC9_reencodes he hc
  case h_11 hc => exact decodeC10_reencodes he hc
  case h_12 hc => exact decodeC11_reencodes he hc
  case h_13 hc => exact decodeC12_reencodes hc
  case h_14 hc => exact decodeC13_reencodes he hc
  case h_15 hc => exact decodeC14_reencodes hc
  case h_16 =>
    intro i hi
    cases hi

/-! ## Every instruction -/

/-- Settles O54: class by class, the fields that the decoder reads are all of the word and all of the lend byte. -/
theorem encodeOfDecode : Obligations.EncodeOfDecode := by
  unfold Obligations.EncodeOfDecode
  intro w e i _ he h
  exact decodeOp_reencodes he i (Machine.decodeOp_of_decodeSyl h)

/-- The lemma of each encoded instruction; an event has no encoding. -/
theorem statement_all (i : Instr) : Statement i := by
  cases i with
    | add => apply add | sub => apply sub | and_ => apply and_ | or_ => apply or_ | xor => apply xor | andn => apply andn | shl => apply shl
    | shr => apply shr | sra => apply sra | rot => apply rot | mul => apply mul | mulh => apply mulh | mulhu => apply mulhu | min => apply min
    | max => apply max | minu => apply minu | maxu => apply maxu | sel => apply sel | clz => apply clz | ctz => apply ctz | popc => apply popc
    | brev => apply brev | sext => apply sext | zext => apply zext | div => apply div | divu => apply divu | rem => apply rem | remu => apply remu
    | addi => apply addi | andi => apply andi | ori => apply ori | xori => apply xori | shli => apply shli | shri => apply shri | srai => apply srai
    | muli => apply muli | movi => apply movi | movw => apply movw | mini => apply mini | maxi => apply maxi | cmp => apply cmp | cmpi => apply cmpi
    | pand => apply pand | por => apply por | pxor => apply pxor | pandn => apply pandn | pnot => apply pnot | pmov => apply pmov | fcmp => apply fcmp
    | br => apply br | call => apply call | brx => apply brx | ret => apply ret | loop => apply loop | loopi => apply loopi | lbrk => apply lbrk
    | fadd => apply fadd | fsub => apply fsub | fmul => apply fmul | ffma => apply ffma | fdiv => apply fdiv | fsqrt => apply fsqrt
    | fmin => apply fmin | fmax => apply fmax | fabs => apply fabs | fneg => apply fneg | fcvt => apply fcvt | fclass => apply fclass
    | fmov => apply fmov | fnum => apply fnum | fden => apply fden | fmake => apply fmake | frnd => apply frnd | aadd => apply aadd
    | aset => apply aset | amset => apply amset | sysrd => apply sysrd | syswr => apply syswr | trap => apply trap | eret => apply eret
    | cmpt => apply cmpt | nop => apply nop | exit => apply exit | cntrd => apply cntrd | cntrdc => apply cntrdc | cntsnap => apply cntsnap
    | xlinv => apply xlinv | ldB => apply ldB | ldH => apply ldH | ldW => apply ldW | ldD => apply ldD | stB => apply stB | stH => apply stH
    | stW => apply stW | stD => apply stD | vld => apply vld | vst => apply vst | vlds => apply vlds | vsts => apply vsts | ldf => apply ldf
    | stf => apply stf | ldk => apply ldk | tlook => apply tlook | tset => apply tset | tclr => apply tclr | tinv => apply tinv | amo => apply amo
    | red => apply red | fence => apply fence | fenceD => apply fenceD | row => apply row | watch => apply watch | waitw => apply waitw
    | kinv => apply kinv | vadd => apply vadd | vsub => apply vsub | vmul => apply vmul | vfma => apply vfma | vmin => apply vmin | vmax => apply vmax
    | vabs => apply vabs | vneg => apply vneg | vand => apply vand | vor => apply vor | vxor => apply vxor | vnot => apply vnot | vshl => apply vshl
    | vshr => apply vshr | vsra => apply vsra | vsel => apply vsel | vdot4 => apply vdot4 | vcmx => apply vcmx | vcmp => apply vcmp
    | vshuf => apply vshuf | vrot => apply vrot | vcvt => apply vcvt | vpack => apply vpack | vunpk => apply vunpk | vreds => apply vreds
    | vredm => apply vredm | vidx => apply vidx | vbcast => apply vbcast | vext => apply vext | vins => apply vins | vshli => apply vshli
    | vshri => apply vshri | vsrai => apply vsrai | vaddi => apply vaddi | vmovi => apply vmovi | vexp => apply vexp | vlog => apply vlog
    | vrcp => apply vrcp | vrsq => apply vrsq | vtanh => apply vtanh | vsig => apply vsig | vsin => apply vsin | vcos => apply vcos
    | verf => apply verf | wstr => apply wstr | wld => apply wld | wscl => apply wscl | wswap => apply wswap | mma => apply mma | mrd => apply mrd
    | acfg => apply acfg | fwdRead => apply fwdRead | fwdDelta => apply fwdDelta | fwdOuter => apply fwdOuter | opu => apply opu
    | sfork => apply sfork | ssnap => apply ssnap | sroll => apply sroll | savg => apply savg | sfree => apply sfree | smove => apply smove
    | sqry => apply sqry | ewait => apply ewait | epoll => apply epoll | tsub => apply tsub | tdone => apply tdone | launch => apply launch
    | ljoin => apply ljoin | range => apply range | gbar => apply gbar | yield_ => apply yield_ | qcnt => apply qcnt | spage => apply spage
    | cpy => apply cpy | push => apply push
    | _ => exact none_encoded rfl

/-- Settles O53: the word that each instruction is encoded to is read back as the instruction, with the stop bit and without. -/
theorem decodeOfEncode : Obligations.DecodeOfEncode := by
  unfold Obligations.DecodeOfEncode
  intro i w e hi he
  obtain ⟨hw, hl, hd⟩ := statement_all i w e hi he
  exact ⟨hw, hl, hd w (by omega), hd (w + 2 ^ 31) (by omega)⟩

/-- Settles O52: the decoder is run on each word. -/
theorem sampleWords : Obligations.SampleWords := by
  unfold Obligations.SampleWords
  decide

end Sys2Proof.Laws.EncodesBack
end

section
/-! Proofs about the frame of the operations that only read and write registers (R61, R71, R73, R81): whatever their issue comes to, what it may
change in its cycle is named once, and every part of the issue keeps to it. -/

set_option Elab.async false -- one proof at a time: many at once exhaust the memory of a build

namespace Sys2Proof.Machine

/-- Registers and rows of a strand are as they were, and what is newly on its way goes to registers of ds. -/
structure KeepsRegs (ds : List Reg) (old new : Strand) : Prop where
  x : new.x = old.x
  f : new.f = old.f
  p : new.p = old.p
  l : new.l = old.l
  v : new.v = old.v
  a : new.a = old.a
  am : new.am = old.am
  ls : new.ls = old.ls
  le : new.le = old.le
  shv : new.shv = old.shv
  scfg : new.scfg = old.scfg
  rows : new.rows = old.rows
  rown : new.rown = old.rown
  inflight : ∀ l ∈ new.inflight, l.dest ∈ ds ∨ ∃ m ∈ old.inflight, m.dest = l.dest ∧ m.left = l.left ∧ m.val = l.val
  pend : ∀ p ∈ new.pend, p ∈ old.pend ∨ ∀ r ∈ p.dests, r ∈ ds

/-- State t is s but for what the issue of a register operation of strand j of core k with destinations ds may change. -/
structure RegFrame (k j : Nat) (ds : List Reg) (s t : State) : Prop where
  mem : t.mem = s.mem
  memPois : t.memPois = s.memPois
  near : (t.core k).near = (s.core k).near
  cores : ∀ m, m ≠ k → t.core m = s.core m
  strands : ∀ m, m ≠ j → t.strand k m = s.strand k m
  own : KeepsRegs ds (s.strand k j) (t.strand k j)

/-! ## Strands -/

namespace KeepsRegs

variable {ds : List Reg} {x y z : Strand}

theorem refl (ds : List Reg) (x : Strand) : KeepsRegs ds x x where
  x := rfl
  f := rfl
  p := rfl
  l := rfl
  v := rfl
  a := rfl
  am := rfl
  ls := rfl
  le := rfl
  shv := rfl
  scfg := rfl
  rows := rfl
  rown := rfl
  inflight := fun l h => .inr ⟨l, h, rfl, rfl, rfl⟩
  pend := fun _ h => .inl h

theorem trans (h : KeepsRegs ds x y) (h' : KeepsRegs ds y z) : KeepsRegs ds x z where
  x := h'.x.trans h.x
  f := h'.f.trans h.f
  p := h'.p.trans h.p
  l := h'.l.trans h.l
  v := h'.v.trans h.v
  a := h'.a.trans h.a
  am := h'.am.trans h.am
  ls := h'.ls.trans h.ls
  le := h'.le.trans h.le
  shv := h'.shv.trans h.shv
  scfg := h'.scfg.trans h.scfg
  rows := h'.rows.trans h.rows
  rown := h'.rown.trans h.rown
  inflight := by
    intro l hl
    obtain hd | ⟨m, hm, hd, hleft, hval⟩ := h'.inflight l hl
    · exact .inl hd
    · obtain hd' | ⟨n, hn, hd', hleft', hval'⟩ := h.inflight m hm
      · exact .inl (hd ▸ hd')
      · exact .inr ⟨n, hn, hd'.trans hd, hleft'.trans hleft, hval'.trans hval⟩
  pend := by
    intro p hp
    obtain hp' | hd := h'.pend p hp
    · exact h.pend p hp'
    · exact .inr hd

/-- A result more in flight. -/
theorem addInflight (x : Strand) {n : Landing} (h : n.dest ∈ ds) (vd : List Reg) : KeepsRegs ds x { x with inflight := x.inflight ++ [n], vdest := vd } :=
  { refl ds x with
    inflight := by
      intro l hl
      obtain hl | hl := List.mem_append.1 hl
      · exact .inr ⟨l, hl, rfl, rfl, rfl⟩
      · exact .inl (List.mem_singleton.1 hl ▸ h) }

/-- A pending result more. -/
theorem addPend (x : Strand) {n : Pending} (h : ∀ r ∈ n.dests, r ∈ ds) (vd : List Reg) : KeepsRegs ds x { x with pend := x.pend ++ [n], vdest := vd } :=
  { refl ds x with
    pend := by
      intro p hp
      obtain hp | hp := List.mem_append.1 hp
      · exact .inl hp
      · exact .inr (List.mem_singleton.1 hp ▸ h) }

theorem crossed (x : Strand) (b : Bool) : KeepsRegs ds x (x.crossed b) :=
  { refl ds x with
    inflight := by
      intro l hl
      obtain ⟨m, hm, rfl⟩ := List.mem_map.1 hl
      exact .inr ⟨m, hm, rfl, rfl, rfl⟩ }

theorem noted (x : Strand) (c : GroupCtx) : KeepsRegs ds x (x.noted c) := by
  obtain ⟨r, n, q, h⟩ := noted_eq x c
  rw [h]
  exact { refl ds x with }

theorem noteCause (x : Strand) (c d y : Nat) (pc w : Word) : KeepsRegs ds x (x.noteCause c d y pc w) := by
  unfold Strand.noteCause
  exact { refl ds x with }

theorem setTH (x : Strand) (b : Bool) : KeepsRegs ds x (x.setTH b) := by
  unfold Strand.setTH
  generalize setBits x.sst 30 30 b.toNat = w
  exact { refl ds x with }

theorem sealed (x : Strand) : KeepsRegs ds x x.sealed := by
  unfold Strand.sealed
  split
  · exact { refl ds x with }
  · exact refl ds x

theorem bodyEnd (e : Word) (n : Nat) (x : Strand) : KeepsRegs ds x (x.bodyEnd e n).1 := by
  induction n generalizing x with
  | zero => exact refl ds x
  | succ n ih =>
    have hset : KeepsRegs ds x (x.setLC n (x.getLC n - 1)) := { refl ds x with }
    simp only [Strand.bodyEnd]
    split
    · split
      · exact hset
      · exact hset.trans (ih _)
    · exact ih x

end KeepsRegs

/-! ## States -/

namespace RegFrame

variable {k j : Nat} {ds : List Reg} {s t u : State}

theorem refl (k j : Nat) (ds : List Reg) (s : State) : RegFrame k j ds s s := ⟨rfl, rfl, rfl, fun _ _ => rfl, fun _ _ => rfl, .refl ds _⟩

theorem trans (h : RegFrame k j ds s t) (h' : RegFrame k j ds t u) : RegFrame k j ds s u where
  mem := h'.mem.trans h.mem
  memPois := h'.memPois.trans h.memPois
  near := h'.near.trans h.near
  cores m hm := (h'.cores m hm).trans (h.cores m hm)
  strands m hm := (h'.strands m hm).trans (h.strands m hm)
  own := h.own.trans h'.own

/-- Whatever keeps memory and the cores keeps to the frame. -/
theorem step (h : RegFrame k j ds s t) (hm : u.mem = t.mem) (hp : u.memPois = t.memPois) (hc : u.cores = t.cores) : RegFrame k j ds s u := by
  have hcore : ∀ m, u.core m = t.core m := fun m => by rw [State.core, hc]; rfl
  have hstrand : ∀ m, u.strand k m = t.strand k m := fun m => by rw [State.strand, hcore]; rfl
  exact h.trans ⟨hm, hp, by rw [hcore], fun m _ => hcore m, fun m _ => hstrand m, by rw [hstrand]; exact .refl ds _⟩

theorem spend (h : RegFrame k j ds s t) : RegFrame k j ds s t.spend := h.step rfl rfl rfl

theorem modCore (h : RegFrame k j ds s t) {f : Core → Core} (hn : ∀ c, (f c).near = c.near := by intro c; rfl)
    (hs : ∀ c, (f c).strands = c.strands := by intro c; rfl) : RegFrame k j ds s (t.modCore k f) := by
  have hstrand : ∀ m, (t.modCore k f).strand k m = t.strand k m := fun m => by rw [strand_modCore_self, Core.strand, hs]; rfl
  exact h.trans ⟨rfl, rfl, by rw [core_modCore_self, hn], fun m hm => core_modCore_ne t f hm, fun m _ => hstrand m, by rw [hstrand]; exact .refl ds _⟩

theorem setStrand (h : RegFrame k j ds s t) {y : Strand} (hy : KeepsRegs ds (t.strand k j) y) : RegFrame k j ds s (t.setStrand k j y) := by
  refine h.trans ⟨rfl, rfl, ?_, fun m hm => core_setStrand_ne t j y hm, fun m hm => ?_, ?_⟩
  · rw [core_setStrand]; rfl
  · rw [State.strand, core_setStrand, strand_setStrand_ne _ _ hm]; rfl
  · rw [state_strand_setStrand_self]; exact hy

theorem modStrand (h : RegFrame k j ds s t) {f : Strand → Strand} (hf : ∀ x, KeepsRegs ds x (f x) := by intro x; exact { KeepsRegs.refl _ x with }) :
    RegFrame k j ds s (t.modStrand k j f) := h.setStrand (hf _)

theorem giveUp (h : RegFrame k j ds s t) (gap : Nat) : RegFrame k j ds s (t.giveUp k j gap) := h.modCore

theorem openGroup (s : State) (ds : List Reg) (ns : List Info) : RegFrame s.cur.core s.cur.strand ds s (s.openGroup ns) :=
  ((refl _ _ ds s).setStrand ((KeepsRegs.noted _ s.cur).trans (.crossed _ (landingPoint (s.strand s.cur.core s.cur.strand) s.cur ns)))).step rfl rfl rfl

/-! ## Results and pops -/

theorem reserve (h : RegFrame k j ds s t) (r : Reg) : RegFrame k j ds s (t.reserve k j r).2 := by
  unfold State.reserve
  split
  · split
    · dsimp only
      refine RegFrame.modCore ?_
      exact h.step rfl rfl rfl
    · exact h
  · exact h

theorem result (h : RegFrame k j ds s t) {r : Reg} (hr : r ∈ ds) (l : Nat) (v : Val) (fl : BitVec 5) (po : Bool) :
    RegFrame k j ds s (t.result k j r l v fl po) := (h.reserve r).modStrand fun x => .addInflight x hr _

theorem resultVar (h : RegFrame k j ds s t) {r : Reg} (hr : r ∈ ds) (v : Val) (due : Option Nat) (tag : Nat) (fl : BitVec 5) (po : Bool) :
    RegFrame k j ds s (t.resultVar k j r v due tag fl po) := (h.reserve r).modStrand fun x => .addPend x (by simpa using hr) _

theorem popX (h : RegFrame k j ds s t) (n : Nat) : RegFrame k j ds s (t.popX k n) := by
  unfold State.popX
  split
  · exact h.modCore
  · exact h

theorem popReads (h : RegFrame k j ds s t) (l : List Reg) : RegFrame k j ds s (t.popReads k l) := by
  unfold State.popReads
  induction l generalizing t with
  | nil => exact h
  | cons r l ih =>
    rw [List.foldl_cons]
    cases r with
    | x n => exact ih (h.popX n)
    | _ => exact ih h

/-! ## Causes and blocks (R133, R368, R33) -/

theorem bumpErr_cores (t : State) (n e : Nat) : (t.bumpErr n e).cores = t.cores := by
  unfold State.bumpErr
  dsimp only
  split <;> split <;> rfl

theorem bumpErr_strand (t : State) (n e k j : Nat) : (t.bumpErr n e).strand k j = t.strand k j := by
  rw [State.strand, State.core, bumpErr_cores]
  rfl

theorem bumpErr (h : RegFrame k j ds s t) (n e : Nat) : RegFrame k j ds s (t.bumpErr n e) :=
  h.step (bumpErr_mem t n e) (bumpErr_memPois t n e) (bumpErr_cores t n e)

theorem failAt (h : RegFrame k j ds s t) (n : Nat) : RegFrame k j ds s (t.failAt k j n) := by
  unfold State.failAt
  split
  · refine RegFrame.giveUp ?_ 0
    exact h.step rfl rfl rfl
  · exact h

theorem takeTrap (h : RegFrame k j ds s t) (c d y : Nat) (pc w : Word) : RegFrame k j ds s (t.takeTrap k j c d y pc w) := by
  unfold State.takeTrap
  dsimp only
  split
  · exact h.failAt 1
  · refine (h.setStrand (((KeepsRegs.noteCause _ c d y pc w).trans (.setTH _ true)).trans ?_)).giveUp 0
    exact { KeepsRegs.refl _ _ with }

theorem takeRecovery (h : RegFrame k j ds s t) (c d y : Nat) (pc w : Word) : RegFrame k j ds s (t.takeRecovery k j c d y pc w) := by
  have hbump : RegFrame k j ds s (if c = 0x15 then t.bumpErr (towerOf k) 1 else t) := by
    split
    · exact h.bumpErr _ 1
    · exact h
  have hstrand : (if c = 0x15 then t.bumpErr (towerOf k) 1 else t).strand k j = t.strand k j := by
    split
    · exact bumpErr_strand t _ 1 k j
    · rfl
  unfold State.takeRecovery
  dsimp only
  generalize hx : (if c = 0x15 ∧ d = 2 then _ else _ : Strand) = x
  have hkeep : KeepsRegs ds (t.strand k j) x := by
    rw [← hx]
    split <;> exact { KeepsRegs.refl _ _ with }
  split
  · exact hbump.failAt 1
  · split
    · exact hbump.failAt 2
    · refine (hbump.setStrand ?_).giveUp 0
      rw [hstrand]
      exact (hkeep.trans (.sealed x)).trans { KeepsRegs.refl _ _ with }

theorem takeCause (h : RegFrame k j ds s t) (c d y : Nat) (pc w : Word) : RegFrame k j ds s (t.takeCause k j c d y pc w) := by
  unfold State.takeCause
  split
  · exact h.takeRecovery c d y pc w
  · exact h.takeTrap c d y pc w

theorem blockOn (h : RegFrame k j ds s t) (b : Block) : RegFrame k j ds s (t.blockOn k j b) := h.modStrand.giveUp 0

end RegFrame

/-! ## A held group -/

/-- A cause other than the software trap and the weight-stream fault: taking it changes registers of R132 alone, and TH and SPC. -/
def Stop.isPlain (e : Stop) : Prop := ∃ c d w, e = .cause c d w ∧ c ≠ 0x06 ∧ c ≠ 0x0B

/-- What can keep a register operation from issuing. -/
def Stop.holdsRegs (e : Stop) : Prop := e.isPlain ∨ ∃ b, e = .block b

theorem Stop.isPlain.holdsRegs {e : Stop} (h : e.isPlain) : e.holdsRegs := .inl h

theorem topCause_mem {l : List (Nat × Stop)} {p c d : Nat} {w : Word} (h : topCause l = some (p, c, d, w)) : (p, Stop.cause c d w) ∈ l := by
  induction l generalizing p c d w with
  | nil => cases h
  | cons e l ih =>
    obtain ⟨q, e⟩ := e
    cases e with
    | cause c' d' w' =>
      simp only [topCause] at h
      split at h
      · cases h
        exact List.mem_cons_self
      · split at h
        · cases h
          exact List.mem_cons_of_mem _ (ih ‹_›)
        · cases h
          exact List.mem_cons_self
    | _ => exact List.mem_cons_of_mem _ (ih h)

theorem needsOf_of_holdsRegs {l : List (Nat × Stop)} (h : ∀ e ∈ l, e.2.holdsRegs) : needsOf l = [] := by
  refine List.flatMap_eq_nil_iff.2 fun e he => ?_
  obtain ⟨c, d, w, h, -⟩ | ⟨b, h⟩ := h e he <;> rw [h]

theorem holdGroup_cause {s : State} {l : List (Nat × Stop)} {p c d : Nat} {w : Word} (hn : needsOf l = []) (ht : topCause l = some (p, c, d, w))
    (h6 : c ≠ 0x06) (hb : c ≠ 0x0B) (k j : Nat) (c3 : Bool) :
    s.holdGroup k j c3 l = ((s.modCore k fun x => { x with fills := [] }).takeCause k j c d p s.cur.start w).spend := by
  simp [State.holdGroup, hn, ht, h6, hb]

namespace RegFrame

variable {k j : Nat} {ds : List Reg} {s t u : State}

theorem holdGroup (h : RegFrame k j ds s t) {l : List (Nat × Stop)} (hl : ∀ e ∈ l, e.2.holdsRegs) (c3 : Bool) :
    RegFrame k j ds s (t.holdGroup k j c3 l) := by
  have hn := needsOf_of_holdsRegs hl
  have hfill : RegFrame k j ds s (t.modCore k fun x => { x with fills := [] }) := h.modCore
  cases ht : topCause l with
  | some e =>
    obtain ⟨p, c, d, w⟩ := e
    obtain ⟨c', d', w', he, h6, hb⟩ | ⟨b, he⟩ := hl _ (topCause_mem ht)
    · cases he
      rw [holdGroup_cause hn ht h6 hb]
      exact (hfill.takeCause c d p _ w).spend
    · cases he
  | none =>
    simp only [State.holdGroup, hn, ht, List.isEmpty_nil, Bool.not_true, Bool.false_eq_true, if_false]
    split
    · exact hfill.blockOn _
    · next p r =>
      obtain ⟨c, d, w, he, -⟩ | ⟨b, he⟩ := hl _ List.mem_cons_self <;> cases he
    · exact hfill

/-! ## The end of an issue (R75, R155) -/

theorem advance (h : RegFrame t.cur.core t.cur.strand ds s t) : RegFrame t.cur.core t.cur.strand ds s t.advance := by
  have hbody : KeepsRegs ds (t.strand t.cur.core t.cur.strand) ((t.strand t.cur.core t.cur.strand).bodyEnd t.cur.bundle 4).1 := .bodyEnd _ 4 _
  unfold State.advance
  dsimp only
  split
  · refine RegFrame.modCore (h.setStrand ?_)
    split
    · exact hbody.trans { KeepsRegs.refl _ _ with }
    · exact { KeepsRegs.refl _ _ with }
  · split
    · exact h.setStrand (hbody.trans { KeepsRegs.refl _ _ with })
    · exact h.setStrand { KeepsRegs.refl _ _ with }

theorem closeGroup (h : RegFrame t.cur.core t.cur.strand ds s t) (hw : t.cur.sysw = []) (irr : Bool) :
    RegFrame t.cur.core t.cur.strand ds s (t.closeGroup irr) := by
  unfold State.closeGroup
  simp only [hw, List.foldl_nil, cur_modCore, cur_modStrand]
  have hdone := RegFrame.modCore (f := fun c => { c with issued := true, fills := [] })
    (h.modStrand (f := fun x => { x with cIssue := x.cIssue + 1, fresh := irr }))
  split
  · exact ((hdone.modStrand).giveUp 1).spend
  · exact hdone.spend

end RegFrame

theorem advance_cur (s : State) : s.advance.cur = s.cur := by
  unfold State.advance
  dsimp only
  split
  · rfl
  · split <;> rfl

/-! ## The effect of an operation -/

/-- What the effect of a register operation leaves: a frame, and nothing noted for the end of its cycle. -/
structure WritesRegs (ds : List Reg) (s u : State) : Prop where
  frame : RegFrame s.cur.core s.cur.strand ds s u
  core : u.cur.core = s.cur.core
  strand : u.cur.strand = s.cur.strand
  sysw : u.cur.sysw = s.cur.sysw

theorem reserve_cur (s : State) (k i : Nat) (r : Reg) : (s.reserve k i r).2.cur = s.cur := by
  unfold State.reserve
  split
  · split <;> rfl
  · rfl

theorem result_cur (s : State) (k i : Nat) (r : Reg) (l : Nat) (v : Val) (fl : BitVec 5) (po : Bool) : (s.result k i r l v fl po).cur = s.cur :=
  reserve_cur s k i r

theorem resultVar_cur (s : State) (k i : Nat) (r : Reg) (v : Val) (due : Option Nat) (tag : Nat) (fl : BitVec 5) (po : Bool) :
    (s.resultVar k i r v due tag fl po).cur = s.cur := reserve_cur s k i r

namespace WritesRegs

variable {ds : List Reg} {s u : State}

theorem refl (ds : List Reg) (s : State) : WritesRegs ds s s := ⟨.refl _ _ ds s, rfl, rfl, rfl⟩

theorem result (h : WritesRegs ds s u) {r : Reg} (hr : r ∈ ds) {l : Nat} {v : Val} {fl : BitVec 5} {po : Bool} :
    WritesRegs ds s (u.result s.cur.core s.cur.strand r l v fl po) := by
  have hc := result_cur u s.cur.core s.cur.strand r l v fl po
  exact ⟨h.frame.result hr l v fl po, by rw [hc, h.core], by rw [hc, h.strand], by rw [hc, h.sysw]⟩

theorem resultVar (h : WritesRegs ds s u) {r : Reg} (hr : r ∈ ds) {v : Val} {due : Option Nat} {tag : Nat} {fl : BitVec 5} {po : Bool} :
    WritesRegs ds s (u.resultVar s.cur.core s.cur.strand r v due tag fl po) := by
  have hc := resultVar_cur u s.cur.core s.cur.strand r v due tag fl po
  exact ⟨h.frame.resultVar hr v due tag fl po, by rw [hc, h.core], by rw [hc, h.strand], by rw [hc, h.sysw]⟩

theorem popReads (h : WritesRegs ds s u) (l : List Reg) : WritesRegs ds s (u.popReads s.cur.core l) :=
  ⟨h.frame.popReads l, by rw [popReads_cur, h.core], by rw [popReads_cur, h.strand], by rw [popReads_cur, h.sysw]⟩

theorem goTo (h : WritesRegs ds s u) (t : Word) (ret : Bool) : WritesRegs ds s (u.goTo t ret) := by
  refine ⟨?_, h.core, h.strand, h.sysw⟩
  have hmod : RegFrame s.cur.core s.cur.strand ds s
      (u.modStrand s.cur.core s.cur.strand fun x => if ret then { x with cRets := x.cRets + 1 } else { x with cTbr := x.cTbr + 1 }) :=
    h.frame.modStrand fun x => by split <;> exact { KeepsRegs.refl _ _ with }
  unfold State.goTo
  rw [h.core, h.strand]
  exact hmod.step rfl rfl rfl

end WritesRegs

/-- An operation that reads registers and writes those of ds, or meets a plain cause. -/
structure GOp.WritesOnly (ds : List Reg) (g : GOp) : Prop where
  ok : ∀ s u, g.op s = .ok u → WritesRegs ds s u
  error : ∀ s e, g.op s = .error e → e.isPlain
  early : ∀ e ∈ g.info.early, ∀ s st, e.2 s = some st → st.isPlain

namespace GOp.WritesOnly

variable {ds : List Reg}

/-- An operation that meets no cause. -/
theorem of_ok {g : GOp} (he : g.info.early = []) (h : ∀ s, ∃ u, g.op s = .ok u ∧ WritesRegs ds s u) : g.WritesOnly ds where
  ok s u hu := by
    obtain ⟨v, hv, hw⟩ := h s
    cases hv.symm.trans hu
    exact hw
  error s e hs := by
    obtain ⟨v, hv, -⟩ := h s
    cases hv.symm.trans hs
  early := by simp [he]

theorem lands {g : GOp} {r : Reg} (he : g.info.early = [])
    (h : ∀ s, ∃ l v fl po, g.op s = .ok (s.result s.cur.core s.cur.strand r l v fl po)) : g.WritesOnly [r] :=
  of_ok he fun s => by
    obtain ⟨l, v, fl, po, h⟩ := h s
    exact ⟨_, h, (WritesRegs.refl _ s).result (List.mem_singleton_self r)⟩

theorem pends {g : GOp} {r : Reg} (he : g.info.early = [])
    (h : ∀ s, ∃ v due tag fl po, g.op s = .ok (s.resultVar s.cur.core s.cur.strand r v due tag fl po)) : g.WritesOnly [r] :=
  of_ok he fun s => by
    obtain ⟨v, due, tag, fl, po, h⟩ := h s
    exact ⟨_, h, (WritesRegs.refl _ s).resultVar (List.mem_singleton_self r)⟩

theorem of_pair {g : GOp} {r r' : Reg} (he : g.info.early = []) (hr : r ∈ ds) (hr' : r' ∈ ds)
    (h : ∀ s, ∃ l v fl l' v', g.op s =
      .ok ((s.result s.cur.core s.cur.strand r l v fl).result s.cur.core s.cur.strand r' l' v')) : g.WritesOnly ds :=
  of_ok he fun s => by
    obtain ⟨l, v, fl, l', v', h⟩ := h s
    exact ⟨_, h, ((WritesRegs.refl ds s).result hr).result hr'⟩

/-! ### The forms of the register operations -/

theorem two (g d a b l : Nat) (f : Word → Word → Word) : (gopTwo g d a b l f).WritesOnly [.x d] :=
  lands rfl fun _ => ⟨_, _, _, _, rfl⟩

theorem imm (g d a l : Nat) (f : Word → Word) : (gopImm g d a l f).WritesOnly [.x d] :=
  lands rfl fun _ => ⟨_, _, _, _, rfl⟩

theorem const (g d : Nat) (v : Word) : (gopConst g d v).WritesOnly [.x d] :=
  lands rfl fun _ => ⟨_, _, _, _, rfl⟩

theorem divide (g d a b : Nat) (sgn rem : Bool) : (gopDivide g d a b sgn rem).WritesOnly [.x d] :=
  pends rfl fun _ => ⟨_, _, _, _, _, rfl⟩

theorem pred (g d : Nat) (reads : List Reg) (f : (Nat → Bool) → Bool) : (gopPred g d reads f).WritesOnly [.p d] :=
  lands rfl fun _ => ⟨_, _, _, _, rfl⟩

theorem cmp (g : Nat) (cc : Cond) (k a b : Nat) : (gopCmp g cc k a b).WritesOnly [.p (2 * k), .p (2 * k + 1)] :=
  of_pair rfl List.mem_cons_self (by simp) fun _ => ⟨_, _, _, _, _, rfl⟩

theorem cmpi (g : Nat) (cc : Cond) (k a : Nat) (v : Int) : (gopCmpi g cc k a v).WritesOnly [.p (2 * k), .p (2 * k + 1)] :=
  of_pair rfl List.mem_cons_self (by simp) fun _ => ⟨_, _, _, _, _, rfl⟩

theorem fcmp (g : Nat) (cc : Cond) (k a b : Nat) (s : State) : (gopFcmp g cc k a b s).WritesOnly [.p (2 * k), .p (2 * k + 1)] :=
  of_pair rfl List.mem_cons_self (by simp) fun _ => ⟨_, _, _, _, _, rfl⟩

theorem arith (g d : Nat) (reads : List Nat) (dbl : Bool) (f : Rnd → List FVal → FVal × BitVec 5) (s : State) :
    (gopArith g d reads dbl f s).WritesOnly [.f d] := by
  unfold gopArith
  dsimp only
  cases s.me.rat with
  | true => exact pends rfl fun _ => ⟨_, _, _, _, _, rfl⟩
  | false => exact lands rfl fun _ => ⟨_, _, _, _, rfl⟩

theorem selects (g d a b : Nat) (dbl big : Bool) (s : State) : (gopMinMax g d a b dbl big s).WritesOnly [.f d] := by
  unfold gopMinMax
  dsimp only
  cases s.me.rat with
  | true => exact pends rfl fun _ => ⟨_, _, _, _, _, rfl⟩
  | false => exact lands rfl fun _ => ⟨_, _, _, _, rfl⟩

theorem fdiv (g d a b : Nat) (dbl : Bool) (s : State) : (gopFdiv g d a b dbl s).WritesOnly [.f d] := by
  unfold gopFdiv
  dsimp only
  cases s.me.rat <;> exact pends rfl fun _ => ⟨_, _, _, _, _, rfl⟩

/-- A root answers after a latency of its own in every case, with a result for Fd. -/
theorem fsqrt (g d a : Nat) (dbl : Bool) (s : State) : (gopFsqrt g d a dbl s).WritesOnly [.f d] := by
  refine pends rfl fun o => ?_
  unfold gopFsqrt
  dsimp only
  split
  · split <;> exact ⟨_, _, _, _, _, rfl⟩
  · split <;> exact ⟨_, _, _, _, _, rfl⟩

theorem sign (g d a : Nat) (dbl neg : Bool) (s : State) : (gopSign g d a dbl neg s).WritesOnly [.f d] :=
  lands rfl fun _ => ⟨_, _, _, _, rfl⟩

/-- A conversion that has FS64 on a side is pending, another one lands after four cycles. -/
theorem fcvt (g d a src dst : Nat) (s : State) : (gopFcvt g d a src dst s).WritesOnly [.x d, .f d] := by
  have hd : (if cvtIsInt dst then Reg.x d else Reg.f d) ∈ [Reg.x d, Reg.f d] := by split <;> simp
  refine of_ok rfl fun o => ?_
  unfold gopFcvt
  dsimp only
  split
  · exact ⟨_, rfl, (WritesRegs.refl _ o).resultVar hd⟩
  · split
    · exact ⟨_, rfl, (WritesRegs.refl _ o).resultVar hd⟩
    · exact ⟨_, rfl, (WritesRegs.refl _ o).result hd⟩

theorem amset (g d a b : Nat) : (gopAmset g d a b).WritesOnly [.am d] where
  ok s u hu := by
    unfold gopAmset at hu
    dsimp only at hu
    split at hu
    · cases hu
      exact (WritesRegs.refl _ s).result (List.mem_singleton_self _)
    · cases hu
  error s e he := by
    unfold gopAmset at he
    dsimp only at he
    split at he
    · cases he
    · cases he
      exact ⟨_, _, _, rfl, by decide, by decide⟩
  early e he s st hst := by
    cases List.mem_singleton.1 he
    dsimp only at hst
    split at hst
    · cases hst
    · cases hst
      exact ⟨_, _, _, rfl, by decide, by decide⟩

theorem cntrdc (g d n : Nat) : (gopCntrdc g d n).WritesOnly [.x d, .x (d + 1)] :=
  of_pair rfl List.mem_cons_self (by simp) fun _ => ⟨_, _, _, _, _, rfl⟩

theorem cntsnap (g : Nat) : (gopCntsnap g).WritesOnly [] :=
  of_ok rfl fun s => ⟨_, rfl, (RegFrame.refl _ _ _ s).modStrand, rfl, rfl, rfl⟩

theorem nop (g : Nat) : (gopNop g).WritesOnly [] := of_ok rfl fun s => ⟨s, rfl, .refl _ s⟩

theorem targetStop_isPlain {t : Word} {e : Stop} (h : targetStop t = some e) : e.isPlain := by
  unfold targetStop at h
  split at h
  · cases h
    exact ⟨_, _, _, rfl, by decide, by decide⟩
  · split at h
    · cases h
      exact ⟨_, _, _, rfl, by decide, by decide⟩
    · cases h

/-- A transfer of control, with its link where it has one. -/
theorem transfer {g : GOp} {target : State → Word} {ret : Bool} {link : Option Nat} (he : g.info.early = [])
    (h : ∀ s, g.op s = branchTo (target s) ret link s) : g.WritesOnly (link.toList.map Reg.x) where
  ok s u hu := by
    rw [h s] at hu
    unfold branchTo at hu
    split at hu
    · cases hu
    · cases hu
      cases link with
      | none => exact (WritesRegs.refl _ s).goTo _ ret
      | some d => exact ((WritesRegs.refl _ s).result (List.mem_singleton_self _)).goTo _ ret
  error s e hs := by
    rw [h s] at hs
    unfold branchTo at hs
    split at hs
    · next ht =>
      cases hs
      exact targetStop_isPlain ht
    · cases hs
  early := by simp [he]

theorem lanes (g d l : Nat) (rows : List Nat) (f : Ety → List Nat → Nat) : (gopLanes g d l rows f).WritesOnly [.v d] :=
  lands rfl fun _ => ⟨_, _, _, _, rfl⟩

theorem vcmp (g : Nat) (cc : Cond) (k a b : Nat) (s : State) : (gopVcmp g cc k a b s).WritesOnly [.l (2 * k), .l (2 * k + 1)] :=
  of_pair rfl List.mem_cons_self (by simp) fun _ => ⟨_, _, _, _, _, rfl⟩

theorem special (g d a op : Nat) (s : State) : (gopSpecial g d a op s).WritesOnly [.v d] :=
  lands rfl fun _ => ⟨_, _, _, _, rfl⟩

theorem qcnt (g d a : Nat) : (gopQcnt g d a).WritesOnly [.x d] where
  ok s u hu := by
    unfold gopQcnt at hu
    dsimp only at hu
    split at hu
    · cases hu
      exact (WritesRegs.refl _ s).result (List.mem_singleton_self _)
    · cases hu
  error s e he := by
    unfold gopQcnt at he
    dsimp only at he
    split at he
    · cases he
    · cases he
      exact ⟨_, _, _, rfl, by decide, by decide⟩
  early := by simp [gopQcnt, infoQ]

end GOp.WritesOnly

/-! ## The issue -/

theorem pendingStops_isPlain (x : Strand) (n : Info) : ∀ e ∈ pendingStops x n, e.isPlain := by
  intro e he
  unfold pendingStops at he
  obtain he | he := List.mem_append.1 he
  · split at he
    · exact ⟨_, _, _, List.mem_singleton.1 he, by decide, by decide⟩
    · cases he
  · split at he
    · exact ⟨_, _, _, List.mem_singleton.1 he, by decide, by decide⟩
    · cases he

theorem schedStops_isPlain (x : Strand) (n : Info) : ∀ e ∈ schedStops x n, e.isPlain := by
  intro e he
  unfold schedStops at he
  obtain he | he := List.mem_append.1 he
  · exact pendingStops_isPlain x n e he
  · split at he
    · exact ⟨_, _, _, List.mem_singleton.1 he, by decide, by decide⟩
    · cases he

/-- A check of an operand gives what its own function gives. -/
theorem earlyStops_mem {s : State} {x : Strand} {n : Info} {e : Stop} (h : e ∈ earlyStops s x n) : ∃ c ∈ n.early, c.2 s = some e := by
  unfold earlyStops at h
  obtain ⟨c, hc, he⟩ := List.mem_filterMap.1 h
  refine ⟨c, hc, ?_⟩
  split at he
  · cases he
  · split at he
    · cases he
    · cases he
    · exact he

theorem runOp_writesOnly {ds : List Reg} {g : GOp} (h : g.WritesOnly ds) (s : State) :
    WritesRegs ds s (runOp s g).1 ∧ ∀ e ∈ (runOp s g).2, e.holdsRegs := by
  have hsched : ∀ e ∈ schedStops (s.strand s.cur.core s.cur.strand) g.info ++
      (if (s.strand s.cur.core s.cur.strand).poisonRead g.info then [Stop.cause 0x15 1 0] else []), e.isPlain := by
    intro e he
    obtain he | he := List.mem_append.1 he
    · exact schedStops_isPlain _ _ e he
    · split at he
      · exact ⟨_, _, _, List.mem_singleton.1 he, by decide, by decide⟩
      · cases he
  have hwhole : ∀ e ∈ earlyStops s (s.strand s.cur.core s.cur.strand) g.whole, e.isPlain := by
    intro e he
    obtain ⟨c, hc, hce⟩ := earlyStops_mem he
    obtain hc | hc := List.mem_append.1 hc
    · exact h.early c hc s e hce
    · cases List.mem_singleton.1 hc
      dsimp only at hce
      cases hop : g.op s with
      | error e' =>
        rw [hop] at hce
        cases hce
        exact h.error s _ hop
      | ok u =>
        rw [hop] at hce
        cases hce
  unfold runOp
  dsimp only
  split
  · exact ⟨.refl ds s, fun e he => (pendingStops_isPlain _ _ e he).holdsRegs⟩
  · split
    · refine ⟨.refl ds s, fun e he => ?_⟩
      simp only [List.mem_append, List.mem_singleton] at he hsched
      obtain (he | he) | rfl := he
      · exact (hsched e he).holdsRegs
      · exact (hwhole e he).holdsRegs
      · exact .inr ⟨_, rfl⟩
    · split
      · next e' he' =>
        refine ⟨.refl ds s, fun e he => ?_⟩
        obtain he | he := List.mem_append.1 he
        · exact (hsched e he).holdsRegs
        · cases List.mem_singleton.1 he
          exact (h.error s _ he').holdsRegs
      · next u hu =>
        split
        · refine ⟨.refl ds s, fun e he => ?_⟩
          obtain he | he := List.mem_append.1 he
          · exact (hsched e he).holdsRegs
          · exact .inl ⟨_, _, _, List.mem_singleton.1 he, by decide, by decide⟩
        · exact ⟨(h.ok s u hu).popReads _, fun e he => (hsched e he).holdsRegs⟩

/-- Whether it completes, blocks or traps, a register operation alone in its group keeps to the frame. -/
theorem issueGroup_regFrame {ds : List Reg} {g : GOp} (h : g.WritesOnly ds) {s t : State} (ht : issueGroup [] [g] s = .next t) :
    RegFrame s.cur.core s.cur.strand ds s t := by
  obtain ⟨hrun, hstops⟩ := runOp_writesOnly h (s.openGroup [g.info])
  have hopen := RegFrame.openGroup s ds [g.info]
  simp only [issueGroup, List.map_cons, List.map_nil, phased_one, runOps, List.append_nil] at ht
  split at ht
  · cases ht
    exact ((RegFrame.refl _ _ ds s).takeCause ..).spend
  · split at ht
    · cases ht
      have hcore : (runOp (s.openGroup [g.info]) g).1.cur.core = s.cur.core := hrun.core
      have hstrand : (runOp (s.openGroup [g.info]) g).1.cur.strand = s.cur.strand := hrun.strand
      have hframe := hopen.trans hrun.frame
      rw [← hcore, ← hstrand] at hframe ⊢
      have hadv := hframe.advance
      rw [← advance_cur] at hadv ⊢
      exact hadv.closeGroup (by rw [advance_cur]; exact hrun.sysw) _
    · cases ht
      refine (RegFrame.refl _ _ ds s).holdGroup (fun e he => ?_) _
      obtain ⟨e', he', rfl⟩ := List.mem_map.1 he
      exact hstops e' he'

/-- The frame of an instruction that is a register operation. -/
theorem exec_regFrame {i : Instr} {ds : List Reg} {s t : State} (h : ∃ g, gopOf i s = some g ∧ g.WritesOnly ds) (ht : exec i s = .next t) :
    RegFrame s.cur.core s.cur.strand ds s t := by
  obtain ⟨g, hg, hw⟩ := h
  rw [exec_eq_issueGroup hg] at ht
  exact issueGroup_regFrame hw ht

section

open GOp.WritesOnly

/-- Settles O58: each instruction is a register operation, by the form that its meaning has. -/
theorem registerFrame : Obligations.RegisterFrame := by
  unfold Obligations.RegisterFrame
  intro g d a b c n v dbl hi cc s t e he ht
  have hforms : ∃ o, gopOf e.1 s = some o ∧ o.WritesOnly e.2 := by
    clear ht
    revert e
    simp only [List.forall_mem_cons, List.not_mem_nil, false_imp_iff, implies_true, and_true]
    exact ⟨
      ⟨_, rfl, two ..⟩, ⟨_, rfl, two ..⟩, ⟨_, rfl, two ..⟩, ⟨_, rfl, two ..⟩, ⟨_, rfl, two ..⟩, ⟨_, rfl, two ..⟩, -- ADD, SUB, AND, OR, XOR, ANDN
      ⟨_, rfl, two ..⟩, ⟨_, rfl, two ..⟩, ⟨_, rfl, two ..⟩, ⟨_, rfl, two ..⟩, ⟨_, rfl, two ..⟩, ⟨_, rfl, two ..⟩, -- SHL, SHR, SRA, ROT, MUL, MULH
      ⟨_, rfl, two ..⟩, ⟨_, rfl, two ..⟩, ⟨_, rfl, lands rfl fun _ => ⟨_, _, _, _, rfl⟩⟩, ⟨_, rfl, imm ..⟩, -- MIN, MAX, SEL, CLZ
      ⟨_, rfl, imm ..⟩, ⟨_, rfl, imm ..⟩, -- POPC, BREV
      ⟨_, rfl, imm ..⟩, ⟨_, rfl, imm ..⟩, ⟨_, rfl, imm ..⟩, ⟨_, rfl, imm ..⟩, ⟨_, rfl, const ..⟩, ⟨_, rfl, const ..⟩, -- ADDI, ANDI, SHLI, MULI, MOVI, MOVW
      ⟨_, rfl, divide ..⟩, ⟨_, rfl, divide ..⟩, ⟨_, rfl, cmp ..⟩, ⟨_, rfl, cmpi ..⟩, -- DIV, REMU, CMP, CMPI
      ⟨_, rfl, pred ..⟩, ⟨_, rfl, pred ..⟩, ⟨_, rfl, arith ..⟩, ⟨_, rfl, arith ..⟩, ⟨_, rfl, arith ..⟩, -- PAND, PNOT, FADD, FMUL, FFMA
      ⟨_, rfl, fdiv ..⟩, ⟨_, rfl, fsqrt ..⟩, ⟨_, rfl, selects ..⟩, ⟨_, rfl, sign ..⟩, -- FDIV, FSQRT, FMIN, FNEG
      ⟨_, rfl, lands rfl fun _ => ⟨_, _, _, _, rfl⟩⟩, -- FMOV
      ⟨_, rfl, lands rfl fun _ => ⟨_, _, _, _, rfl⟩⟩, ⟨_, rfl, pends rfl fun _ => ⟨_, _, _, _, _, rfl⟩⟩, ⟨_, rfl, fcmp ..⟩, -- FNUM, FMAKE, FCMP
      ⟨_, rfl, lands rfl fun _ => ⟨_, _, _, _, rfl⟩⟩, ⟨_, rfl, lands rfl fun _ => ⟨_, _, _, _, rfl⟩⟩, -- AADD, ASET
      ⟨_, rfl, amset ..⟩, ⟨_, rfl, lands rfl fun _ => ⟨_, _, _, _, rfl⟩⟩, ⟨_, rfl, lands rfl fun _ => ⟨_, _, _, _, rfl⟩⟩, -- AMSET, SYSRD, CNTRD
      ⟨_, rfl, cntrdc ..⟩, ⟨_, rfl, nop ..⟩, -- CNTRDC, NOP
      ⟨_, rfl, lanes ..⟩, ⟨_, rfl, lanes ..⟩, ⟨_, rfl, lanes ..⟩, ⟨_, rfl, lands rfl fun _ => ⟨_, _, _, _, rfl⟩⟩, -- VADD, VMUL, VFMA, VSEL
      ⟨_, rfl, lanes ..⟩, ⟨_, rfl, vcmp ..⟩, -- VSHL, VCMP
      ⟨_, rfl, lands rfl fun _ => ⟨_, _, _, _, rfl⟩⟩, ⟨_, rfl, lands rfl fun _ => ⟨_, _, _, _, rfl⟩⟩, -- VSHUF, VROT
      ⟨_, rfl, lands rfl fun _ => ⟨_, _, _, _, rfl⟩⟩, ⟨_, rfl, lands rfl fun _ => ⟨_, _, _, _, rfl⟩⟩, -- VUNPK, VREDS
      ⟨_, rfl, lands rfl fun _ => ⟨_, _, _, _, rfl⟩⟩, ⟨_, rfl, lands rfl fun _ => ⟨_, _, _, _, rfl⟩⟩, -- VIDX, VBCAST
      ⟨_, rfl, lands rfl fun _ => ⟨_, _, _, _, rfl⟩⟩, ⟨_, rfl, lands rfl fun _ => ⟨_, _, _, _, rfl⟩⟩, ⟨_, rfl, special ..⟩, -- VEXT, VINS, VEXP
      ⟨_, rfl, special ..⟩, ⟨_, rfl, lands rfl fun _ => ⟨_, _, _, _, rfl⟩⟩, ⟨_, rfl, lands rfl fun _ => ⟨_, _, _, _, rfl⟩⟩, -- VRCP, TLOOK, EPOLL
      ⟨_, rfl, two ..⟩, ⟨_, rfl, two ..⟩, ⟨_, rfl, two ..⟩, ⟨_, rfl, imm ..⟩, ⟨_, rfl, imm ..⟩, ⟨_, rfl, imm ..⟩, -- MULHU, MINU, MAXU, CTZ, SEXT, ZEXT
      ⟨_, rfl, imm ..⟩, ⟨_, rfl, imm ..⟩, ⟨_, rfl, imm ..⟩, ⟨_, rfl, imm ..⟩, ⟨_, rfl, imm ..⟩, ⟨_, rfl, imm ..⟩, -- ORI, XORI, SHRI, SRAI, MINI, MAXI
      ⟨_, rfl, divide ..⟩, ⟨_, rfl, divide ..⟩, ⟨_, rfl, pred ..⟩, ⟨_, rfl, pred ..⟩, ⟨_, rfl, pred ..⟩, ⟨_, rfl, pred ..⟩, -- DIVU, REM, POR, PXOR, PANDN, PMOV
      ⟨_, rfl, arith ..⟩, ⟨_, rfl, selects ..⟩, ⟨_, rfl, sign ..⟩, ⟨_, rfl, lands rfl fun _ => ⟨_, _, _, _, rfl⟩⟩, -- FSUB, FMAX, FABS, FCLASS
      ⟨_, rfl, lands rfl fun _ => ⟨_, _, _, _, rfl⟩⟩, -- FDEN
      ⟨_, rfl, fcvt ..⟩, ⟨_, rfl, pends rfl fun _ => ⟨_, _, _, _, _, rfl⟩⟩, ⟨_, rfl, cntsnap ..⟩, -- FCVT, FRND, CNTSNAP
      ⟨_, rfl, transfer (link := none) rfl fun _ => rfl⟩, ⟨_, rfl, transfer (link := some d) rfl fun _ => rfl⟩, -- BR, CALL
      ⟨_, rfl, transfer (link := none) rfl fun _ => rfl⟩, ⟨_, rfl, transfer (link := none) rfl fun _ => rfl⟩, -- BRX, RET
      ⟨_, rfl, lanes ..⟩, ⟨_, rfl, lanes ..⟩, ⟨_, rfl, lanes ..⟩, ⟨_, rfl, lanes ..⟩, ⟨_, rfl, lanes ..⟩, -- VSUB, VMIN, VMAX, VABS, VNEG
      ⟨_, rfl, lanes ..⟩, -- VAND
      ⟨_, rfl, lanes ..⟩, ⟨_, rfl, lanes ..⟩, ⟨_, rfl, lanes ..⟩, ⟨_, rfl, lanes ..⟩, ⟨_, rfl, lanes ..⟩, -- VOR, VXOR, VNOT, VSHR, VSRA
      ⟨_, rfl, lanes ..⟩, -- VSHLI
      ⟨_, rfl, lanes ..⟩, ⟨_, rfl, lanes ..⟩, ⟨_, rfl, lanes ..⟩, ⟨_, rfl, lands rfl fun _ => ⟨_, _, _, _, rfl⟩⟩, -- VSHRI, VSRAI, VADDI, VMOVI
      ⟨_, rfl, lands rfl fun _ => ⟨_, _, _, _, rfl⟩⟩, -- VCVT
      ⟨_, rfl, lands rfl fun _ => ⟨_, _, _, _, rfl⟩⟩, ⟨_, rfl, lands rfl fun _ => ⟨_, _, _, _, rfl⟩⟩, -- VPACK, VREDM
      ⟨_, rfl, lands rfl fun _ => ⟨_, _, _, _, rfl⟩⟩, ⟨_, rfl, lands rfl fun _ => ⟨_, _, _, _, rfl⟩⟩, ⟨_, rfl, special ..⟩, -- VDOT4, VCMX, VLOG
      ⟨_, rfl, special ..⟩, ⟨_, rfl, special ..⟩, ⟨_, rfl, special ..⟩, ⟨_, rfl, special ..⟩, ⟨_, rfl, special ..⟩, -- VRSQ, VTANH, VSIG, VSIN, VCOS
      ⟨_, rfl, special ..⟩, -- VERF
      ⟨_, rfl, qcnt ..⟩⟩ -- QCNT
  obtain ⟨hmem, hpois, hnear, hcores, hstrands, own⟩ := exec_regFrame hforms ht
  exact ⟨hmem, hpois, hnear, hcores, hstrands, own.x, own.f, own.p, own.l, own.v, own.a, own.am, own.ls, own.le, own.shv, own.scfg, own.rows, own.rown,
    own.inflight, own.pend⟩

end

end Sys2Proof.Machine
end

section
/-! Proofs about a guard that is false, the checks of an encoding and the transfers of control (R63, R73, R75, R84, R133, R144, R152): each comes to an
issue that is held with one cause, or to one that goes on. -/

set_option Elab.async false -- one proof at a time: many at once exhaust the memory of a build

namespace Sys2Proof.Machine

/-! ## A trap taken (R133) -/

/-- The first group at an address depends on memory, the map of gangs, the jobs and the ports. -/
theorem spcAt_congr {s t : State} {k : Nat} (hm : t.mem = s.mem) (hg : t.gangs = s.gangs) (hj : t.jobs = s.jobs) (hp : t.ports = s.ports)
    (hk : (t.core k).gang = (s.core k).gang) : t.spcAt k = s.spcAt k := by
  have hgang : t.gang? = s.gang? := by funext n; rw [State.gang?, hg]; rfl
  have hjob : t.job? = s.job? := by funext n; rw [State.job?, hj]; rfl
  have hport : t.portTo = s.portTo := by
    have hport' : t.port = s.port := by funext n; rw [State.port, hp]; rfl
    funext n
    rw [State.portTo, hport']
    rfl
  funext a
  simp only [State.spcAt, State.firstOf, State.vaddr, State.walk, State.jobOf, State.gangOf, hm, hgang, hjob, hport, hk]

theorem setTH_true_th (x : Strand) : (x.setTH true).th = true := by
  rw [Strand.th, setTH_sst, bitOf, Nat.testBit_eq_decide_div_mod_eq, toNat_setBits _ _ (le_refl 30) (by decide), decide_eq_true_iff]
  simp only [Bool.toNat_true]
  omega

/-- From s strand j of core k has taken a trap to state u: SEPC, SCAUSE and SINFO note it, TH is set, control is at SHV, the slot is free; no register,
result or byte has changed. -/
structure TookTrap (k j : Nat) (scause pc sinfo : Word) (s u : State) : Prop where
  scause : (u.strand k j).scause = scause
  sepc : (u.strand k j).sepc = pc
  sinfo : (u.strand k j).sinfo = sinfo
  th : (u.strand k j).th = true
  spc : (u.strand k j).spc = s.spcAt k ((s.strand k j).shv &&& 0xFFFFFFFFFFFFFFF0)
  st : (u.strand k j).st = .ready
  run : (u.core k).run = none
  x : (u.strand k j).x = (s.strand k j).x
  f : (u.strand k j).f = (s.strand k j).f
  p : (u.strand k j).p = (s.strand k j).p
  v : (u.strand k j).v = (s.strand k j).v
  a : (u.strand k j).a = (s.strand k j).a
  inflight : (u.strand k j).inflight = (s.strand k j).inflight
  pend : (u.strand k j).pend = (s.strand k j).pend
  mem : u.mem = s.mem
  near : (u.core k).near = (s.core k).near

/-- A cause that is not recovered is a trap while TH is clear. -/
theorem takeCause_tookTrap {s : State} {k j c : Nat} (hc : recovered c = false) (hth : (s.strand k j).th = false) (d y : Nat) (pc w : Word) :
    TookTrap k j (causeWord c d y) pc w s (s.takeCause k j c d y pc w).spend := by
  have hs := takeTrap_strand s k j c d y pc w hth
  have ht := takeTrap_taken s k j c d y pc w hth
  rw [State.takeCause, hc, if_neg Bool.false_ne_true]
  constructor <;> simp only [strand_spend, core_spend, spend_mem, hs]
  case th => exact setTH_true_th _
  case run => rw [ht, giveUp_core_self]
  case near => rw [ht, giveUp_core_self, core_setStrand]; rfl
  case mem => exact takeTrap_mem s k j c d y pc w
  all_goals
    simp only [Strand.setTH]
    generalize setBits _ 30 30 _ = st
    rfl

/-- Fetch fills given back beforehand make no difference. -/
theorem TookTrap.of_cleared {k j : Nat} {scause pc sinfo : Word} {s u : State}
    (h : TookTrap k j scause pc sinfo (s.modCore k fun x => { x with fills := [] }) u) : TookTrap k j scause pc sinfo s u := by
  have hspc : (s.modCore k fun x => { x with fills := [] }).spcAt k = s.spcAt k := spcAt_congr rfl rfl rfl rfl (by rw [core_modCore_self])
  have hstrand : (s.modCore k fun x => { x with fills := [] }).strand k j = s.strand k j := strand_modCore_self s k j _
  have hnear : ((s.modCore k fun x => { x with fills := [] }).core k).near = (s.core k).near := by rw [core_modCore_self]
  obtain ⟨hscause, hsepc, hsinfo, hth, hsp, hst, hrun, hx, hf, hp, hv, ha, hin, hpend, hmem, hn⟩ := h
  rw [hstrand] at hx hf hp hv ha hin hpend
  rw [hspc, hstrand] at hsp
  rw [hnear] at hn
  exact ⟨hscause, hsepc, hsinfo, hth, hsp, hst, hrun, hx, hf, hp, hv, ha, hin, hpend, hmem, hn⟩

/-- A held group whose prevailing cause is a trap takes it at its first syllable. -/
theorem holdGroup_tookTrap {s : State} {l : List (Nat × Stop)} {p c d : Nat} {w : Word} (hn : needsOf l = []) (ht : topCause l = some (p, c, d, w))
    (hc : recovered c = false) (h6 : c ≠ 0x06) (hb : c ≠ 0x0B) {k j : Nat} (hth : (s.strand k j).th = false) (c3 : Bool) :
    TookTrap k j (causeWord c d p) s.cur.start w s (s.holdGroup k j c3 l) := by
  rw [holdGroup_cause hn ht h6 hb]
  exact (takeCause_tookTrap hc (by rw [strand_modCore_self]; exact hth) d p _ w).of_cleared

/-! ## Checks of an encoding, a guard that is false (R63, R73, R84) -/

theorem exec_encBad {i : Instr} {s : State} {p d : Nat} (hi : (gopOf i s).isSome = true) (h : lowest (encBad s.cur [s.infoOf i]) = some (p, d)) :
    exec i s = .next ((s.takeCause s.cur.core s.cur.strand 0x01 d p s.cur.start 0).spend) := by
  obtain ⟨g, hg⟩ := Option.isSome_iff_exists.1 hi
  rw [infoOf_eq hg] at h
  rw [exec_eq_issueGroup hg, issueGroup]
  simp only [List.map_cons, List.map_nil, List.nil_append, h]

theorem pendingStops_open (x : Strand) (c : GroupCtx) (b : Bool) (n : Info) : pendingStops ((x.noted c).crossed b) n = pendingStops x n := by
  obtain ⟨r, m, q, h⟩ := noted_eq x c
  rw [h]
  rfl

/-- What the issue of an instruction comes to whose guard is false. -/
theorem exec_guarded_off {i : Instr} {s : State} (hi : (gopOf i s).isSome = true) (he : encBad s.cur [s.infoOf i] = [])
    (hgd : (s.opened i).guardOk (s.infoOf i) = false) :
    exec i s = if pendingStops (s.strand s.cur.core s.cur.strand) (s.infoOf i) = [] then .next ((s.opened i).advance.closeGroup false)
      else .next (s.holdGroup s.cur.core s.cur.strand (s.infoOf i).c3
        ((pendingStops (s.strand s.cur.core s.cur.strand) (s.infoOf i)).map fun e => (0, e))) := by
  obtain ⟨g, hg⟩ := Option.isSome_iff_exists.1 hi
  have hinfo := infoOf_eq hg
  have hopen : s.opened i = s.openGroup [g.info] := by rw [State.opened, hinfo]
  rw [hopen, hinfo] at hgd
  rw [hinfo] at he
  have hrun := runOp_guarded_off (s.openGroup [g.info]) g hgd
  rw [openGroup_cur_core, openGroup_cur_strand, openGroup_strand, pendingStops_open] at hrun
  rw [exec_eq_issueGroup hg, hopen, hinfo, issueGroup]
  simp only [List.map_cons, List.map_nil, he, lowest, phased_one, runOps, hrun, List.append_nil, List.any_cons, List.any_nil,
    Bool.or_false, hgd, Bool.and_false, List.isEmpty_iff, List.map_eq_nil_iff]

/-- A pending destination prevails over an array error (R364). -/
theorem topCause_pendingStops {x : Strand} {n : Info} (h : n.dests.any (fun r => !r.isPort && !r.isNull && x.isPending r) = true) :
    topCause ((pendingStops x n).map fun e => (0, e)) = some (0, 0x02, 2, 0) := by
  unfold pendingStops
  rw [if_pos h]
  cases x.arrayErr with
  | none => rfl
  | some b => simp [topCause, rankOf, rowPlace]

theorem encodingTrap {i : Instr} {s : State} {d : Nat} (hi : (gopOf i s).isSome = true) (h : lowest (encBad s.cur [s.infoOf i]) = some (0, d))
    (hd : d < 256) (hth : (s.strand s.cur.core s.cur.strand).th = false) :
    Ends i s (TookTrap s.cur.core s.cur.strand (BitVec.ofNat 64 (0x010000 + d * 256)) s.cur.start 0 s) := by
  refine ⟨_, exec_encBad hi h, ?_⟩
  have hcause : causeWord 0x01 d 0 = BitVec.ofNat 64 (0x010000 + d * 256) := by
    rw [causeWord, w64, Nat.mod_eq_of_lt hd]
    simp
  rw [← hcause]
  exact takeCause_tookTrap rfl hth d 0 _ 0

theorem guarded_off_pending {i : Instr} {s : State} (hi : (gopOf i s).isSome = true) (he : encBad s.cur [s.infoOf i] = [])
    (hgd : (s.opened i).guardOk (s.infoOf i) = false)
    (hp : (s.infoOf i).dests.any (fun r => !r.isPort && !r.isNull && (s.strand s.cur.core s.cur.strand).isPending r) = true)
    (hth : (s.strand s.cur.core s.cur.strand).th = false) :
    Ends i s (TookTrap s.cur.core s.cur.strand 0x020200 s.cur.start 0 s) := by
  have htop := topCause_pendingStops hp
  have hne : pendingStops (s.strand s.cur.core s.cur.strand) (s.infoOf i) ≠ [] := by
    intro h0
    rw [h0] at htop
    cases htop
  refine ⟨_, (exec_guarded_off hi he hgd).trans (if_neg hne), ?_⟩
  refine holdGroup_tookTrap (needsOf_of_holdsRegs fun e hm => ?_) htop rfl (by decide) (by decide) hth _
  obtain ⟨e', he', rfl⟩ := List.mem_map.1 hm
  exact (pendingStops_isPlain _ _ e' he').holdsRegs

/-- Settles O59: a condition of R84 and a pending destination are traps, and without them a guard that is false leaves nothing but the way on. -/
theorem guardAndEncodingChecks : Obligations.GuardAndEncodingChecks := by
  unfold Obligations.GuardAndEncodingChecks
  intro i s k j n x trapped hi
  have htrap {scause : Word} (h : Ends i s (TookTrap k j scause s.cur.start 0 s)) : Ends i s (trapped scause) :=
    h.imp fun u ⟨hu, t⟩ => ⟨hu, t.scause, t.sepc, t.sinfo, t.th, t.spc, t.st, t.run, t.x, t.f, t.p, t.v, t.a, t.inflight, t.pend, t.mem, t.near⟩
  refine ⟨fun d hl hd hth => htrap (encodingTrap hi hl hd hth), fun he hgd => ⟨fun hp => ?_, fun hp hth => htrap (guarded_off_pending hi he hgd hp hth)⟩⟩
  exact (exec_guarded_off hi he hgd).trans (if_pos hp)

end Sys2Proof.Machine
end

section
/-! Proofs about the transfers of control (R75, R144, R152): BR, CALL, BRX and RET are one operation, a branch to a target with or without a link. -/

set_option Elab.async false -- one proof at a time: many at once exhaust the memory of a build

namespace Sys2Proof.Machine

/-! ## An operation that meets a cause -/

/-- An operation that nothing else keeps from issuing is held by the cause that it meets. -/
theorem exec_ready_error {i : Instr} {s : State} {g : GOp} {e : Stop} (hg : gopOf i s = some g) (hr : s.ready i = true)
    (he : g.op (s.opened i) = .error e) : exec i s = .next (s.holdGroup s.cur.core s.cur.strand g.info.c3 [(0, e)]) := by
  have hi := infoOf_eq hg
  simp only [State.ready, hg, hi, Option.isSome_some, Bool.true_and, Bool.and_eq_true, List.isEmpty_iff, Option.isNone_iff_eq_none,
    Bool.not_eq_true'] at hr
  obtain ⟨⟨⟨⟨⟨henc, hsch⟩, hblk⟩, hpoi⟩, hgd⟩, -⟩ := hr
  have ho : s.opened i = s.openGroup [g.info] := by rw [State.opened, hi]
  rw [ho] at he hgd
  have hrun : runOp (s.openGroup [g.info]) g = (s.openGroup [g.info], [e]) := by
    simp only [runOp, hgd, openGroup_cur_core, openGroup_cur_strand, openGroup_strand, schedStops_open, operandBlock_open, poisonRead_open, hsch, hblk,
      hpoi, he, Bool.not_true, Bool.false_eq_true, if_false, List.append_nil, List.nil_append]
  rw [exec_eq_issueGroup hg, issueGroup]
  simp only [List.map_cons, List.map_nil, henc, lowest, phased_one, runOps, hrun, List.append_nil, List.isEmpty_cons, Bool.false_eq_true, if_false,
    List.any_cons, List.any_nil, Bool.or_false]

/-! ## Targets (R144) -/

theorem targetStop_good {t : Word} (ha : t.toNat % 16 = 0) (hb : t.toNat < 2 ^ 57) : targetStop t = none := by
  have hlow : bits t 3 0 = 0 := by rw [bits]; omega
  have hhigh : bits t 63 57 = 0 := by rw [bits, Nat.div_eq_of_lt hb]; rfl
  rw [targetStop, if_neg (not_not.2 hlow), if_neg (not_not.2 hhigh)]

theorem targetStop_bad {t : Word} (h : t.toNat % 16 ≠ 0 ∨ 2 ^ 57 ≤ t.toNat) :
    targetStop t = some (.cause 0x05 (if t.toNat % 16 ≠ 0 then 1 else 2) t) := by
  have hlow : bits t 3 0 = t.toNat % 16 := by rw [bits]; omega
  rw [targetStop, hlow]
  split
  · rfl
  · next ha =>
    have hhigh : bits t 63 57 ≠ 0 := by rw [bits]; omega
    rw [if_pos hhigh]

/-! ## Links and transfers (R75, R152) -/

/-- The return address on its way to the link register, where there is one. -/
def State.linked (s : State) (link : Option Nat) : State :=
  match link with
  | some d => s.result s.cur.core s.cur.strand (.x d) 1 (.w (s.cur.bundle + 16))
  | none => s

theorem branchTo_of_good {t : Word} (h : targetStop t = none) (ret : Bool) (link : Option Nat) (s : State) :
    branchTo t ret link s = .ok ((s.linked link).goTo t ret) := by
  unfold branchTo
  rw [h]
  rfl

theorem branchTo_of_bad {t : Word} {e : Stop} (h : targetStop t = some e) (ret : Bool) (link : Option Nat) (s : State) :
    branchTo t ret link s = .error e := by
  unfold branchTo
  rw [h]

/-- Where a result in flight goes, when it lands, and what it makes its register hold. -/
def Landing.lands (l : Landing) : Reg × Nat × Val := (l.dest, l.left, l.val)

/-- What a link has newly on its way. -/
def linkOf (s : State) (link : Option Nat) : List (Reg × Nat × Val) := link.toList.map fun d => (.x d, 1, .w (s.cur.bundle + 16))

/-- A reservation changes the queues of its core alone. -/
theorem reserve_core (s : State) (k i : Nat) (r : Reg) : ∃ q, (s.reserve k i r).2.core k = { s.core k with q := q } := by
  unfold State.reserve
  split
  · split
    · exact ⟨_, core_modCore_self _ k _⟩
    · exact ⟨_, rfl⟩
  · exact ⟨_, rfl⟩

theorem reserve_spcAt (s : State) (k i : Nat) (r : Reg) : (s.reserve k i r).2.spcAt k = s.spcAt k := by
  obtain ⟨q, hq⟩ := reserve_core s k i r
  have hmaps : (s.reserve k i r).2.gangs = s.gangs ∧ (s.reserve k i r).2.jobs = s.jobs ∧ (s.reserve k i r).2.ports = s.ports := by
    unfold State.reserve
    split
    · split <;> exact ⟨rfl, rfl, rfl⟩
    · exact ⟨rfl, rfl, rfl⟩
  obtain ⟨hg, hj, hp⟩ := hmaps
  exact spcAt_congr (reserve_mem s k i r) hg hj hp (by rw [hq])

theorem reserve_strand (s : State) (k i : Nat) (r : Reg) : (s.reserve k i r).2.strand k i = s.strand k i := by
  obtain ⟨q, hq⟩ := reserve_core s k i r
  rw [State.strand, hq]
  rfl

theorem modStrand_spcAt (s : State) (k i : Nat) (f : Strand → Strand) : (s.modStrand k i f).spcAt k = s.spcAt k :=
  spcAt_congr rfl rfl rfl rfl (by rw [core_modStrand_self]; rfl)

/-- Strand j of core k has the results `new` more in flight in state v than in s; its slot and its way on are as they were. -/
structure AddsInflight (k j : Nat) (new : List (Reg × Nat × Val)) (s v : State) : Prop where
  spcAt : v.spcAt k = s.spcAt k
  run : (v.core k).run = (s.core k).run
  inflight : (v.strand k j).inflight.map Landing.lands = (s.strand k j).inflight.map Landing.lands ++ new

theorem AddsInflight.result (s : State) (k j : Nat) (r : Reg) (l : Nat) (v : Val) : AddsInflight k j [(r, l, v)] s (s.result k j r l v) where
  spcAt := by rw [State.result, modStrand_spcAt, reserve_spcAt]
  run := by
    obtain ⟨q, hq⟩ := reserve_core s k j r
    rw [State.result, core_modStrand_self, hq]
    rfl
  inflight := by
    rw [State.result, strand_modStrand_self, reserve_strand, List.map_append]
    rfl

theorem AddsInflight.linked (s : State) (link : Option Nat) : AddsInflight s.cur.core s.cur.strand (linkOf s link) s (s.linked link) := by
  cases link with
  | none => exact ⟨rfl, rfl, (List.append_nil _).symm⟩
  | some d => exact .result s _ _ _ _ _

theorem linked_cur (s : State) (link : Option Nat) : (s.linked link).cur = s.cur := by
  cases link with
  | none => rfl
  | some d => exact result_cur ..

theorem AddsInflight.opened (s : State) (i : Instr) : AddsInflight s.cur.core s.cur.strand [] s (s.opened i) where
  spcAt := spcAt_congr rfl rfl rfl rfl (by rw [State.opened, openGroup_core]; rfl)
  run := by rw [State.opened, openGroup_core]; rfl
  inflight := by
    obtain ⟨r, m, q, hn⟩ := noted_eq (s.strand s.cur.core s.cur.strand) s.cur
    rw [State.opened, openGroup_strand, hn, Strand.crossed, List.map_map, List.append_nil]
    rfl

theorem AddsInflight.drop {k j : Nat} {new : List (Reg × Nat × Val)} {s v : State} (h : AddsInflight k j new s v) :
    ((v.strand k j).inflight.drop (s.strand k j).inflight.length).map Landing.lands = new := by
  rw [List.map_drop, h.inflight, List.drop_left' (List.length_map _)]

theorem AddsInflight.trans {k j : Nat} {new new' : List (Reg × Nat × Val)} {s v w : State} (h : AddsInflight k j new s v)
    (h' : AddsInflight k j new' v w) : AddsInflight k j (new ++ new') s w where
  spcAt := h'.spcAt.trans h.spcAt
  run := h'.run.trans h.run
  inflight := by rw [h'.inflight, h.inflight, List.append_assoc]

/-- The next group of a strand whose transfer is taken is the target's. -/
theorem moved_taken {x : Strand} {c : GroupCtx} {t : Word} (h : c.taken = some t) (he : c.eret = false) (f : Word → Word) :
    x.moved c f = { x with spc := f t } := by
  rw [Strand.moved, h, he]
  rfl

/-- The strand with its transfer counted (R350). -/
def Strand.countTransfer (x : Strand) (ret : Bool) : Strand := if ret then { x with cRets := x.cRets + 1 } else { x with cTbr := x.cTbr + 1 }

theorem countTransfer_inflight (x : Strand) (ret : Bool) : (x.countTransfer ret).inflight = x.inflight := by cases ret <;> rfl

theorem goTo_core (s : State) (t : Word) (ret : Bool) : (s.goTo t ret).core s.cur.core =
    (s.core s.cur.core).setStrand s.cur.strand ((s.strand s.cur.core s.cur.strand).countTransfer ret) :=
  core_modStrand_self s s.cur.core s.cur.strand fun x => x.countTransfer ret

theorem AddsInflight.goTo (s : State) (t : Word) (ret : Bool) : AddsInflight s.cur.core s.cur.strand [] s (s.goTo t ret) := by
  have hcore := goTo_core s t ret
  refine ⟨spcAt_congr rfl rfl rfl rfl (by rw [hcore]; rfl), by rw [hcore]; rfl, ?_⟩
  rw [State.strand, hcore, strand_setStrand_self, countTransfer_inflight, List.append_nil]

/-- The issue of a transfer to t: control there after a gap of one cycle, the link on its way. -/
theorem transfer_goes {i : Instr} {s : State} {g : GOp} {t : Word} {ret : Bool} {link : Option Nat} (hg : gopOf i s = some g)
    (hop : g.op (s.opened i) = branchTo t ret link (s.opened i)) (hr : s.ready i = true) (ha : t.toNat % 16 = 0) (hb : t.toNat < 2 ^ 57) :
    Ends i s fun u => (u.strand s.cur.core s.cur.strand).spc = s.spcAt s.cur.core t ∧ (u.core s.cur.core).gap = 1 ∧
      (u.core s.cur.core).run = (s.core s.cur.core).run ∧
      ((u.strand s.cur.core s.cur.strand).inflight.drop (s.strand s.cur.core s.cur.strand).inflight.length).map Landing.lands = linkOf s link := by
  have hcur := linked_cur (s.opened i) link
  have hcore : (s.opened i).cur.core = s.cur.core := rfl
  have hstrand : (s.opened i).cur.strand = s.cur.strand := rfl
  have hlink := (AddsInflight.opened s i).trans (.linked (s.opened i) link)
  have hgoes := AddsInflight.goTo ((s.opened i).linked link) t ret
  rw [hcur, hcore, hstrand] at hgoes
  have hadds := hlink.trans hgoes
  rw [List.nil_append, List.append_nil, show linkOf (s.opened i) link = linkOf s link from rfl] at hadds
  generalize hu : ((s.opened i).linked link).goTo t ret = u at hadds
  have hucur : u.cur = { (s.opened i).cur with taken := some t, eret := false } := by rw [← hu, State.goTo, cur_modStrand, hcur]
  rw [branchTo_of_good (targetStop_good ha hb), hu] at hop
  have hkeeps : u.cur.core = s.cur.core ∧ u.cur.strand = s.cur.strand ∧ u.cur.give = false ∧ u.cur.sysw = [] := by
    rw [hucur]
    exact ⟨rfl, rfl, rfl, rfl⟩
  obtain ⟨hk, hj, hgive, hsysw⟩ := hkeeps
  obtain ⟨q, st, hafter⟩ := after_core (i := i) hk hj hgive hsysw
  have hmoved := after_strand (i := i) hk hj hgive hsysw
  rw [moved_taken (by rw [hucur]) (by rw [hucur]), hadds.spcAt] at hmoved
  refine ⟨_, exec_ready hg hr hop, ?_, ?_, ?_, ?_⟩
  · rw [hmoved]
  · rw [hafter, hucur]
    rfl
  · rw [hafter, ← hadds.run]
  · rw [hmoved]
    exact hadds.drop

/-- A target that is not one: cause 0x05, with no link on its way. -/
theorem transfer_traps {i : Instr} {s : State} {g : GOp} {t : Word} {ret : Bool} {link : Option Nat} (hg : gopOf i s = some g)
    (hop : g.op (s.opened i) = branchTo t ret link (s.opened i)) (hr : s.ready i = true) (hbad : t.toNat % 16 ≠ 0 ∨ 2 ^ 57 ≤ t.toNat)
    (hth : (s.strand s.cur.core s.cur.strand).th = false) :
    Ends i s (TookTrap s.cur.core s.cur.strand (if t.toNat % 16 ≠ 0 then 0x050100 else 0x050200) s.cur.start t s) := by
  rw [branchTo_of_bad (targetStop_bad hbad)] at hop
  refine ⟨_, exec_ready_error hg hr hop, ?_⟩
  have hscause : (if t.toNat % 16 ≠ 0 then 0x050100 else 0x050200 : Word) = causeWord 0x05 (if t.toNat % 16 ≠ 0 then 1 else 2) 0 := by split <;> rfl
  rw [hscause]
  exact holdGroup_tookTrap rfl rfl rfl (by decide) (by decide) hth _

/-- Settles O4: each of the four is a transfer, to an offset from its bundle or to a register's word, CALL with a link. -/
theorem branchesTransfer : Obligations.BranchesTransfer := by
  unfold Obligations.BranchesTransfer
  intro g d a off s k j goes
  have htransfer {i : Instr} {o : GOp} {t : Word} {ret : Bool} (link : Option Nat) (hg : gopOf i s = some o)
      (hop : o.op (s.opened i) = branchTo t ret link (s.opened i)) : goes i t (linkOf s link) := by
    refine fun hr => ⟨fun ha hb => transfer_goes hg hop hr ha hb, fun hbad hth => ?_⟩
    obtain ⟨u, hu, h⟩ := transfer_traps hg hop hr hbad hth
    exact ⟨u, hu, h.sepc, h.sinfo, h.spc, h.scause, h.inflight⟩
  exact ⟨htransfer none rfl rfl, htransfer (some d) rfl rfl, htransfer none rfl rfl, htransfer none rfl rfl⟩

end Sys2Proof.Machine
end

section
/-! Proofs about results that land (R71, R73, R77, R122, R123, R130): what a register holds after it is set, and how a landing changes its strand. -/

set_option Elab.async false -- one proof at a time: many at once exhaust the memory of a build

namespace Sys2Proof.Machine

/-! ## A register after it is set (R122) -/

theorem getX_zero (x : Strand) : x.getX 0 = 0 := rfl
theorem getP_zero (x : Strand) : x.getP 0 = true := rfl

theorem getX_setX_self (x : Strand) {n : Nat} (h : n < 56) (h0 : n ≠ 0) (w : Word) : (x.setX n w).getX n = w := by
  rw [Strand.setX, if_neg (by omega), Strand.getX, if_neg h0, mget_mput_self]

theorem getX_setX_ne (x : Strand) {n e : Nat} (h : e ≠ n) (w : Word) : (x.setX n w).getX e = x.getX e := by
  unfold Strand.setX
  split
  · rfl
  · simp only [Strand.getX, mget_mput_ne _ _ _ h]

theorem setX_port (x : Strand) {n : Nat} (h : 56 ≤ n) (w : Word) : x.setX n w = x := if_pos (.inr h)

theorem getF_setF_self (x : Strand) (n : Nat) (w : Word) : (x.setF n w).getF n = w := mget_mput_self _ _ _ _
theorem getF_setF_ne (x : Strand) {n e : Nat} (h : e ≠ n) (w : Word) : (x.setF n w).getF e = x.getF e := mget_mput_ne _ _ _ h
theorem getA_setA_self (x : Strand) (n : Nat) (w : Word) : (x.setA n w).getA n = w := mget_mput_self _ _ _ _
theorem getA_setA_ne (x : Strand) {n e : Nat} (h : e ≠ n) (w : Word) : (x.setA n w).getA e = x.getA e := mget_mput_ne _ _ _ h
theorem getAM_setAM_self (x : Strand) (n : Nat) (w : Word × Word) : (x.setAM n w).getAM n = w := mget_mput_self _ _ _ _
theorem getAM_setAM_ne (x : Strand) {n e : Nat} (h : e ≠ n) (w : Word × Word) : (x.setAM n w).getAM e = x.getAM e := mget_mput_ne _ _ _ h
theorem getV_setV_self (x : Strand) (n : Nat) (v : Row) : (x.setV n v).getV n = v := mget_mput_self _ _ _ _
theorem getV_setV_ne (x : Strand) {n e : Nat} (h : e ≠ n) (v : Row) : (x.setV n v).getV e = x.getV e := mget_mput_ne _ _ _ h

theorem getL_setL_self (x : Strand) {n : Nat} (h0 : n ≠ 0) (v : LaneMask) : (x.setL n v).getL n = v := by
  rw [Strand.setL, if_neg h0, Strand.getL, if_neg h0, mget_mput_self]

theorem getL_setL_ne (x : Strand) {n e : Nat} (h : e ≠ n) (v : LaneMask) : (x.setL n v).getL e = x.getL e := by
  unfold Strand.setL
  split
  · rfl
  · simp only [Strand.getL, mget_mput_ne _ _ _ h]

/-- The bits of a word with predicate n alone. -/
theorem getLsbD_natCast_one_shiftLeft (n e : Nat) : (((1 <<< n : Nat) : BitVec 16)).getLsbD e = (decide (e < 16) && decide (n = e)) := by
  rw [BitVec.natCast_eq_ofNat, BitVec.getLsbD_ofNat, Nat.one_shiftLeft, Nat.testBit_two_pow]

theorem getLsbD_one_shiftLeft (n e : Nat) : ((1 : BitVec 16) <<< n).getLsbD e = (decide (n < 16) && decide (n = e)) :=
  BitVec.getLsbD_twoPow n e

theorem getP_setP_self (x : Strand) {n : Nat} (h : n < 16) (h0 : n ≠ 0) (b : Bool) : (x.setP n b).getP n = b := by
  rw [Strand.setP, if_neg h0, Strand.getP, beq_false_of_ne h0, Bool.false_or]
  cases b with
  | true =>
    rw [if_pos rfl, BitVec.getLsbD_or, getLsbD_natCast_one_shiftLeft]
    simp [h]
  | false => simp [h]

theorem getP_setP_ne (x : Strand) {n e : Nat} (h : e ≠ n) (b : Bool) : (x.setP n b).getP e = x.getP e := by
  unfold Strand.setP
  split
  · rfl
  · cases b with
    | true =>
      rw [if_pos rfl, Strand.getP, BitVec.getLsbD_or, getLsbD_natCast_one_shiftLeft, decide_eq_false h.symm, Bool.and_false, Bool.or_false]
      rfl
    | false =>
      rw [if_neg Bool.false_ne_true, Strand.getP, BitVec.getLsbD_and, BitVec.getLsbD_not, getLsbD_one_shiftLeft,
        decide_eq_false h.symm, Bool.and_false, Bool.not_false, Bool.and_true]
      by_cases he : e < 16
      · rw [decide_eq_true he, Bool.and_true]
        rfl
      · rw [BitVec.getLsbD_of_ge _ _ (by omega), Bool.false_and, Strand.getP, BitVec.getLsbD_of_ge _ _ (by omega)]

/-! ## A strand in which a value lands -/

/-- A value in a register leaves all but the registers. -/
theorem write_eq (x : Strand) (r : Reg) (v : Val) :
    ∃ xs fs p l vs a am, x.write r v = { x with x := xs, f := fs, p := p, l := l, v := vs, a := a, am := am } := by
  unfold Strand.write
  split
  · unfold Strand.setX
    split <;> exact ⟨_, _, _, _, _, _, _, rfl⟩
  · exact ⟨_, _, _, _, _, _, _, rfl⟩
  · exact ⟨_, _, _, _, _, _, _, rfl⟩
  · unfold Strand.setP
    split <;> exact ⟨_, _, _, _, _, _, _, rfl⟩
  · unfold Strand.setL
    split <;> exact ⟨_, _, _, _, _, _, _, rfl⟩
  · exact ⟨_, _, _, _, _, _, _, rfl⟩
  · exact ⟨_, _, _, _, _, _, _, rfl⟩
  · exact ⟨_, _, _, _, _, _, _, rfl⟩

theorem write_sst (x : Strand) (r : Reg) (v : Val) : (x.write r v).sst = x.sst := by
  obtain ⟨_, _, _, _, _, _, _, h⟩ := write_eq x r v
  rw [h]

theorem setPois_eq (x : Strand) (r : Reg) (b : Bool) : ∃ xs fs vs, x.setPois r b = { x with xPois := xs, fPois := fs, vPois := vs } := by
  unfold Strand.setPois
  split
  · split <;> exact ⟨_, _, _, rfl⟩
  · exact ⟨_, _, _, rfl⟩
  · exact ⟨_, _, _, rfl⟩
  · exact ⟨_, _, _, rfl⟩

/-- Strand y is x but for poison marks and SST, which is w. -/
def HoldsAs (w : Word) (x y : Strand) : Prop := ∃ xs fs vs, y = { x with sst := w, xPois := xs, fPois := fs, vPois := vs }

theorem HoldsAs.of_setPois {w : Word} (x : Strand) (r : Reg) (b : Bool) : HoldsAs w x { x.setPois r b with sst := w } := by
  obtain ⟨xs, fs, vs, h⟩ := setPois_eq x r b
  rw [h]
  exact ⟨xs, fs, vs, rfl⟩

/-- A value that is no row lands: its register is written, its flags are in SST (R71, R130). -/
theorem landVal_holdsAs {v : Val} (h : ∀ w m, v ≠ .row w m) (s : State) (k i : Nat) (r : Reg) (tk : Nat) (fl : BitVec 5) (po : Bool) :
    HoldsAs ((s.strand k i).sst ||| fl.setWidth 64) ((s.strand k i).write r v) ((s.landVal k i r v tk fl po).strand k i) := by
  unfold State.landVal
  split
  · next n w =>
    split
    · next hn =>
      rw [strand_modStrand_self, strand_modCore_self, Strand.write, setX_port _ hn]
      exact ⟨_, _, _, rfl⟩
    · rw [strand_modStrand_self]
      exact .of_setPois _ _ _
  · exact absurd rfl (h _ _)
  · rw [strand_modStrand_self]
    exact .of_setPois _ _ _

/-- A row lands in its masked bits, and leaves SST (R71). -/
theorem landVal_row_holdsAs (s : State) (k i : Nat) (r : Reg) (v : Row) {m : Row} (hm : m ≠ 0) (tk : Nat) (fl : BitVec 5) (po : Bool) :
    HoldsAs (s.strand k i).sst ((s.strand k i).write r (.row v m)) ((s.landVal k i r (.row v m) tk fl po).strand k i) := by
  have hland : s.landVal k i r (.row v m) tk fl po = s.modStrand k i fun x => (x.write r (.row v m)).setPois r po := by
    cases r <;> exact if_neg hm
  rw [hland, strand_modStrand_self, ← write_sst _ r (.row v m)]
  generalize (s.strand k i).write r (.row v m) = y
  obtain ⟨xs, fs, vs, hp⟩ := setPois_eq y r po
  exact ⟨xs, fs, vs, hp⟩

theorem landVal_row_zero (s : State) (k i : Nat) (r : Reg) (v : Row) {m : Row} (hm : m = 0) (tk : Nat) (fl : BitVec 5) (po : Bool) :
    s.landVal k i r (.row v m) tk fl po = s := by
  cases r <;> exact if_pos hm

namespace HoldsAs

variable {w : Word} {old new : Strand}

theorem sst (h : HoldsAs w old new) : new.sst = w := by obtain ⟨_, _, _, rfl⟩ := h; rfl
theorem xs (h : HoldsAs w old new) : new.x = old.x := by obtain ⟨_, _, _, rfl⟩ := h; rfl
theorem getX (h : HoldsAs w old new) (e : Nat) : new.getX e = old.getX e := by obtain ⟨_, _, _, rfl⟩ := h; rfl
theorem getF (h : HoldsAs w old new) (e : Nat) : new.getF e = old.getF e := by obtain ⟨_, _, _, rfl⟩ := h; rfl
theorem getP (h : HoldsAs w old new) (e : Nat) : new.getP e = old.getP e := by obtain ⟨_, _, _, rfl⟩ := h; rfl
theorem getL (h : HoldsAs w old new) (e : Nat) : new.getL e = old.getL e := by obtain ⟨_, _, _, rfl⟩ := h; rfl
theorem getV (h : HoldsAs w old new) (e : Nat) : new.getV e = old.getV e := by obtain ⟨_, _, _, rfl⟩ := h; rfl
theorem getA (h : HoldsAs w old new) (e : Nat) : new.getA e = old.getA e := by obtain ⟨_, _, _, rfl⟩ := h; rfl
theorem getAM (h : HoldsAs w old new) (e : Nat) : new.getAM e = old.getAM e := by obtain ⟨_, _, _, rfl⟩ := h; rfl

/-- Control of a strand in which a value is written. -/
theorem control {r : Reg} {v : Val} (h : HoldsAs w (old.write r v) new) :
    new.spc = old.spc ∧ new.sepc = old.sepc ∧ new.scause = old.scause ∧ new.shv = old.shv := by
  obtain ⟨_, _, _, rfl⟩ := h
  obtain ⟨_, _, _, _, _, _, _, hw⟩ := write_eq old r v
  rw [hw]
  exact ⟨rfl, rfl, rfl, rfl⟩

end HoldsAs

/-! ## Queue ports (R123) -/

theorem landVal_port_core (s : State) (k i : Nat) {n : Nat} (h : 56 ≤ n) (w : Word) (tk : Nat) (fl : BitVec 5) (po : Bool) :
    ∃ x, (s.landVal k i (.x n) (.w w) tk fl po).core k = ((s.core k).fillPort (n - 56) tk w).setStrand i x := by
  simp only [State.landVal, if_pos h]
  exact ⟨_, by rw [core_modStrand_self, core_modCore_self]⟩

theorem fillPort_port_self (c : Core) (q tk : Nat) (w : Word) :
    (c.fillPort q tk w).port q = (c.port q).map fun e => if e.ticket = tk then { e with landed := true, val := w } else e := mget_mput_self _ _ _ _

theorem fillPort_port_ne (c : Core) {q m : Nat} (h : m ≠ q) (tk : Nat) (w : Word) : (c.fillPort q tk w).port m = c.port m := mget_mput_ne _ _ _ h

/-! ## The events (R71, R73, R77) -/

theorem exec_resultLanding_frozen {t f st : Nat} {s : State} (h : s.frozenNow (16 * t + f) = true) : exec (.resultLanding t f st) s = .next s := if_pos h

/-- The first of a list that meets q is found and taken away. -/
theorem find?_eraseP_of_first {α : Type} {q : α → Bool} {a b : List α} {x : α} (ha : ∀ z ∈ a, ¬ q z = true) (hx : q x = true) :
    (a ++ x :: b).find? q = some x ∧ (a ++ x :: b).eraseP q = a ++ b := by
  constructor
  · rw [List.find?_append, List.find?_eq_none.2 ha, List.find?_cons_of_pos hx]
    rfl
  · rw [List.eraseP_append_right _ ha, List.eraseP_cons_of_pos hx]

theorem exec_resultLanding {t f st : Nat} {s : State} {a b : List Landing} {l : Landing} (hf : s.frozenNow (16 * t + f) = false)
    (hin : (s.strand (16 * t + f) st).inflight = a ++ l :: b) (hl : l.left = 1) (ha : ∀ z ∈ a, z.left ≠ 1) :
    exec (.resultLanding t f st) s =
      .next ((s.setStrand (16 * t + f) st { s.strand (16 * t + f) st with inflight := a ++ b }).land (16 * t + f) st l) := by
  obtain ⟨hfind, herase⟩ := find?_eraseP_of_first (q := fun l : Landing => l.left == 1) (a := a) (b := b) (x := l) (by simpa using ha) (beq_iff_eq.2 hl)
  show execResultLanding t f st s = _
  simp only [execResultLanding, hf, hin, hfind, herase, Bool.false_eq_true, if_false]

theorem exec_pendingResultLands {t f st : Nat} {s : State} {a b : List Pending} {p : Pending} {d : Nat}
    (hin : (s.strand (16 * t + f) st).pend = a ++ p :: b) (hp : p.due = some d) (hd : d ≤ s.now) (ha : ∀ z ∈ a, ∀ e, z.due = some e → s.now < e) :
    exec (.pendingResultLands t f st) s =
      .next ((s.setStrand (16 * t + f) st { s.strand (16 * t + f) st with pend := a ++ b }).landPend (16 * t + f) st p) := by
  have hwait : ∀ z ∈ a, ¬ (z.due.any fun d => decide (d ≤ s.now)) = true := by
    intro z hz h
    obtain ⟨e, he, hle⟩ := (Option.any_eq_true _ _).1 h
    exact absurd (ha z hz e he) (not_lt.2 (of_decide_eq_true hle))
  have hdue : (p.due.any fun d => decide (d ≤ s.now)) = true := by rw [hp, Option.any_some, decide_eq_true hd]
  obtain ⟨hfind, herase⟩ := find?_eraseP_of_first (q := fun p : Pending => p.due.any fun d => decide (d ≤ s.now)) (b := b) hwait hdue
  show execPendingResultLands t f st s = _
  simp only [execPendingResultLands, hin, hfind, herase]

theorem landPend_one (s : State) (k i : Nat) {z : Pending} {r : Reg} {y : Val} (hd : z.dests = [r]) (hv : z.vals = [y]) :
    s.landPend k i z = s.landVal k i r y z.ticket z.flags z.poison := by
  rw [State.landPend, hd, hv]
  rfl

/-! ## Control of the strand -/

/-- Whatever lands, and where: the strand's way and its cause registers stay. -/
theorem landVal_control (s : State) (k i : Nat) (r : Reg) (v : Val) (tk : Nat) (fl : BitVec 5) (po : Bool) :
    ((s.landVal k i r v tk fl po).strand k i).spc = (s.strand k i).spc ∧ ((s.landVal k i r v tk fl po).strand k i).sepc = (s.strand k i).sepc ∧
      ((s.landVal k i r v tk fl po).strand k i).scause = (s.strand k i).scause ∧ ((s.landVal k i r v tk fl po).strand k i).shv = (s.strand k i).shv := by
  by_cases h : ∃ w m, v = .row w m
  · obtain ⟨w, m, rfl⟩ := h
    by_cases hm : m = 0
    · rw [landVal_row_zero s k i r w hm]
      exact ⟨rfl, rfl, rfl, rfl⟩
    · exact (landVal_row_holdsAs s k i r w hm tk fl po).control
  · exact (landVal_holdsAs (fun w m hv => h ⟨w, m, hv⟩) s k i r tk fl po).control

/-! ## Rows -/

theorem mergeRow_zero (a b : Row) : mergeRow a b 0 = a := by
  rw [mergeRow, BitVec.ofNat_eq_ofNat, BitVec.not_zero, BitVec.and_allOnes, BitVec.and_zero, BitVec.or_zero]

theorem landVal_row_getV (s : State) (k i n : Nat) (v m : Row) (tk : Nat) (fl : BitVec 5) (po : Bool) :
    ((s.landVal k i (.v n) (.row v m) tk fl po).strand k i).getV n = mergeRow ((s.strand k i).getV n) v m := by
  by_cases hm : m = 0
  · rw [landVal_row_zero s k i _ v hm, hm, mergeRow_zero]
  · rw [(landVal_row_holdsAs s k i _ v hm tk fl po).getV]
    exact getV_setV_self _ _ _

theorem landVal_row_getV_ne (s : State) (k i : Nat) {n e : Nat} (h : e ≠ n) (v m : Row) (tk : Nat) (fl : BitVec 5) (po : Bool) :
    ((s.landVal k i (.v n) (.row v m) tk fl po).strand k i).getV e = (s.strand k i).getV e := by
  by_cases hm : m = 0
  · rw [landVal_row_zero s k i _ v hm]
  · rw [(landVal_row_holdsAs s k i _ v hm tk fl po).getV]
    exact getV_setV_ne _ h _

/-- Settles O40: the events by the list they search, each register kind by what it holds after it is set. -/
theorem resultsLandInRegisters : Obligations.ResultsLandInRegisters := by
  unfold Obligations.ResultsLandInRegisters
  refine ⟨fun t f st s => ⟨exec_resultLanding_frozen, fun a b l => exec_resultLanding, fun a b p d => exec_pendingResultLands⟩, ?_⟩
  intro s k i n tk w w2 b v m p q fl po at_ x
  have hword (r : Reg) : HoldsAs _ (x.write r (.w w)) (at_ r (.w w)) := landVal_holdsAs (by simp) s k i r tk fl po
  have hpred : HoldsAs _ (x.write (.p n) (.b b)) (at_ (.p n) (.b b)) := landVal_holdsAs (by simp) s k i _ tk fl po
  have hlane : HoldsAs _ (x.write (.l n) (.lm p q)) (at_ (.l n) (.lm p q)) := landVal_holdsAs (by simp) s k i _ tk fl po
  have ham : HoldsAs _ (x.write (.am n) (.am w w2)) (at_ (.am n) (.am w w2)) := landVal_holdsAs (by simp) s k i _ tk fl po
  refine ⟨fun _ => rfl, fun z r y hd hv => landPend_one s k i hd hv, ?_, getX_zero _, ?_, ?_, ?_, getP_zero _, ?_, rfl, ?_, ?_, ?_, ?_, ?_, ?_, ?_, ?_, ?_,
    fun r y => landVal_mem s k i r y tk fl po⟩
  · exact fun hn h0 => ⟨((hword _).getX n).trans (getX_setX_self _ hn h0 _), fun e he => ((hword _).getX e).trans (getX_setX_ne _ he _)⟩
  · exact ((hword _).getF n).trans (getF_setF_self _ _ _)
  · exact fun e he => ((hword _).getF e).trans (getF_setF_ne _ he _)
  · exact fun hn h0 => ⟨(hpred.getP n).trans (getP_setP_self _ hn h0 _), fun e he => (hpred.getP e).trans (getP_setP_ne _ he _)⟩
  · exact fun hn h0 => ⟨(hlane.getL n).trans (getL_setL_self _ h0 _), fun e he => (hlane.getL e).trans (getL_setL_ne _ he _)⟩
  · exact landVal_row_getV s k i n v m tk fl po
  · exact fun e he => landVal_row_getV_ne s k i he v m tk fl po
  · simp only [List.forall_mem_cons, List.not_mem_nil, false_imp_iff, implies_true, and_true]
    exact ⟨(hword _).sst, (hword _).sst, hpred.sst, (hword _).sst, ham.sst, hlane.sst⟩
  · exact (ham.getAM n).trans (getAM_setAM_self _ _ _)
  · exact fun e he => (ham.getAM e).trans (getAM_setAM_ne _ he _)
  · intro hn
    obtain ⟨y, hy⟩ := landVal_port_core s k i hn w tk fl po
    rw [hy]
    exact ⟨(hword _).xs.trans (congrArg Strand.x (setX_port _ hn _)), fun m hm => fillPort_port_ne _ hm _ _, fillPort_port_self _ _ _ _⟩
  · exact ((hword _).getA n).trans (getA_setA_self _ _ _)
  · exact fun e he => ((hword _).getA e).trans (getA_setA_ne _ he _)
  · exact fun r y => landVal_control s k i r y tk fl po

end Sys2Proof.Machine
end

section
/-! Proofs about the array (R228 to R231): where no error is recorded, what an MMA reads of its bank, and the rows that it sends on their way. -/

set_option Elab.async false -- as in the laws above: one proof at a time keeps the build within its memory

namespace Sys2Proof.Machine

/-! ## Addresses in scratchpad (R199, R203) -/

theorem bits_div_bank (a : Word) : bits a 19 0 / 32768 = bits a 19 15 := by simp only [bits]; omega
theorem bits_mod_bank (a : Word) : bits a 19 0 % 32768 = bits a 14 0 := by simp only [bits]; omega

/-- The bank of an address in scratchpad serves scratchpad, so that its BFMT has effect (R134). -/
theorem bankFmt_of_scrOff {c : Core} {a : Word} {n : Nat} (h : (c.scrOff a (n + 1)).isSome) : c.bankFmt (bits a 19 15) = mget c.bfmt (bits a 19 15) 0 := by
  have hin : bits a 56 20 = 0 ∧ bits a 19 0 + (n + 1) ≤ c.scrSize := by
    by_contra hout
    rw [Core.scrOff, if_neg hout] at h
    cases h
  have hlt : bits a 19 15 < c.scr := by
    have hsize := hin.2
    rw [Core.scrSize] at hsize
    rw [← bits_div_bank]
    omega
  rw [Core.bankFmt, if_pos hlt]

/-! ## The opened group -/

/-- ACCT is the same for the operation as for the checks of its words. -/
theorem opened_acct (s : State) (i : Instr) : (s.opened i).me.acct = s.me.acct := by
  have hscfg : (s.opened i).me.scfg = s.me.scfg := (RegFrame.openGroup s [] [s.infoOf i]).own.scfg
  rw [Strand.acct, hscfg]
  rfl

/-! ## Reads where no error is recorded (R217) -/

theorem coreErrs_of_none {s : State} {k : Nat} {f : SramErr → Bool} (h : ∀ e ∈ (s.core k).errs, ¬ f e = true) : s.coreErrs k f = (s, false) := by
  rw [State.coreErrs, List.filter_eq_nil_iff.2 h]
  rfl

theorem scrRead_of_clean {s : State} {k : Nat} (he : (s.core k).nearErr = []) (hp : (s.core k).nearPois = []) (off n : Nat) :
    s.scrRead k off n = (s, rdBytes (s.core k).near off n, false) := by
  simp [State.scrRead, he, hp]

/-! ## A row of activations (R134, R228) -/

/-- Bytes of a row of activations in a bank. -/
def Core.rowBytes (c : Core) (bank : Nat) : Nat := 128 * fmtBytes ((mget c.bfmt bank 0).toNat % 64)

/-- The elements of row m. -/
def Core.rowElems (c : Core) (bank m : Nat) : List Nat :=
  (List.range 128).map fun e => ofLE (((rdBytes c.near (bank * 32768 + m * c.rowBytes bank) (c.rowBytes bank)).drop
    (e * fmtBytes ((mget c.bfmt bank 0).toNat % 64))).take (fmtBytes ((mget c.bfmt bank 0).toNat % 64)))

/-- Its scales: those of the scale bank, or 127 for every block. -/
def Core.rowScales (c : Core) (bank m : Nat) : List Nat :=
  if (mget c.bfmt bank 0).getLsbD 31 then
    (rdBytes c.near (fld (mget c.bfmt bank 0).toNat 26 5 * 32768 + (32 * fld (mget c.bfmt bank 0).toNat 16 10 + 4 * m) % 32768) 4).map (·.toNat)
  else [127, 127, 127, 127]

theorem actRow_of_clean {s : State} {k bank : Nat} (he : (s.core k).nearErr = []) (hp : (s.core k).nearPois = [])
    (hb : (s.core k).bankFmt bank = mget (s.core k).bfmt bank 0) (m : Nat) :
    s.actRow k bank m = (s, (s.core k).rowElems bank m, (s.core k).rowScales bank m, false) := by
  simp only [State.actRow, hb, scrRead_of_clean he hp, Core.rowElems, Core.rowScales, Core.rowBytes, mul_assoc]
  split <;> rfl

/-! ## What an MMA sends on its way (R229 to R231) -/

/-- In how many cycles the row of number r lands, by the passes of a row. -/
def mmaLatency (passes r : Nat) : Nat := if passes = 1 then 25 + r else 26 + 2 * r

/-- The row of an MMA into accumulators of format w: the integer sums, or the scaled dots. -/
def Core.mmaRow (c : Core) (cols bank w : Nat) (zs : Bool) (m : Nat) : Val :=
  let fmt := (mget c.bfmt bank 0).toNat % 64
  if w = 40 then .iacc zs ((List.range cols).map fun col => rowSums c.active cols fmt (c.rowElems bank m) col)
  else .macc zs ((List.range cols).map fun col => rowDots c.active cols fmt (c.rowElems bank m) (c.rowScales bank m) col)

theorem mmaRow_dots (c : Core) (cols bank : Nat) (zs : Bool) (m : Nat) : c.mmaRow cols bank 33 zs m = .macc zs
    ((List.range cols).map fun col => rowDots c.active cols ((mget c.bfmt bank 0).toNat % 64) (c.rowElems bank m) (c.rowScales bank m) col) := by
  rw [Core.mmaRow, if_neg (by decide)]

theorem mmaRow_sums (c : Core) (cols bank : Nat) (zs : Bool) (m : Nat) : c.mmaRow cols bank 40 zs m = .iacc zs
    ((List.range cols).map fun col => rowSums c.active cols ((mget c.bfmt bank 0).toNat % 64) (c.rowElems bank m) col) := by
  rw [Core.mmaRow, if_pos rfl]

/-- The n rows of an MMA from row m on, for Vd and those after it. -/
def State.sendRows (s : State) (d bank passes w : Nat) (zs : Bool) (m n : Nat) : State :=
  let c := s.core s.cur.core
  (List.range n).foldl (fun t r => t.result s.cur.core s.cur.strand (.v (d + r)) (mmaLatency passes r) (c.mmaRow s.me.ncols bank w zs (m + r)) 0
    (c.active.poison || c.active.scalePois)) s

/-- State t is s with more results of strand i of core k on their way. -/
structure OnlyResults (k i : Nat) (s t : State) : Prop where
  core : t.core k = { s.core k with strands := (t.core k).strands }
  seg : (t.strand k i).seg = (s.strand k i).seg
  cur : t.cur = s.cur

theorem OnlyResults.refl (k i : Nat) (s : State) : OnlyResults k i s s := ⟨rfl, rfl, rfl⟩

theorem OnlyResults.result {k i : Nat} {s t : State} (h : OnlyResults k i s t) (n l : Nat) (v : Val) (fl : BitVec 5) (po : Bool) :
    OnlyResults k i s (t.result k i (.v n) l v fl po) := by
  refine ⟨?_, ?_, (result_cur ..).trans h.cur⟩
  · rw [State.result, reserve_other t k i rfl, core_modStrand_self, h.core]
    rfl
  · rw [result_strand t k i l v fl po rfl]
    exact h.seg

/-- Nothing keeps an MMA of n rows, with its activations at the address in Xa, from sending rows to Vd and those after it in p passes each, for
accumulators of format w: the conditions of R229 to R231 hold, and of what it reads no error is recorded. -/
structure MmaRuns (o : State) (d a n p w : Nat) : Prop where
  space : spaceOf (o.xOp a) = .scr
  mapped : ((o.core o.cur.core).scrOff (o.xOp a) 1).isSome
  shape : mmaShape (o.core o.cur.core).active.fmt ((mget (o.core o.cur.core).bfmt (bits (o.xOp a) 19 15) 0).toNat % 64) = some (p, w)
  acct : o.me.acct = w
  free : ∀ r, r < n → ∀ l ∈ o.me.inflight, l.dest = .v (d + r) → l.left ≠ mmaLatency p r
  aligned : bits (o.xOp a) 14 0 % (o.core o.cur.core).rowBytes (bits (o.xOp a) 19 15) = 0
  inside : bits (o.xOp a) 14 0 + n * (o.core o.cur.core).rowBytes (bits (o.xOp a) 19 15) ≤ 32768
  scaled : (mget (o.core o.cur.core).bfmt (bits (o.xOp a) 19 15) 0).getLsbD 31 = true →
    fld (mget (o.core o.cur.core).bfmt (bits (o.xOp a) 19 15) 0).toNat 26 5 < (o.core o.cur.core).scr
  resident : (o.core o.cur.core).active.resident = true
  idle : (o.core o.cur.core).mmaLeft = 0
  reads : ∀ y ∈ (o.core o.cur.core).cmdsOf 6, y.reading o.now = false
  swaps : ∀ y ∈ (o.core o.cur.core).cmdsOf 1, y.kind ≠ .wswap
  planeErrs : ∀ e ∈ (o.core o.cur.core).errs, e.sram ≠ .active
  nearErr : (o.core o.cur.core).nearErr = []
  nearPois : (o.core o.cur.core).nearPois = []

/-- The formats that an MMA takes have rows of 128 or 256 bytes, which divide a bank. -/
theorem rowBytes_dvd_bank {c : Core} {plane bank : Nat} {r : Nat × Nat} (h : mmaShape plane ((mget c.bfmt bank 0).toNat % 64) = some r) :
    c.rowBytes bank ∣ 32768 := by
  rw [Core.rowBytes]
  generalize (mget c.bfmt bank 0).toNat % 64 = f at h
  have hbytes : fmtBytes f = 1 ∨ fmtBytes f = 2 := by
    have hf : f < 28 ∨ f = 32 ∨ f = 36 ∨ f = 37 := by
      by_contra hno
      simp only [not_or] at hno
      simp [mmaShape, hno] at h
    obtain hf | rfl | rfl | rfl := hf
    · left; rw [fmtBytes, fmtBits, if_pos hf]
    · right; rfl
    · left; rfl
    · left; rfl
  obtain hf | hf := hbytes <;> rw [hf] <;> decide

/-- The step of an MMA at row r: the row is read, and its result sent. -/
def State.mmaStep (o : State) (d bank p w : Nat) (zs : Bool) (m : Nat) (s : State) (r : Nat) : State :=
  let c := o.core o.cur.core
  let fmt := (mget c.bfmt bank 0).toNat % 64
  let q := s.actRow o.cur.core bank (m + r)
  q.1.result o.cur.core o.cur.strand (.v (d + r)) (mmaLatency p r)
    (if w = 40 then .iacc zs ((List.range o.me.ncols).map fun j => rowSums c.active o.me.ncols fmt q.2.1 j)
      else .macc zs ((List.range o.me.ncols).map fun j => rowDots c.active o.me.ncols fmt q.2.1 q.2.2.1 j)) 0 (q.2.2.2 || c.active.poison || c.active.scalePois)

/-- The steps in turn: reading a row where no error is recorded changes nothing, and results on their way leave the bank as it was. -/
theorem foldl_mmaStep {o : State} {d a n p w : Nat} (h : MmaRuns o d a n p w) (zs : Bool) (m : Nat) :
    let bank := bits (o.xOp a) 19 15
    (List.range n).foldl (o.mmaStep d bank p w zs m) o = o.sendRows d bank p w zs m n ∧
      OnlyResults o.cur.core o.cur.strand o (o.sendRows d bank p w zs m n) := by
  intro bank
  refine List.foldl_rel (r := fun t u => t = u ∧ OnlyResults o.cur.core o.cur.strand o u) ⟨rfl, .refl ..⟩ fun r _ t u ⟨htu, hu⟩ => ?_
  subst htu
  refine ⟨?_, hu.result ..⟩
  have hcore := hu.core
  have hrow := actRow_of_clean (s := t) (k := o.cur.core) (bank := bank) (by rw [hcore]; exact h.nearErr) (by rw [hcore]; exact h.nearPois)
    (by rw [hcore]; exact bankFmt_of_scrOff h.mapped) (m + r)
  rw [State.mmaStep, hrow, hcore]
  rfl

theorem gopMma_ok {s o : State} {d a n p w : Nat} (h : MmaRuns o d a n p w) (hs : s.me.acct = w) (g : Nat) (zs : Bool) :
    let bank := bits (o.xOp a) 19 15
    (gopMma g d a n zs s).op o =
      .ok ((o.sendRows d bank p w zs (bits (o.xOp a) 14 0 / (o.core o.cur.core).rowBytes bank) n).modCore o.cur.core fun c =>
        { c with mmaLeft := n * p, mmaBy := some (o.cur.strand, o.me.seg, o.cur.start, bank) }) := by
  intro bank
  have hx : o.readX o.cur.core o.cur.strand a = o.xOp a := rfl
  have hscr : ¬ (spaceOf (o.xOp a) ≠ .scr ∨ ((o.core o.cur.core).scrOff (o.xOp a) 1).isNone = true) := by
    simp [h.space, Option.isSome_iff_ne_none.1 h.mapped]
  have hfree : ¬ ((List.range n).any fun r => o.me.inflight.any fun l => decide (l.dest = .v (d + r)) && l.left == mmaLatency p r) = true := by
    simpa using h.free
  have hplace : ¬ (bits (o.xOp a) 19 0 % (o.core o.cur.core).rowBytes bank ≠ 0 ∨ 32768 < bits (o.xOp a) 14 0 + n * (o.core o.cur.core).rowBytes bank) := by
    have hmod := h.aligned
    rw [← bits_mod_bank, Nat.mod_mod_of_dvd _ (rowBytes_dvd_bank h.shape)] at hmod
    exact not_or.2 ⟨not_not.2 hmod, not_lt.2 h.inside⟩
  have hidle : ¬ ((o.core o.cur.core).mmaLeft ≠ 0 ∨ ((o.core o.cur.core).cmdsOf 6).any (fun y => y.reading o.now) = true ∨
      ((o.core o.cur.core).cmdsOf 1).any (fun y => decide (y.kind = .wswap)) = true) := by
    simpa [h.idle] using ⟨h.reads, h.swaps⟩
  have hplane : ¬ (o.core o.cur.core).errs.any (fun e => decide (e.sram = .active) && e.dbl) = true := by
    simpa using fun e he hactive => absurd hactive (h.planeErrs e he)
  have herrs : o.coreErrs o.cur.core (fun e => decide (e.sram = .active)) = (o, false) :=
    coreErrs_of_none fun e he => by simpa using h.planeErrs e he
  simp only [gopMma, hx, hs, bits_div_bank, bits_mod_bank, bankFmt_of_scrOff h.mapped, h.shape, herrs]
  refine (if_neg hscr).trans <| (if_neg (not_not.2 rfl)).trans <| (if_neg hfree).trans <| (if_neg hplace).trans <|
    (if_neg fun hout => absurd (h.scaled hout.1) (not_lt.2 hout.2)).trans <| (if_neg (by simp [h.resident])).trans <| (if_neg hidle).trans <|
    (if_neg hplane).trans ?_
  obtain ⟨hrows, hsent⟩ := foldl_mmaStep h zs (bits (o.xOp a) 14 0 / (o.core o.cur.core).rowBytes bank)
  have hseg : (o.sendRows d bank p w zs (bits (o.xOp a) 14 0 / (o.core o.cur.core).rowBytes bank) n).me.seg = o.me.seg := by
    rw [State.me, hsent.cur]
    exact hsent.seg
  refine (congrArg (fun u : State => (.ok (u.modCore o.cur.core fun c =>
    { c with mmaLeft := n * p, mmaBy := some (o.cur.strand, u.me.seg, u.cur.start, bank) }) : Except Stop State)) hrows).trans ?_
  rw [hseg, hsent.cur]

/-- Settles O32: the rows are sent in both kinds of accumulators, as the operation runs. -/
theorem arrayMultiplies : Obligations.ArrayMultiplies := by
  unfold Obligations.ArrayMultiplies
  intro g d a n zs i bank bf fmt row act scales left runs gives dots p
  have hmma {w : Nat} {v : State → Nat → Val}
      (hv : ∀ o r, (o.core o.cur.core).mmaRow o.me.ncols (bank o) w zs (bits (o.xOp a) 14 0 / row o + r) = v o r) :
      DoesWhen i (fun o => runs o p w) fun o => gives o p (v o) := by
    intro s hr h
    obtain ⟨hspace, hmapped, hshape, hacct, hfree, haligned, hinside, hscaled, hres, hidle, hreads, hswaps, hplane, hne, hnp⟩ := h
    have hleft (r : Nat) : left (s.opened i) r = mmaLatency p r := by simp only [left, hshape, Option.map_some, Option.some.injEq, mmaLatency]
    have hruns : MmaRuns (s.opened i) d a n p w :=
      ⟨hspace, hmapped, hshape, hacct, fun r hr l hl hd => hleft r ▸ hfree r hr l hl hd, haligned, hinside, hscaled, hres, hidle, hreads, hswaps, hplane, hne, hnp⟩
    refine (exec_ready rfl hr (gopMma_ok hruns ((opened_acct s i).symm.trans hacct) g zs)).trans ?_
    simp only [gives, hleft, ← hv]
    rfl
  exact ⟨hmma fun _ _ => mmaRow_dots .., hmma fun _ _ => mmaRow_sums ..⟩

end Sys2Proof.Machine
end

section
/-! Proofs about the result writer (R111, R232): an MRD queues the bytes of its converted elements. -/

set_option Elab.async false -- as in the laws above: one proof at a time keeps the build within its memory

namespace Sys2Proof.Machine

/-! ## Commands (R221) -/

/-- The command that the issuing strand puts into an engine's queue. -/
def State.command (s : State) (kind : CmdKind) (tag : Nat) (reqs : List Request) : Cmd :=
  { uid := s.uid, strand := s.cur.strand, job := s.jobOf s.cur.core, kind := kind, reqs := reqs, tag := tag
    seg := (s.strand s.cur.core s.cur.strand).seg, pc := s.cur.start }

theorem enqueue_core (s : State) (e : Nat) (kind : CmdKind) (tag : Nat) (reqs : List Request) :
    ∃ l, (s.enqueue e kind tag reqs).core s.cur.core =
      { s.core s.cur.core with cmds := mput (s.core s.cur.core).cmds e ((s.core s.cur.core).cmdsOf e ++ [s.command kind tag reqs]), strands := l } := by
  unfold State.enqueue
  dsimp only
  split
  · exact ⟨_, by rw [core_modStrand_self, core_modCore_self]; rfl⟩
  · exact ⟨_, by rw [core_modCore_self]; rfl⟩

theorem enqueue_cur (s : State) (e : Nat) (kind : CmdKind) (tag : Nat) (reqs : List Request) : (s.enqueue e kind tag reqs).cur = s.cur := by
  unfold State.enqueue
  dsimp only
  split <;> rfl

theorem cmdsOf_mput_self (c : Core) (m : Map (List Cmd)) (e : Nat) (l : List Cmd) : ({ c with cmds := mput m e l } : Core).cmdsOf e = l := mget_mput_self ..

/-- A command that runs, by the cycle `due` at the latest. -/
def Cmd.runBy (due : Nat) (y : Cmd) : Cmd := { y with started := true, due := if y.started then min y.due due else due }

/-! ## The operation -/

theorem mrdStop_none {o : State} {d n : Nat} (hs : spaceOf (o.xOp d) = .scr) (hm : ((o.core o.cur.core).scrOff (o.xOp d) 1).isSome)
    (ha : bits (o.xOp d) 19 0 % fmtBytes ((mget (o.core o.cur.core).bfmt (bits (o.xOp d) 19 15) 0).toNat % 64) = 0)
    (hi : bits (o.xOp d) 14 0 + n * o.me.ncols * fmtBytes ((mget (o.core o.cur.core).bfmt (bits (o.xOp d) 19 15) 0).toNat % 64) ≤ 32768) :
    o.mrdStop d n = none := by
  rw [State.mrdStop]
  simp only [show o.readX o.cur.core o.cur.strand d = o.xOp d from rfl, bits_div_bank, bits_mod_bank, bankFmt_of_scrOff hm]
  rw [if_neg (by simp [hs, Option.isSome_iff_ne_none.1 hm]), if_neg (by omega)]

/-- What an MRD queues of n rows of accumulators from V[a] on: the place of its bytes, and each element times Fb in the format of the bank that Xd names. -/
def State.mrdKind (o : State) (acct d a b n : Nat) : CmdKind :=
  let bf := mget (o.core o.cur.core).bfmt (bits (o.xOp d) 19 15) 0
  .mrd (bits (o.xOp d) 19 0) (fmtBytes (bf.toNat % 64))
    ((List.range n).flatMap fun r => (List.range o.me.ncols).flatMap fun col =>
      toLE (fmtBytes (bf.toNat % 64)) (mrdElem acct (bf.toNat % 64) (bf.getLsbD 7) (bits (o.fOp b) 31 0) (laneOf 32 (o.vOp (a + r)) col)))
    ((List.range n).any fun r => o.me.poisonedReg (.v (a + r)))

/-- The cycle by which they are in scratchpad, free within n + 8 cycles of the issue (log entry 23). -/
def State.mrdDue (o : State) (n : Nat) : Nat := o.now + n + 8 - Config.pick o.freeCtr (n + 8) % (n + 8)

theorem mrdDue_bounds (o : State) (n : Nat) : o.now < o.mrdDue n ∧ o.mrdDue n ≤ o.now + n + 8 := by
  have hfree := Nat.mod_lt (Config.pick o.freeCtr (n + 8)) (show 0 < n + 8 by omega)
  rw [State.mrdDue]
  omega

/-- An MRD under way: its command queued, and the head of the queue in its last cycles. -/
def State.startMrd (o : State) (kind : CmdKind) (n : Nat) : State :=
  (o.enqueue 2 kind).spend.modCore o.cur.core fun c => { c with cmds := mput c.cmds 2 ((c.cmdsOf 2).map (Cmd.runBy (o.mrdDue n))) }

theorem startMrd_cur (o : State) (kind : CmdKind) (n : Nat) : (o.startMrd kind n).cur = o.cur := enqueue_cur o 2 kind 0 []

theorem startMrd_cmds (o : State) (kind : CmdKind) (n : Nat) : ((o.startMrd kind n).core o.cur.core).cmdsOf 2 =
    ((o.core o.cur.core).cmdsOf 2 ++ [o.command kind 0 []]).map (Cmd.runBy (o.mrdDue n)) := by
  obtain ⟨l, henq⟩ := enqueue_core o 2 kind 0 []
  rw [State.startMrd, core_modCore_self, cmdsOf_mput_self, core_spend, henq]
  exact congrArg _ (mget_mput_self ..)

theorem startMrd_near (o : State) (kind : CmdKind) (n : Nat) : ((o.startMrd kind n).core o.cur.core).near = (o.core o.cur.core).near := by
  obtain ⟨l, henq⟩ := enqueue_core o 2 kind 0 []
  rw [State.startMrd, core_modCore_self, core_spend, henq]

theorem gopMrd_ok {o : State} {d n : Nat} (hstop : o.mrdStop d n = none) (hm : ((o.core o.cur.core).scrOff (o.xOp d) 1).isSome)
    (hf : (o.core o.cur.core).engineFull 2 = false) (g a b : Nat) (s : State) :
    (gopMrd g d a b n s).op o = .ok (o.startMrd (o.mrdKind s.me.acct d a b n) n) := by
  simp only [gopMrd, hstop, show o.readX o.cur.core o.cur.strand d = o.xOp d from rfl, bits_div_bank, bankFmt_of_scrOff hm, hf, Bool.false_eq_true, if_false]
  rfl

/-- The end of an issue that notes nothing for it leaves queues of commands and near array as the effect left them. -/
theorem after_cmds_near {i : Instr} {s u : State} (h : u.cur = (s.opened i).cur) :
    ((s.after i u).core s.cur.core).cmdsOf = (u.core s.cur.core).cmdsOf ∧ ((s.after i u).core s.cur.core).near = (u.core s.cur.core).near := by
  have hkeeps : u.cur.core = s.cur.core ∧ u.cur.strand = s.cur.strand ∧ u.cur.give = false ∧ u.cur.sysw = [] := by
    rw [h]
    exact ⟨rfl, rfl, rfl, rfl⟩
  obtain ⟨hk, hj, hgive, hsysw⟩ := hkeeps
  obtain ⟨q, l, hafter⟩ := after_core (i := i) hk hj hgive hsysw
  rw [hafter]
  exact ⟨rfl, rfl⟩

/-- Settles O33: the command of this MRD is the last of engine 2, and runs. -/
theorem resultWriter : Obligations.ResultWriter := by
  unfold Obligations.ResultWriter
  intro g d a b n i bf fmt s o k num elem hready hspace hmapped haligned hinside hfree
  have hok := gopMrd_ok (mrdStop_none hspace hmapped haligned hinside) hmapped hfree g a b s
  rw [← opened_acct s i] at hok
  obtain ⟨hcmds, hnear⟩ := after_cmds_near (i := i) (startMrd_cur o (o.mrdKind o.me.acct d a b n) n)
  obtain ⟨hlater, hwithin⟩ := mrdDue_bounds o n
  refine ⟨_, exec_ready rfl hready hok, (o.command (o.mrdKind o.me.acct d a b n) 0 []).runBy (o.mrdDue n), ?_, rfl, rfl, hlater, hwithin, rfl, ?_⟩
  · rw [hcmds]
    exact (congrArg List.getLast? (startMrd_cmds ..)).trans (by rw [List.map_append]; exact List.getLast?_concat)
  · exact hnear.trans ((startMrd_near ..).trans (RegFrame.openGroup s [] [s.infoOf i]).near)

end Sys2Proof.Machine
end

section
/-! Proofs about the completions of the engines (R121, R223, R224, R226, R227, R232, R242, R272, R274, R275, R331). -/

set_option Elab.async false -- as in the laws above: one proof at a time keeps the build within its memory

namespace Sys2Proof.Machine

section

variable {s : State} {t f : Nat} {x : Cmd}

/-! ## The end of a command (R221) -/

/-- The core at the end of a command of engines 1 to 3: the command has left its queue, and its strand knows. -/
theorem finishCmd_core {e : Nat} (he : e < 4) (s : State) (k : Nat) (x : Cmd) (w : Word) : (s.finishCmd k e x w).core k =
    ({ s.core k with cmds := mput (s.core k).cmds e (((s.core k).cmdsOf e).filter fun y => y.uid != x.uid) } : Core).setStrand x.strand
      ((s.strand k x.strand).completes e w) := by
  have hno : ¬ (4 ≤ e ∧ bits w 63 56 = 3) := fun h => absurd h.1 (not_le.2 he)
  rw [State.finishCmd, if_neg hno, State.complete, core_modStrand_self, core_modCore_self, strand_modCore_self]
  rfl

/-! ## Weight streams (R121, R223) -/

theorem failStream_failed (s : State) (k : Nat) (st : Stream) (detail : Nat) (addr : Word) : ((s.failStream k st detail addr).core k).failed = true := by
  rw [State.failStream, State.complete, core_modStrand_self, core_modCore_self]
  rfl

/-- The FIFO with a block of elements es more: in the tile under way, or in a new one of `per` blocks. -/
def addBlock (fmt : Nat) (base : Word) (per : Nat) (es : List Half) (l : List FifoTile) : List FifoTile :=
  match l.getLast? with
  | some z => if z.remaining = 0 then l ++ [{ fmt := fmt, elems := es, blocks := 1, base := base, remaining := per - 1 }]
              else l.dropLast ++ [{ z with elems := z.elems ++ es, blocks := z.blocks + 1, remaining := z.remaining - 1 }]
  | none => [{ fmt := fmt, elems := es, blocks := 1, base := base, remaining := per - 1 }]

theorem addBlock_getLast (fmt : Nat) (base : Word) (per : Nat) (es : List Half) (l : List FifoTile) :
    ∃ z, (addBlock fmt base per es l).getLast? = some z ∧ ∃ pre, z.elems = pre ++ es := by
  unfold addBlock
  split
  · split
    · exact ⟨_, List.getLast?_concat, [], rfl⟩
    · exact ⟨_, List.getLast?_concat, _, rfl⟩
  · exact ⟨_, rfl, [], rfl⟩

/-- The end of a stream changes nothing of the FIFO. -/
theorem fifo_complete_if (c : Prop) [Decidable c] (s : State) (k i e : Nat) (w : Word) :
    ((if c then s.complete k i e w else s).core k).fifo = (s.core k).fifo := by
  split
  · rw [State.complete, core_modStrand_self]
    rfl
  · rfl

section

variable {st : Stream} {hd bs : List Byte} {o v : State} (hst : s.decompressReady (16 * t + f) = some st)
  (ho : (if !st.started && (st.acq.any fun sc => decide (4 ≤ sc)) then s.acquire (16 * t + f) else s) = o)
  (hhd : (o.engineView (16 * t + f)).vread st.job st.next.toNat 8 = .ok (hd, false))
  (hbs : (o.engineView (16 * t + f)).vread st.job st.next.toNat (max 8 (bits (BitVec.ofNat 64 (ofLE hd)) 47 32)) = .ok (bs, false))
  (hv : o.vfetch t st.job st.next.toNat bs.length = (v, false))

include hst ho hhd hbs hv

theorem decompressBlock_bad (hb : holigBlock (fmtBytes st.fmt) bs = none) :
    Ends (.decompressBlock t f) s fun u => (u.core (16 * t + f)).failed = true := by
  show ∃ u, execDecompressBlock t f s = _ ∧ _
  simp only [execDecompressBlock, hst, ho, hhd, hbs, hv, hb, Bool.false_eq_true, or_self, if_false]
  exact ⟨_, rfl, failStream_failed ..⟩

theorem decompressBlock_good {vals : List Nat} (hb : holigBlock (fmtBytes st.fmt) bs = some vals) : Ends (.decompressBlock t f) s fun u =>
    ∃ z, (u.core (16 * t + f)).fifo.getLast? = some z ∧ ∃ pre, z.elems = pre ++ vals.map (BitVec.ofNat 32) := by
  show ∃ u, execDecompressBlock t f s = _ ∧ _
  simp only [execDecompressBlock, hst, ho, hhd, hbs, hv, hb, Bool.false_eq_true, or_self, if_false]
  refine ⟨_, rfl, ?_⟩
  rw [core_spend, fifo_complete_if, core_modCore_self, core_modCore_self]
  exact addBlock_getLast ..

end

/-! ## The planes (R224, R226, R227) -/

theorem planeLoadComplete_ends {z : FifoTile} (hd : s.headDone (16 * t + f) 1 = some x) (hk : x.kind = .wld z) :
    Ends (.planeLoadComplete t f) s fun u =>
      (u.core (16 * t + f)).shadow.elems = sparse z.elems ∧ (u.core (16 * t + f)).shadow.fmt = z.fmt ∧
        (u.core (16 * t + f)).active = (s.core (16 * t + f)).active ∧ (u.core (16 * t + f)).shadow.flags = specialFlags z.fmt (s.colsOf (16 * t + f)) z.elems := by
  show ∃ u, execPlaneLoadComplete t f s = _ ∧ _
  simp only [execPlaneLoadComplete, hd, hk]
  refine ⟨_, rfl, ?_⟩
  rw [finishCmd_core (by decide), core_modCore_self]
  exact ⟨rfl, rfl, rfl, rfl⟩

/-- A list of which the map names only what differs from a is read back from the map. -/
theorem mget_listed {α β : Type} [BEq α] [LawfulBEq α] (g : α → β) (a : α) (l : List α) (n k : Nat) :
    mget (((l.zipIdx n).filter fun e => e.1 != a).map fun e => (e.2, g e.1)) k (g a) = if n ≤ k then g (l.getD (k - n) a) else g a := by
  induction l generalizing n with
  | nil => simp [mget, mfind]
  | cons b l ih =>
    have hnext (hk : k ≠ n) : (if n + 1 ≤ k then g (l.getD (k - (n + 1)) a) else g a) = if n ≤ k then g ((b :: l).getD (k - n) a) else g a := by
      by_cases hle : n ≤ k
      · rw [if_pos hle, if_pos (by omega), show k - n = k - (n + 1) + 1 by omega, List.getD_cons_succ]
      · rw [if_neg hle, if_neg (by omega)]
    rw [List.zipIdx_cons]
    by_cases hb : b = a
    · rw [List.filter_cons_of_neg (by simp [hb]), ih]
      by_cases hk : k = n
      · simp [hk, hb]
      · exact hnext hk
    · rw [List.filter_cons_of_pos (by simp [hb]), List.map_cons]
      by_cases hk : k = n
      · simp [hk, mget, mfind]
      · have hskip (m : Map β) : mget ((n, g b) :: m) k (g a) = mget m k (g a) := by simp [mget, mfind, Ne.symm hk]
        rw [hskip, ih]
        exact hnext hk

theorem scaleLoadComplete_ends {ps : List (Bool × Nat × Nat)} {n : Nat} {m : Bool} (hd : s.headDone (16 * t + f) 1 = some x) (hk : x.kind = .wscl ps n m) :
    Ends (.scaleLoadComplete t f) s fun u =>
      (u.core (16 * t + f)).shadow.resident = true ∧ (u.core (16 * t + f)).shadow.elems = (s.core (16 * t + f)).shadow.elems ∧
        ∀ j, j < x.data.length → mget (u.core (16 * t + f)).shadow.scales j 127 = (x.data.getD j 0).toNat := by
  show ∃ u, execScaleLoadComplete t f s = _ ∧ _
  simp only [execScaleLoadComplete, hd, hk]
  refine ⟨_, rfl, ?_⟩
  rw [finishCmd_core (by decide), core_modCore_self]
  refine ⟨rfl, rfl, fun j hj => (mget_listed BitVec.toNat 127 x.data 0 j).trans ?_⟩
  rw [if_pos (Nat.zero_le j), Nat.sub_zero, List.getD_eq_getElem _ _ hj, List.getD_eq_getElem _ _ hj]

theorem wswapEffect_ends {r : List Cmd} (hc : (s.core (16 * t + f)).cmdsOf 1 = x :: r) (hk : x.kind = .wswap) (hm : (s.core (16 * t + f)).mmaLeft = 0)
    (hr : (s.core (16 * t + f)).readBefore (s.now + 1) x.uid = false) : Ends (.wswapEffect t f) s fun u =>
      (u.core (16 * t + f)).active = (s.core (16 * t + f)).shadow ∧ (u.core (16 * t + f)).shadow = (s.core (16 * t + f)).active := by
  show ∃ u, execWswapEffect t f s = _ ∧ _
  simp only [execWswapEffect, hc, hk, hm, hr, Bool.not_false, and_self, if_true]
  refine ⟨_, rfl, ?_⟩
  rw [finishCmd_core (by decide), core_setCore_self]
  exact ⟨rfl, rfl⟩

/-! ## The result writer (R232) -/

/-- The bytes of element n are those at the places that it divides to. -/
theorem element_bytes {e : Nat} {bs : List Byte} (he : e ∣ bs.length) (off n a : Nat) :
    (off + n * e ≤ a ∧ a < off + n * e + ((bs.drop (n * e)).take e).length) ↔ (off ≤ a ∧ a < off + bs.length ∧ (a - off) / e = n) := by
  rw [List.length_take, List.length_drop]
  obtain rfl | hpos := Nat.eq_zero_or_pos e
  · rw [Nat.eq_zero_of_zero_dvd he]
    omega
  · have hdiv : (a - off) / e = n ↔ n * e ≤ a - off ∧ a - off < n * e + e := by
      rw [Nat.div_eq_iff hpos]
      omega
    rw [hdiv]
    obtain ⟨q, hq⟩ := he
    have hwhole : n * e < bs.length → n * e + e ≤ bs.length := by
      intro h
      rw [hq, mul_comm e] at h ⊢
      exact Nat.succ_mul n e ▸ Nat.mul_le_mul_right e (Nat.lt_of_mul_lt_mul_right h)
    omega

/-- One element written. -/
theorem writeElement_near {c : Core} (hw : Memory.wf c.near = true) (off : Nat) {e : Nat} {bs : List Byte} (he : e ∣ bs.length) (n a : Nat) :
    rdByte (c.scrWrite (off + n * e) ((bs.drop (n * e)).take e)).near a =
      if off ≤ a ∧ a < off + bs.length ∧ (a - off) / e = n then bs.getD (a - off) 0 else rdByte c.near a := by
  have hiff := element_bytes he off n a
  refine (rdByte_wrBytes hw ..).trans ?_
  by_cases hin : off + n * e ≤ a ∧ a < off + n * e + ((bs.drop (n * e)).take e).length
  · rw [if_pos hin, if_pos (hiff.1 hin)]
    obtain ⟨hlow, hhigh⟩ := hin
    rw [List.length_take] at hhigh
    simp only [List.getD_eq_getElem?_getD]
    rw [List.getElem?_take_of_lt (by omega), List.getElem?_drop, show n * e + (a - (off + n * e)) = a - off by omega]
  · rw [if_neg hin, if_neg (mt hiff.2 hin)]

/-- Elements written, by number: their bytes are in scratchpad, and no other byte changes. -/
theorem writeElements_near {c : Core} (hw : Memory.wf c.near = true) (off : Nat) {e : Nat} {bs : List Byte} (he : e ∣ bs.length) (po : Bool) (ns : List Nat) (a : Nat) :
    rdByte (c.writeElements off e bs po ns).near a =
      if off ≤ a ∧ a < off + bs.length ∧ (a - off) / e ∈ ns then bs.getD (a - off) 0 else rdByte c.near a := by
  induction ns generalizing c with
  | nil => simp [Core.writeElements]
  | cons n ns ih =>
    have hstep (c' : Core) (hc : c'.near = (c.scrWrite (off + n * e) ((bs.drop (n * e)).take e)).near) :
        rdByte (c'.writeElements off e bs po ns).near a =
          if off ≤ a ∧ a < off + bs.length ∧ (a - off) / e ∈ n :: ns then bs.getD (a - off) 0 else rdByte c.near a := by
      rw [ih (by rw [hc]; exact wf_wrBytes hw ..), hc, writeElement_near hw off he]
      by_cases hin : off ≤ a ∧ a < off + bs.length
      · by_cases hn : (a - off) / e = n
        · simp [hin, hn]
        · simp [hin, hn]
      · simp only [← and_assoc, hin, false_and, if_false]
    rw [Core.writeElements, List.foldl_cons]
    exact hstep _ (by split <;> rfl)

theorem mrdComplete_ends {off e : Nat} {bs : List Byte} (hd : s.headDone (16 * t + f) 2 = some x) (hk : x.kind = .mrd off e bs false) (he : e ∣ bs.length)
    (hw : Memory.wf (s.core (16 * t + f)).near = true) : Ends (.mrdComplete t f) s fun u =>
      (∀ j, j < bs.length → (∀ l, x.left = some l → j / e ∈ l) → rdByte (u.core (16 * t + f)).near (off + j) = bs.getD j 0) ∧
        ∀ a, (a < off ∨ off + bs.length ≤ a) → rdByte (u.core (16 * t + f)).near a = rdByte (s.core (16 * t + f)).near a := by
  show ∃ u, execMrdComplete t f s = _ ∧ _
  simp only [execMrdComplete, hd, hk]
  refine ⟨_, rfl, ?_⟩
  rw [finishCmd_core (by decide), core_modCore_self]
  have hnear := writeElements_near hw off he false (x.rest (bs.length / e))
  refine ⟨fun j hj hl => (hnear _).trans ?_, fun a ha => (hnear a).trans (if_neg (by omega))⟩
  have hmem : j / e ∈ x.rest (bs.length / e) := by
    unfold Cmd.rest
    cases hx : x.left with
    | none => exact List.mem_range.2 (Nat.div_lt_div_of_lt_of_dvd he hj)
    | some l => exact hl l hx
  rw [if_pos (by simp [hj, hmem]), Nat.add_sub_cancel_left]

/-! ## The state engine and copies on write (R242) -/

theorem copyOnWriteComplete_ends (t f : Nat) (s : State) : Ends (.copyOnWriteComplete t f) s fun u =>
    ∀ e ∈ u.handles, e.2.v = true → e.2.twr = t → ∀ c ∈ e.2.cow, (s.slabsOf (16 * t + f)).contains (c.2.1 / 256) = true → s.now < c.2.2 := by
  refine ⟨_, rfl, fun e he hv ht c hc hin => ?_⟩
  obtain ⟨y, -, rfl⟩ := List.mem_map.1 he
  split at hc
  · have hleft := (List.mem_filter.1 hc).2
    simp only [hin, Bool.true_and, Bool.not_eq_true', decide_eq_false_iff_not, not_le] at hleft
    exact hleft
  · next hother =>
    rw [if_neg hother] at hv ht
    exact absurd ⟨hv, ht⟩ hother

/-! ## Copies and pushes (R272, R274, R275) -/

theorem exec_copyComplete_status {w : Word} (hd : s.transferDone (16 * t + f) 4 = some x) (hs : x.status = some w) :
    exec (.copyComplete t f) s = .next (s.finishCmd (16 * t + f) 4 x w) := by
  show execCopyComplete t f s = _
  simp only [execCopyComplete, hd, hs]

theorem exec_copyComplete_moved {p : State} (hd : s.transferDone (16 * t + f) 4 = some x) (hs : x.status = none)
    (hp : (if (parseDesc x.desc).rel = true ∧ 4 ≤ (parseDesc x.desc).scope
      then s.pushHome (towerOf (16 * t + f)) fun e => e.1 == 16 * t + f && e.2.tag == x.uid && decide (8 ≤ e.2.strand) else s) = p) :
    exec (.copyComplete t f) s = .next (if p.relClear (16 * t + f) x (parseDesc x.desc) then p.finishCmd (16 * t + f) 4 x 0 else p) := by
  show execCopyComplete t f s = _
  simp only [execCopyComplete, hd, hs, hp]

theorem exec_pushComplete_status {u : State} {w : Word} (hu : s.pushKeys (16 * t + f) = u) (hd : u.transferDone (16 * t + f) 5 = some x) (hs : x.status = some w) :
    exec (.pushComplete t f) s = .next (u.finishCmd (16 * t + f) 5 x w) := by
  show execPushComplete t f s = _
  simp only [execPushComplete, hu, hd, hs]

theorem exec_pushComplete_moved {u : State} (hu : s.pushKeys (16 * t + f) = u) (hd : u.transferDone (16 * t + f) 5 = some x) (hs : x.status = none) :
    exec (.pushComplete t f) s = .next (if x.keyed then u.finishCmd (16 * t + f) 5 x 0 else u) := by
  show execPushComplete t f s = _
  simp only [execPushComplete, hu, hd, hs]

theorem pushKey_waits {tag : Nat} {d : Desc} (h : s.pushClear tag d = false) (key : Word) : s.pushKey tag d key = none := by
  rw [State.pushKey, h]
  rfl

theorem pushKey_zero {tag : Nat} {d : Desc} (h : s.pushClear tag d = true) {key : Word} (hk : key = 0) : s.pushKey tag d key = some s := by
  rw [State.pushKey, h, if_pos hk]
  rfl

theorem pushKey_nonzero {tag : Nat} {d : Desc} (h : s.pushClear tag d = true) {key : Word} (hk : key ≠ 0) :
    s.pushKey tag d key = s.registerArrival d.rtwr d.rjob key := by
  rw [State.pushKey, h, if_neg hk]
  rfl

theorem transferDone_of_moved {k e : Nat} {r : List Cmd} (hc : (s.core k).cmdsOf e = x :: r) (hm : x.moved = true) : s.transferDone k e = some x := by
  rw [State.transferDone, hc]
  exact Option.filter_some_pos hm

section

variable {a r : Word} {bf : Map Half} (hc : (s.core (16 * t + f)).cmdsOf 5 = [x]) (hk : x.kind = .push a r bf false) (hm : x.moved = true) (hs : x.status = none)
  (hn : x.keyed = false)

include hc hk hm hs hn

/-- A push alone in its queue, whose key cannot be registered yet, waits. -/
theorem exec_pushComplete_waits (hkey : s.pushKey x.uid (parseDesc x.rdesc) (parseDesc x.desc).key = none) : exec (.pushComplete t f) s = .next s := by
  have hkeys : s.pushKeys (16 * t + f) = s := by
    simp [State.pushKeys, hc, hk, hm, hs, hn, hkey]
  rw [exec_pushComplete_moved hkeys (transferDone_of_moved hc hm) hs, hn]
  rfl

/-- One whose key is registered ends. -/
theorem exec_pushComplete_ends {z : State} (hkey : s.pushKey x.uid (parseDesc x.rdesc) (parseDesc x.desc).key = some z) (hz : z.cores = s.cores) :
    exec (.pushComplete t f) s = .next ((z.modCmd (16 * t + f) 5 x.uid fun y => { y with keyed := true }).finishCmd (16 * t + f) 5 x 0) := by
  have hkeys : s.pushKeys (16 * t + f) = z.modCmd (16 * t + f) 5 x.uid fun y => { y with keyed := true } := by
    simp [State.pushKeys, hc, hk, hm, hs, hn, hkey]
  have hcmds : ((z.modCmd (16 * t + f) 5 x.uid fun y => { y with keyed := true }).core (16 * t + f)).cmdsOf 5 = [{ x with keyed := true }] := by
    rw [State.modCmd, core_modCore_self, cmdsOf_mput_self, State.core, hz]
    exact (congrArg _ hc).trans (by simp)
  rw [exec_pushComplete_moved hkeys (transferDone_of_moved hcmds hm) hs]
  rfl

end

theorem registerArrival_cores {z : State} {job : Nat} {key : Word} (h : s.registerArrival t job key = some z) : z.cores = s.cores := by
  unfold State.registerArrival at h
  dsimp only at h
  split at h
  · cases h; rfl
  · split at h
    · cases h; rfl
    · cases h

/-- An element in scratchpad is read where its enumeration puts it. -/
theorem codesAt_scratchpad {k off job n : Nat} {r : Route} (hb : r.d.sfb = false) (hsp : spaceOf (r.d.srcAt n) = .scr)
    (ha : (r.d.srcAt n).toNat % fmtBytes r.sf = 0) (ho : (s.core k).scrOff (r.d.srcAt n) (fmtBytes r.sf) = some off) (he : (s.core k).nearErr = [])
    (hp : (s.core k).nearPois = []) (v : State) : s.codesAt v k job r [n] = (s, [(n, ofLE (rdBytes (s.core k).near off (fmtBytes r.sf)))], none) := by
  have hplace : misplaced r.d.sfb r.d.src (r.d.srcAt n) (fmtBytes r.sf) = false := by simp [misplaced, hb, ha]
  have hread : s.engineBytes v k job (r.d.srcAt n) (fmtBytes r.sf) = .ok (rdBytes (s.core k).near off (fmtBytes r.sf), s) := by
    simp [State.engineBytes, hsp, ho, scrRead_of_clean he hp]
  simp [State.codesAt, hplace, hread]

/-- A code without block scaling writes its conversion where the enumeration puts it. -/
theorem items_unscaled {y : Relay} {n : Nat} (hs : y.scl = false) (hp : misplaced y.fb y.dst.dst (y.dst.dstAt n) (fmtBytes y.df) = false) (c : Nat) :
    y.items [(n, c)] = .ok [(y.dst.dstAt n, toLE (fmtBytes y.df) (moveFmt y.sf y.df y.sat c))] := by
  simp [Relay.items, convertAll, hs, hp]

theorem putItems_scratchpad {k off : Nat} {r : Route} {a : Word} {bs : List Byte} (hi : r.into = none) (hsp : spaceOf a = .scr)
    (ho : (s.core k).scrOff a bs.length = some off) (x : Cmd) : s.putItems k x r [(a, bs)] = (s.modCore k fun c => c.scrWrite off bs, none) := by
  simp [State.putItems, hi, State.engineWrite, hsp, ho]

/-! ## Arrivals (R331) -/

/-- Where its table has room, an arrival is registered: in the entry that it has, or in a new one. -/
theorem arrivalRegistration_ends {job : Nat} {key : Word} (h : (s.tower t).arrivals.length < 1024) : Ends (.arrivalRegistration t job key) s fun u =>
    ∃ a ∈ (u.tower t).arrivals, a.job = job ∧ a.key = key ∧ a.registered = true := by
  show ∃ u, execArrivalRegistration t job key s = _ ∧ _
  by_cases hany : ((s.tower t).arrivals.any fun a => a.job == job && a.key == key) = true
  · simp only [execArrivalRegistration, State.registerArrival, hany, if_true]
    refine ⟨_, rfl, ?_⟩
    obtain ⟨a, ha, hsame⟩ := List.any_eq_true.1 hany
    simp only [Bool.and_eq_true, beq_iff_eq] at hsame
    rw [tower_setTower_self]
    exact ⟨_, List.mem_map_of_mem ha, by rw [if_pos hsame]; exact ⟨hsame.1, hsame.2, rfl⟩⟩
  · simp only [execArrivalRegistration, State.registerArrival, hany, h, if_true]
    refine ⟨_, rfl, ⟨key, job, true⟩, ?_, rfl, rfl, rfl⟩
    rw [tower_setTower_self]
    exact List.mem_append_right _ (List.mem_singleton_self _)

end

/-- Settles O44: one lemma for each event, in the order of the statement. -/
theorem enginesComplete : Obligations.EnginesComplete := by
  unfold Obligations.EnginesComplete
  intro t f s x k
  refine ⟨?_, fun z hd hk => planeLoadComplete_ends hd hk, fun ps n m hd hk => scaleLoadComplete_ends hd hk, fun r hc hk hm hr => wswapEffect_ends hc hk hm hr, ?_, ?_,
    copyOnWriteComplete_ends t f s, fun w hd hs => exec_copyComplete_status hd hs, ?_, ?_, ?_, ?_, fun y n c hs hp => items_unscaled hs hp c,
    fun r a bs off hi hsp ho => putItems_scratchpad hi hsp ho x, fun job key h => arrivalRegistration_ends h⟩
  · intro st hd bs len o hst hhd hbs hfetch
    have hv : o.vfetch t st.job st.next.toNat bs.length = ((o.vfetch t st.job st.next.toNat bs.length).1, false) := Prod.ext rfl hfetch
    exact ⟨decompressBlock_bad hst rfl hhd hbs hv, fun vals => decompressBlock_good hst rfl hhd hbs hv⟩
  · intro off e bs hd hk he hw
    obtain ⟨u, hu, hin, hout⟩ := mrdComplete_ends hd hk he hw
    exact ⟨u, hu, hin, fun a ha _ => hout a ha⟩
  · intro hd
    show execStateEngineComplete t f s = _
    simp only [execStateEngineComplete, k, hd]
  · intro hd hs d p
    rw [exec_copyComplete_moved hd hs rfl]
    exact ⟨fun h => by rw [if_pos h], fun h => by rw [if_neg (by rw [h]; exact Bool.false_ne_true)]⟩
  · intro u hd
    refine ⟨fun w hs => exec_pushComplete_status rfl hd hs, fun hs hk => ?_, fun hs hk => ?_⟩
    · rw [exec_pushComplete_moved rfl hd hs, hk]
      rfl
    · rw [exec_pushComplete_moved rfl hd hs, hk]
      rfl
  · intro a r bf hc hk hm hs hn e key ends
    refine ⟨fun hclear => ?_, fun hclear hzero => ?_, fun hclear hkey => ⟨fun z hz => ?_, fun hz => ?_⟩⟩
    · exact exec_pushComplete_waits hc hk hm hs hn (pushKey_waits hclear key)
    · exact exec_pushComplete_ends hc hk hm hs hn (pushKey_zero hclear hzero) rfl
    · exact exec_pushComplete_ends hc hk hm hs hn ((pushKey_nonzero hclear hkey).trans hz) (registerArrival_cores hz)
    · exact exec_pushComplete_waits hc hk hm hs hn ((pushKey_nonzero hclear hkey).trans hz)
  · intro v r n off a e hb hsp ha ho he hp
    exact codesAt_scratchpad hb hsp ha ho he hp v

end Sys2Proof.Machine
end

section
/-! Proofs about causes (R133, R362, R368, R369): a trap taken, a recovery begun, a rewind, and the failure of a gang that may take neither. -/

set_option Elab.async false -- one proof at a time: many at once exhaust the memory of a build

namespace Sys2Proof.Machine

/-! ## A gang that fails (R372) -/

theorem failAt_gang {s : State} {k n : Nat} {g : Gang} (hn : (s.core k).gang = some n) (hg : s.gang? n = some g) (j r : Nat) :
    s.failAt k j r = (s.sched (.gangFailure n (g.gsi k j) r)).giveUp k j 0 := by
  simp only [State.failAt, hn, hg]

@[simp] theorem bumpErr_now (s : State) (t e : Nat) : (s.bumpErr t e).now = s.now := by
  unfold State.bumpErr
  dsimp only
  split <;> split <;> rfl

theorem bumpErr_core (s : State) (t e k : Nat) : (s.bumpErr t e).core k = s.core k := by rw [State.core, RegFrame.bumpErr_cores, ← State.core]

theorem bumpErr_gang? (s : State) (t e n : Nat) : (s.bumpErr t e).gang? n = s.gang? n := ((OnlyL1.refl s).bumpErr t e).gang? n

/-- The gang of core k fails at strand j for reason r: its failure is due now, the slot is free, and neither the strand nor memory has changed. -/
structure FailsAt (k j n : Nat) (g : Gang) (r : Nat) (s u : State) : Prop where
  due : (s.now, Instr.gangFailure n (g.gsi k j) r) ∈ u.agenda
  strand : u.strand k j = s.strand k j
  run : (u.core k).run = none
  mem : u.mem = s.mem

theorem failAt_failsAt {s : State} {k n : Nat} {g : Gang} (hn : (s.core k).gang = some n) (hg : s.gang? n = some g) (j r : Nat) :
    FailsAt k j n g r s (s.failAt k j r) := by
  rw [failAt_gang hn hg]
  exact ⟨List.mem_append_right _ (List.mem_singleton_self _), giveUp_strand _ k j 0 j, by rw [giveUp_core_self], rfl⟩

/-- An error counted before makes no difference. -/
theorem FailsAt.of_bumpErr {k j n r t e : Nat} {g : Gang} {s u : State} (h : FailsAt k j n g r (s.bumpErr t e) u) : FailsAt k j n g r s u :=
  ⟨by rw [← bumpErr_now s t e]; exact h.due, h.strand.trans (RegFrame.bumpErr_strand s t e k j), h.run, h.mem.trans (bumpErr_mem s t e)⟩

/-! ## Recoveries (R368, R369) -/

/-- The strand that a recovered cause has noted itself in (R368 steps 1 and 2). -/
def Strand.noteRecovery (x : Strand) (c d y : Nat) (pc w : Word) : Strand :=
  let x := { x.noteCause c d y pc (if c = 0x03 then 0 else w) with waitRef := w }
  if c = 0x15 ∧ d = 2 then { x with arrayErr := none } else x

theorem noteRecovery_eq (x : Strand) (c d y : Nat) (pc w : Word) : ∃ b, x.noteRecovery c d y pc w =
    { x with sepc := pc, scause := causeWord c d y, sinfo := if c = 0x03 then 0 else w, waitRef := w, arrayErr := b } := by
  unfold Strand.noteRecovery
  dsimp only
  split <;> exact ⟨_, rfl⟩

/-- The state in which a recovered cause has been counted: an array error counts for its tower (R360). -/
def State.countCause (s : State) (k c : Nat) : State := if c = 0x15 then s.bumpErr (towerOf k) 1 else s

theorem takeRecovery_eq (s : State) (k j c d y : Nat) (pc w : Word) : s.takeRecovery k j c d y pc w =
    let x := (s.strand k j).noteRecovery c d y pc w
    let v := s.countCause k c
    if x.th then v.failAt k j 1
    else if 2 ≤ x.sealed.recov then v.failAt k j 2
    else (v.setStrand k j { x.sealed with st := .recovering c d, recov := x.sealed.recov + 1, undo := some ((v.strand k j).undoAt v.now) }).giveUp k j 0 :=
  rfl

theorem sealed_recov (x : Strand) : x.sealed.recov = if x.fresh && !x.rewound then 0 else x.recov := by
  unfold Strand.sealed
  split <;> rfl

theorem sealed_eq (x : Strand) : ∃ r n q b, x.sealed = { x with restart := r, recov := n, seg := q, fresh := b } := by
  unfold Strand.sealed Strand.record
  split <;> exact ⟨_, _, _, _, rfl⟩

theorem noteRecovery_th (x : Strand) (c d y : Nat) (pc w : Word) : (x.noteRecovery c d y pc w).th = x.th := by
  obtain ⟨b, h⟩ := noteRecovery_eq x c d y pc w
  rw [h]
  rfl

theorem noteRecovery_sealed_recov (x : Strand) (c d y : Nat) (pc w : Word) : (x.noteRecovery c d y pc w).sealed.recov = x.sealed.recov := by
  obtain ⟨b, h⟩ := noteRecovery_eq x c d y pc w
  rw [sealed_recov, sealed_recov, h]

theorem countCause_failsAt {s : State} {k n : Nat} {g : Gang} (hn : (s.core k).gang = some n) (hg : s.gang? n = some g) (j c r : Nat) :
    FailsAt k j n g r s ((s.countCause k c).failAt k j r) := by
  unfold State.countCause
  split
  · exact (failAt_failsAt ((congrArg Core.gang (bumpErr_core s _ 1 k)).trans hn) ((bumpErr_gang? s _ 1 n).trans hg) j r).of_bumpErr
  · exact failAt_failsAt hn hg j r

/-- Under TH a cause of either kind makes the gang fail with reason 1. -/
theorem takeCause_failsAt {s : State} {k j n : Nat} {g : Gang} (hth : (s.strand k j).th = true) (hn : (s.core k).gang = some n) (hg : s.gang? n = some g)
    (c d y : Nat) (pc w : Word) : FailsAt k j n g 1 s (s.takeCause k j c d y pc w) := by
  unfold State.takeCause
  split
  · rw [takeRecovery_eq]
    dsimp only
    rw [if_pos ((noteRecovery_th _ c d y pc w).trans hth)]
    exact countCause_failsAt hn hg j c 1
  · rw [takeTrap_failed s k j c d y pc w hth]
    exact failAt_failsAt hn hg j 1

/-- At the third recovery since the restart point the gang fails with reason 2 (R369). -/
theorem takeCause_third {s : State} {k j n : Nat} {g : Gang} (hth : (s.strand k j).th = false) (hr : 2 ≤ (s.strand k j).sealed.recov) {c : Nat}
    (hc : recovered c = true) (hn : (s.core k).gang = some n) (hg : s.gang? n = some g) (d y : Nat) (pc w : Word) :
    FailsAt k j n g 2 s (s.takeCause k j c d y pc w) := by
  rw [State.takeCause, if_pos hc, takeRecovery_eq]
  dsimp only
  rw [noteRecovery_th, hth, if_neg Bool.false_ne_true, noteRecovery_sealed_recov, if_pos hr]
  exact countCause_failsAt hn hg j c 2

/-- From s strand j of core k has begun a recovery of cause c, d to state u (R368 steps 1 to 3). -/
structure Recovers (k j c d : Nat) (scause pc sinfo : Word) (s u : State) : Prop where
  st : (u.strand k j).st = .recovering c d
  th : (u.strand k j).th = false
  sepc : (u.strand k j).sepc = pc
  scause : (u.strand k j).scause = scause
  sinfo : (u.strand k j).sinfo = sinfo
  recov : (u.strand k j).recov = (s.strand k j).sealed.recov + 1
  spc : (u.strand k j).spc = (s.strand k j).spc
  run : (u.core k).run = none

theorem takeCause_recovers {s : State} {k j : Nat} (hth : (s.strand k j).th = false) (hr : (s.strand k j).sealed.recov < 2) {c : Nat}
    (hc : recovered c = true) (d y : Nat) (pc w : Word) :
    Recovers k j c d (causeWord c d y) pc (if c = 0x03 then 0 else w) s (s.takeCause k j c d y pc w) := by
  have hrec := noteRecovery_sealed_recov (s.strand k j) c d y pc w
  rw [State.takeCause, if_pos hc, takeRecovery_eq]
  dsimp only
  rw [noteRecovery_th, hth, if_neg Bool.false_ne_true, hrec, if_neg (Nat.not_le.2 hr)]
  obtain ⟨b, hb⟩ := noteRecovery_eq (s.strand k j) c d y pc w
  obtain ⟨r, n, q, f, hs⟩ := sealed_eq ((s.strand k j).noteRecovery c d y pc w)
  rw [hs, hb]
  constructor
  case run => rw [giveUp_core_self]
  case th => rw [giveUp_strand, state_strand_setStrand_self]; exact hth
  all_goals rw [giveUp_strand, state_strand_setStrand_self]

/-! ## The events -/

theorem recovered_iff (c : Nat) : recovered c = true ↔ c = 3 ∨ c = 8 ∨ c = 0x15 := by simp [recovered, or_assoc]

theorem causeWord_of_lt {c d y : Nat} (hd : d < 256) (hy : y < 8) (hc : c < 256) : causeWord c d y = BitVec.ofNat 64 (c * 65536 + d * 256 + y) := by
  rw [causeWord, w64, Nat.mod_eq_of_lt hc, Nat.mod_eq_of_lt hd, Nat.mod_eq_of_lt hy]

theorem exec_trapEntry {t f j : Nat} {s : State} (h : (s.strand (16 * t + f) j).st = .running) (c d y : Nat) (w : Word) :
    exec (.trapEntry t f j c d y w) s = .next (s.takeCause (16 * t + f) j c d y (s.strand (16 * t + f) j).spc w) :=
  if_pos h

theorem exec_recoveryRewind {t f j c d : Nat} {s : State} (hst : (s.strand (16 * t + f) j).st = .recovering c d)
    (hi : (s.strand (16 * t + f) j).inflight = []) (hp : (s.strand (16 * t + f) j).pend = [])
    (hc : s.causeCleared (16 * t + f) (s.strand (16 * t + f) j) c d = true) :
    exec (.recoveryRewind t f j) s = .next (s.setStrand (16 * t + f) j { (s.strand (16 * t + f) j).rewind with
      st := .ready, cRewc := (s.strand (16 * t + f) j).cRewc + 1, pre := if (s.strand (16 * t + f) j).pre = 0 then 0 else 3 }) := by
  show execRecoveryRewind t f j s = _
  simp only [execRecoveryRewind, hst, hi, hp, hc, List.isEmpty_nil, and_self, if_true]

/-- Settles O41: what takeCause comes to by the kind of its cause, TH and the recoveries since the restart point, and the rewind. -/
theorem trapsAndRewinds : Obligations.TrapsAndRewinds := by
  unfold Obligations.TrapsAndRewinds
  intro t f st code detail syl w s k x at_ fails
  refine ⟨fun hrun hth hc hd hy h3 h8 h15 => ?_, fun hrun hth hr hd hy hc => ?_, fun hrun hth n g hn hg => ?_, fun hrun hth hr hc n g hn hg => ?_,
    fun hrun => if_neg hrun, fun hst hi hp hc => ?_⟩
  · have hrec : recovered code = false := by simp [recovered, h3, h8, h15]
    have htook := takeCause_tookTrap hrec hth detail syl x.spc w
    rw [causeWord_of_lt hd hy hc] at htook
    exact ⟨_, exec_trapEntry hrun .., htook.sepc, htook.scause, htook.sinfo, htook.th, htook.spc, htook.st, htook.run, htook.x, htook.f, htook.v, htook.mem⟩
  · have hrec := takeCause_recovers hth hr ((recovered_iff code).2 hc) detail syl x.spc w
    rw [causeWord_of_lt hd hy (by omega)] at hrec
    exact ⟨_, exec_trapEntry hrun .., hrec.st, hrec.th, hrec.sepc, hrec.scause, hrec.sinfo, hrec.recov, hrec.spc, hrec.run⟩
  · have hfail := takeCause_failsAt hth hn hg code detail syl x.spc w
    exact ⟨_, exec_trapEntry hrun .., hfail.due, hfail.strand, hfail.run, hfail.mem⟩
  · have hfail := takeCause_third hth hr ((recovered_iff code).2 hc) hn hg detail syl x.spc w
    exact ⟨_, exec_trapEntry hrun .., hfail.due, hfail.strand, hfail.run, hfail.mem⟩
  · refine ⟨_, exec_recoveryRewind hst hi hp hc, ?_⟩
    dsimp only [at_]
    rw [state_strand_setStrand_self]
    exact ⟨rfl, rfl, rfl, rfl, rfl, rfl, rfl, rfl⟩

end Sys2Proof.Machine
end

section
/-! Proofs about tasks and accesses that go on (R139, R261, R263, R264, R310, R313, R314, R333, R337): dispatch, the start of a task, refill, posted
accesses, fences, drops and rechecks. -/

set_option Elab.async false -- one proof at a time: many at once exhaust the memory of a build

namespace Sys2Proof.Machine

/-! ## Changes of towers alone (R308, R329) -/

/-- From s to u nothing but towers has changed. -/
def OnlyTowers (s u : State) : Prop := ∃ m, u = { s with towers := m }

namespace OnlyTowers

variable {s u : State}

theorem refl (s : State) : OnlyTowers s s := ⟨s.towers, rfl⟩

theorem modTower (h : OnlyTowers s u) (t : Nat) (f : Tower → Tower) : OnlyTowers s (u.modTower t f) := by
  obtain ⟨m, rfl⟩ := h
  exact ⟨_, rfl⟩

theorem modPool (h : OnlyTowers s u) (t p : Nat) (f : Pool → Pool) : OnlyTowers s (u.modPool t p f) := by
  unfold State.modPool
  split
  · exact h.modTower t _
  · exact h

theorem registerPool (h : OnlyTowers s u) (t p : Nat) : OnlyTowers s (u.registerPool t p) := by
  unfold State.registerPool
  split
  · exact h
  · refine foldl_keeps (fun a : State × Bool => OnlyTowers s a.1) _ (fun a n ha => ?_) _ h
    dsimp only
    split
    · exact ha
    · split
      · exact ha
      · split
        · exact ha
        · split
          · exact ha
          · exact (ha.modTower t _).modPool t p _

theorem mem (h : OnlyTowers s u) : u.mem = s.mem := by obtain ⟨m, rfl⟩ := h; rfl
theorem core (h : OnlyTowers s u) (k : Nat) : u.core k = s.core k := by obtain ⟨m, rfl⟩ := h; rfl
theorem strand (h : OnlyTowers s u) (k j : Nat) : u.strand k j = s.strand k j := by obtain ⟨m, rfl⟩ := h; rfl
theorem uid (h : OnlyTowers s u) : u.uid = s.uid := by obtain ⟨m, rfl⟩ := h; rfl
theorem now (h : OnlyTowers s u) : u.now = s.now := by obtain ⟨m, rfl⟩ := h; rfl

end OnlyTowers

/-! ## Dispatch (R313, R314) -/

/-- Record r of pool p as it is staged in cycle now. -/
def TaskRec.staged (r : TaskRec) (p now : Nat) : Staged :=
  { words := r.delivered, orig := r.orig, uid := r.uid, pool := p, guarded := bitOf (tCtl r.words) 6, stagedAt := now, bypass := r.bypass }

/-- The core with the words of r pushed into Q7 under ticket n, and z staged. -/
def Core.stage (c : Core) (n : Nat) (r : TaskRec) (z : Staged) : Core :=
  { c with q := mput c.q 7 (c.port 7 ++ r.delivered.map fun w => QEntry.mk n true w 4), staging := c.staging ++ [z] }

theorem stage_port (c : Core) (n : Nat) (r : TaskRec) (z : Staged) :
    (c.stage n r z).port 7 = c.port 7 ++ r.delivered.map fun w => QEntry.mk n true w 4 := mget_mput_self ..

/-- The state in which record r, staged as z, has been handed to core k. -/
def State.handOver (s : State) (k : Nat) (r : TaskRec) (z : Staged) : State :=
  { s.modCore k fun c => c.stage s.uid r z with uid := s.uid + 1 }

theorem handOver_core (s : State) (k : Nat) (r : TaskRec) (z : Staged) : (s.handOver k r z).core k = (s.core k).stage s.uid r z :=
  core_modCore_self s k fun c => c.stage s.uid r z

theorem taskDispatch_ends {t k p : Nat} {r : TaskRec} {q : List TaskRec} {s : State} (h : s.nextAssignment t = some (k, p, r, q)) :
    Ends (.taskDispatch t) s fun u => u.core k = (s.core k).stage s.uid r (r.staged p s.now) ∧ u.mem = s.mem := by
  have htower := ((OnlyTowers.refl s).modPool t p fun x => { x with queue := q }).modTower t fun y => { y with lastServed := k % 16, dispatchAt := s.now + 1 }
  have hnow := ((OnlyTowers.refl s).modPool t p fun x => { x with queue := q }).now
  have hexec : ∃ v, OnlyTowers s v ∧ exec (.taskDispatch t) s = .next ((v.handOver k r (r.staged p v.now)).registerPool t p) := by
    refine ⟨_, htower, ?_⟩
    show execTaskDispatch t s = _
    rw [← hnow]
    simp only [execTaskDispatch, h]
    rfl
  obtain ⟨v, hv, hexec⟩ := hexec
  have hreg := (OnlyTowers.refl (v.handOver k r (r.staged p v.now))).registerPool t p
  refine ⟨_, hexec, ?_, hreg.mem.trans hv.mem⟩
  rw [hreg.core, handOver_core, hv.core, hv.uid, hv.now]

/-! ## The start of a task (R139, R314) -/

theorem setTM_true_tm (x : Strand) : (x.setTM true).tm = true := by
  rw [Strand.tm, setTM_sst, bitOf, Nat.testBit_eq_decide_div_mod_eq, toNat_setBits _ _ (le_refl 31) (by decide), decide_eq_true_iff]
  simp only [Bool.toNat_true]
  omega

/-- The strand x as task z starts on it: at address a, first able to issue in cycle n. -/
def Strand.startTask (x : Strand) (z : Staged) (a : Word) (n : Nat) : Strand :=
  { ((x.setX 1 (z.words.getD 7 0)).setX 2 (tCtl z.words)).setTM true with
      spc := a
      startAt := n
      task := some { words := z.words, orig := z.orig, uid := z.uid, pool := z.pool, guarded := z.guarded, fill := x.rows.length, bypass := z.bypass } }

theorem setX_st (x : Strand) (n : Nat) (w : Word) : (x.setX n w).st = x.st := by
  unfold Strand.setX
  split <;> rfl

section
variable (x : Strand) (z : Staged) (a : Word) (n : Nat)

theorem startTask_getX (e : Nat) : (x.startTask z a n).getX e = ((x.setX 1 (z.words.getD 7 0)).setX 2 (tCtl z.words)).getX e := by
  show (((x.setX 1 (z.words.getD 7 0)).setX 2 (tCtl z.words)).setTM true).getX e = _
  rw [Strand.getX, setTM_x, ← Strand.getX]

theorem startTask_getX_one : (x.startTask z a n).getX 1 = z.words.getD 7 0 := by
  rw [startTask_getX, getX_setX_ne _ (by decide), getX_setX_self _ (by decide) (by decide)]

theorem startTask_getX_two : (x.startTask z a n).getX 2 = tCtl z.words := by
  rw [startTask_getX, getX_setX_self _ (by decide) (by decide)]

theorem startTask_tm : (x.startTask z a n).tm = true := setTM_true_tm _

theorem startTask_st : (x.startTask z a n).st = x.st := by
  show (((x.setX 1 (z.words.getD 7 0)).setX 2 (tCtl z.words)).setTM true).st = _
  rw [setTM_st, setX_st, setX_st]

end

theorem wake_strand (s : State) (k i n : Nat) : (s.wake k i n).strand k i = { s.strand k i with st := .ready, landFirst := true } :=
  strand_modStrand_self (s.dropWait k i n) k i fun x => { x with st := .ready, landFirst := true }

/-- The state in which task z of core k starts: it is staged no more, and the core has acquired at device scope (R292). -/
def State.unstaged (s : State) (k : Nat) (z : Staged) : State :=
  (s.modCore k fun c => { c with staging := c.staging.filter fun y => y.uid != z.uid }).acquire k

theorem taskStart_ends {t f j : Nat} {z : Staged} {s : State} (h : s.nextStart (16 * t + f) = some (j, z)) : Ends (.taskStart t f) s fun u =>
    ∃ x n, x.st = .ready ∧
      u.strand (16 * t + f) j = Strand.startTask x z ((s.unstaged (16 * t + f) z).spcAt (16 * t + f) (z.words.getD 0 0 &&& 0x1FFFFFFFFFFFFF0)) n := by
  generalize hk : 16 * t + f = k at h
  let v := s.unstaged k z
  let n := v.now + Config.pick v.freeCtr 14 % 14
  let w := ((v.wake k j 4).modStrand k j fun x => x.startTask z (v.spcAt k (z.words.getD 0 0 &&& 0x1FFFFFFFFFFFFF0)) n).spend
  have hexec : exec (.taskStart t f) s = .next (match w.poolOf k with | some (p, _) => w.registerPool t p | none => w) := by
    show execTaskStart t f s = _
    simp only [execTaskStart, hk, h]
    rfl
  have hst : ((v.wake k j 4).strand k j).st = .ready := by rw [wake_strand]
  have hw : w.strand k j = ((v.wake k j 4).strand k j).startTask z (v.spcAt k (z.words.getD 0 0 &&& 0x1FFFFFFFFFFFFF0)) n :=
    strand_modStrand_self (v.wake k j 4) k j fun x => x.startTask z (v.spcAt k (z.words.getD 0 0 &&& 0x1FFFFFFFFFFFFF0)) n
  clear_value w
  refine ⟨_, hexec, _, n, hst, ?_⟩
  split
  · exact (((OnlyTowers.refl w).registerPool t _).strand k j).trans hw
  · exact hw

/-! ## Refill (R310) -/

theorem exec_ringRefill {t p : Nat} {x : Pool} {h : TaskRec} {l : List TaskRec} {bs : List Byte} {po : Bool} {s : State} (hx : s.pool? t p = some x)
    (hq : x.queue.length < 32) (hd : x.refillAt ≤ s.now) (hdis : (s.tower t).discarding p = false) (hr : x.ringq = h :: l)
    (hmay : s.vmay x.job (x.ringAddr x.ringHead) 64 = true) (hv : s.vread x.job (x.ringAddr x.ringHead) 64 = .ok (bs, po)) :
    let v := (s.vfetch t x.job (x.ringAddr x.ringHead) 64).1
    let h' := if h.registered then h else { h with words := wordsOf 8 bs, delivered := wordsOf 8 bs }
    exec (.ringRefill t p) s = .next ((({ v with uid := v.uid + 1 } : State).setPool t p
      { x with ringq := l, ringHead := (x.ringHead + 1) % 2 ^ x.rlog, queue := x.queue ++ [h'.enter v], refillAt := v.now + 8 }).registerPool t p) := by
  show execRingRefill t p s = _
  simp only [execRingRefill, hx, hq, hd, hdis, hmay, hr, hv, Bool.not_false, and_self, if_true]

/-! ## Posted accesses (R261) -/

theorem exec_postedWritePerform {t f n : Nat} {e : SqEntry} {s : State} (h : (s.core (16 * t + f)).sq[n]? = some e) :
    exec (.postedWritePerform t f n) s = .next (if s.mayPerform (16 * t + f) e then s.performOne (16 * t + f) e else s) := by
  show execPostedWritePerform t f n s = _
  simp only [execPostedWritePerform, h]
  split <;> rfl

/-! ## Fences (R263, R264) -/

theorem exec_fenceActionsComplete {t f st : Nat} {m : FenceMark} {l : List FenceMark} {s : State} (h : (s.strand (16 * t + f) st).fences = m :: l)
    (hd : m.due ≤ s.now) : let a := s.fenceActs (16 * t + f) st m l
    exec (.fenceActionsComplete t f st) s = .next (if a.1.fenceClear (16 * t + f) st a.2 = true then
      (if 4 ≤ m.scope then a.1.acquire (16 * t + f) else a.1).modStrand (16 * t + f) st fun x => { x with fences := l } else a.1) := by
  intro a
  have hscope : a.2.scope = m.scope := by simp only [a, State.fenceActs]; split <;> rfl
  show execFenceActionsComplete t f st s = _
  simp only [execFenceActionsComplete, h, if_neg (Nat.not_lt.2 hd), a, hscope]
  split <;> rfl

/-- Below tower scope the actions of a fence are that its accesses leave the store queue. -/
theorem fenceActs_below_tower {m : FenceMark} (h : m.scope < 3) (s : State) (k st : Nat) (l : List FenceMark) :
    s.fenceActs k st m l = ((s.flush k st (m.names st)).modStrand k st fun x => { x with fences := m :: l }, m) := by
  simp only [State.fenceActs, decide_eq_false (show ¬ 3 ≤ m.scope by omega), Bool.false_and, Bool.false_eq_true, if_false,
    if_neg (show ¬ 4 ≤ m.scope by omega)]

theorem fenceActs_names (s : State) (k st : Nat) (m : FenceMark) (l : List FenceMark) : (s.fenceActs k st m l).2.names = m.names := by
  simp only [State.fenceActs]
  split <;> rfl

theorem fenceClear_waiting {s : State} {k st : Nat} {m : FenceMark} (h : s.fenceClear k st m = true) {e : SqEntry} (he : e ∈ s.waiting k) :
    m.names st e = false := by
  simp only [State.fenceClear, Bool.and_eq_true, Bool.not_eq_true', List.any_eq_false] at h
  obtain ⟨⟨⟨hw, -⟩, -⟩, -⟩ := h
  exact Bool.eq_false_iff.2 (hw e he)

/-! ## Drops and rechecks (R333, R337) -/

theorem exec_translationDropAck {t f st d : Nat} {s : State} (h : (s.strand (16 * t + f) st).xlinv = some d) (hd : d ≤ s.now) :
    exec (.translationDropAck t f st) s = .next (s.modStrand (16 * t + f) st fun x => { x with xlinv := none }) := by
  show execTranslationDropAck t f st s = _
  simp only [execTranslationDropAck, h, if_pos hd]

theorem towerErrs_mem (s : State) (t : Nat) (f : SramErr → Bool) : (s.towerErrs t f).1.mem = s.mem := by
  unfold State.towerErrs
  dsimp only
  split
  · rfl
  · rw [modTower_mem, bumpErrs_mem]

theorem homeFetch_mem (s : State) (t job pa n : Nat) : (s.homeFetch t job pa n).1.mem = s.mem := by
  unfold State.homeFetch
  split
  · rfl
  · unfold State.umbraErrs
    refine foldl_keeps (fun u : State => u.mem = s.mem) (fun u a => u.poisonBytes a 8) (fun u a hu => hu) _ ?_
    rw [towerErrs_mem, State.homeUse, hotCount_mem, umbraUse_mem]

theorem waitRecheck_ends {t f st : Nat} {w : Watch} {s : State} (hst : (s.strand (16 * t + f) st).st = .parked .watch)
    (hw : (s.strand (16 * t + f) st).watch = some w) (he : w.entered = false) (hr : region (w.line * 64) ≠ 1)
    (hmay : s.umbraMay (s.jobOf (16 * t + f)) (w.line * 64) 64 false = true) (hd : rdBytes s.mem (w.line * 64) 64 ≠ w.snap) :
    Ends (.waitRecheck t f st) s fun u =>
      (u.strand (16 * t + f) st).st = .ready ∧ (u.strand (16 * t + f) st).watch = some { w with triggered := true } := by
  have hexec : exec (.waitRecheck t f st) s = .next (((s.homeFetch t (s.jobOf (16 * t + f)) (w.line * 64) 64).1.setStrand (16 * t + f) st
      { s.strand (16 * t + f) st with recheckDue := false, st := .ready, landFirst := true, watch := some { w with triggered := true } }).spend) := by
    show execWaitRecheck t f st s = _
    have hdiff : (rdBytes (s.homeFetch t (s.jobOf (16 * t + f)) (w.line * 64) 64).1.mem (w.line * 64) 64 != w.snap) = true := by
      rw [homeFetch_mem]
      exact bne_iff_ne.2 hd
    simp only [execWaitRecheck, hst, hw, he, hmay, if_neg hr, hdiff, Bool.false_eq_true, if_false, if_true, and_self, Bool.not_false, Bool.not_true,
      Bool.and_false]
  refine ⟨_, hexec, ?_, ?_⟩ <;> rw [strand_spend, state_strand_setStrand_self]

/-- Settles O48: each event's own lemma above. -/
theorem tasksAndAccessesProceed : Obligations.TasksAndAccessesProceed := by
  unfold Obligations.TasksAndAccessesProceed
  intro t f st k n p r q s c
  refine ⟨fun h => ?_, fun z h => ?_, fun x h l bs hx hq hd hdis hr hmay po hv => exec_ringRefill hx hq hd hdis hr hmay hv, fun e he hmay => ?_,
    fun e he hmay => ?_, fun m l hm hd => ⟨fun hc => ?_, fun hc => ?_, fun hs => ?_, fun hc e he hst hu => ?_⟩, fun d hx hd => ?_,
    fun w hst hw he hr hmay hd => waitRecheck_ends hst hw he hr hmay hd⟩
  · obtain ⟨u, hu, hcore, hmem⟩ := taskDispatch_ends h
    refine ⟨u, hu, by rw [hcore]; exact stage_port .., r.staged p s.now, by rw [hcore]; rfl, rfl, rfl, rfl, rfl, hmem⟩
  · obtain ⟨u, hu, x, i, hst, hx⟩ := taskStart_ends h
    refine ⟨u, hu, ?_⟩
    dsimp only
    rw [hx]
    exact ⟨startTask_getX_one .., startTask_getX_two .., startTask_tm .., rfl, (startTask_st ..).trans hst, rfl⟩
  · rw [exec_postedWritePerform he, if_pos hmay]
  · rw [exec_postedWritePerform he, if_neg (Bool.eq_false_iff.1 hmay)]
  · exact (exec_fenceActionsComplete hm hd).trans (congrArg _ (if_pos hc))
  · exact (exec_fenceActionsComplete hm hd).trans (congrArg _ (if_neg (Bool.eq_false_iff.1 hc)))
  · rw [fenceActs_below_tower hs]
    rfl
  · have hnames := fenceClear_waiting hc he
    rw [fenceActs_names] at hnames
    simpa [FenceMark.names, hst, hu] using hnames
  · exact ⟨_, exec_translationDropAck hx hd, by rw [strand_modStrand_self], rfl⟩

end Sys2Proof.Machine
end

section
/-! Proofs about writes of registers by number (R128 to R137): what an issue otherwise leaves of its strand, fields of a word, and the write at its end. -/

set_option Elab.async false -- one proof at a time: many at once exhaust the memory of a build

namespace Sys2Proof.Machine

/-! ## The strand in an issue (R75, R80, R155) -/

/-- The opened group's strand differs in its restart record, its marks and the marks of results in flight. -/
theorem opened_strand (s : State) (i : Instr) : ∃ r n q l, (s.opened i).strand s.cur.core s.cur.strand =
    { s.strand s.cur.core s.cur.strand with restart := r, recov := n, seg := q, fresh := false, rewound := false, inflight := l } := by
  obtain ⟨r, n, q, h⟩ := noted_eq (s.strand s.cur.core s.cur.strand) s.cur
  rw [State.opened, openGroup_strand, h]
  exact ⟨_, _, _, _, rfl⟩

theorem opened_spcAt (s : State) (i : Instr) : (s.opened i).spcAt s.cur.core = s.spcAt s.cur.core := (AddsInflight.opened s i).spcAt

theorem bodyEnd_eq (x : Strand) (e : Word) (n : Nat) : ∃ m, (x.bodyEnd e n).1 = { x with lc := m } := by
  induction n generalizing x with
  | zero => exact ⟨_, rfl⟩
  | succ n ih =>
    simp only [Strand.bodyEnd]
    split
    · split
      · exact ⟨_, rfl⟩
      · obtain ⟨m, hm⟩ := ih (x.setLC n (x.getLC n - 1))
        exact ⟨m, hm⟩
    · exact ih x

/-- Where no loop that counts ends at bundle e, there is no decision (R155). -/
theorem bodyEnd_none {x : Strand} {e : Word} {n : Nat} (h : ∀ m, m < n → x.getLC m = 0 ∨ x.getLE m ≠ e) : x.bodyEnd e n = (x, none) := by
  induction n with
  | zero => rfl
  | succ n ih =>
    have hn : ¬ (x.getLC n ≠ 0 ∧ x.getLE n = e) := by
      rintro ⟨hc, he⟩
      exact (h n (Nat.lt_succ_self n)).elim hc (absurd he)
    rw [Strand.bodyEnd, if_neg hn]
    exact ih fun m hm => h m (Nat.lt_succ_of_lt hm)

/-- The way on changes loop counts and SPC alone. -/
theorem moved_eq (x : Strand) (c : GroupCtx) (f : Word → Word) : ∃ m pc, x.moved c f = { x with lc := m, spc := pc } := by
  obtain ⟨m, hm⟩ := bodyEnd_eq x c.bundle 4
  unfold Strand.moved
  split
  · split
    · rw [hm]
      exact ⟨_, _, rfl⟩
    · exact ⟨_, _, rfl⟩
  · split
    · rw [hm]
      exact ⟨_, _, rfl⟩
    · exact ⟨_, _, rfl⟩

theorem moved_spc_taken {x : Strand} {c : GroupCtx} {t : Word} (h : c.taken = some t) (f : Word → Word) : (x.moved c f).spc = f t := by
  simp only [Strand.moved, h]

theorem moved_spc_next {x : Strand} {c : GroupCtx} (ht : c.taken = none) (h3 : c.atS3 = false) (f : Word → Word) : (x.moved c f).spc = f c.next := by
  simp only [Strand.moved, ht, h3, Bool.false_eq_true, if_false]

/-! ## Fields of a word (R9) -/

theorem bits_setBits_self (x : Word) {hi lo : Nat} (v : Nat) (hlo : lo ≤ hi) (hhi : hi < 64) : bits (setBits x hi lo v) hi lo = v % 2 ^ (hi + 1 - lo) := by
  have hpow : 2 ^ (hi + 1) = 2 ^ lo * 2 ^ (hi + 1 - lo) := by rw [← pow_add]; congr 1; omega
  have hlow := Nat.mod_lt x.toNat (show 0 < 2 ^ lo by positivity)
  have hv := Nat.mod_lt v (show 0 < 2 ^ (hi + 1 - lo) by positivity)
  rw [bits, toNat_setBits x v hlo hhi, hpow]
  generalize x.toNat / _ = top
  generalize x.toNat % 2 ^ lo = low at *
  generalize v % _ = new at *
  have hsum : top * (2 ^ lo * 2 ^ (hi + 1 - lo)) + new * 2 ^ lo + low = low + 2 ^ lo * (new + 2 ^ (hi + 1 - lo) * top) := by ring
  rw [hsum, Nat.add_mul_div_left _ _ (by positivity), Nat.div_eq_of_lt hlow, Nat.zero_add, Nat.add_mul_mod_self_left, Nat.mod_eq_of_lt hv]

theorem bits_setBits_above (x : Word) {hi lo : Nat} (v : Nat) (hlo : lo ≤ hi) (hhi : hi < 64) {a b : Nat} (h : hi < b) :
    bits (setBits x hi lo v) a b = bits x a b := by
  have hpow : 2 ^ (hi + 1) = 2 ^ lo * 2 ^ (hi + 1 - lo) := by rw [← pow_add]; congr 1; omega
  have hb : 2 ^ b = 2 ^ (hi + 1) * 2 ^ (b - (hi + 1)) := by rw [← pow_add]; congr 1; omega
  have hlow := Nat.mod_lt x.toNat (show 0 < 2 ^ lo by positivity)
  have hv := Nat.mod_lt v (show 0 < 2 ^ (hi + 1 - lo) by positivity)
  have hfield : v % 2 ^ (hi + 1 - lo) * 2 ^ lo + x.toNat % 2 ^ lo < 2 ^ (hi + 1) :=
    calc v % 2 ^ (hi + 1 - lo) * 2 ^ lo + x.toNat % 2 ^ lo < (v % 2 ^ (hi + 1 - lo) + 1) * 2 ^ lo := by rw [Nat.add_one_mul]; omega
      _ ≤ 2 ^ (hi + 1 - lo) * 2 ^ lo := by gcongr; exact hv
      _ = 2 ^ (hi + 1) := by rw [hpow, Nat.mul_comm]
  rw [bits, bits, toNat_setBits x v hlo hhi, hb, ← Nat.div_div_eq_div_mul, ← Nat.div_div_eq_div_mul, Nat.add_assoc, Nat.mul_comm,
    Nat.mul_add_div (by positivity), Nat.div_eq_of_lt hfield, Nat.add_zero]

theorem bits_setBits_below (x : Word) {hi lo : Nat} (v : Nat) (hlo : lo ≤ hi) (hhi : hi < 64) {a b : Nat} (h : a < lo) (hb : b ≤ a) :
    bits (setBits x hi lo v) a b = bits x a b := by
  have hpow : 2 ^ (hi + 1) = 2 ^ lo * 2 ^ (hi + 1 - lo) := by rw [← pow_add]; congr 1; omega
  have hlow : (setBits x hi lo v).toNat % 2 ^ lo = x.toNat % 2 ^ lo := by
    rw [toNat_setBits x v hlo hhi, hpow]
    generalize x.toNat / _ = top
    generalize v % _ = new
    have hsum : top * (2 ^ lo * 2 ^ (hi + 1 - lo)) + new * 2 ^ lo + x.toNat % 2 ^ lo =
      x.toNat % 2 ^ lo + 2 ^ lo * (top * 2 ^ (hi + 1 - lo) + new) := by ring
    rw [hsum, Nat.add_mul_mod_self_left, Nat.mod_mod]
  have hfield (y : Nat) : y / 2 ^ b % 2 ^ (a + 1 - b) = y % 2 ^ lo / 2 ^ b % 2 ^ (a + 1 - b) := by
    have ha : 2 ^ (a + 1) = 2 ^ b * 2 ^ (a + 1 - b) := by rw [← pow_add]; congr 1; omega
    have hdvd : 2 ^ (a + 1) ∣ 2 ^ lo := pow_dvd_pow 2 h
    rw [← Nat.mod_mul_right_div_self, ← Nat.mod_mul_right_div_self, ← ha, Nat.mod_mod_of_dvd y hdvd]
  rw [bits, bits, hfield, hlow, ← hfield]

/-- A field copied from another word reads as it does there. -/
theorem bits_setBits_bits (x w : Word) {hi lo : Nat} (hlo : lo ≤ hi) (hhi : hi < 64) : bits (setBits x hi lo (bits w hi lo)) hi lo = bits w hi lo :=
  (bits_setBits_self x _ hlo hhi).trans (Nat.mod_mod _ _)

/-- What a write leaves of SCFG (R131). -/
theorem scfgWrite_fields (old w : Word) :
    bits (scfgWrite old w) 63 16 = bits old 63 16 ∧ bits (scfgWrite old w) 3 0 = bits old 3 0 ∧
      bits (scfgWrite old w) 15 15 = bits w 15 15 ∧ bits (scfgWrite old w) 11 10 = bits w 11 10 ∧
      bits (scfgWrite old w) 14 12 = (if bits w 14 12 ≤ 4 then bits w 14 12 else bits old 14 12) ∧
      bits (scfgWrite old w) 9 4 = (if acctCode (bits w 9 4) then bits w 9 4 else bits old 9 4) := by
  unfold scfgWrite
  by_cases hrnd : bits w 14 12 ≤ 4 <;> by_cases hacc : acctCode (bits w 9 4) = true <;>
    simp (disch := decide) only [hrnd, hacc, if_true, if_false, Bool.false_eq_true, bits_setBits_bits, bits_setBits_above, bits_setBits_below, and_self]

/-! ## Writes of registers by number (R128 to R137) -/

theorem sysWrite_cur (s : State) (k j n : Nat) (w : Word) : (s.sysWrite k j n w).cur = s.cur := by
  simp only [State.sysWrite, apply_ite State.cur, cur_modStrand, cur_modCore, ite_self]

section
variable (s : State) (k j : Nat) (w : Word)

theorem sysWrite_sst : s.sysWrite k j 1 w = s.modStrand k j fun x => { x with sst := sstWrite x.sst w } := rfl
theorem sysWrite_scfg : s.sysWrite k j 2 w = s.modStrand k j fun x => { x with scfg := scfgWrite x.scfg w } := rfl
theorem sysWrite_scause : s.sysWrite k j 3 w = s.modStrand k j fun x => { x with scause := w &&& 0xFFFF07 } := rfl
theorem sysWrite_sepc : s.sysWrite k j 4 w = s.modStrand k j fun x => { x with sepc := w &&& 0x1FFFFFFFFFFFFFC } := rfl
theorem sysWrite_sinfo : s.sysWrite k j 5 w = s.modStrand k j fun x => { x with sinfo := w } := rfl
theorem sysWrite_shv : s.sysWrite k j 6 w = s.modStrand k j fun x => { x with shv := w &&& 0xFFFFFFFFFFFFFFF0 } := rfl
theorem sysWrite_gtol : s.sysWrite k j 0x120 w = s.modCore k fun c => { c with gtol := w &&& 0xFFFFFFFF } := rfl

theorem sysWrite_ls {m : Nat} (h : m < 4) : s.sysWrite k j (0x10 + m) w = s.modStrand k j fun x => { x with ls := mput x.ls m w } := by
  unfold State.sysWrite
  iterate 6 rw [if_neg (by omega)]
  rw [if_pos (by omega), Nat.add_sub_cancel_left]

theorem sysWrite_le {m : Nat} (h : m < 4) : s.sysWrite k j (0x14 + m) w = s.modStrand k j fun x => { x with le := mput x.le m w } := by
  unfold State.sysWrite
  iterate 7 rw [if_neg (by omega)]
  rw [if_pos (by omega), Nat.add_sub_cancel_left]

theorem sysWrite_lc {m : Nat} (h : m < 4) : s.sysWrite k j (0x18 + m) w = s.modStrand k j fun x => x.setLC m (w.setWidth 32) := by
  unfold State.sysWrite
  iterate 8 rw [if_neg (by omega)]
  rw [if_pos (by omega), Nat.add_sub_cancel_left]

theorem sysWrite_bfmt {m : Nat} (h : m < 32) : s.sysWrite k j (0x100 + m) w =
    s.modCore k fun c => { c with bfmt := mput c.bfmt m (bfmtWrite (mget c.bfmt m 0) (w.setWidth 32)) } := by
  unfold State.sysWrite
  iterate 9 rw [if_neg (by omega)]
  rw [if_pos (by omega), Nat.add_sub_cancel_left]

/-- SPC, the pointers and their descriptors are not written by number (R136). -/
theorem sysWrite_readOnly {n : Nat} (h : n = 0 ∨ (0x30 ≤ n ∧ n < 0x60)) : s.sysWrite k j n w = s := by
  unfold State.sysWrite
  iterate 11 rw [if_neg (by omega)]

end

theorem sstWrite_eq (x w : Word) : sstWrite x w = setBits x 4 0 (w.toNat % 32) := by
  rw [sstWrite, bits, pow_zero, Nat.div_one]
  rfl

/-- A bank format that the model knows is written whole but for its reserved bits (R134). -/
theorem bfmtWrite_of_fmtOk {w : Word} (h : fmtOk (w.toNat % 64) = true) (old : Half) : bfmtWrite old (w.setWidth 32) = w.setWidth 32 &&& 0xFFFF00BF := by
  have hlow : (w.setWidth 32).toNat % 64 = w.toNat % 64 := by rw [BitVec.toNat_setWidth]; omega
  rw [bfmtWrite, hlow, if_pos h]
  generalize w.setWidth 32 = y
  rw [← BitVec.and_or_distrib_left]
  rfl

/-- The end of an issue with one write of a register by number. -/
theorem closeGroup_sysWrite {v : State} {n : Nat} {w : Word} (hg : v.cur.give = false) (hw : v.cur.sysw = [(n, w)]) (irr : Bool) :
    v.closeGroup irr = (((v.sysWrite v.cur.core v.cur.strand n w).modStrand v.cur.core v.cur.strand fun x =>
      { x with cIssue := x.cIssue + 1, fresh := irr }).modCore v.cur.core fun c => { c with issued := true, fills := [] }).spend := by
  simp only [State.closeGroup, hw, List.foldl_cons, List.foldl_nil, cur_modCore, cur_modStrand, sysWrite_cur, hg, Bool.false_eq_true, if_false]

/-- From s SYSWR of number n has written w, in state v in which the issue is otherwise over, and left u. -/
structure WritesSystem (s : State) (n : Nat) (w : Word) (v u : State) : Prop where
  strand : ∃ c b, u.strand s.cur.core s.cur.strand =
    { (v.sysWrite s.cur.core s.cur.strand n w).strand s.cur.core s.cur.strand with cIssue := c, fresh := b }
  core : ∃ x, u.core s.cur.core = { (v.sysWrite s.cur.core s.cur.strand n w).core s.cur.core with strands := x, issued := true, fills := [] }
  before : ∃ r n q l m pc, v.strand s.cur.core s.cur.strand = { s.strand s.cur.core s.cur.strand with
    restart := r, recov := n, seg := q, fresh := false, rewound := false, inflight := l, lc := m, spc := pc }
  spc : s.cur.atS3 = false → (v.strand s.cur.core s.cur.strand).spc = s.spcAt s.cur.core s.cur.next

theorem syswr_writes {g d n : Nat} {s : State} (hr : s.ready (.syswr g d n) = true) :
    ∃ v, Ends (.syswr g d n) s (WritesSystem s n ((s.opened (.syswr g d n)).xOp d) v) := by
  generalize hi : Instr.syswr g d n = i at *
  have hg : gopOf i s = some (gopSyswr g d n) := by rw [← hi]; rfl
  let o := s.opened i
  let u : State := { o with cur := { o.cur with sysw := o.cur.sysw ++ [(n, o.readX o.cur.core o.cur.strand d)] } }
  let v := (u.popReads s.cur.core (s.infoOf i).reads).advance
  have hexec : exec i s = .next (v.closeGroup (s.infoOf i).seals) := exec_ready hg hr rfl
  have hcur : v.cur = u.cur := (advance_cur _).trans (popReads_cur ..)
  have hclose := closeGroup_sysWrite (v := v) (n := n) (w := o.xOp d) (by rw [hcur]; rfl) (by rw [hcur]; rfl) (s.infoOf i).seals
  have hk : v.cur.core = s.cur.core := by rw [hcur]; rfl
  have hj : v.cur.strand = s.cur.strand := by rw [hcur]; rfl
  have hmoved : v.strand s.cur.core s.cur.strand = (o.strand s.cur.core s.cur.strand).moved u.cur (s.spcAt s.cur.core) := by
    have h := advance_strand (u.popReads s.cur.core (s.infoOf i).reads)
    rw [popReads_cur, show u.cur.core = s.cur.core from rfl, show u.cur.strand = s.cur.strand from rfl, popReads_strand, popReads_spcAt] at h
    exact h.trans (congrArg _ (opened_spcAt s i))
  rw [hk, hj] at hclose
  refine ⟨v, _, hexec.trans (congrArg _ hclose), ?_, ?_, ?_, ?_⟩
  · rw [strand_spend, strand_modCore_self]
    exact ⟨_, _, strand_modStrand_self ..⟩
  · rw [core_spend, core_modCore_self, core_modStrand_self]
    exact ⟨_, rfl⟩
  · obtain ⟨r, m, q, l, ho⟩ := opened_strand s i
    obtain ⟨c, pc, hm⟩ := moved_eq (o.strand s.cur.core s.cur.strand) u.cur (s.spcAt s.cur.core)
    rw [hmoved, hm, ho]
    exact ⟨_, _, _, _, _, _, rfl⟩
  · intro h3
    rw [hmoved]
    exact moved_spc_next (c := u.cur) rfl h3 _

/-- Settles O14: the write by number is the last thing that the issue of SYSWR does, and each register's rule says what it leaves. -/
theorem systemRegisterWrite : Obligations.SystemRegisterWrite := by
  unfold Obligations.SystemRegisterWrite
  intro g d n s hr k j w x sets
  obtain ⟨v, u, hu, ⟨c, b, hstrand⟩, ⟨y, hcore⟩, ⟨r, e, q, l, m, pc, hbefore⟩, hspc⟩ := syswr_writes hr
  change v.strand k j = _ at hbefore
  have hof {p : State → Prop} (h : p u) : Ends (.syswr g d n) s p := ⟨u, hu, h⟩
  have hwrite {z : Strand → Strand} {z' : Strand} (h : v.sysWrite k j n w = v.modStrand k j z) (hz : z (v.strand k j) = z') :
      u.strand k j = { z' with cIssue := c, fresh := b } := by
    rw [← hz, ← strand_modStrand_self v k j z, ← h]
    exact hstrand
  refine ⟨fun hn => hof ?_, fun hn => hof ?_, fun hn => hof ?_, fun hn => hof ?_, fun hn => hof ?_, fun hn => hof ?_,
    fun a ha => ⟨fun hn => hof ?_, fun hn => hof ?_, fun hn => hof ?_⟩, fun a ha hn => hof fun hf => ?_, fun hn => hof ?_, fun hn => hof ?_⟩
  · subst hn
    rw [hwrite (sysWrite_sst v k j w) rfl, hbefore]
    exact sstWrite_eq _ _
  · subst hn
    rw [hwrite (sysWrite_scfg v k j w) rfl, hbefore]
    exact scfgWrite_fields _ _
  · subst hn
    rw [hwrite (sysWrite_scause v k j w) rfl]
  · subst hn
    rw [hwrite (sysWrite_sepc v k j w) rfl]
  · subst hn
    rw [hwrite (sysWrite_sinfo v k j w) rfl]
  · subst hn
    rw [hwrite (sysWrite_shv v k j w) rfl]
  · subst hn
    rw [hwrite (sysWrite_ls v k j w ha) rfl]
    exact mget_mput_self ..
  · subst hn
    rw [hwrite (sysWrite_le v k j w ha) rfl]
    exact mget_mput_self ..
  · subst hn
    rw [hwrite (sysWrite_lc v k j w ha) rfl]
    exact mget_mput_self ..
  · subst hn
    change u.core k = _ at hcore
    rw [hcore, show v.sysWrite s.cur.core s.cur.strand _ _ = _ from sysWrite_bfmt v k j w ha, core_modCore_self]
    exact (mget_mput_self ..).trans (bfmtWrite_of_fmtOk hf _)
  · subst hn
    change u.core k = _ at hcore
    rw [hcore, show v.sysWrite s.cur.core s.cur.strand 0x120 w = _ from sysWrite_gtol v k j w, core_modCore_self]
  · change u.strand k j = _ at hstrand
    rw [show v.sysWrite s.cur.core s.cur.strand n _ = v from sysWrite_readOnly v k j w hn] at hstrand
    rw [hstrand]
    refine ⟨?_, ?_, hspc⟩ <;> rw [show v.strand s.cur.core s.cur.strand = _ from hbefore]

end Sys2Proof.Machine
end

section
/-! Proofs about software traps, returns and the end of a strand (R133, R170, R171, R174). -/

set_option Elab.async false -- one proof at a time: many at once exhaust the memory of a build

namespace Sys2Proof.Machine

/-! ## Software traps (R170) -/

theorem holdGroup_softTrap (s : State) (k j : Nat) (c3 : Bool) (d : Nat) :
    s.holdGroup k j c3 [(0, .cause 0x06 d 0)] = ((s.modCore k fun c => { c with fills := [] }).takeSoftTrap k j d 0 c3).spend := rfl

/-- Where no loop ends at the group's bundle, a software trap is the trap of cause 0x06, and the group after it a restart point. -/
theorem takeSoftTrap_taken {s : State} {k j : Nat} (hth : (s.strand k j).th = false)
    (hb : s.cur.atS3 = true → (s.strand k j).bodyEnd s.cur.bundle 4 = (s.strand k j, none)) (d p : Nat) (c3 : Bool) :
    s.takeSoftTrap k j d p c3 = ((s.setStrand k j { s.strand k j with fresh := true }).takeTrap k j 0x06 d p s.cur.start (s.spcAt k s.cur.next)).modStrand k j
      fun z => { z with undo := some ((s.strand k j).undoAt s.now) } := by
  have hbody : (if s.cur.atS3 && !c3 then (s.strand k j).bodyEnd s.cur.bundle 4 else (s.strand k j, none)) = (s.strand k j, none) := by
    split
    · next h => exact hb (Bool.and_eq_true_iff.1 h).1
    · rfl
  simp only [State.takeSoftTrap, hbody, hth, Bool.false_eq_true, if_false, Option.getD_none]

theorem setStrand_spcAt (s : State) (k j : Nat) (x : Strand) : (s.setStrand k j x).spcAt k = s.spcAt k :=
  spcAt_congr rfl rfl rfl rfl (by rw [core_setStrand]; rfl)

theorem takeSoftTrap_strand {s : State} {k j : Nat} (hth : (s.strand k j).th = false)
    (hb : s.cur.atS3 = true → (s.strand k j).bodyEnd s.cur.bundle 4 = (s.strand k j, none)) (d p : Nat) (c3 : Bool) :
    (s.takeSoftTrap k j d p c3).strand k j =
      { ({ s.strand k j with fresh := true }.noteCause 0x06 d p s.cur.start (s.spcAt k s.cur.next)).setTH true with
        spc := s.spcAt k ((s.strand k j).shv &&& 0xFFFFFFFFFFFFFFF0), st := .ready, landFirst := true, cTrpc := (s.strand k j).cTrpc + 1
        undo := some ((s.strand k j).undoAt s.now) } := by
  rw [takeSoftTrap_taken hth hb, strand_modStrand_self, takeTrap_strand _ _ _ _ _ _ _ _ (by rw [state_strand_setStrand_self]; exact hth),
    setStrand_spcAt, state_strand_setStrand_self]

theorem takeSoftTrap_run {s : State} {k j : Nat} (hth : (s.strand k j).th = false)
    (hb : s.cur.atS3 = true → (s.strand k j).bodyEnd s.cur.bundle 4 = (s.strand k j, none)) (d p : Nat) (c3 : Bool) :
    ((s.takeSoftTrap k j d p c3).core k).run = none := by
  rw [takeSoftTrap_taken hth hb, core_modStrand_self, takeTrap_taken _ _ _ _ _ _ _ _ (by rw [state_strand_setStrand_self]; exact hth), giveUp_core_self]
  rfl

theorem takeSoftTrap_mem {s : State} {k j : Nat} (hth : (s.strand k j).th = false)
    (hb : s.cur.atS3 = true → (s.strand k j).bodyEnd s.cur.bundle 4 = (s.strand k j, none)) (d p : Nat) (c3 : Bool) :
    (s.takeSoftTrap k j d p c3).mem = s.mem := by
  rw [takeSoftTrap_taken hth hb, modStrand_mem, takeTrap_mem, setStrand_mem]

/-- Settles O15: TRAP meets its cause as an operation, and its group is held by it. -/
theorem softwareTrap : Obligations.SoftwareTrap := by
  unfold Obligations.SoftwareTrap
  intro g n s hr hn hth hbody
  generalize hv : (s.modCore s.cur.core fun c => { c with fills := [] }) = v
  have hvcur : v.cur = s.cur := by rw [← hv]; rfl
  have hvmem : v.mem = s.mem := by rw [← hv]; rfl
  have hvstrand : v.strand s.cur.core s.cur.strand = s.strand s.cur.core s.cur.strand := by rw [← hv]; exact strand_modCore_self ..
  have hvspc : v.spcAt s.cur.core = s.spcAt s.cur.core := by rw [← hv]; exact spcAt_congr rfl rfl rfl rfl (by rw [core_modCore_self])
  have hexec := exec_ready_error (g := gopTrap g n) rfl hr rfl
  rw [holdGroup_softTrap, hv] at hexec
  have hvth : (v.strand s.cur.core s.cur.strand).th = false := by rw [hvstrand]; exact hth
  have hvbody : v.cur.atS3 = true →
      (v.strand s.cur.core s.cur.strand).bodyEnd v.cur.bundle 4 = (v.strand s.cur.core s.cur.strand, none) := by
    rw [hvcur, hvstrand]
    exact fun h3 => bodyEnd_none (hbody h3)
  refine ⟨_, hexec, ?_⟩
  dsimp only
  rw [strand_spend, core_spend, spend_mem, takeSoftTrap_run hvth hvbody, takeSoftTrap_mem hvth hvbody, takeSoftTrap_strand hvth hvbody,
    hvstrand, hvspc, hvcur, hvmem]
  have hscause : causeWord 0x06 n 0 = BitVec.ofNat 64 (0x060000 + n * 256) := causeWord_of_lt hn (by decide) (by decide)
  refine ⟨?_, ?_, setTH_true_th _, ?_⟩
  · rfl
  · exact hscause
  · unfold Strand.setTH
    generalize setBits _ 30 30 _ = w
    exact ⟨rfl, rfl, rfl, rfl, rfl, rfl, rfl, rfl, rfl, rfl, rfl, rfl, rfl⟩

/-! ## Returns (R171) -/

/-- The effect of ERET under TH. -/
def State.returns (s : State) : State :=
  { s.modStrand s.cur.core s.cur.strand fun x => x.setTH false with cur := { s.cur with taken := some s.me.sepc, eret := true } }

theorem returns_strand (s : State) : s.returns.strand s.cur.core s.cur.strand = (s.strand s.cur.core s.cur.strand).setTH false :=
  strand_modStrand_self s s.cur.core s.cur.strand fun x => x.setTH false

theorem returns_core (s : State) : s.returns.core s.cur.core = (s.core s.cur.core).setStrand s.cur.strand ((s.strand s.cur.core s.cur.strand).setTH false) :=
  core_modStrand_self s s.cur.core s.cur.strand fun x => x.setTH false

theorem returns_spcAt (s : State) : s.returns.spcAt s.cur.core = s.spcAt s.cur.core := modStrand_spcAt s s.cur.core s.cur.strand fun x => x.setTH false

theorem eret_op {s : State} (h : s.cur.th = true) (g : Nat) : (gopEret g).op s = .ok s.returns := if_pos h

theorem eret_op_error {s : State} (h : s.cur.th = false) (g : Nat) : (gopEret g).op s = .error (.cause 0x07 1 0) := if_neg (by rw [h]; decide)

theorem eret_returns {g : Nat} {s : State} (hr : s.ready (.eret g) = true) (hth : (s.strand s.cur.core s.cur.strand).th = true) :
    Ends (.eret g) s fun u =>
      (u.strand s.cur.core s.cur.strand).spc = s.spcAt s.cur.core (s.strand s.cur.core s.cur.strand).sepc ∧
      (u.strand s.cur.core s.cur.strand).sst = setBits (s.strand s.cur.core s.cur.strand).sst 30 30 0 ∧ (u.core s.cur.core).gap = 1 ∧
      (u.core s.cur.core).run = (s.core s.cur.core).run ∧ (u.strand s.cur.core s.cur.strand).x = (s.strand s.cur.core s.cur.strand).x := by
  generalize hi : Instr.eret g = i at *
  have hg : gopOf i s = some (gopEret g) := by rw [← hi]; rfl
  have hexec := exec_ready hg hr (eret_op (s := s.opened i) hth g)
  obtain ⟨r, n, q, l, ho⟩ := opened_strand s i
  have hreturns : (s.opened i).returns.strand s.cur.core s.cur.strand = ((s.opened i).strand s.cur.core s.cur.strand).setTH false := returns_strand (s.opened i)
  have hspc : (s.opened i).returns.spcAt s.cur.core = s.spcAt s.cur.core := (returns_spcAt (s.opened i)).trans (opened_spcAt s i)
  have hrun : ((s.opened i).returns.core s.cur.core).run = (s.core s.cur.core).run :=
    (congrArg Core.run (returns_core (s.opened i))).trans (AddsInflight.opened s i).run
  have hstrand := after_strand (s := s) (u := (s.opened i).returns) (i := i) rfl rfl rfl rfl
  obtain ⟨e, st, hcore⟩ := after_core (s := s) (u := (s.opened i).returns) (i := i) rfl rfl rfl rfl
  have hpc := moved_spc_taken (x := (s.opened i).returns.strand s.cur.core s.cur.strand) (c := (s.opened i).returns.cur) rfl ((s.opened i).returns.spcAt s.cur.core)
  obtain ⟨m, pc, hmoved⟩ := moved_eq ((s.opened i).returns.strand s.cur.core s.cur.strand) (s.opened i).returns.cur ((s.opened i).returns.spcAt s.cur.core)
  have hsepc : (s.opened i).me.sepc = (s.strand s.cur.core s.cur.strand).sepc := by
    rw [State.me]
    exact (congrArg Strand.sepc ho :)
  refine ⟨_, hexec, ?_, ?_, ?_, ?_, ?_⟩
  · rw [hstrand]
    refine hpc.trans ?_
    rw [hspc]
    exact congrArg (s.spcAt s.cur.core) hsepc
  · rw [hstrand, hmoved, hreturns, ho]
    rfl
  · rw [hcore]
    rfl
  · rw [hcore]
    exact hrun
  · rw [hstrand, hmoved]
    refine (congrArg Strand.x hreturns).trans ?_
    rw [setTH_x, ho]

/-! ## The end of a strand (R39, R174) -/

/-- The issuing strand at its EXIT: its row sealed, its watch disarmed, inactive. -/
def Strand.ended (x : Strand) : Strand := { x with watch := none, st := .inactive, rown := x.rown + 1 }

/-- The state in which the issuing strand has ended. -/
def State.endStrand (s : State) : State :=
  (s.disarm s.cur.core s.cur.strand).modStrand s.cur.core s.cur.strand fun x => { x with st := .inactive, rown := x.rown + 1 }

/-- The gang of the issuing strand with the time at which a strand of it last ended. -/
def State.noteEnd (s : State) : State :=
  match (s.core s.cur.core).gang with | some n => s.modGang n fun g => { g with lastAt := s.now } | none => s

/-- The effect of EXIT outside task mode. -/
def State.exits (s : State) : State := { s.endStrand.noteEnd with cur := { s.endStrand.noteEnd.cur with give := true } }

theorem exit_op {s : State} (h : s.cur.tm = false) (g : Nat) : (gopExit g).op s = .ok s.exits := if_neg (by rw [h]; decide)

theorem exit_op_error {s : State} (h : s.cur.tm = true) (g : Nat) : (gopExit g).op s = .error (.cause 0x07 2 0) := if_pos h

theorem noteEnd_eq (s : State) : ∃ m, s.noteEnd = { s with gangs := m } := by
  unfold State.noteEnd State.modGang
  split
  · split
    · exact ⟨_, rfl⟩
    · exact ⟨s.gangs, rfl⟩
  · exact ⟨s.gangs, rfl⟩

theorem exits_cur (s : State) : s.exits.cur = { s.cur with give := true } := by
  obtain ⟨m, h⟩ := noteEnd_eq s.endStrand
  rw [State.exits, h]
  rfl

theorem disarm_strand (s : State) (k j : Nat) : (s.disarm k j).strand k j = { s.strand k j with watch := none } :=
  strand_modStrand_self (s.dropWait k j 1) k j fun x => { x with watch := none }

theorem endStrand_strand (s : State) : s.endStrand.strand s.cur.core s.cur.strand = (s.strand s.cur.core s.cur.strand).ended := by
  rw [State.endStrand, strand_modStrand_self, disarm_strand]
  rfl

theorem exits_strand (s : State) : s.exits.strand s.cur.core s.cur.strand = (s.strand s.cur.core s.cur.strand).ended := by
  obtain ⟨m, h⟩ := noteEnd_eq s.endStrand
  rw [State.exits, h]
  exact endStrand_strand s

/-- The strand that an issue without SYSWR leaves, when it gives up the slot (R34). -/
theorem after_gives_strand {s u : State} {i : Instr} (hk : u.cur.core = s.cur.core) (hj : u.cur.strand = s.cur.strand) (hg : u.cur.give = true)
    (hw : u.cur.sysw = []) : ∃ n b, (s.after i u).strand s.cur.core s.cur.strand =
      let y := (u.strand s.cur.core s.cur.strand).moved u.cur (u.spcAt s.cur.core)
      { y with cIssue := n, fresh := b, st := if y.st = .running then .ready else y.st, landFirst := true } := by
  have hc : ((u.popReads s.cur.core (s.infoOf i).reads).advance).cur = u.cur := (advance_cur _).trans (popReads_cur ..)
  have hs := advance_strand (u.popReads s.cur.core (s.infoOf i).reads)
  rw [popReads_cur, hk, hj, popReads_strand, popReads_spcAt] at hs
  rw [← hs]
  simp only [State.after, State.closeGroup, hc, hg, hw, List.foldl_nil, strand_spend, cur_modCore, cur_modStrand, if_true, hk, hj, giveUp_strand,
    strand_modStrand_self]
  rw [strand_modCore_self, core_modStrand_self]
  simp only [Core.strand, Core.setStrand, mget_mput_self]
  exact ⟨_, _, rfl⟩

theorem after_gives_run {s u : State} {i : Instr} (hk : u.cur.core = s.cur.core) (hj : u.cur.strand = s.cur.strand) (hg : u.cur.give = true)
    (hw : u.cur.sysw = []) : ((s.after i u).core s.cur.core).run = none := by
  have hc : ((u.popReads s.cur.core (s.infoOf i).reads).advance).cur = u.cur := (advance_cur _).trans (popReads_cur ..)
  simp only [State.after, State.closeGroup, hc, hg, hw, List.foldl_nil, core_spend, cur_modCore, cur_modStrand, if_true, hk, hj, giveUp_core_self]

theorem exit_ends {g : Nat} {s : State} (hr : s.ready (.exit g) = true) (htm : (s.strand s.cur.core s.cur.strand).tm = false) :
    Ends (.exit g) s fun u =>
      (u.strand s.cur.core s.cur.strand).st = .inactive ∧ (u.strand s.cur.core s.cur.strand).rown = (s.strand s.cur.core s.cur.strand).rown + 1 ∧
      (u.strand s.cur.core s.cur.strand).watch = none ∧ (u.strand s.cur.core s.cur.strand).x = (s.strand s.cur.core s.cur.strand).x ∧
      (u.core s.cur.core).run = none := by
  generalize hi : Instr.exit g = i at *
  have hg : gopOf i s = some (gopExit g) := by rw [← hi]; rfl
  have hexec := exec_ready hg hr (exit_op (s := s.opened i) htm g)
  have hcur := exits_cur (s.opened i)
  have hk : (s.opened i).exits.cur.core = s.cur.core := by rw [hcur]; rfl
  have hj : (s.opened i).exits.cur.strand = s.cur.strand := by rw [hcur]; rfl
  have hgive : (s.opened i).exits.cur.give = true := by rw [hcur]
  have hsysw : (s.opened i).exits.cur.sysw = [] := by rw [hcur]; rfl
  obtain ⟨c, b, hstrand⟩ := after_gives_strand (i := i) hk hj hgive hsysw
  obtain ⟨m, pc, hmoved⟩ := moved_eq ((s.opened i).exits.strand s.cur.core s.cur.strand) (s.opened i).exits.cur ((s.opened i).exits.spcAt s.cur.core)
  obtain ⟨r, n, q, l, ho⟩ := opened_strand s i
  have hends : (s.opened i).exits.strand s.cur.core s.cur.strand = ((s.opened i).strand s.cur.core s.cur.strand).ended := exits_strand (s.opened i)
  rw [hmoved, hends, ho] at hstrand
  refine ⟨_, hexec, ?_, ?_, ?_, ?_, after_gives_run hk hj hgive hsysw⟩ <;> rw [hstrand] <;> rfl

/-- Settles O16: under TH, or outside task mode, the operation has its effect; else it meets cause 0x07. -/
theorem returnAndExit : Obligations.ReturnAndExit := by
  unfold Obligations.ReturnAndExit
  intro g s k j x
  have htraps {i : Instr} {o : GOp} {d : Nat} (hg : gopOf i s = some o) (hr : s.ready i = true) (hth : x.th = false)
      (ho : o.op (s.opened i) = .error (.cause 0x07 d 0)) :
      Ends i s fun u => (u.strand k j).sepc = s.cur.start ∧ (u.strand k j).scause = causeWord 0x07 d 0 ∧ (u.strand k j).th = true := by
    have htook := holdGroup_tookTrap (s := s) (l := [(0, .cause 0x07 d 0)]) rfl rfl rfl (by decide) (by decide) hth o.info.c3
    exact ⟨_, exec_ready_error hg hr ho, htook.sepc, htook.scause, htook.th⟩
  exact ⟨eret_returns, fun hr hth => htraps rfl hr hth (eret_op_error hth g), exit_ends, fun hr htm hth => htraps rfl hr hth (exit_op_error htm g)⟩

end Sys2Proof.Machine
end

section
/-! Proofs about reads of system registers and counters, NOP and CMPT (R76, R136, R169, R172, R173, R351, R353, R354). The statement O13 about them rests
on a free value: it has SYSRD deliver a pointer or descriptor as the strand holds it, where the model lets a result that crosses a landing point show in it
or not (R76, log entry 9). The two theorems at the end make that exact: the statement follows where the free value is always the old one, and it implies
that it is. -/

set_option Elab.async false -- one proof at a time: many at once exhaust the memory of a build

namespace Sys2Proof.Machine

/-! ## What an instruction does, from its operation -/

theorem does_of_op {i : Instr} {o : GOp} {e : State → State} (hg : ∀ s, gopOf i s = some o) (he : ∀ s, o.op s = .ok (e s)) : Does i e :=
  fun s hr => exec_ready (hg s) hr (he _)

theorem doesWhen_of_op {i : Instr} {o : GOp} {c : State → Prop} {e : State → State} (hg : ∀ s, gopOf i s = some o) (he : ∀ s, c s → o.op s = .ok (e s)) :
    DoesWhen i c e :=
  fun s hr hc => exec_ready (hg s) hr (he _ hc)

/-! ## Registers by number (R136, R169) -/

theorem sysrd_does (g d n : Nat) : Does (.sysrd g d n) fun o => o.gives (.x d) 2 (.w (o.sysRead o.cur.core o.cur.strand n)) :=
  does_of_op (fun _ => rfl) fun _ => rfl

section
variable (s : State) (k i : Nat)

theorem sysRead_ls {m : Nat} (h : m < 4) : s.sysRead k i (0x10 + m) = (s.strand k i).getLS m := by
  unfold State.sysRead
  iterate 7 rw [if_neg (by omega)]
  rw [if_pos (by omega), Nat.add_sub_cancel_left]

theorem sysRead_le {m : Nat} (h : m < 4) : s.sysRead k i (0x14 + m) = (s.strand k i).getLE m := by
  unfold State.sysRead
  iterate 8 rw [if_neg (by omega)]
  rw [if_pos (by omega), Nat.add_sub_cancel_left]

theorem sysRead_lc {m : Nat} (h : m < 4) : s.sysRead k i (0x18 + m) = ((s.strand k i).getLC m).zeroExtend 64 := by
  unfold State.sysRead
  iterate 9 rw [if_neg (by omega)]
  rw [if_pos (by omega), Nat.add_sub_cancel_left]

theorem sysRead_a {m : Nat} (h : m < 16) : s.sysRead k i (0x30 + m) = s.readA k i m := by
  unfold State.sysRead
  iterate 10 rw [if_neg (by omega)]
  rw [if_pos (by omega), Nat.add_sub_cancel_left]

theorem sysRead_am_fst {m : Nat} (h : m < 16) : s.sysRead k i (0x40 + m) = (s.readAM k i m).1 := by
  unfold State.sysRead
  iterate 11 rw [if_neg (by omega)]
  rw [if_pos (by omega), Nat.add_sub_cancel_left]

theorem sysRead_am_snd {m : Nat} (h : m < 16) : s.sysRead k i (0x50 + m) = (s.readAM k i m).2 := by
  unfold State.sysRead
  iterate 12 rw [if_neg (by omega)]
  rw [if_pos (by omega), Nat.add_sub_cancel_left]

theorem sysRead_bfmt {m : Nat} (h : m < 32) : s.sysRead k i (0x100 + m) = (mget (s.core k).bfmt m 0).zeroExtend 64 := by
  unfold State.sysRead
  iterate 13 rw [if_neg (by omega)]
  rw [if_pos (by omega), Nat.add_sub_cancel_left]

/-- Where the free value of a landing point is the old one, a register reads as it stands (R76). -/
theorem view_of_old {r : Reg} (h : Config.oldOrNew s.freeCtr r.code = false) : s.view k i r = s.strand k i := by
  unfold State.view
  extract_lets x hits
  split
  · rfl
  · rw [h, if_neg Bool.false_ne_true]

end

/-! ## Counters (R351, R353) -/

theorem cntRead_eq (s : State) (k i n : Nat) : s.cntRead k i n =
    if 0x800 ≤ n ∧ n ≠ 0xFFF then (match (s.strand k i).snap with | some m => mget m (n - 0x800) 0 | none => 0) else s.counter false k i n := by
  rw [State.cntRead]
  exact if_congr and_comm rfl rfl

theorem cntrd_does (g d n : Nat) : Does (.cntrd g d n) fun o => o.gives (.x d) 2 (.w (o.cntRead o.cur.core o.cur.strand n)) :=
  does_of_op (fun _ => rfl) fun _ => rfl

theorem cntrdc_does (g d n : Nat) : Does (.cntrdc g d n) fun o =>
    (o.gives (.x d) 2 (.w (o.cntRead o.cur.core o.cur.strand n))).gives (.x (d + 1)) 2 (.w (BitVec.ofNat 64 o.now)) :=
  does_of_op (fun _ => rfl) fun o => by
    have hcur : (o.result o.cur.core o.cur.strand (.x d) 2 (.w (o.cntRead o.cur.core o.cur.strand n))).cur = o.cur := result_cur ..
    rw [State.gives, State.gives, hcur]
    rfl

/-! ## CMPT (R172) -/

theorem mod_two_pow_eq {n a b : Nat} (h : ∀ i, i < n → a.testBit i = b.testBit i) : a % 2 ^ n = b % 2 ^ n := by
  refine Nat.eq_of_testBit_eq fun i => ?_
  rw [Nat.testBit_mod_two_pow, Nat.testBit_mod_two_pow]
  by_cases hi : i < n
  · rw [h i hi]
  · rw [decide_eq_false hi, Bool.false_and, Bool.false_and]

theorem cmpt_x_does (g a b : Nat) : DoesWhen (.cmpt g 0 a b) (fun o => o.xOp a = o.xOp b) fun o => o :=
  doesWhen_of_op (fun _ => rfl) fun _ h => if_pos (beq_iff_eq.2 h)

theorem cmpt_f_does (g a b : Nat) : DoesWhen (.cmpt g 1 a b) (fun o => o.fOp a = o.fOp b) fun o => o :=
  doesWhen_of_op (fun _ => rfl) fun _ h => if_pos (beq_iff_eq.2 h)

theorem cmpt_v_does (g a b : Nat) :
    DoesWhen (.cmpt g 2 a b) (fun o => ∀ i, i < 8 * o.me.rowb → (o.vOp a).toNat.testBit i = (o.vOp b).toNat.testBit i) fun o => o :=
  doesWhen_of_op (fun _ => rfl) fun _ h => if_pos (beq_iff_eq.2 (mod_two_pow_eq h))

/-! ## How far O13 goes -/

/-- The statement O13 holds where no read of a pointer or descriptor that crosses a landing point shows the new value. -/
theorem registerAndCounterReads_of_old
    (h : ∀ c k, k < 16 → Config.oldOrNew c (Reg.a k).code = false ∧ Config.oldOrNew c (Reg.am k).code = false) : Obligations.RegisterAndCounterReads := by
  have hread {g d n m : Nat} {f : State → Word} (hf : ∀ o : State, o.sysRead o.cur.core o.cur.strand m = f o) (hn : n = m) :
      Does (.sysrd g d n) fun o => o.gives (.x d) 2 (.w (f o)) := by
    subst hn
    rw [← funext hf]
    exact sysrd_does g d n
  have ha {k : Nat} (hk : k < 16) (o : State) : o.view o.cur.core o.cur.strand (.a k) = o.me := view_of_old o _ _ (h _ k hk).1
  have ham {k : Nat} (hk : k < 16) (o : State) : o.view o.cur.core o.cur.strand (.am k) = o.me := view_of_old o _ _ (h _ k hk).2
  unfold Obligations.RegisterAndCounterReads
  refine ⟨fun g d n => ⟨hread fun _ => rfl, hread fun _ => rfl, hread fun _ => rfl, hread fun _ => rfl, hread fun _ => rfl, hread fun _ => rfl,
    hread fun _ => rfl, fun k hk => ⟨hread fun o => sysRead_ls o _ _ hk, hread fun o => sysRead_le o _ _ hk, hread fun o => sysRead_lc o _ _ hk⟩,
    fun k hk => ⟨hread fun o => ?_, hread fun o => ?_, hread fun o => ?_⟩, fun k hk => hread fun o => sysRead_bfmt o _ _ hk, hread fun _ => rfl⟩,
    fun g d n a b => ⟨?_, ?_, does_of_op (fun _ => rfl) fun _ => rfl, does_of_op (fun _ => rfl) fun _ => rfl, cmpt_x_does g a b, cmpt_f_does g a b,
      cmpt_v_does g a b⟩⟩
  · rw [sysRead_a o _ _ hk, State.readA, ha hk]
  · rw [sysRead_am_fst o _ _ hk, State.readAM, ham hk]
  · rw [sysRead_am_snd o _ _ hk, State.readAM, ham hk]
  · have hdoes := cntrd_does g d n
    simp only [cntRead_eq] at hdoes
    exact hdoes
  · have hdoes := cntrdc_does g d n
    simp only [cntRead_eq] at hdoes
    exact hdoes

/-- A strand whose A0 has the value 1 on its way as its marked group begins; the counter of free values stands at c. -/
def crossing (c : Nat) : State :=
  { State.reset.setStrand 0 0 { inflight := [{ dest := .a 0, left := 1, val := .w 1 }] } with cur := { marked := true }, freeCtr := c }

theorem crossing_ready (c : Nat) : (crossing c).ready (.sysrd 0 1 0x30) = true := rfl

/-- What the model reads of A0 there: 1 where the free value is the new one, else the 0 that the strand holds. -/
theorem crossing_sysRead (c : Nat) :
    ((crossing c).opened (.sysrd 0 1 0x30)).sysRead 0 0 0x30 = if Config.oldOrNew c (Reg.a 0).code = true then 1 else 0 := by
  generalize ho : (crossing c).opened (.sysrd 0 1 0x30) = o
  have hview : o.view 0 0 (.a 0) = if Config.oldOrNew c (Reg.a 0).code = true then (o.strand 0 0).setA 0 1 else o.strand 0 0 := by
    subst ho
    rfl
  have hold : (o.strand 0 0).getA 0 = 0 := by
    subst ho
    rfl
  refine (sysRead_a o 0 0 (m := 0) (by decide)).trans ?_
  rw [State.readA, hview]
  split
  · exact getA_setA_self _ 0 1
  · exact hold

/-- The results of one issue tell what it delivered. -/
theorem after_gives_inj {s : State} {i : Instr} {d : Nat} {v w : Val}
    (h : s.after i ((s.opened i).gives (.x d) 2 v) = s.after i ((s.opened i).gives (.x d) 2 w)) : v = w := by
  have hinflight (z : Val) : ((s.after i ((s.opened i).gives (.x d) 2 z)).strand s.cur.core s.cur.strand).inflight.map Landing.lands =
      ((s.opened i).strand s.cur.core s.cur.strand).inflight.map Landing.lands ++ [(.x d, 2, z)] := by
    have hcur : ((s.opened i).gives (.x d) 2 z).cur = (s.opened i).cur := result_cur ..
    have hadds : AddsInflight s.cur.core s.cur.strand [(.x d, 2, z)] (s.opened i) ((s.opened i).gives (.x d) 2 z) := .result (s.opened i) ..
    generalize (s.opened i).gives (.x d) 2 z = u at hcur hadds ⊢
    have hkeeps : u.cur.core = s.cur.core ∧ u.cur.strand = s.cur.strand ∧ u.cur.give = false ∧ u.cur.sysw = [] := by
      rw [hcur]
      exact ⟨rfl, rfl, rfl, rfl⟩
    obtain ⟨hk, hj, hgive, hsysw⟩ := hkeeps
    obtain ⟨m, pc, hmoved⟩ := moved_eq (u.strand s.cur.core s.cur.strand) u.cur (u.spcAt s.cur.core)
    rw [after_strand hk hj hgive hsysw, hmoved]
    exact hadds.inflight
  have hlists := (hinflight v).symm.trans ((congrArg (fun u : State => (u.strand s.cur.core s.cur.strand).inflight.map Landing.lands) h).trans (hinflight w))
  have hlast := List.append_cancel_left hlists
  injection hlast with hlast
  injection hlast with _ hlast
  injection hlast with _ hlast

/-- The statement O13 implies that the free value of R76 is always the old one for A0, which the model leaves open. -/
theorem oldOrNew_of_registerAndCounterReads (h : Obligations.RegisterAndCounterReads) (c : Nat) : Config.oldOrNew c (Reg.a 0).code = false := by
  obtain ⟨-, -, -, -, -, -, -, -, ha, -, -⟩ := h.1 0 1 0x30
  have hasks := (ha 0 (by decide)).1 rfl (crossing c) (crossing_ready c)
  have hdoes := sysrd_does 0 1 0x30 (crossing c) (crossing_ready c)
  have hval := Val.w.inj (after_gives_inj (Host.Outcome.next.inj (hdoes.symm.trans hasks)))
  have hread : (if Config.oldOrNew c (Reg.a 0).code = true then 1 else 0 : Word) = 0 := (crossing_sysRead c).symm.trans hval
  by_contra hnew
  rw [if_pos (Bool.eq_true_of_not_eq_false hnew)] at hread
  exact absurd hread (by decide)

end Sys2Proof.Machine
end

section
/-! Proofs about integer operations, predicates and compares (R145 to R150). First what the numbers of the operations are, as words; then one lemma
for each form of operation, which says what an instruction of that form gives. -/

set_option Elab.async false -- one proof at a time: many at once exhaust the memory of a build

namespace Sys2Proof.Machine

/-! ## Words of numbers (R145) -/

theorem wInt_toInt (x : Word) : wInt x.toInt = x := BitVec.ofInt_toInt

theorem w64_toNat (x : Word) : w64 x.toNat = x := by rw [w64, BitVec.ofNat_toNat, BitVec.setWidth_eq]

theorem sub_eq_wInt (x y : Word) : x - y = wInt (x.toInt - y.toInt) := by
  rw [wInt, Int.sub_eq_add_neg, BitVec.ofInt_add, BitVec.ofInt_neg, BitVec.ofInt_toInt, BitVec.ofInt_toInt, BitVec.sub_eq_add_neg]

theorem and_eq_w64 (x y : Word) : x &&& y = w64 (x.toNat &&& y.toNat) := by
  rw [w64, BitVec.ofNat_and, ← w64, ← w64, w64_toNat, w64_toNat]

theorem or_eq_w64 (x y : Word) : x ||| y = w64 (x.toNat ||| y.toNat) := by
  rw [w64, BitVec.ofNat_or, ← w64, ← w64, w64_toNat, w64_toNat]

theorem xor_eq_w64 (x y : Word) : x ^^^ y = w64 (x.toNat ^^^ y.toNat) := by
  rw [w64, BitVec.ofNat_xor, ← w64, ← w64, w64_toNat, w64_toNat]

theorem mul_eq_w64 (x y : Word) : x * y = w64 (x.toNat * y.toNat) := by
  rw [w64, BitVec.ofNat_mul, ← w64, ← w64, w64_toNat, w64_toNat]

theorem add_wInt (x : Word) (v : Int) : x + wInt v = wInt (x.toInt + v) := by rw [wInt, wInt, BitVec.ofInt_add, BitVec.ofInt_toInt]

theorem mul_wInt (x : Word) (v : Int) : x * wInt v = wInt (x.toInt * v) := by rw [wInt, wInt, BitVec.ofInt_mul, BitVec.ofInt_toInt]

theorem shiftLeft_eq_w64 (x : Word) (n : Nat) : x <<< n = w64 (x.toNat * 2 ^ n) :=
  BitVec.eq_of_toNat_eq (by rw [BitVec.toNat_shiftLeft, Nat.shiftLeft_eq, w64, BitVec.toNat_ofNat])

theorem ushiftRight_eq_w64 (x : Word) (n : Nat) : x >>> n = w64 (x.toNat / 2 ^ n) := by
  rw [← w64_toNat (x >>> n), BitVec.toNat_ushiftRight, Nat.shiftRight_eq_div_pow]

theorem sshiftRight_eq_wInt (x : Word) (n : Nat) : x.sshiftRight n = wInt (x.toInt / ((2 ^ n : Nat) : Int)) := by
  rw [BitVec.sshiftRight_eq, Int.shiftRight_eq_div_pow, wInt]

theorem rotateLeft_mod (x : Word) (n : Nat) : x.rotateLeft (n % 64) = x <<< (n % 64) ||| x >>> (64 - n % 64) := by
  rw [BitVec.rotateLeft_def, Nat.mod_mod]

theorem signed2_min (x y : Word) : signed2 min x y = if y.toInt < x.toInt then y else x := by
  rw [signed2, min_comm, min_def_lt, apply_ite wInt, wInt_toInt, wInt_toInt]

theorem signed2_max (x y : Word) : signed2 max x y = if x.toInt < y.toInt then y else x := by
  rw [signed2, max_def_lt, apply_ite wInt, wInt_toInt, wInt_toInt]

theorem w64_min (x y : Word) : w64 (min x.toNat y.toNat) = if y.toNat < x.toNat then y else x := by
  rw [min_comm, min_def_lt, apply_ite w64, w64_toNat, w64_toNat]

theorem w64_max (x y : Word) : w64 (max x.toNat y.toNat) = if x.toNat < y.toNat then y else x := by
  rw [max_def_lt, apply_ite w64, w64_toNat, w64_toNat]

theorem sInt_eq_bmod (n v : Nat) : sInt (n + 1) v = Int.bmod v (2 ^ (n + 1)) := by
  have hhalf : (((2 ^ (n + 1) : Nat) : Int) + 1) / 2 = ((2 ^ n : Nat) : Int) := by rw [pow_succ]; omega
  rw [Int.bmod_def, hhalf, ← Int.natCast_mod, sInt, Nat.add_sub_cancel]
  exact if_congr Int.ofNat_lt.symm rfl rfl

theorem sInt_toNat (x : Word) : sInt 64 x.toNat = x.toInt := by rw [sInt_eq_bmod, BitVec.toInt_eq_toNat_bmod]

/-! ## Counts and orders of bits (R145) -/

theorem bitLen_eq_size (n : Nat) : bitLen n = n.size := by
  unfold bitLen
  split
  · next h => rw [h, Nat.size_zero]
  · next h => exact le_antisymm (Nat.lt_size.2 (Nat.log2_self_le h)) (Nat.size_le.2 Nat.lt_log2_self)

/-- The first place where p holds has as many places before it as the longest run where p fails. -/
theorem getD_find_range (n : Nat) (p : Nat → Bool) : ((List.range n).find? p).getD n = ((List.range n).takeWhile fun i => !p i).length := by
  rcases h : (List.range n).find? p with _ | i
  · rw [List.takeWhile_eq_self_iff.2 fun i hi => List.find?_range_eq_none.1 h i (List.mem_range.1 hi), List.length_range, Option.getD_none]
  · obtain ⟨hp, before, after, hsplit, hbefore⟩ := List.find?_eq_some_iff_append.1 h
    have hlt : before.length < n := by
      have hlength := congrArg List.length hsplit
      rw [List.length_range, List.length_append, List.length_cons] at hlength
      omega
    have hat : (List.range n)[before.length]? = some i := by rw [hsplit]; simp
    have hlen : before.length = i := Option.some.inj ((List.getElem?_range hlt).symm.trans hat)
    rw [hsplit, List.takeWhile_append_of_pos hbefore, List.takeWhile_cons_of_neg (by simpa using hp), List.append_nil, hlen, Option.getD_some]

theorem brevK_succ (k x : Nat) : brevK (k + 1) x = 2 * brevK k x + (x.testBit k).toNat := by
  rw [brevK, List.range_succ, List.foldl_append, ← brevK, List.foldl_cons, List.foldl_nil, mul_comm, Nat.toNat_testBit]

theorem testBit_brevK (k x i : Nat) : (brevK k x).testBit i = (decide (i < k) && x.testBit (k - 1 - i)) := by
  induction k generalizing i with
  | zero => simp [brevK]
  | succ k ih =>
    rw [brevK_succ, ← Nat.bit_val]
    cases i with
    | zero => simp
    | succ i => rw [Nat.testBit_bit_succ, ih, show k + 1 - 1 - (i + 1) = k - 1 - i by omega]; simp

theorem w64_brevK (x : Word) : w64 (brevK 64 x.toNat) = x.reverse := by
  refine BitVec.eq_of_getLsbD_eq fun i hi => ?_
  rw [w64, BitVec.getLsbD_ofNat, testBit_brevK, BitVec.getLsbD_reverse, BitVec.getMsbD, BitVec.getLsbD, decide_eq_true hi, Bool.true_and]

theorem clz64_eq (x : Word) : clz64 x = 64 - x.toNat.size := by rw [clz64, bitLen_eq_size]

theorem ctz64_eq (x : Word) : ctz64 x = ((List.range 64).takeWhile fun i => !x.toNat.testBit i).length := getD_find_range 64 _

theorem popc64_eq (x : Word) : popc64 x = (List.range 64).countP fun i => x.toNat.testBit i := List.countP_eq_length_filter.symm

/-! ## Quotients (R146) -/

theorem quotLen_eq (sgn : Bool) (x y : Word) : quotLen sgn x y = quoBits sgn x y := by
  unfold quotLen quoBits
  cases sgn <;> simp only [bitLen_eq_size, if_true, if_false, Bool.false_eq_true]

theorem cdiv_two (n : Nat) : cdiv n 2 = (n + 1) / 2 := rfl

/-! ## Conditions (R149) -/

theorem condInt_eq (cc : Cond) (x y : Word) : condInt 64 cc x.toNat y.toNat = holdsInt cc x y := by
  rw [Bool.eq_iff_iff]
  cases cc
  case lt | ge | le | gt => simp only [condInt, holdsInt, sInt_toNat]
  case eq | ne => simp [condInt, holdsInt, BitVec.toNat_inj]
  case bs | bc => simp [condInt, holdsInt, ← BitVec.toNat_inj]
  case ltu | geu | leu | gtu | un | or => rfl

/-! ## Forms of operation (R65) -/

theorem opRRR_does {i : Instr} {g d a b l : Nat} {f h : Word → Word → Word} (hg : ∀ s, gopOf i s = some (gopTwo g d a b l f)) (hf : ∀ x y, f x y = h x y) :
    Does i fun o => o.gives (.x d) l (.w (h (o.xOp a) (o.xOp b))) :=
  does_of_op hg fun o => by rw [← hf]; rfl

theorem opRR_does {i : Instr} {g d a l : Nat} {f h : Word → Word} (hg : ∀ s, gopOf i s = some (gopImm g d a l f)) (hf : ∀ x, f x = h x) :
    Does i fun o => o.gives (.x d) l (.w (h (o.xOp a))) :=
  does_of_op hg fun o => by rw [← hf]; rfl

theorem divide_op (o : State) (g d a b : Nat) (sgn rem : Bool) : (gopDivide g d a b sgn rem).op o =
    .ok (o.owes (.x d) (6 + (quoBits sgn (o.xOp a) (o.xOp b) + 1) / 2)
      (.w (if rem then (quoRem sgn (o.xOp a) (o.xOp b)).2 else (quoRem sgn (o.xOp a) (o.xOp b)).1)) 0) := by
  rw [← quotLen_eq, ← cdiv_two]
  rfl

/-- The pair of a compare: the condition to P[2k], its negation to P[2k + 1] (R149, R151). -/
def State.givesPair (s : State) (k l : Nat) (c : Bool) (fl : BitVec 5) : State := (s.givesFl (.p (2 * k)) l (.b c) fl).gives (.p (2 * k + 1)) l (.b !c)

theorem writePair_eq (s : State) (k l : Nat) (c : Bool) (fl : BitVec 5) :
    writePair s s.cur.core s.cur.strand k l c fl = s.givesPair k l c fl := by
  have hcur : (s.givesFl (.p (2 * k)) l (.b c) fl).cur = s.cur := result_cur ..
  rw [State.givesPair, State.gives, hcur]
  rfl

/-- Settles O1: each operation has one of two forms, and its number is that of its rule. -/
theorem integerTwoOperandsAndDivision : Obligations.IntegerTwoOperandsAndDivision := by
  unfold Obligations.IntegerTwoOperandsAndDivision
  constructor
  · intro g d a b gives
    have two {i : Instr} {l : Nat} {f h : Word → Word → Word} (hg : ∀ s, gopOf i s = some (gopTwo g d a b l f)) (hf : ∀ x y, f x y = h x y) : gives i l h :=
      opRRR_does hg hf
    clear_value gives -- from here on its instances are told apart by their arguments alone
    exact ⟨two (fun _ => rfl) BitVec.add_def, two (fun _ => rfl) sub_eq_wInt, two (fun _ => rfl) and_eq_w64, two (fun _ => rfl) or_eq_w64,
      two (fun _ => rfl) xor_eq_w64, two (fun _ => rfl) fun _ _ => rfl, two (fun _ => rfl) fun x _ => shiftLeft_eq_w64 x _,
      two (fun _ => rfl) fun x _ => ushiftRight_eq_w64 x _, two (fun _ => rfl) fun x _ => sshiftRight_eq_wInt x _,
      two (fun _ => rfl) fun x y => rotateLeft_mod x y.toNat, two (fun _ => rfl) mul_eq_w64, two (fun _ => rfl) fun _ _ => rfl,
      two (fun _ => rfl) fun _ _ => rfl, two (fun _ => rfl) signed2_min, two (fun _ => rfl) signed2_max, two (fun _ => rfl) w64_min,
      two (fun _ => rfl) w64_max⟩
  · intro g d a b gives
    exact ⟨does_of_op (fun _ => rfl) fun o => divide_op o g d a b true false, does_of_op (fun _ => rfl) fun o => divide_op o g d a b false false,
      does_of_op (fun _ => rfl) fun o => divide_op o g d a b true true, does_of_op (fun _ => rfl) fun o => divide_op o g d a b false true⟩

/-- Settles O2: the same for the operations on one register; SEL and the constants by their operations. -/
theorem integerOneOperandAndConstants : Obligations.IntegerOneOperandAndConstants := by
  unfold Obligations.IntegerOneOperandAndConstants
  constructor
  · intro g d a n v gives imm
    have one {i : Instr} {l : Nat} {f h : Word → Word} (hg : ∀ s, gopOf i s = some (gopImm g d a l f)) (hf : ∀ x, f x = h x) : gives i l h :=
      opRR_does hg hf
    clear_value gives -- as above
    exact ⟨one (fun _ => rfl) fun x => congrArg w64 (clz64_eq x), one (fun _ => rfl) fun x => congrArg w64 (ctz64_eq x),
      one (fun _ => rfl) fun x => congrArg w64 (popc64_eq x), one (fun _ => rfl) w64_brevK, one (fun _ => rfl) fun x => congrArg wInt (sInt_eq_bmod n _),
      one (fun _ => rfl) fun _ => rfl, one (fun _ => rfl) fun x => add_wInt x v, one (fun _ => rfl) fun _ => rfl, one (fun _ => rfl) fun _ => rfl,
      one (fun _ => rfl) fun _ => rfl, one (fun _ => rfl) fun x => shiftLeft_eq_w64 x _, one (fun _ => rfl) fun x => ushiftRight_eq_w64 x _,
      one (fun _ => rfl) fun x => sshiftRight_eq_wInt x _, one (fun _ => rfl) fun x => mul_wInt x v, one (fun _ => rfl) fun x => signed2_min x imm,
      one (fun _ => rfl) fun x => signed2_max x imm⟩
  · intro g d a b k data h v
    exact ⟨does_of_op (fun _ => rfl) fun _ => rfl, does_of_op (fun _ => rfl) fun _ => rfl, does_of_op (fun _ => rfl) fun _ => rfl⟩

/-- Settles O3: a compare writes its pair, a predicate operation its function. -/
theorem comparesAndPredicates : Obligations.ComparesAndPredicates := by
  unfold Obligations.ComparesAndPredicates
  constructor
  · intro g k a b v cc pair
    have compare {i : Instr} {o : GOp} {y : State → Word} (hg : ∀ s, gopOf i s = some o)
        (ho : ∀ s : State, o.op s = .ok (writePair s s.cur.core s.cur.strand k 1 (condInt 64 cc (s.xOp a).toNat (y s).toNat) 0)) :
        Does i fun s => pair s (holdsInt cc (s.xOp a) (y s)) :=
      does_of_op hg fun s => by rw [ho, writePair_eq, condInt_eq]; rfl
    clear_value pair
    exact ⟨compare (y := fun s => s.xOp b) (fun _ => rfl) fun _ => rfl, compare (y := fun _ => wInt v) (fun _ => rfl) fun _ => rfl⟩
  · intro g d a b gives
    exact ⟨does_of_op (fun _ => rfl) fun _ => rfl, does_of_op (fun _ => rfl) fun _ => rfl, does_of_op (fun _ => rfl) fun _ => rfl,
      does_of_op (fun _ => rfl) fun _ => rfl, does_of_op (fun _ => rfl) fun _ => rfl, does_of_op (fun _ => rfl) fun _ => rfl⟩

end Sys2Proof.Machine
end

section
/-! Proofs about hardware loops (R154 to R156): the registers of a level, the decision at the end of a body, the exit of a level, and the issue of the
operations that start and leave a loop. -/

set_option Elab.async false -- one proof at a time: many at once exhaust the memory of a build

namespace Sys2Proof.Machine

/-! ## Registers of a level (R154) -/

@[simp] theorem getLC_setLC_self (x : Strand) (n : Nat) (v : Half) : (x.setLC n v).getLC n = v := mget_mput_self ..
theorem getLC_setLC_ne (x : Strand) {m n : Nat} (v : Half) (h : m ≠ n) : (x.setLC n v).getLC m = x.getLC m := mget_mput_ne _ _ _ h
@[simp] theorem getLS_setLC (x : Strand) (m n : Nat) (v : Half) : (x.setLC n v).getLS m = x.getLS m := rfl
@[simp] theorem getLE_setLC (x : Strand) (m n : Nat) (v : Half) : (x.setLC n v).getLE m = x.getLE m := rfl

/-- The three registers of a level (R154). -/
def Strand.setLoop (x : Strand) (lvl : Nat) (ls le : Word) (n : Half) : Strand :=
  { x with ls := mput x.ls lvl ls, le := mput x.le lvl le, lc := mput x.lc lvl n }

section
variable (x : Strand) (lvl : Nat) (ls le : Word) (n : Half)

theorem setLoop_self : (x.setLoop lvl ls le n).getLS lvl = ls ∧ (x.setLoop lvl ls le n).getLE lvl = le ∧ (x.setLoop lvl ls le n).getLC lvl = n :=
  ⟨mget_mput_self .., mget_mput_self .., mget_mput_self ..⟩

variable {lvl} in
theorem setLoop_ne {m : Nat} (h : m ≠ lvl) : (x.setLoop lvl ls le n).getLC m = x.getLC m ∧ (x.setLoop lvl ls le n).getLE m = x.getLE m :=
  ⟨mget_mput_ne _ _ _ h, mget_mput_ne _ _ _ h⟩

end

/-- Strand x has the loop registers of y, and goes on where y does. -/
structure Strand.loopsAs (x y : Strand) : Prop where
  ls : x.getLS = y.getLS
  le : x.getLE = y.getLE
  lc : x.getLC = y.getLC
  spc : x.spc = y.spc

/-- An issue opens with the loop registers as they are. -/
theorem opened_loops (s : State) (i : Instr) :
    ((s.opened i).strand s.cur.core s.cur.strand).getLS = (s.strand s.cur.core s.cur.strand).getLS ∧
      ((s.opened i).strand s.cur.core s.cur.strand).getLE = (s.strand s.cur.core s.cur.strand).getLE ∧
      ((s.opened i).strand s.cur.core s.cur.strand).getLC = (s.strand s.cur.core s.cur.strand).getLC := by
  obtain ⟨r, n, q, l, h⟩ := opened_strand s i
  rw [h]
  exact ⟨rfl, rfl, rfl⟩

/-! ## The end of a body (R155) -/

/-- A level that the decision passes over: no body of it ends here, or it is exhausted. -/
def Strand.passes (x : Strand) (e : Word) (n : Nat) : Prop := ¬ (x.getLC n ≠ 0 ∧ x.getLE n = e) ∨ x.getLC n = 1

theorem bodyEnd_succ_of_passes {x : Strand} {e : Word} {n : Nat} (h : x.passes e n) :
    ∃ c, x.bodyEnd e (n + 1) = { x with lc := c }.bodyEnd e n ∧ ∀ m, m ≠ n → Strand.getLC { x with lc := c } m = x.getLC m := by
  by_cases hends : x.getLC n ≠ 0 ∧ x.getLE n = e
  · have hone : x.getLC n = 1 := h.resolve_left (not_not.2 hends)
    refine ⟨mput x.lc n 0, ?_, fun m hm => getLC_setLC_ne x 0 hm⟩
    rw [Strand.bodyEnd, if_pos hends, hone]
    exact if_neg (not_not.2 (getLC_setLC_self ..))
  · refine ⟨x.lc, ?_, fun _ _ => rfl⟩
    rw [Strand.bodyEnd, if_neg hends]

/-- Where every level is passed over, the strand falls through. -/
theorem bodyEnd_of_passes {x : Strand} {e : Word} {n : Nat} (h : ∀ m, m < n → x.passes e m) : (x.bodyEnd e n).2 = none := by
  induction n generalizing x with
  | zero => rfl
  | succ n ih =>
    obtain ⟨c, hstep, hkeep⟩ := bodyEnd_succ_of_passes (h n (Nat.lt_succ_self n))
    rw [hstep]
    refine ih fun m hm => ?_
    rw [Strand.passes, hkeep m (Nat.ne_of_lt hm)]
    exact h m (Nat.lt_succ_of_lt hm)

/-- The highest level that is not passed over counts down and sends the strand back. -/
theorem bodyEnd_back {x : Strand} {e : Word} {m n : Nat} (hm : m < n) (hends : x.getLC m ≠ 0 ∧ x.getLE m = e) (hone : x.getLC m ≠ 1)
    (habove : ∀ h, m < h → h < n → x.passes e h) :
    (x.bodyEnd e n).2 = some (x.getLS m) ∧ (x.bodyEnd e n).1.getLC m = x.getLC m - 1 := by
  induction n generalizing x with
  | zero => exact absurd hm (Nat.not_lt_zero m)
  | succ n ih =>
    rcases Nat.lt_succ_iff_lt_or_eq.1 hm with hlt | rfl
    · obtain ⟨c, hstep, hkeep⟩ := bodyEnd_succ_of_passes (habove n hlt (Nat.lt_succ_self n))
      have hcount := hkeep m (Nat.ne_of_lt hlt)
      rw [hstep, ← hcount]
      refine ih hlt (by rw [hcount]; exact hends) (by rw [hcount]; exact hone) fun h hmh hhn => ?_
      rw [Strand.passes, hkeep h (Nat.ne_of_lt hhn)]
      exact habove h hmh (Nat.lt_succ_of_lt hhn)
    · have hleft : (x.setLC m (x.getLC m - 1)).getLC m ≠ 0 := by
        rw [getLC_setLC_self]
        exact fun hz => hone (eq_of_sub_eq_zero hz)
      rw [Strand.bodyEnd, if_pos hends]
      dsimp only
      rw [if_pos hleft]
      exact ⟨rfl, getLC_setLC_self ..⟩

/-- Where no lower level that counts ends at the loop's last bundle, the exit goes on after it (R156). -/
theorem exitLoop_none {x : Strand} {lvl : Nat} (h : ∀ m, m < lvl → x.getLC m = 0 ∨ x.getLE m ≠ x.getLE lvl) :
    x.exitLoop lvl = (x.setLC lvl 0, x.getLE lvl + 16) := by
  have hbody : (x.setLC lvl 0).bodyEnd (x.getLE lvl) lvl = (x.setLC lvl 0, none) :=
    bodyEnd_none fun m hm => by rw [getLC_setLC_ne x 0 (Nat.ne_of_lt hm), getLE_setLC]; exact h m hm
  rw [Strand.exitLoop, getLE_setLC, hbody]
  rfl

/-! ## The way on (R75, R155) -/

theorem moved_of_bodyEnd_none {x : Strand} {c : GroupCtx} (ht : c.taken = none) (h : x.bodyEnd c.bundle 4 = (x, none)) (f : Word → Word) :
    x.moved c f = { x with spc := f c.next } := by
  rw [Strand.moved, ht]
  dsimp only
  rw [h]
  exact ite_self _

theorem moved_atS3 {x : Strand} {c : GroupCtx} (ht : c.taken = none) (h3 : c.atS3 = true) (f : Word → Word) :
    x.moved c f = { (x.bodyEnd c.bundle 4).1 with spc := f ((x.bodyEnd c.bundle 4).2.getD c.next) } := by
  rw [Strand.moved, ht]
  exact if_pos h3

/-! ## Issues that start or leave a loop -/

theorem ready_bad {s : State} {i : Instr} (h : s.ready i = true) : (s.infoOf i).bad = none := by
  simp only [State.ready, Bool.and_eq_true, List.isEmpty_iff, encBad, List.append_eq_nil_iff, List.filterMap_eq_nil_iff] at h
  obtain ⟨⟨⟨⟨⟨⟨-, ⟨⟨⟨⟨⟨hbad, -⟩, -⟩, -⟩, -⟩, -⟩⟩, -⟩, -⟩, -⟩, -⟩, -⟩ := h
  exact Option.map_eq_none_iff.1 (hbad (_, 0) (List.mem_singleton_self _))

section
variable (s : State) (lvl n e : Nat)

theorem leaveLoop_strand : (s.leaveLoop lvl).strand s.cur.core s.cur.strand = ((s.strand s.cur.core s.cur.strand).exitLoop lvl).1 :=
  state_strand_setStrand_self ..

theorem leaveLoop_cur : (s.leaveLoop lvl).cur = { s.cur with taken := some ((s.strand s.cur.core s.cur.strand).exitLoop lvl).2, eret := false } := rfl

theorem leaveLoop_spcAt : (s.leaveLoop lvl).spcAt s.cur.core = s.spcAt s.cur.core := setStrand_spcAt s _ _ _

/-- The registers of the level, before a count of zero leaves it. -/
def State.armLoop : State :=
  s.modStrand s.cur.core s.cur.strand fun x =>
    x.setLoop lvl (s.firstOf s.cur.core (s.cur.bundle + 16)) (s.cur.bundle + w64 (16 * e)) (BitVec.ofNat 32 n)

theorem armLoop_strand : (s.armLoop lvl n e).strand s.cur.core s.cur.strand =
    (s.strand s.cur.core s.cur.strand).setLoop lvl (s.firstOf s.cur.core (s.cur.bundle + 16)) (s.cur.bundle + w64 (16 * e)) (BitVec.ofNat 32 n) :=
  strand_modStrand_self ..

theorem armLoop_cur : (s.armLoop lvl n e).cur = s.cur := rfl

theorem armLoop_spcAt : (s.armLoop lvl n e).spcAt s.cur.core = s.spcAt s.cur.core := modStrand_spcAt s _ _ _

theorem startLoop_zero : s.startLoop lvl 0 e = (s.armLoop lvl 0 e).leaveLoop lvl := rfl

theorem startLoop_pos {n : Nat} (h : n ≠ 0) : s.startLoop lvl n e = s.armLoop lvl n e := if_neg h

end

/-- The issue of an operation that goes on without a transfer: its strand's loop registers and way on are those of the strand moved on. -/
theorem issue_goesOn {i : Instr} {s u : State} {g : GOp} (hg : gopOf i s = some g) (hr : s.ready i = true) (hop : g.op (s.opened i) = .ok u)
    (hcur : u.cur = (s.opened i).cur) (hspc : u.spcAt s.cur.core = s.spcAt s.cur.core) :
    Ends i s fun v => (v.strand s.cur.core s.cur.strand).loopsAs ((u.strand s.cur.core s.cur.strand).moved (s.opened i).cur (s.spcAt s.cur.core)) ∧
      (v.core s.cur.core).gap = (u.core s.cur.core).gap := by
  have hkeeps : u.cur.core = s.cur.core ∧ u.cur.strand = s.cur.strand ∧ u.cur.give = false ∧ u.cur.sysw = [] ∧ u.cur.taken = none := by
    rw [hcur]
    exact ⟨rfl, rfl, rfl, rfl, rfl⟩
  obtain ⟨hk, hj, hgive, hsysw, htaken⟩ := hkeeps
  obtain ⟨q, st, hcore⟩ := after_core (i := i) hk hj hgive hsysw
  refine ⟨_, exec_ready hg hr hop, ?_, ?_⟩
  · rw [after_strand hk hj hgive hsysw, hspc, hcur]
    exact ⟨rfl, rfl, rfl, rfl⟩
  · rw [hcore, htaken]
    rfl

/-- The issue of an operation that leaves a level. -/
theorem issue_leavesLoop {i : Instr} {s u : State} {g : GOp} {lvl : Nat} (hg : gopOf i s = some g) (hr : s.ready i = true)
    (hop : g.op (s.opened i) = .ok (u.leaveLoop lvl)) (hcur : u.cur = (s.opened i).cur) (hspc : u.spcAt s.cur.core = s.spcAt s.cur.core)
    (hlower : ∀ m, m < lvl → (u.strand s.cur.core s.cur.strand).getLC m = 0 ∨
      (u.strand s.cur.core s.cur.strand).getLE m ≠ (u.strand s.cur.core s.cur.strand).getLE lvl) :
    Ends i s fun v => (v.strand s.cur.core s.cur.strand).getLC lvl = 0 ∧
      (v.strand s.cur.core s.cur.strand).spc = s.spcAt s.cur.core ((u.strand s.cur.core s.cur.strand).getLE lvl + 16) ∧ (v.core s.cur.core).gap = 1 := by
  have hwhere : u.cur.core = s.cur.core ∧ u.cur.strand = s.cur.strand := by
    rw [hcur]
    exact ⟨rfl, rfl⟩
  obtain ⟨hk, hj⟩ := hwhere
  have hstrand := leaveLoop_strand u lvl
  have hleft := leaveLoop_cur u lvl
  have hspcLeft := leaveLoop_spcAt u lvl
  rw [hk] at hspcLeft
  rw [hk, hj, exitLoop_none hlower] at hstrand hleft
  rw [hcur] at hleft
  generalize hv : u.leaveLoop lvl = v at hop hstrand hleft hspcLeft
  have hkeeps : v.cur.core = s.cur.core ∧ v.cur.strand = s.cur.strand ∧ v.cur.give = false ∧ v.cur.sysw = [] ∧ v.cur.eret = false := by
    rw [hleft]
    exact ⟨rfl, rfl, rfl, rfl, rfl⟩
  have htaken : v.cur.taken = some ((u.strand s.cur.core s.cur.strand).getLE lvl + 16) := by rw [hleft]
  obtain ⟨hvk, hvj, hgive, hsysw, heret⟩ := hkeeps
  obtain ⟨q, st, hcore⟩ := after_core (i := i) hvk hvj hgive hsysw
  have hafter := after_strand (i := i) hvk hvj hgive hsysw
  rw [moved_taken htaken heret, hspcLeft, hstrand, hspc] at hafter
  refine ⟨_, exec_ready hg hr hop, ?_, ?_, ?_⟩
  · rw [hafter]
    exact getLC_setLC_self ..
  · rw [hafter]
  · rw [hcore, htaken]
    rfl

/-! ## A count above the counter's range (R154) -/

/-- A trap leaves the loop registers (R133). -/
theorem holdGroup_trap_loops {s : State} {l : List (Nat × Stop)} {p c d : Nat} {w : Word} (hn : needsOf l = []) (ht : topCause l = some (p, c, d, w))
    (hc : recovered c = false) (h6 : c ≠ 0x06) (hb : c ≠ 0x0B) {k j : Nat} (hth : (s.strand k j).th = false) (c3 : Bool) :
    ((s.holdGroup k j c3 l).strand k j).ls = (s.strand k j).ls ∧ ((s.holdGroup k j c3 l).strand k j).le = (s.strand k j).le ∧
      ((s.holdGroup k j c3 l).strand k j).lc = (s.strand k j).lc := by
  have hstrand : (s.modCore k fun x => { x with fills := [] }).strand k j = s.strand k j := strand_modCore_self s k j _
  rw [holdGroup_cause hn ht h6 hb, State.takeCause, hc, if_neg Bool.false_ne_true, strand_spend,
    takeTrap_strand _ _ _ _ _ _ _ _ (by rw [hstrand]; exact hth), hstrand]
  unfold Strand.setTH
  generalize setBits _ 30 30 _ = st
  exact ⟨rfl, rfl, rfl⟩

/-! ## LOOP, LOOPI and LBRK (R154, R156) -/

/-- A level never ends at the bundle that starts it. -/
theorem loopEnd_ne {e : Nat} (b : Word) (h0 : e ≠ 0) (h : e < 2 ^ 20) : b + w64 (16 * e) ≠ b := by
  intro heq
  have hzero : w64 (16 * e) = 0 := by simpa using heq
  have hval := congrArg BitVec.toNat hzero
  rw [w64, BitVec.toNat_ofNat, Nat.mod_eq_of_lt (by omega)] at hval
  simp at hval
  omega

/-- An operation that starts a loop with a count of its own. -/
structure StartsLoop (i : Instr) (lvl n e : Nat) (s : State) (g : GOp) : Prop where
  gop : gopOf i s = some g
  op : g.op (s.opened i) = .ok ((s.opened i).startLoop lvl n e)
  bad : g.info.bad = if e = 0 then some 12 else none

theorem StartsLoop.sets {i : Instr} {lvl n e : Nat} {s : State} {g : GOp} (h : StartsLoop i lvl n e s g) (hr : s.ready i = true) (hn : n ≠ 0) :
    Ends i s fun u =>
      (u.strand s.cur.core s.cur.strand).getLS lvl = (s.opened i).firstOf s.cur.core (s.cur.bundle + 16) ∧
        (u.strand s.cur.core s.cur.strand).getLE lvl = s.cur.bundle + w64 (16 * e) ∧
        (e < 2 ^ 20 →
          (∀ m, m < 4 → m ≠ lvl → (s.strand s.cur.core s.cur.strand).getLC m = 0 ∨ (s.strand s.cur.core s.cur.strand).getLE m ≠ s.cur.bundle) →
          (u.strand s.cur.core s.cur.strand).getLC lvl = BitVec.ofNat 32 n ∧ (u.strand s.cur.core s.cur.strand).spc = s.spcAt s.cur.core s.cur.next) := by
  obtain ⟨hg, hop, hbad⟩ := h
  rw [startLoop_pos _ _ _ hn] at hop
  have hspc := (armLoop_spcAt (s.opened i) lvl n e).trans (opened_spcAt s i)
  obtain ⟨v, hv, hloops, -⟩ := issue_goesOn hg hr hop rfl hspc
  have harm := armLoop_strand (s.opened i) lvl n e
  obtain ⟨-, hle, hlc⟩ := opened_loops s i
  rw [show (s.opened i).cur.core = s.cur.core from rfl, show (s.opened i).cur.strand = s.cur.strand from rfl,
    show (s.opened i).cur.bundle = s.cur.bundle from rfl] at harm
  rw [harm] at hloops
  have hloop := setLoop_self ((s.opened i).strand s.cur.core s.cur.strand) lvl ((s.opened i).firstOf s.cur.core (s.cur.bundle + 16))
    (s.cur.bundle + w64 (16 * e)) (BitVec.ofNat 32 n)
  have hkeep {m : Nat} (h : m ≠ lvl) := setLoop_ne ((s.opened i).strand s.cur.core s.cur.strand) ((s.opened i).firstOf s.cur.core (s.cur.bundle + 16))
    (s.cur.bundle + w64 (16 * e)) (BitVec.ofNat 32 n) h
  generalize Strand.setLoop _ _ _ _ _ = y at hloops hloop hkeep
  obtain ⟨hyls, hyle, hylc⟩ := hloop
  obtain ⟨m, pc, hmoved⟩ := moved_eq y (s.opened i).cur (s.spcAt s.cur.core)
  refine ⟨v, hv, ?_, ?_, fun he hothers => ?_⟩
  · rw [hloops.ls, hmoved]
    exact hyls
  · rw [hloops.le, hmoved]
    exact hyle
  · have he0 : e ≠ 0 := by
      rintro rfl
      have hgood := ready_bad hr
      rw [infoOf_eq hg, hbad] at hgood
      cases hgood
    have hnone : y.bodyEnd s.cur.bundle 4 = (y, none) := bodyEnd_none fun m hm => by
      by_cases hml : m = lvl
      · rw [hml, hyle]
        exact .inr (loopEnd_ne _ he0 he)
      · rw [(hkeep hml).1, (hkeep hml).2, hlc, hle]
        exact hothers m hm hml
    rw [hloops.lc, hloops.spc, moved_of_bodyEnd_none (c := (s.opened i).cur) rfl hnone]
    exact ⟨hylc, rfl⟩

theorem StartsLoop.skips {i : Instr} {lvl e : Nat} {s : State} {g : GOp} (h : StartsLoop i lvl 0 e s g) (hr : s.ready i = true)
    (hlower : ∀ m, m < lvl → (s.strand s.cur.core s.cur.strand).getLC m = 0 ∨
      (s.strand s.cur.core s.cur.strand).getLE m ≠ s.cur.bundle + w64 (16 * e)) :
    Ends i s fun u => (u.strand s.cur.core s.cur.strand).getLC lvl = 0 ∧
      (u.strand s.cur.core s.cur.strand).spc = s.spcAt s.cur.core (s.cur.bundle + w64 (16 * e) + 16) ∧ (u.core s.cur.core).gap = 1 := by
  obtain ⟨hg, hop, -⟩ := h
  rw [startLoop_zero] at hop
  have hspc := (armLoop_spcAt (s.opened i) lvl 0 e).trans (opened_spcAt s i)
  have harm := armLoop_strand (s.opened i) lvl 0 e
  obtain ⟨-, hle, hlc⟩ := opened_loops s i
  rw [show (s.opened i).cur.core = s.cur.core from rfl, show (s.opened i).cur.strand = s.cur.strand from rfl,
    show (s.opened i).cur.bundle = s.cur.bundle from rfl] at harm
  have hlevel : (((s.opened i).armLoop lvl 0 e).strand s.cur.core s.cur.strand).getLE lvl = s.cur.bundle + w64 (16 * e) := by
    rw [harm]
    exact (setLoop_self ..).2.1
  have hends := issue_leavesLoop hg hr hop rfl hspc fun m hm => by
    obtain ⟨hcount, hend⟩ := setLoop_ne ((s.opened i).strand s.cur.core s.cur.strand) ((s.opened i).firstOf s.cur.core (s.cur.bundle + 16))
      (s.cur.bundle + w64 (16 * e)) (BitVec.ofNat 32 0) (Nat.ne_of_lt hm)
    rw [hlevel, harm, hcount, hend, hlc, hle]
    exact hlower m hm
  rw [hlevel] at hends
  exact hends

theorem loop_starts {lvl c e : Nat} {s : State} (h : ((s.opened (.loop lvl c e)).xOp c).toNat < 2 ^ 32) :
    StartsLoop (.loop lvl c e) lvl ((s.opened (.loop lvl c e)).xOp c).toNat e s (gopLoop lvl c e) where
  gop := rfl
  op := if_neg (Nat.not_le.2 h)
  bad := rfl

theorem loopi_starts (lvl n e : Nat) (s : State) : StartsLoop (.loopi lvl n e) lvl n e s (gopLoopi lvl n e) where
  gop := rfl
  op := rfl
  bad := rfl

theorem loop_traps {lvl c e : Nat} {s : State} (hr : s.ready (.loop lvl c e) = true) (hn : 2 ^ 32 ≤ ((s.opened (.loop lvl c e)).xOp c).toNat)
    (hth : (s.strand s.cur.core s.cur.strand).th = false) :
    Ends (.loop lvl c e) s fun u =>
      (u.strand s.cur.core s.cur.strand).scause = 0x040100 ∧ (u.strand s.cur.core s.cur.strand).sinfo = (s.opened (.loop lvl c e)).xOp c ∧
        (u.strand s.cur.core s.cur.strand).sepc = s.cur.start ∧ (u.strand s.cur.core s.cur.strand).ls = (s.strand s.cur.core s.cur.strand).ls ∧
        (u.strand s.cur.core s.cur.strand).le = (s.strand s.cur.core s.cur.strand).le ∧
        (u.strand s.cur.core s.cur.strand).lc = (s.strand s.cur.core s.cur.strand).lc := by
  have hop : (gopLoop lvl c e).op (s.opened (.loop lvl c e)) = .error (.cause 0x04 1 ((s.opened (.loop lvl c e)).xOp c)) :=
    (if_pos hn).trans (by rw [← State.xOp, w64_toNat])
  have htook := holdGroup_tookTrap (l := [(0, .cause 0x04 1 ((s.opened (.loop lvl c e)).xOp c))]) rfl rfl rfl (by decide) (by decide) hth
    (gopLoop lvl c e).info.c3
  have hloops := holdGroup_trap_loops (l := [(0, .cause 0x04 1 ((s.opened (.loop lvl c e)).xOp c))]) rfl rfl rfl (by decide) (by decide) hth
    (gopLoop lvl c e).info.c3
  exact ⟨_, exec_ready_error rfl hr hop, htook.scause, htook.sinfo, htook.sepc, hloops⟩

theorem lbrk_leaves {g lvl : Nat} {s : State} (hr : s.ready (.lbrk g lvl) = true)
    (hlower : ∀ m, m < lvl → (s.strand s.cur.core s.cur.strand).getLC m = 0 ∨
      (s.strand s.cur.core s.cur.strand).getLE m ≠ (s.strand s.cur.core s.cur.strand).getLE lvl) :
    Ends (.lbrk g lvl) s fun u => (u.strand s.cur.core s.cur.strand).getLC lvl = 0 ∧
      (u.strand s.cur.core s.cur.strand).spc = s.spcAt s.cur.core ((s.strand s.cur.core s.cur.strand).getLE lvl + 16) ∧ (u.core s.cur.core).gap = 1 := by
  obtain ⟨-, hle, hlc⟩ := opened_loops s (.lbrk g lvl)
  rw [← hle, ← hlc] at hlower
  rw [← hle]
  exact issue_leavesLoop (g := gopLbrk g lvl) rfl hr rfl rfl (opened_spcAt s _) hlower

/-! ## NOP at the end of a body (R155) -/

/-- A NOP leaves its strand to the decision at the end of its bundle. -/
theorem nop_atS3 {g : Nat} {s : State} (hr : s.ready (.nop g) = true) (h3 : s.cur.atS3 = true) :
    Ends (.nop g) s fun u => ∃ y : Strand, y.getLS = (s.strand s.cur.core s.cur.strand).getLS ∧ y.getLE = (s.strand s.cur.core s.cur.strand).getLE ∧
      y.getLC = (s.strand s.cur.core s.cur.strand).getLC ∧
      (u.strand s.cur.core s.cur.strand).spc = s.spcAt s.cur.core ((y.bodyEnd s.cur.bundle 4).2.getD s.cur.next) ∧
      (u.strand s.cur.core s.cur.strand).getLC = (y.bodyEnd s.cur.bundle 4).1.getLC ∧ (u.core s.cur.core).gap = (s.core s.cur.core).gap := by
  obtain ⟨u, hu, hloops, hgap⟩ := issue_goesOn (g := gopNop g) rfl hr rfl rfl (opened_spcAt s _)
  obtain ⟨hls, hle, hlc⟩ := opened_loops s (.nop g)
  rw [moved_atS3 (c := (s.opened (.nop g)).cur) rfl h3] at hloops
  refine ⟨u, hu, _, hls, hle, hlc, hloops.spc, hloops.lc, hgap.trans ?_⟩
  rw [State.opened, openGroup_core]
  rfl

/-- Settles O5: the three operations, and NOP at the end of a body. -/
theorem hardwareLoops : Obligations.HardwareLoops := by
  unfold Obligations.HardwareLoops
  constructor
  · intro g lvl c e n s
    refine ⟨fun hc hr hn => (loop_starts hc).sets hr hn, fun hr hn => (loopi_starts lvl n e s).sets hr hn, ⟨fun hr hlower => ?_, fun hz hr hlower => ?_⟩,
      loop_traps, lbrk_leaves⟩
    · exact (loopi_starts lvl 0 e s).skips hr hlower
    · have hstarts := loop_starts (lvl := lvl) (c := c) (e := e) (s := s) (by rw [hz]; decide)
      rw [hz] at hstarts
      exact hstarts.skips hr hlower
  · intro g s hr h3 k j x ends
    obtain ⟨u, hu, y, hls, hle, hlc, hspc, hcount, hgap⟩ := nop_atS3 hr h3
    have hpasses {h : Nat} (hp : ¬ ends h ∨ x.getLC h = 1) : y.passes s.cur.bundle h := by
      rw [Strand.passes, hlc, hle]
      exact hp
    refine ⟨fun m hm hends hone habove => ?_, fun hall => ?_⟩
    · obtain ⟨hback, hdown⟩ := bodyEnd_back (x := y) hm (by rw [hlc, hle]; exact hends) (by rw [hlc]; exact hone) fun h hmh hh => hpasses (habove h hmh hh)
      rw [hback, hls] at hspc
      exact ⟨u, hu, hspc, by rw [hcount, hdown, hlc], hgap⟩
    · rw [bodyEnd_of_passes fun m hm => hpasses (hall m hm)] at hspc
      exact ⟨u, hu, hspc⟩

end Sys2Proof.Machine
end

section
/-! Proofs about the floating scalar operations in IEEE and in rational mode (R114 to R117, R151, R159 to R168): what each form of operation gives in a
mode, and the special operands of a root. -/

set_option Elab.async false -- one proof at a time: many at once exhaust the memory of a build

namespace Sys2Proof.Machine

/-! ## The mode of an issue (R131) -/

theorem opened_rat (s : State) (i : Instr) : (s.opened i).me.rat = s.me.rat := by
  obtain ⟨r, n, q, l, h⟩ := opened_strand s i
  have hrat := congrArg Strand.rat h
  exact hrat

/-- An operation chosen by the state in which its group issues. -/
theorem does_of_opAt {i : Instr} {o : State → GOp} {e : State → State} (hg : ∀ s, gopOf i s = some (o s)) (he : ∀ s t, (o s).op t = .ok (e t)) :
    Does i e :=
  fun s hr => exec_ready (hg s) hr (he s _)

/-- An operation chosen by the mode in which its group issues, which is the mode in which it reads. -/
theorem doesWhen_mode {i : Instr} {o : State → GOp} {c : State → Prop} {e : State → State} {b : Bool} (hg : ∀ s, gopOf i s = some (o s))
    (hc : ∀ t, c t → t.me.rat = b) (he : ∀ s t, s.me.rat = b → c t → (o s).op t = .ok (e t)) : DoesWhen i c e :=
  fun s hr h => exec_ready (hg s) hr (he s _ ((opened_rat s i).symm.trans (hc _ h)) h)

/-! ## Arithmetic (R159, R165) -/

section
variable {s : State} (t : State) (g d a b : Nat) (dbl : Bool)

theorem arith_ieee (h : s.me.rat = false) (reads : List Nat) (f : Rnd → List FVal → FVal × BitVec 5) :
    (gopArith g d reads dbl f s).op t =
      .ok (let at_ (n : Nat) : FVal := (ieeeOf dbl).decode (t.fOp n).toNat
        let r := f t.me.irm (reads.map at_)
        let e := (ieeeOf dbl).encode t.me.irm r.1
        t.givesFl (.f d) 4 (.w (w64 e.1)) (reads.foldl (fun fl n => fl ||| sigFlag (at_ n)) (r.2 ||| e.2))) := by
  simp only [gopArith, h, Bool.false_eq_true, if_false, List.map_map, List.foldl_map]
  rfl

theorem arith_rat (h : s.me.rat = true) (reads : List Nat) (f : Rnd → List FVal → FVal × BitVec 5) :
    (gopArith g d reads dbl f s).op t =
      .ok (let r := f .rne (reads.map fun n => (fsRead (t.fOp n)).1)
        let e := fsOf fsRep t.me.rrm r.1
        t.owes (.f d) e.2.2 (.w e.1) (reads.foldl (fun fl n => fl ||| (fsRead (t.fOp n)).2) (r.2 ||| e.2.1))) := by
  simp only [gopArith, h, if_true, List.map_map, List.foldl_map]
  rfl

theorem fdiv_ieee (h : s.me.rat = false) :
    (gopFdiv g d a b dbl s).op t =
      .ok (let x := (ieeeOf dbl).decode (t.fOp a).toNat
        let y := (ieeeOf dbl).decode (t.fOp b).toNat
        let e := (ieeeOf dbl).encode t.me.irm (x.div y).1
        t.owes (.f d) (if x.special || y.special then 6 else if dbl then 22 else 12) (.w (w64 e.1)) (sigFlag x ||| sigFlag y ||| (x.div y).2 ||| e.2)) := by
  simp only [gopFdiv, h, Bool.false_eq_true, if_false]
  rfl

theorem fdiv_rat (h : s.me.rat = true) :
    (gopFdiv g d a b dbl s).op t =
      .ok (let r := (fsRead (t.fOp a)).1.div (fsRead (t.fOp b)).1
        let e := fsOf fsRep t.me.rrm r.1
        t.owes (.f d) e.2.2 (.w e.1) ((fsRead (t.fOp a)).2 ||| (fsRead (t.fOp b)).2 ||| r.2 ||| e.2.1)) := by
  simp only [gopFdiv, h, if_true]
  rfl

end

/-! ## Roots (R164, R165) -/

/-- A datum without a root: negative and not zero. -/
def FVal.rootless : FVal → Bool
  | .num true q => !q.isZero
  | .inf true => true
  | _ => false

theorem rootless_negative {q : Quo} (h : q.isZero = false) : (FVal.num true q).rootless = true := by rw [FVal.rootless, h]; rfl

theorem rootless_zero (neg : Bool) {q : Quo} (h : q.isZero = true) : (FVal.num neg q).rootless = false := by
  cases neg with
  | false => rfl
  | true => rw [FVal.rootless, h]; rfl

theorem eq_nan_of_isNan {v : FVal} (h : v.isNan = true) : ∃ sig, v = .nan sig := by
  cases v with
  | nan sig => exact ⟨sig, rfl⟩
  | inf _ | num _ _ => cases h

section
variable {s t : State} {a : Nat} {dbl : Bool} {v : FVal} {q : Quo} (g d : Nat)

theorem fsqrt_ieee_positive (h : s.me.rat = false) (hv : (ieeeOf dbl).decode (t.fOp a).toNat = .num false q) (hq : q.isZero = false) :
    (gopFsqrt g d a dbl s).op t =
      .ok (let e := (ieeeOf dbl).encode t.me.irm (.num false (quoSqrt q))
        t.owes (.f d) (if dbl then 22 else 12) (.w (w64 e.1)) e.2) := by
  have hin : t.ieeeIn dbl a = (.num false q, 0) := Prod.ext hv (congrArg sigFlag hv)
  simp only [gopFsqrt, h, hin, hq, flagIf, Bool.false_eq_true, if_false, BitVec.ofNat_eq_ofNat, BitVec.zero_or]
  rfl

theorem fsqrt_rat_positive (h : s.me.rat = true) (hv : (fsRead (t.fOp a)).1 = .num false q) (hq : q.isZero = false) :
    (gopFsqrt g d a dbl s).op t =
      .ok (let e := roundFs fsRep t.me.rrm false (.root q)
        t.owes (.f d) e.2.2 (.w e.1) ((fsRead (t.fOp a)).2 ||| e.2.1)) := by
  have hin : t.ratIn a = (.num false q, (fsRead (t.fOp a)).2) := Prod.ext hv rfl
  simp only [gopFsqrt, h, hin, hq, flagIf, if_true, Bool.false_eq_true, if_false, BitVec.ofNat_eq_ofNat, BitVec.or_zero]
  rfl

/-- Every other operand has its answer after 6 cycles. -/
theorem fsqrt_ieee_special (h : s.me.rat = false) (hv : (ieeeOf dbl).decode (t.fOp a).toNat = v) (hn : ∀ q, v = .num false q → q.isZero = true) :
    (gopFsqrt g d a dbl s).op t =
      .ok (t.owes (.f d) 6 (.w (w64 ((ieeeOf dbl).encode .rne (if v.rootless then .nan false else v)).1)) (sigFlag v ||| flagIf v.rootless flagNV)) := by
  have hin : t.ieeeIn dbl a = (v, sigFlag v) := Prod.ext hv (congrArg sigFlag hv)
  simp only [gopFsqrt, h, hin, Bool.false_eq_true, if_false]
  rcases v with sig | neg | ⟨_ | _, q⟩
  case num.false => simp only [hn q rfl, if_true]; rfl
  all_goals rfl

theorem fsqrt_rat_special (h : s.me.rat = true) (hv : (fsRead (t.fOp a)).1 = v) (hn : ∀ q, v = .num false q → q.isZero = true) :
    (gopFsqrt g d a dbl s).op t =
      .ok (t.owes (.f d) 6 (.w (if v.rootless then fsNaN else (fsOf fsRep .tz v).1)) ((fsRead (t.fOp a)).2 ||| flagIf v.rootless flagNV)) := by
  have hin : t.ratIn a = (v, (fsRead (t.fOp a)).2) := Prod.ext hv rfl
  simp only [gopFsqrt, h, hin, if_true]
  rcases v with sig | neg | ⟨_ | _, q⟩
  case num.false => simp only [hn q rfl, if_true]; rfl
  all_goals rfl

end

theorem sigFlag_num (neg : Bool) (q : Quo) : sigFlag (.num neg q) = 0 := rfl

/-- A zero keeps its sign in an IEEE format. -/
theorem encode_zero (dbl : Bool) (r : Rnd) (neg : Bool) {q : Quo} (h : q.isZero = true) :
    (ieeeOf dbl).encode r (.num neg q) = (if neg then (ieeeOf dbl).sign else 0, 0) := by
  have hn : q.n = 0 := of_decide_eq_true h
  have hinf : ¬ (ieeeOf dbl).inf ≤ 0 := by cases dbl <;> decide
  simp only [Ieee.encode, Ieee.round, roundCode, hn, Int.natAbs_zero, if_true, if_neg hinf, Nat.add_zero, bne_self_eq_false, Bool.false_and]
  rfl

/-- Settles O6: each of the four rounds its exact function once. -/
theorem ieeeArithmetic : Obligations.IeeeArithmetic := by
  unfold Obligations.IeeeArithmetic
  intro g d a b dbl at_ gives
  have arith {i : Instr} {reads : List Nat} {f : State → Rnd → List FVal → FVal × BitVec 5} {h : State → FVal × BitVec 5}
      (hg : ∀ s, gopOf i s = some (gopArith g d reads dbl (f s) s)) (hf : ∀ s o, s.me.rat = false → f s o.me.irm (reads.map (at_ o)) = h o) :
      gives i reads h :=
    doesWhen_mode hg (fun _ => id) fun s o hs _ => by rw [arith_ieee o g d dbl hs, ← hf s o hs]; rfl
  refine ⟨arith (fun _ => rfl) fun _ _ _ => rfl, arith (fun _ => rfl) fun _ _ _ => rfl, arith (fun _ => rfl) fun _ _ _ => rfl,
    arith (fun _ => rfl) fun s o hs => ?_⟩
  simp only [List.map_cons, List.map_nil, at3, hs, Bool.false_and, Bool.false_eq_true, if_false]

/-- Settles O7: arithmetic rounds its exact function once to FS64; a root is that of a positive number or a special one. -/
theorem rationalArithmetic : Obligations.RationalArithmetic := by
  unfold Obligations.RationalArithmetic
  intro g d a b dbl gives at_
  have arith {i : Instr} {reads : List Nat} {f : State → Rnd → List FVal → FVal × BitVec 5} {h : State → FVal × BitVec 5}
      (hg : ∀ s, gopOf i s = some (gopArith g d reads dbl (f s) s)) (hf : ∀ s o, s.me.rat = true → f s .rne (reads.map (at_ o)) = h o) :
      gives i reads h :=
    doesWhen_mode hg (fun _ => id) fun s o hs _ => by rw [arith_rat o g d dbl hs, ← hf s o hs]
  have root {v : FVal} {w : Word} {fl : State → BitVec 5} (hn : ∀ q, v = .num false q → q.isZero = true)
      (hw : (if v.rootless then fsNaN else (fsOf fsRep .tz v).1) = w) (hfl : ∀ o, (fsRead (o.fOp a)).2 ||| flagIf v.rootless flagNV = fl o) :
      DoesWhen (.fsqrt g d a dbl) (fun o => o.me.rat = true ∧ at_ o a = v) fun o => o.owes (.f d) 6 (.w w) (fl o) :=
    doesWhen_mode (fun _ => rfl) (fun _ => And.left) fun s o hs ho => by rw [fsqrt_rat_special g d hs ho.2 hn, hw, hfl]
  have hnone (o : State) : (fsRead (o.fOp a)).2 ||| flagIf false flagNV = (fsRead (o.fOp a)).2 := BitVec.or_zero
  refine ⟨arith (fun _ => rfl) fun _ _ _ => rfl, arith (fun _ => rfl) fun _ _ _ => rfl, arith (fun _ => rfl) fun _ _ _ => rfl,
    arith (fun _ => rfl) fun s o hs => ?_, doesWhen_mode (fun _ => rfl) (fun _ => id) fun s o hs _ => fdiv_rat o g d a b dbl hs, fun q hq => ⟨?_, ?_⟩,
    fun neg q hq => ?_, root nofun rfl hnone, root nofun rfl fun _ => rfl, fun sig => root nofun rfl hnone⟩
  · simp only [List.map_cons, List.map_nil, at3, hs, Bool.true_and]
  · exact doesWhen_mode (fun _ => rfl) (fun _ => And.left) fun s o hs ho => fsqrt_rat_positive g d hs ho.2 hq
  · exact root nofun (if_pos (rootless_negative hq)) fun o => by rw [rootless_negative hq]; rfl
  · have hgood := rootless_zero neg hq
    refine root (fun _ hp => (FVal.num.inj hp).2 ▸ hq) ?_ fun o => by rw [hgood]; exact hnone o
    rw [hgood, if_neg Bool.false_ne_true, fsOf, if_pos hq]

/-- Settles O8: the quotient, the root of a positive number, and the special operands of a root. -/
theorem ieeeDivideAndRoot : Obligations.IeeeDivideAndRoot := by
  unfold Obligations.IeeeDivideAndRoot
  intro g d a b dbl at_ full
  have root {v : FVal} {n : Nat} {fl : BitVec 5} (hn : ∀ q, v = .num false q → q.isZero = true)
      (hw : ((ieeeOf dbl).encode .rne (if v.rootless then .nan false else v)).1 = n) (hfl : sigFlag v ||| flagIf v.rootless flagNV = fl) :
      DoesWhen (.fsqrt g d a dbl) (fun o => o.me.rat = false ∧ at_ o a = v) fun o => o.owes (.f d) 6 (.w (w64 n)) fl :=
    doesWhen_mode (fun _ => rfl) (fun _ => And.left) fun s o hs ho => by rw [fsqrt_ieee_special g d hs ho.2 hn, hw, hfl]
  refine ⟨doesWhen_mode (fun _ => rfl) (fun _ => id) fun s o hs _ => fdiv_ieee o g d a b dbl hs, fun q hq => ⟨?_, ?_⟩, fun neg q hq => ?_,
    root nofun rfl rfl, fun v hv => ?_⟩
  · exact doesWhen_mode (fun _ => rfl) (fun _ => And.left) fun s o hs ho => fsqrt_ieee_positive g d hs ho.2 hq
  · have hbad := rootless_negative hq
    exact root nofun (by rw [hbad, if_pos rfl]) (by rw [hbad, sigFlag_num]; rfl)
  · have hgood := rootless_zero neg hq
    refine root (fun _ hp => (FVal.num.inj hp).2 ▸ hq) ?_ (by rw [hgood, sigFlag_num]; rfl)
    rw [hgood, if_neg Bool.false_ne_true, encode_zero dbl .rne neg hq]
  · rcases hv with hnan | rfl
    · obtain ⟨sig, rfl⟩ := eq_nan_of_isNan hnan
      exact root nofun rfl BitVec.or_zero
    · exact root nofun rfl rfl

/-! ## Selection and sign (R160, R161) -/

/-- Which operand FMIN and FMAX take: of two numbers by their order, else the number, else the canonical NaN. -/
theorem minMax_eq (f : Ieee) (big : Bool) (a b : Nat) :
    minMax f big a b =
      (if (f.decode a).isNan && (f.decode b).isNan then f.qnan else if (f.decode a).isNan then b % 2 ^ f.bits else if (f.decode b).isNan then a % 2 ^ f.bits
       else if ((f.decode a).lt (f.decode b) || ((f.decode a).eqv (f.decode b) && (f.decode a).sign && !(f.decode b).sign)) != big then a % 2 ^ f.bits
       else b % 2 ^ f.bits) := by
  cases hx : (f.decode a).isNan <;> cases hy : (f.decode b).isNan <;> simp [minMax, hx, hy]

section
variable {s : State} (t : State) (g d a b : Nat) (dbl big neg : Bool)

theorem minMax_ieee (h : s.me.rat = false) :
    (gopMinMax g d a b dbl big s).op t =
      .ok (t.givesFl (.f d) 4 (.w (w64 (minMax (ieeeOf dbl) big (t.fOp a).toNat (t.fOp b).toNat)))
        (sigFlag ((ieeeOf dbl).decode (t.fOp a).toNat) ||| sigFlag ((ieeeOf dbl).decode (t.fOp b).toNat))) := by
  simp only [gopMinMax, h, Bool.false_eq_true, if_false]
  rfl

theorem minMax_rat (h : s.me.rat = true) :
    (gopMinMax g d a b dbl big s).op t =
      .ok (let x := fsRead (t.fOp a)
        let y := fsRead (t.fOp b)
        t.owes (.f d) 6 (.w (fsOf fsRep .tz (if x.1.isNan then y.1 else if y.1.isNan then x.1 else if x.1.lt y.1 != big then x.1 else y.1)).1) (x.2 ||| y.2)) := by
  simp only [gopMinMax, h, if_true]
  rfl

theorem sign_op : (gopSign g d a dbl neg s).op t = .ok (t.gives (.f d) 1 (.w (signOp s.me.rat dbl neg (t.fOp a)))) := rfl

theorem signOp_ieee (w : Word) :
    signOp false dbl neg w = w64 (if ((ieeeOf dbl).decode (w.toNat % 2 ^ (ieeeOf dbl).bits)).isNan then (ieeeOf dbl).qnan
      else if neg then (if w.toNat % 2 ^ (ieeeOf dbl).bits < (ieeeOf dbl).sign then w.toNat % 2 ^ (ieeeOf dbl).bits + (ieeeOf dbl).sign
        else w.toNat % 2 ^ (ieeeOf dbl).bits - (ieeeOf dbl).sign)
      else w.toNat % 2 ^ (ieeeOf dbl).bits % (ieeeOf dbl).sign) := by
  simp only [signOp, Bool.false_eq_true, if_false, apply_ite w64]

theorem fmov_op : (gopFmov g d a dbl s).op t = .ok (t.gives (.f d) 1 (.w (if s.me.rat || dbl then t.fOp a else t.fOp a &&& 0xFFFFFFFF))) := rfl

theorem fclass_op : (gopFclass g d a dbl s).op t = .ok (t.gives (.x d) 1 (.w (w64 (classMask s.me.rat dbl (t.fOp a))))) := rfl

end

/-- Settles O9: FMIN and FMAX, the sign operations, the copy, the class and the fields, first in IEEE and then in rational mode. -/
theorem floatSelectAndSign : Obligations.FloatSelectAndSign := by
  unfold Obligations.FloatSelectAndSign
  constructor
  · intro g d a b dbl f code sig less nan chosen ieee
    have mode {i : Instr} {o : State → GOp} {e : State → State} (hg : ∀ s, gopOf i s = some (o s)) (he : ∀ s t, s.me.rat = false → (o s).op t = .ok (e t)) :
        ieee i e :=
      doesWhen_mode hg (fun _ => id) fun s t hs _ => he s t hs
    have hchosen (o : State) (big : Bool) : minMax f big (o.fOp a).toNat (o.fOp b).toNat = chosen o (less o a b != big) := minMax_eq f big _ _
    refine ⟨mode (fun _ => rfl) fun s o hs => ?_, mode (fun _ => rfl) fun s o hs => ?_, mode (fun _ => rfl) fun s o hs => ?_, mode (fun _ => rfl) fun s o hs => ?_,
      mode (fun _ => rfl) fun s o hs => ?_, mode (fun _ => rfl) fun s o hs => ?_, does_of_opAt (fun _ => rfl) fun _ _ => rfl,
      does_of_opAt (fun _ => rfl) fun _ _ => rfl, fun _ => ⟨rfl, rfl⟩⟩
    · exact (minMax_ieee o g d a b dbl false hs).trans (by rw [hchosen, Bool.bne_false])
    · exact (minMax_ieee o g d a b dbl true hs).trans (by rw [hchosen, Bool.bne_true])
    · exact (sign_op o g d a dbl false).trans (by rw [hs, signOp_ieee]; rfl)
    · exact (sign_op o g d a dbl true).trans (by rw [hs, signOp_ieee]; rfl)
    · exact (fmov_op o g d a dbl).trans (by rw [hs, Bool.false_or])
    · exact (fclass_op o g d a dbl).trans (by rw [hs])
  · intro g d a b dbl rat at_ pick fl sign
    have mode {i : Instr} {o : State → GOp} {e : State → State} (hg : ∀ s, gopOf i s = some (o s)) (he : ∀ s t, s.me.rat = true → (o s).op t = .ok (e t)) :
        rat i e :=
      doesWhen_mode hg (fun _ => id) fun s t hs _ => he s t hs
    have hsign (o : State) (neg : Bool) : signOp true dbl neg (o.fOp a) =
        sign o (if neg then o.fOp a ^^^ 0x8000000000000000 else o.fOp a &&& 0x7FFFFFFFFFFFFFFF) := by
      cases hv : (fsRead (o.fOp a)).1 <;> simp only [signOp, sign, at_, hv, if_true]
    refine ⟨mode (fun _ => rfl) fun s o hs => ?_, mode (fun _ => rfl) fun s o hs => ?_, mode (fun _ => rfl) fun s o hs => ?_, mode (fun _ => rfl) fun s o hs => ?_,
      mode (fun _ => rfl) fun s o hs => ?_, mode (fun _ => rfl) fun s o hs => ?_⟩
    · exact (minMax_rat o g d a b dbl false hs).trans (by simp only [Bool.bne_false]; rfl)
    · exact (minMax_rat o g d a b dbl true hs).trans (by simp only [Bool.bne_true]; rfl)
    · exact (sign_op o g d a dbl false).trans (by rw [hs, hsign]; rfl)
    · exact (sign_op o g d a dbl true).trans (by rw [hs, hsign]; rfl)
    · exact (fmov_op o g d a dbl).trans (by rw [hs]; rfl)
    · exact (fclass_op o g d a dbl).trans (by rw [hs])

/-! ## Conversions (R163, R167, R168) -/

section
variable (s t : State) (g d a src : Nat)

theorem fcvt_toFs64 : (gopFcvt g d a src 6 s).op t =
    .ok (let x := cvtIn src (if cvtIsInt src then t.xOp a else t.fOp a)
      let e := fsOf fsRep t.me.rrm x.1
      t.owes (.f d) e.2.2 (.w e.1) (x.2 ||| e.2.1)) := rfl

theorem fcvt_other {dst : Nat} (h : dst ≠ 6) : (gopFcvt g d a src dst s).op t =
    .ok (let x := cvtIn src (if cvtIsInt src then t.xOp a else t.fOp a)
      let e := cvtOut dst t.me.irm x.1
      let rd : Reg := if cvtIsInt dst then .x d else .f d
      if src = 6 then t.owes rd 6 (.w e.1) (x.2 ||| e.2) else t.givesFl rd 4 (.w e.1) (x.2 ||| e.2)) := by
  have hdst : (dst == 6) = false := beq_eq_false_iff_ne.2 h
  by_cases hsrc : src = 6
  · simp only [gopFcvt, if_neg h, hsrc, hdst, beq_self_eq_true, Bool.true_or, if_true]
    rfl
  · simp only [gopFcvt, if_neg h, if_neg hsrc, hdst, beq_eq_false_iff_ne.2 hsrc, Bool.or_self, Bool.false_eq_true, if_false]
    rfl

end

/-- Settles O10: each conversion by its operation, FCVT by where it goes. -/
theorem floatConversions : Obligations.FloatConversions := by
  unfold Obligations.FloatConversions
  intro g d a b dbl
  refine ⟨does_of_op (fun _ => rfl) fun _ => rfl, does_of_op (fun _ => rfl) fun _ => rfl, fun src dst => ?_⟩
  intro isInt rd x
  refine ⟨?_, fun h => ?_⟩
  · rintro rfl
    exact does_of_opAt (fun _ => rfl) fun s t => fcvt_toFs64 s t g d a src
  · exact does_of_opAt (fun _ => rfl) fun s t => fcvt_other s t g d a src h

/-! ## Compares (R151) -/

theorem condFloat_unordered (cc : Cond) {x y : FVal} (h : (x.isNan || y.isNan) = true) : condFloat cc x y = (cc == .un || cc == .ne) := by
  cases cc <;> simp only [condFloat, h] <;> rfl

theorem condOrdering_eq (cc : Cond) : condOrdering cc = (cc == .lt || cc == .ge || cc == .le || cc == .gt) := by cases cc <;> rfl

theorem fcmp_ieee {s : State} (h : s.me.rat = false) (t : State) (g k a b : Nat) (cc : Cond) : (gopFcmp g cc k a b s).op t =
    .ok (let x := ieee64.decode (t.fOp a).toNat
      let y := ieee64.decode (t.fOp b).toNat
      t.givesPair k 2 (condFloat cc x y) (sigFlag x ||| sigFlag y ||| flagIf (condOrdering cc && (x.isNan || y.isNan)) flagNV)) := by
  have hmode : (s.strand s.cur.core s.cur.strand).rat = false := h
  simp only [gopFcmp, hmode, Bool.false_eq_true, if_false, writePair_eq]
  rfl

theorem fcmp_rat {s : State} (h : s.me.rat = true) (t : State) (g k a b : Nat) (cc : Cond) : (gopFcmp g cc k a b s).op t =
    .ok (let x := fsRead (t.fOp a)
      let y := fsRead (t.fOp b)
      t.givesPair k 4 (condFloat cc x.1 y.1) (x.2 ||| y.2 ||| flagIf (condOrdering cc && (x.1.isNan || y.1.isNan)) flagNV)) := by
  have hmode : (s.strand s.cur.core s.cur.strand).rat = true := h
  simp only [gopFcmp, hmode, if_true, writePair_eq]
  rfl

/-- Settles O11: FCMP writes the pair of its condition, with the flag of an ordering condition. -/
theorem floatCompare : Obligations.FloatCompare := by
  unfold Obligations.FloatCompare
  intro g k a b cc pair holds inv
  have hholds (x y : FVal) : condFloat cc x y = holds x y := by
    simp only [holds]
    split
    · next h => exact condFloat_unordered cc h
    · next h => cases cc <;> simp only [condFloat, Bool.eq_false_of_not_eq_true h] <;> rfl
  have hinv (x y : FVal) : flagIf (condOrdering cc && (x.isNan || y.isNan)) flagNV = inv x y := by rw [condOrdering_eq]; rfl
  refine ⟨doesWhen_mode (fun _ => rfl) (fun _ => id) fun s t hs _ => ?_, doesWhen_mode (fun _ => rfl) (fun _ => id) fun s t hs _ => ?_⟩
  · rw [fcmp_ieee hs]
    simp only [hholds, hinv]
    rfl
  · rw [fcmp_rat hs]
    simp only [hholds, hinv]
    rfl

end Sys2Proof.Machine
end

section
/-! Proofs about the operations on rows (R176 to R195): each hands its lanes, by their index, to the landing of Vd under the lane guard; what remains is
what the lane of an index holds. -/

set_option Elab.async false -- one proof at a time: many at once exhaust the memory of a build

namespace Sys2Proof.Machine

/-! ## A row by its lanes (R176, R177) -/

/-- Of each value a row keeps the residue that fits in the lane. -/
theorem packRow_congr {w : Nat} {e f : Nat → Nat} (l : List Nat) (h : ∀ j, e j ≡ f j [MOD 2 ^ w]) : packRow w (l.map e) = packRow w (l.map f) := by
  have hlane (j : Nat) : e j % 2 ^ w = f j % 2 ^ w := h j
  simp only [packRow, List.foldr_map, hlane]

/-- The result of n lanes of w bits, lane j being f j, under the lane guard g (R177). -/
def State.givesLanes (s : State) (g d l w n : Nat) (f : Nat → Nat) : State :=
  s.gives (.v d) l (.row (packRow w ((List.range n).map f)) (maskRow w n (s.lOp g)))

theorem outV_eq_givesLanes (s : State) (g d l w n : Nat) (f : Nat → Nat) : s.outV g d l w ((List.range n).map f) = s.givesLanes g d l w n f := by
  rw [State.outV, List.length_map, List.length_range]
  rfl

theorem map_const_range {α : Type} (n : Nat) (v : α) : (List.range n).map (fun _ => v) = List.replicate n v := by
  rw [List.map_const', List.length_range]

/-- What an operation does whose lanes are e, by what they are modulo the size of a lane. -/
theorem does_givesLanes {i : Instr} {o : GOp} {g d l : Nat} {w n : State → Nat} {e f : State → Nat → Nat} (hg : ∀ s, gopOf i s = some o)
    (ho : ∀ s, o.op s = .ok (s.outV g d l (w s) ((List.range (n s)).map (e s)))) (he : ∀ s j, e s j ≡ f s j [MOD 2 ^ w s]) :
    Does i fun s => s.givesLanes g d l (w s) (n s) (f s) :=
  does_of_op hg fun s => by rw [ho, outV_eq_givesLanes, State.givesLanes, packRow_congr _ (he s), State.givesLanes]

/-- A lanewise operation gives its function of the lanes at each index. -/
theorem gopLanes_op (g d l : Nat) (rows : List Nat) (f : Ety → List Nat → Nat) (s : State) :
    (gopLanes g d l rows f).op s =
      .ok (s.outV g d l s.me.ety.w ((List.range s.me.ety.n).map fun j => f s.me.ety (rows.map fun r => laneOf s.me.ety.w (s.vOp r) j))) := by
  simp only [gopLanes, List.map_map]
  rfl

/-- A lane has 16 or 32 bits. -/
theorem ety_w_pos (x : Strand) : 0 < x.ety.w := by
  unfold Strand.ety
  dsimp only
  split <;> decide

/-! ## Lanewise operations (R181 to R183) -/

theorem laneMin_eq (t : Ety) (x y : Nat) : laneMin t x y = if t.int then (if sInt t.w x ≤ sInt t.w y then x else y) else minMax t.ieee false x y := by
  simp only [laneMin, ← not_lt, ite_not]

theorem laneMax_eq (t : Ety) (x y : Nat) : laneMax t x y = if t.int then (if sInt t.w y ≤ sInt t.w x then x else y) else minMax t.ieee true x y := by
  simp only [laneMax, ← not_lt, ite_not]

/-- Settles O26: each operation is lanewise on one, two or three rows, or constant, and its function of a lane is that of its rule. -/
theorem vectorLanes : Obligations.VectorLanes := by
  unfold Obligations.VectorLanes
  intro g d a b n v row one two num ieee
  have lanes1 {i : Instr} {l : Nat} {f h : Ety → Nat → Nat} (hg : ∀ s, gopOf i s = some (gopLanes g d l [a] fun t => on1 (f t)))
      (hf : ∀ t x, f t x = h t x) : one i l h :=
    does_givesLanes hg (gopLanes_op g d l _ _) fun _ _ => congrArg (· % _) (hf _ _)
  have lanes2 {i : Instr} {l : Nat} {f h : Ety → Nat → Nat → Nat} (hg : ∀ s, gopOf i s = some (gopLanes g d l [a, b] fun t => on2 (f t)))
      (hf : ∀ t x y, f t x y = h t x y) : two i l h :=
    does_givesLanes hg (gopLanes_op g d l _ _) fun _ _ => congrArg (· % _) (hf _ _ _)
  have vfma : row (.vfma g d a b) 4 fun o t j => laneFma t (laneOf t.w (o.vOp a) j) (laneOf t.w (o.vOp b) j) (laneOf t.w (o.vOp d) j) :=
    does_givesLanes (fun _ => rfl) (gopLanes_op g d 4 _ _) fun _ _ => rfl
  have vmovi : row (.vmovi g d v) 2 fun _ t _ => laneOfInt t v :=
    does_givesLanes (e := fun s _ => laneOfInt s.me.ety v) (fun _ => rfl) (fun s => by rw [map_const_range]; rfl) fun _ _ => rfl
  clear_value one two -- from here on their instances are told apart by their arguments alone
  exact ⟨lanes2 (fun _ => rfl) fun _ _ _ => rfl, lanes2 (fun _ => rfl) fun _ _ _ => rfl, lanes2 (fun _ => rfl) fun _ _ _ => rfl, vfma,
    lanes2 (fun _ => rfl) laneMin_eq, lanes2 (fun _ => rfl) laneMax_eq, lanes1 (fun _ => rfl) fun _ _ => rfl, lanes1 (fun _ => rfl) fun _ _ => rfl,
    lanes2 (fun _ => rfl) fun _ _ _ => rfl, lanes2 (fun _ => rfl) fun _ _ _ => rfl, lanes2 (fun _ => rfl) fun _ _ _ => rfl,
    lanes1 (fun _ => rfl) fun _ _ => rfl, lanes2 (fun _ => rfl) fun _ _ _ => rfl, lanes2 (fun _ => rfl) fun _ _ _ => rfl,
    lanes2 (fun _ => rfl) fun _ _ _ => rfl, lanes1 (fun _ => rfl) fun _ _ => rfl, lanes1 (fun _ => rfl) fun _ _ => rfl,
    lanes1 (fun _ => rfl) fun _ _ => rfl, lanes1 (fun _ => rfl) fun _ _ => rfl, vmovi⟩

/-! ## Moves and dot products (R184, R186 to R188, R192, R194) -/

theorem patOf_natCast (w j : Nat) : patOf w (j : Int) = j % 2 ^ w := by rw [patOf, ← Int.natCast_mod, Int.toNat_natCast]

/-- The lane of VIDX, as its lane keeps it. -/
theorem laneOfInt_natCast (t : Ety) (j : Nat) : laneOfInt t j ≡ if t.int then j else (t.ieee.encode .rne (fvalOfInt j)).1 [MOD 2 ^ t.w] := by
  unfold laneOfInt
  split
  · rw [patOf_natCast]
    exact Nat.mod_modEq j _
  · rfl

theorem clamp_eq {lo hi : Int} (h : lo ≤ hi) (i : Int) : clamp lo hi i = max lo (min i hi) := by
  unfold clamp
  split
  · omega
  · split <;> omega

theorem laneOf_ite (w : Nat) (c : Bool) (x y : Row) (j : Nat) : laneOf w (if c then x else y) j = if c then laneOf w x j else laneOf w y j :=
  apply_ite (laneOf w · j) _ _ _

theorem vdot4_op (g d a b : Nat) (au bu : Bool) (s : State) : (gopVdot4 g d a b au bu).op s =
    .ok (s.outV g d 4 32 ((List.range (s.me.rowb / 4)).map fun j =>
      let dot (e : Nat) : Int := dotByte au (laneOf 32 (s.vOp a) j) e * dotByte bu (laneOf 32 (s.vOp b) j) e
      patOf 32 (max (-2147483648) (min (sInt 32 (laneOf 32 (s.vOp d) j) + dot 0 + dot 1 + dot 2 + dot 3) 2147483647)))) := by
  simp only [← clamp_eq (show (-2147483648 : Int) ≤ 2147483647 by decide)]
  rfl

/-- Settles O27: each by the lanes of its operation. -/
theorem vectorMoves : Obligations.VectorMoves := by
  unfold Obligations.VectorMoves
  intro g d a b k n au bu out row xl yl
  have lanes {i : Instr} {o : GOp} {l : Nat} (f : State → Ety → Nat → Nat) (hg : ∀ s, gopOf i s = some o)
      (ho : ∀ s, o.op s = .ok (s.outV g d l s.me.ety.w ((List.range s.me.ety.n).map (f s s.me.ety)))) : row i l f :=
    does_givesLanes hg ho fun _ _ => rfl
  have vsel : row (.vsel g d a b k) 2 fun s t j => if (s.lOp k).getLsbD j then laneOf t.w (s.vOp a) j else laneOf t.w (s.vOp b) j :=
    does_givesLanes (e := fun s j => laneOf s.me.ety.w (if (s.lOp k).getLsbD j then s.vOp a else s.vOp b) j) (fun _ => rfl) (fun _ => rfl)
      fun _ _ => congrArg (· % _) (laneOf_ite ..)
  have vidx : row (.vidx g d) 2 fun _ t j => if t.int then j else (t.ieee.encode .rne (fvalOfInt j)).1 :=
    does_givesLanes (e := fun s j => laneOfInt s.me.ety j) (fun _ => rfl) (fun _ => rfl) fun s j => laneOfInt_natCast s.me.ety j
  clear_value row -- from here on its instances are told apart by their arguments alone
  exact ⟨vsel, lanes _ (fun _ => rfl) fun _ => rfl, lanes _ (fun _ => rfl) fun _ => rfl, vidx,
    lanes _ (fun _ => rfl) fun s => by rw [map_const_range]; rfl, lanes _ (fun _ => rfl) fun _ => rfl,
    does_of_op (fun _ => rfl) fun _ => rfl, does_of_op (fun _ => rfl) fun _ => rfl, does_givesLanes (fun _ => rfl) (vdot4_op g d a b au bu) fun _ _ => rfl⟩

/-! ## Compares (R185) -/

/-- A row operation computes in the element type by which it was checked. -/
theorem opened_ety (s : State) (i : Instr) : (s.opened i).me.ety = s.me.ety := by
  obtain ⟨r, n, q, l, h⟩ := opened_strand s i
  have hety := congrArg Strand.ety h
  exact hety

/-- The pair of a row compare: the lanes of c to L[2k], of its negation to L[2k + 1]; both are written where the guard is set, and cleared from lane n on. -/
def State.givesLanePair (s : State) (g k n : Nat) (c : Nat → Bool) : State :=
  let up : LaneMask := lanesOf 512 fun j => decide (n ≤ j)
  let m : LaneMask := (s.lOp g &&& ~~~ up) ||| up
  (s.gives (.l (2 * k)) 2 (.lm (lanesOf n c) m)).gives (.l (2 * k + 1)) 2 (.lm (lanesOf n fun j => !c j) m)

theorem vcmp_op {s t : State} (h : s.me.ety = t.me.ety) (g : Nat) (cc : Cond) (k a b : Nat) : (gopVcmp g cc k a b s).op t =
    .ok (t.givesLanePair g k t.me.ety.n fun j => laneCond t.me.ety cc (laneOf t.me.ety.w (t.vOp a) j) (laneOf t.me.ety.w (t.vOp b) j)) := by
  simp only [gopVcmp, h, State.givesLanePair, State.gives, result_cur]
  rfl

/-! ## Conversions (R189 to R191) -/

/-- The result of n elements of w bits of a conversion, element e being f e, under the lane guard g (R190). -/
def State.givesElems (s : State) (g d w n : Nat) (f : Nat → Nat) : State :=
  s.gives (.v d) 3 (.row (packRow w ((List.range n).map f)) (convGuard w n (s.lOp g)))

theorem outConv_eq_givesElems (s : State) (g d w n : Nat) (f : Nat → Nat) : s.outConv g d w ((List.range n).map f) = s.givesElems g d w n f := by
  rw [State.outConv, List.length_map, List.length_range]
  rfl

/-- What a conversion does whose elements are f. -/
theorem does_givesElems {i : Instr} {o : GOp} {g d w : Nat} {n : State → Nat} {f : State → Nat → Nat} (hg : ∀ s, gopOf i s = some o)
    (ho : ∀ s, o.op s = .ok (s.outConv g d w ((List.range (n s)).map (f s)))) : Does i fun s => s.givesElems g d w (n s) (f s) :=
  does_of_op hg fun s => by rw [ho, outConv_eq_givesElems]

theorem vcvt_does (g d a src dst : Nat) (sat : Bool) : Does (.vcvt g d a src dst sat) fun s =>
    s.givesElems g d (fmtBits dst) (s.me.rowb / max (fmtBytes src) (fmtBytes dst)) fun e => convLane src dst sat (s.vOp a) e :=
  does_givesElems (fun _ => rfl) fun _ => rfl

theorem vpack_does (g d a b mode : Nat) (sat : Bool) : Does (.vpack g d a b mode sat) fun s =>
    let m := packFmts mode
    let n := s.me.rowb / fmtBytes m.2
    s.givesElems g d (fmtBits m.2) n fun e =>
      if e < n / 2 then convLane m.1 m.2 sat (s.vOp a) e else convLane m.1 m.2 sat (s.vOp b) (e - n / 2) :=
  does_givesElems (fun _ => rfl) fun _ => rfl

theorem vunpk_does (g d a mode : Nat) (hi : Bool) : Does (.vunpk g d a mode hi) fun s =>
    let m := packFmts mode
    let n := s.me.rowb / fmtBytes m.1
    s.givesElems g d (fmtBits m.1) n fun e => convLane m.2 m.1 false (s.vOp a) ((if hi then n else 0) + e) :=
  does_givesElems (fun _ => rfl) fun _ => rfl

/-! ## Reductions (R193) -/

theorem patOf_eq {w n : Nat} {i : Int} (c : Int) (hn : n < 2 ^ w) (hi : i = (n : Int) + c * ((2 ^ w : Nat) : Int)) : patOf w i = n := by
  rw [patOf, hi, Int.add_mul_emod_self_right, ← Int.natCast_mod, Nat.mod_eq_of_lt hn, Int.toNat_natCast]

/-- The bounds of the signed integers of a lane, as patterns. -/
theorem patOf_intRange {w : Nat} (h : 0 < w) (mn : Bool) :
    patOf w (if mn then (intRange w true).2 else (intRange w true).1) = if mn then 2 ^ (w - 1) - 1 else 2 ^ (w - 1) := by
  obtain ⟨v, rfl⟩ : ∃ v, w = v + 1 := ⟨w - 1, by omega⟩
  have hpos : 0 < 2 ^ v := Nat.two_pow_pos v
  have hdouble : 2 ^ (v + 1) = 2 * 2 ^ v := by rw [pow_succ, mul_comm]
  cases mn with
  | false => exact patOf_eq (n := 2 ^ v) (i := -((2 ^ v : Nat) : Int)) (-1) (by omega) (by rw [hdouble]; omega)
  | true => exact patOf_eq (n := 2 ^ v - 1) (i := ((2 ^ v : Nat) : Int) - 1) 0 (by omega) (by omega)

/-- The lanes that a reduction combines: those of row a that are guarded, z for the others (R193). -/
def State.guardedLanes (s : State) (g a z : Nat) : List Nat :=
  (List.range s.me.ety.n).map fun j => if (s.lOp g).getLsbD j then laneOf s.me.ety.w (s.vOp a) j else z

/-- The value that leaves a minimum or a maximum as it is (R193). -/
def Ety.bound (t : Ety) (mn : Bool) : Nat :=
  if t.int then (if mn then 2 ^ (t.w - 1) - 1 else 2 ^ (t.w - 1)) else if mn then t.ieee.inf else t.ieee.sign + t.ieee.inf

theorem vreds_op (g d a : Nat) (s : State) : (gopVreds g d a).op s = .ok (s.outLane0 d s.me.ety.w
    (if s.me.ety.int then patOf s.me.ety.w (clamp (-((2 ^ (s.me.ety.w - 1) : Nat) : Int)) (((2 ^ (s.me.ety.w - 1) : Nat) : Int) - 1)
        ((s.guardedLanes g a 0).foldl (fun acc x => acc + sInt s.me.ety.w x) 0))
      else (reduceTree (addF s.me.ety.ieee) 9 (s.guardedLanes g a 0)).headD 0)) := by
  simp only [State.guardedLanes, List.foldl_map]
  rfl

theorem vredm_op (g d a : Nat) (mn : Bool) (s : State) : (gopVredm g d a mn).op s = .ok (s.outLane0 d s.me.ety.w
    ((reduceTree (fun x y => if mn then laneMin s.me.ety x y else laneMax s.me.ety x y) 9 (s.guardedLanes g a (s.me.ety.bound mn))).headD (s.me.ety.bound mn))) := by
  simp only [Ety.bound, ← patOf_intRange (ety_w_pos s.me)]
  rfl

/-- Settles O28: the compare by its pair, a conversion by its elements, a reduction by the lanes that it combines. -/
theorem vectorCompareConvertReduce : Obligations.VectorCompareConvertReduce := by
  unfold Obligations.VectorCompareConvertReduce
  intro g d a b k src dst mode cc sat hi mn
  refine ⟨fun s hr => exec_ready rfl hr (vcmp_op (opened_ety s _).symm g cc k a b), ?_, ?_⟩
  · intro conv el
    refine ⟨vcvt_does g d a src dst sat, ?_⟩
    intro fm
    have hfm : packFmts mode = fm := by
      unfold packFmts
      rcases mode with _ | _ | _ | m <;> rfl
    rw [← hfm]
    exact ⟨vpack_does g d a b mode sat, vunpk_does g d a mode hi⟩
  · intro lane0
    exact ⟨does_of_op (fun _ => rfl) (vreds_op g d a), does_of_op (fun _ => rfl) (vredm_op g d a mn)⟩

/-! ## Special functions (R180, R195) -/

/-- A magnitude with a sign. -/
def Ieee.signed (f : Ieee) (neg : Bool) (x : Nat) : Nat := if neg then f.sign + x else x

/-- The table of R195 at a zero of each sign. -/
def specialZero (op : Nat) (f : Ieee) (neg : Bool) : Nat :=
  match op with
  | 0 | 7 => rne f (.num false ⟨1, 1⟩)
  | 1 => f.sign + f.inf
  | 2 | 3 => f.signed neg f.inf
  | 5 => rne f (.num false ⟨1, 2⟩)
  | _ => f.signed neg 0

/-- The table of R195 at each infinity. -/
def specialInf (op : Nat) (f : Ieee) (neg : Bool) : Nat :=
  match op with
  | 0 => if neg then 0 else f.inf
  | 1 => if neg then f.qnan else f.inf
  | 2 => f.signed neg 0
  | 3 => if neg then f.qnan else 0
  | 5 => if neg then 0 else rne f (.num false ⟨1, 1⟩)
  | 6 | 7 => f.qnan
  | _ => f.signed neg (rne f (.num false ⟨1, 1⟩))

section
variable {f : Ieee} {b : Nat} {neg : Bool} {q : Quo} (op : Nat)

theorem signed_eq_add (f : Ieee) (neg : Bool) (x : Nat) : f.signed neg x = (if neg then f.sign else 0) + x := by
  cases neg with
  | false => exact (Nat.zero_add x).symm
  | true => rfl

theorem specialFn_nan {sig : Bool} (h : f.decode b = .nan sig) : specialFn op f b = f.qnan := by simp only [specialFn, h]

theorem specialFn_zero (h : f.decode b = .num neg q) (hq : q.isZero = true) : specialFn op f b = specialZero op f neg := by
  simp only [specialFn, h, hq, if_true, specialZero, signed_eq_add]
  rcases op with _ | _ | _ | _ | _ | _ | _ | _ | _ <;> rfl

theorem specialFn_inf (h : f.decode b = .inf neg) : specialFn op f b = specialInf op f neg := by
  simp only [specialFn, h, specialInf, signed_eq_add]
  rcases op with _ | _ | _ | _ | _ | _ | _ | _ | _ <;> rfl

theorem specialFn_reciprocal (h : f.decode b = .num neg q) (hq : q.isZero = false) : specialFn 2 f b = rne f (.num neg ((Quo.ofInt 1).div q)) := by
  simp only [specialFn, h, hq, if_true, Bool.false_eq_true, if_false]

theorem specialFn_rootReciprocal (h : f.decode b = .num neg q) (hq : q.isZero = false) :
    specialFn 3 f b = if neg then f.qnan else rne f (.num false (quoSqrt ((Quo.ofInt 1).div q))) := by
  simp only [specialFn, h, hq, if_true, Bool.false_eq_true, if_false]
  rfl

theorem specialFn_logNegative (h : f.decode b = .num true q) (hq : q.isZero = false) : specialFn 1 f b = f.qnan := by
  simp only [specialFn, h, hq, Bool.false_eq_true, if_false]
  rfl

/-- The codes of R195's table in the formats of the lanes: the NaN, the zeros, the infinities. -/
theorem decode_limits (hf : f ∈ [ieee16, ieee32]) :
    f.decode f.qnan = .nan false ∧ (∃ q, f.decode 0 = .num false q ∧ q.isZero = true) ∧ (∃ q, f.decode f.sign = .num true q ∧ q.isZero = true) ∧
      f.decode f.inf = .inf false ∧ f.decode (f.sign + f.inf) = .inf true := by
  simp only [List.mem_cons, List.not_mem_nil, or_false] at hf
  rcases hf with rfl | rfl <;> exact ⟨by decide, ⟨_, rfl, rfl⟩, ⟨_, rfl, rfl⟩, by decide, by decide⟩

end

/-- Settles O29: the functions differ by their number alone; each has the values of the table at the ends of its format. -/
theorem specialFunctions : Obligations.SpecialFunctions := by
  unfold Obligations.SpecialFunctions
  intro g d a special one half
  have specially {i : Instr} {op : Nat} {at0 atM0 atInf atMInf : Ieee → Nat} (hg : ∀ s, gopOf i s = some (gopSpecial g d a op s))
      (h : ∀ f, (specialZero op f false = at0 f ∧ specialZero op f true = atM0 f) ∧ specialInf op f false = atInf f ∧ specialInf op f true = atMInf f) :
      special i op at0 atM0 atInf atMInf := by
    refine ⟨does_of_opAt hg fun s t => congrArg Except.ok (outV_eq_givesLanes t g d 12 ..), fun f hf => ?_⟩
    obtain ⟨hnan, ⟨q, hzero, hq⟩, ⟨r, hminusZero, hr⟩, hinf, hminusInf⟩ := decode_limits hf
    obtain ⟨⟨h0, hM0⟩, hI, hMI⟩ := h f
    exact ⟨specialFn_nan op hnan, (specialFn_zero op hzero hq).trans h0, (specialFn_zero op hminusZero hr).trans hM0,
      (specialFn_inf op hinf).trans hI, (specialFn_inf op hminusInf).trans hMI⟩
  clear_value special -- from here on its instances are told apart by their arguments alone
  refine ⟨specially (fun _ => rfl) fun _ => ⟨⟨rfl, rfl⟩, rfl, rfl⟩, specially (fun _ => rfl) fun _ => ⟨⟨rfl, rfl⟩, rfl, rfl⟩,
    specially (fun _ => rfl) fun _ => ⟨⟨rfl, rfl⟩, rfl, rfl⟩, specially (fun _ => rfl) fun _ => ⟨⟨rfl, rfl⟩, rfl, rfl⟩,
    specially (fun _ => rfl) fun _ => ⟨⟨rfl, rfl⟩, rfl, rfl⟩, specially (fun _ => rfl) fun _ => ⟨⟨rfl, rfl⟩, rfl, rfl⟩,
    specially (fun _ => rfl) fun _ => ⟨⟨rfl, rfl⟩, rfl, rfl⟩, specially (fun _ => rfl) fun _ => ⟨⟨rfl, rfl⟩, rfl, rfl⟩,
    specially (fun _ => rfl) fun _ => ⟨⟨rfl, rfl⟩, rfl, rfl⟩, fun f b neg q hb hq => ⟨?_, ?_, ?_⟩⟩
  · exact specialFn_reciprocal hb hq
  · exact specialFn_rootReciprocal hb hq
  · rintro rfl
    exact specialFn_logNegative hb hq

end Sys2Proof.Machine
end

section
/-! What leaves memory as it was: the functions of the model that write no byte of HBM4E, each said once (`…_mem`), and the events that come to
nothing else (`…_keepsMem`). -/

set_option Elab.async false -- one proof at a time: many at once exhaust the memory of a build

namespace Sys2Proof.Machine

/-- A fold of functions that leave memory leaves memory. -/
theorem foldl_mem {β : Type} {f : State → β → State} (hf : ∀ u x, (f u x).mem = u.mem) (l : List β) (s : State) : (l.foldl f s).mem = s.mem :=
  foldl_keeps (fun u : State => u.mem = s.mem) f (fun u x hu => (hf u x).trans hu) l rfl

/-- The same of a fold that carries a result along. -/
theorem foldl_fst_mem {β γ : Type} {f : State × γ → β → State × γ} (hf : ∀ a x, (f a x).1.mem = a.1.mem) (l : List β) (a : State × γ) :
    (l.foldl f a).1.mem = a.1.mem :=
  foldl_keeps (fun b : State × γ => b.1.mem = a.1.mem) f (fun b x hb => (hf b x).trans hb) l rfl

/-- Every state that the outcome leaves satisfies p. -/
def Out.Leaves (p : State → Prop) : Out → Prop
  | .next t => p t
  | _ => True

@[simp] theorem leaves_next (p : State → Prop) (t : State) : Out.Leaves p (.next t) ↔ p t := Iff.rfl

theorem leaves_ite {p : State → Prop} {c : Prop} [Decidable c] {a b : Out} (ha : a.Leaves p) (hb : b.Leaves p) :
    (if c then a else b).Leaves p := by
  split
  · exact ha
  · exact hb

/-- An event that leaves memory as it was. -/
def KeepsMem (f : State → Out) : Prop := ∀ s, (f s).Leaves fun u => u.mem = s.mem

theorem run_mem {f : State → Out} (hf : KeepsMem f) (s : State) : (s.run f).mem = s.mem := by
  have h := hf s
  unfold State.run
  split
  · next t ht => rwa [ht] at h
  · rfl

theorem rerun_mem {f : State → Out} (hf : KeepsMem f) (n : Nat) (s : State) : (s.rerun f n).mem = s.mem := by
  induction n generalizing s with
  | zero => rfl
  | succ n ih => rw [State.rerun, ih, run_mem hf]

theorem pick1_some {α β : Type} {f : α → Option β} {l : List α} {y : β} (h : pick1 f l = some y) : ∃ x ∈ l, f x = some y := by
  induction l with
  | nil => cases h
  | cons x l ih =>
    rw [pick1] at h
    split at h
    · next z hz => exact ⟨x, List.mem_cons_self, hz.trans h⟩
    · obtain ⟨z, hz, hfz⟩ := ih h
      exact ⟨z, List.mem_cons_of_mem _ hz, hfz⟩

/-! ### Issue, traps and loops -/

@[simp] theorem requestCkpt_mem (s : State) : s.requestCkpt.mem = s.mem := rfl

@[simp] theorem openGroup_mem (s : State) (ns) : (s.openGroup ns).mem = s.mem := rfl

@[simp] theorem sysWrite_mem (s : State) (k i n w) : (s.sysWrite k i n w).mem = s.mem := by simp [State.sysWrite, apply_ite State.mem]

@[simp] theorem closeGroup_mem (s : State) (irr) : (s.closeGroup irr).mem = s.mem := by
  unfold State.closeGroup
  dsimp only
  split <;> simp [foldl_mem]

@[simp] theorem advance_mem (s : State) : s.advance.mem = s.mem := by unfold State.advance; dsimp only; split <;> simp [apply_ite State.mem]

@[simp] theorem complete_mem (s : State) (k i e w) : (s.complete k i e w).mem = s.mem := rfl

@[simp] theorem dropStreams_mem (s : State) (k) : (s.dropStreams k).mem = s.mem := by
  unfold State.dropStreams
  exact foldl_mem (fun _ _ => by rfl) _ _

@[simp] theorem takeWait_mem (s : State) (k i kind key) : (s.takeWait k i kind key).1.mem = s.mem := by
  unfold State.takeWait
  dsimp only
  split <;> simp

@[simp] theorem parkOn_mem (s : State) (k i p) : (s.parkOn k i p).mem = s.mem := by
  unfold State.parkOn
  dsimp only
  split <;> simp [apply_ite State.mem]

theorem softTrap_mem (s : State) (k i d p c3) : (s.takeSoftTrap k i d p c3).mem = s.mem := by
  unfold State.takeSoftTrap
  dsimp only
  split <;> simp

@[simp] theorem holdGroup_mem (s : State) (k i c3 stops) : (s.holdGroup k i c3 stops).mem = s.mem := by
  unfold State.holdGroup
  split
  · simp
  · extract_lets u
    have hu : u.mem = s.mem := rfl
    clear_value u
    split
    · extract_lets v
      have hv : v.mem = s.mem := by simp only [v]; split <;> simpa using hu
      clear_value v
      split
      · exact (softTrap_mem ..).trans hv
      · simpa using hv
    · split <;> simpa using hu

@[simp] theorem writePair_mem (s : State) (k i pr l c flags) : (writePair s k i pr l c flags).mem = s.mem := rfl

@[simp] theorem goTo_mem (s : State) (t ret) : (s.goTo t ret).mem = s.mem := rfl

@[simp] theorem leaveLoop_mem (s : State) (lvl) : (s.leaveLoop lvl).mem = s.mem := rfl

@[simp] theorem startLoop_mem (s : State) (lvl n e) : (s.startLoop lvl n e).mem = s.mem := by simp [State.startLoop, apply_ite State.mem]

@[simp] theorem outF_mem (s : State) (d fixed l v fl) : (s.outF d fixed l v fl).mem = s.mem := by simp [State.outF, apply_ite State.mem]

/-! ### Accesses and caches -/

@[simp] theorem dropWait_mem (s : State) (k i kind) : (s.dropWait k i kind).mem = s.mem := rfl

@[simp] theorem disarm_mem (s : State) (k i) : (s.disarm k i).mem = s.mem := rfl

@[simp] theorem setJob_mem (s : State) (j x) : (s.setJob j x).mem = s.mem := rfl

@[simp] theorem scrRead_mem (s : State) (k off n) : (s.scrRead k off n).1.mem = s.mem := by simp [State.scrRead, foldl_mem, apply_ite State.mem]

@[simp] theorem scrAtomic_mem (s : State) (k off op dbl x cmp) : (s.scrAtomic k off op dbl x cmp).1.mem = s.mem := by
  unfold State.scrAtomic
  dsimp only
  split <;> simp

@[simp] theorem resolve_mem (s : State) (k i tag v due pois) : (s.resolve k i tag v due pois).mem = s.mem := rfl

@[simp] theorem performScr_mem (s : State) (k e) : (s.performScr k e).mem = s.mem := by unfold State.performScr; split <;> simp

@[simp] theorem performPeer_mem (s : State) (k e) : (s.performPeer k e).mem = s.mem := by unfold State.performPeer; split <;> simp

@[simp] theorem umbraErrs_mem (s : State) (h pa n) : (s.umbraErrs h pa n).1.mem = s.mem := by
  unfold State.umbraErrs
  exact (foldl_mem (fun _ _ => by rfl) _ _).trans (towerErrs_mem ..)

@[simp] theorem wqNote_mem (s : State) (l r) : (s.wqNote l r).mem = s.mem := rfl

@[simp] theorem dropTlb_mem (s : State) (f) : (s.dropTlb f).mem = s.mem := rfl

@[simp] theorem dropCopies_mem (s : State) (k pa n) : (s.dropCopies k pa n).mem = s.mem := by simp [State.dropCopies, foldl_mem]

theorem l1Read_mem (s : State) (k ln l got o n) : ∀ u, s.l1Read k ln l got o n = .ok u → u.1.mem = s.mem := by
  unfold State.l1Read
  dsimp only
  intro u h
  split at h
  · cases h
  · cases h; simp

@[simp] theorem rowErrs_mem (s : State) (k i f) : (s.rowErrs k i f).mem = s.mem := by simp [State.rowErrs, foldl_mem, apply_ite State.mem]

@[simp] theorem updatePtr_mem (s : State) (k i p n) : (s.updatePtr k i p n).mem = s.mem := by unfold State.updatePtr; split <;> simp

@[simp] theorem storeRows_mem (s : State) (k i ps bs) : (s.storeRows k i ps bs).mem = s.mem := rfl

@[simp] theorem wideFreeze_mem (s : State) (k ps) : (s.wideFreeze k ps).mem = s.mem := by simp [State.wideFreeze, apply_ite State.mem]

@[simp] theorem fenceMark_mem (s : State) (k i mask scope dup) : (s.fenceMark k i mask scope dup).mem = s.mem := rfl

@[simp] theorem arm_mem (s : State) (k i line va snap) : (s.arm k i line va snap).mem = s.mem := by simp [State.arm, apply_ite State.mem]

@[simp] theorem homeUse_mem (s : State) (t job pa n) : (s.homeUse t job pa n).mem = s.mem := by simp [State.homeUse]

/-! ### Vector results and engine queues -/

@[simp] theorem outV_mem (s : State) (g d l w vals) : (s.outV g d l w vals).mem = s.mem := rfl

@[simp] theorem outConv_mem (s : State) (g d w vals) : (s.outConv g d w vals).mem = s.mem := rfl

@[simp] theorem outLane0_mem (s : State) (d w v) : (s.outLane0 d w v).mem = s.mem := rfl

@[simp] theorem dueOf_mem (s : State) (k i tag due) : (s.dueOf k i tag due).mem = s.mem := rfl

@[simp] theorem acquire_mem (s : State) (k) : (s.acquire k).mem = s.mem := by simp [State.acquire, foldl_mem]

@[simp] theorem beginCmd_mem (s : State) (k e x due) : (s.beginCmd k e x due).mem = s.mem := by
  unfold State.beginCmd
  dsimp only
  split <;> simp [apply_ite State.mem]

@[simp] theorem beginAll_mem (s : State) (k) : (s.beginAll k).mem = s.mem := by
  unfold State.beginAll
  refine foldl_mem (fun u e => foldl_mem (fun v p => ?_) _ _) _ _
  (repeat' split) <;> simp

@[simp] theorem enqueue_mem (s : State) (e kind tag reqs) : (s.enqueue e kind tag reqs).mem = s.mem := by simp [State.enqueue, apply_ite State.mem]

@[simp] theorem actRow_mem (s : State) (k bank m) : (s.actRow k bank m).1.mem = s.mem := by unfold State.actRow; dsimp only; split <;> simp

/-! ### Tiles and state handles -/

@[simp] theorem readTile_mem (s : State) (t w) : (s.readTile t w).1.mem = s.mem := by
  unfold State.readTile; dsimp only; (repeat' split) <;> simp [towerErrs_mem]

@[simp] theorem modHandle_mem (s : State) (i f) : (s.modHandle i f).mem = s.mem := rfl

@[simp] theorem putTile_mem (s : State) (t w x) : (s.putTile t w x).mem = s.mem := rfl

@[simp] theorem touchSlab_mem (s : State) (t slab) : (s.touchSlab t slab).mem = s.mem := rfl

@[simp] theorem useState_mem (s : State) (i) : (s.useState i).mem = s.mem := rfl

@[simp] theorem touchState_mem (s : State) (i) : (s.touchState i).mem = s.mem := by
  unfold State.touchState
  exact foldl_mem (fun _ _ => by rfl) _ _

@[simp] theorem prepare_mem (s : State) (t o) : (s.prepare t o).1.mem = s.mem := by
  unfold State.prepare
  dsimp only
  (repeat' split) <;> simp [foldl_mem]

theorem arenaAlloc_mem (s : State) (job n) : ∀ u ∈ s.arenaAlloc job n, u.2.mem = s.mem := by
  unfold State.arenaAlloc
  (repeat' split) <;> simp

@[simp] theorem arenaFree_mem (s : State) (job a) : (s.arenaFree job a).mem = s.mem := by simp [State.arenaFree]

@[simp] theorem avgTiles_mem (s : State) (t d a b w c) : (s.avgTiles t d a b w c).1.mem = s.mem := foldl_fst_mem (fun _ _ => by simp) _ _

@[simp] theorem wake_mem (s : State) (k i kind) : (s.wake k i kind).mem = s.mem := rfl

@[simp] theorem wakeAbsent_mem (s : State) (h) : (s.wakeAbsent h).mem = s.mem := by
  unfold State.wakeAbsent
  refine foldl_mem (fun u e => foldl_mem (fun v i => ?_) _ _) _ _
  (repeat' split) <;> simp

@[simp] theorem freeHandle_mem (s : State) (i) : (s.freeHandle i).mem = s.mem := by simp [State.freeHandle, foldl_mem]

/-! ### Pools and launches -/

@[simp] theorem setPool_mem (s : State) (t p x) : (s.setPool t p x).mem = s.mem := rfl

@[simp] theorem modPool_mem (s : State) (t p f) : (s.modPool t p f).mem = s.mem := by unfold State.modPool; split <;> simp

@[simp] theorem registerPool_mem (s : State) (t p) : (s.registerPool t p).mem = s.mem := by
  unfold State.registerPool
  split
  · rfl
  · exact foldl_fst_mem (fun _ _ => by dsimp only; (repeat' split) <;> simp) _ _

@[simp] theorem wakeAll_mem (s : State) (p kind) : (s.wakeAll p kind).mem = s.mem := by simp [State.wakeAll, foldl_mem, apply_ite State.mem]

@[simp] theorem freePend_mem (s : State) (t e) : (s.freePend t e).mem = s.mem := by simp [State.freePend]

@[simp] theorem releaseLaunch_mem (s : State) (l) : (s.releaseLaunch l).mem = s.mem := by
  unfold State.releaseLaunch
  dsimp only
  (repeat' split) <;> simp

@[simp] theorem freeCore_mem (s : State) (k) : (s.freeCore k).mem = s.mem := by simp [State.freeCore]

@[simp] theorem stopGang_mem (s : State) (g) : (s.stopGang g).mem = s.mem := by
  unfold State.stopGang
  dsimp only
  (repeat' split) <;> simp [foldl_mem]

@[simp] theorem haltLaunch_mem (s : State) (l) : (s.haltLaunch l).mem = s.mem := by simp [State.haltLaunch, foldl_mem]

@[simp] theorem modLaunch_mem (s : State) (l f) : (s.modLaunch l f).mem = s.mem := by unfold State.modLaunch; split <;> simp

/-! ### Results that land, fills, traps -/

@[simp] theorem land_mem (s : State) (k i l) : (s.land k i l).mem = s.mem := by simp [State.land]

@[simp] theorem execResultLanding_keepsMem (t f st) : KeepsMem (execResultLanding t f st) := by
  intro s
  unfold execResultLanding
  dsimp only
  (repeat' split) <;> simp

@[simp] theorem execPendingResultLands_keepsMem (t f st) : KeepsMem (execPendingResultLands t f st) := by
  intro s
  unfold execPendingResultLands
  dsimp only
  split <;> simp

@[simp] theorem walkFetch_mem (s : State) (k n) : (s.walkFetch k n).mem = s.mem := by
  unfold State.walkFetch
  split
  · rfl
  · exact foldl_mem (fun _ _ => homeFetch_mem ..) _ _

@[simp] theorem gotFill_mem (s : State) (k f) : (s.gotFill k f).mem = s.mem := rfl

@[simp] theorem addTlb_mem (s : State) (k e) : (s.addTlb k e).mem = s.mem := rfl

@[simp] theorem addL2_mem (s : State) (t ln l) : (s.addL2 t ln l).mem = s.mem := rfl

@[simp] theorem l2Fetch_mem (s : State) (t job ln) : (s.l2Fetch t job ln).1.mem = s.mem := homeFetch_mem ..

@[simp] theorem l2Line_mem (s : State) (t job ln) : (s.l2Line t job ln).1.mem = s.mem := by
  have herrs (f : SramErr → Bool) := towerErrs_mem s t f
  unfold State.l2Line
  split
  · dsimp only; split <;> simp [herrs]
  · simp

@[simp] theorem addL1_mem (s : State) (k ln l) : (s.addL1 k ln l).mem = s.mem := by simp [State.addL1, foldl_mem]

@[simp] theorem fillLine_mem (s : State) (k ln) : (s.fillLine k ln).1.mem = s.mem := by simp [State.fillLine]

@[simp] theorem askPeer_mem (s : State) (k n pa len) : (s.askPeer k n pa len).mem = s.mem := by
  unfold State.askPeer
  split
  · rfl
  · have hsent := sendFlit_mem { s with uid := s.uid + 1 } (peerOf pa) 0 1 (.load (pa % 2 ^ 41) len s.uid) s.uid k none
    dsimp only
    split <;> next h => rw [h] at hsent; exact hsent

@[simp] theorem askBytes_mem (s : State) (k n pa len) : (s.askBytes k n pa len).mem = s.mem := by
  unfold State.askBytes; dsimp only; (repeat' split) <;> simp [homeFetch_mem]

@[simp] theorem execTrapEntry_keepsMem (t f st code detail syl sinfo) : KeepsMem (execTrapEntry t f st code detail syl sinfo) := by
  intro s
  unfold execTrapEntry
  dsimp only
  split <;> simp

@[simp] theorem execRecoveryRewind_keepsMem (t f st) : KeepsMem (execRecoveryRewind t f st) := by
  intro s
  unfold execRecoveryRewind
  dsimp only
  (repeat' split) <;> simp

/-! ### Gangs -/

@[simp] theorem undoCauses_mem (s : State) (g) : (s.undoCauses g).mem = s.mem := by
  unfold State.undoCauses
  exact foldl_mem (fun _ _ => foldl_mem (fun _ _ => by rfl) _ _) _ _

@[simp] theorem poisonAt_mem (s : State) (job va n) : (s.poisonAt job va n).mem = s.mem := by
  unfold State.poisonAt
  refine foldl_mem (fun u p => ?_) _ _
  split <;> rfl

@[simp] theorem placeGang_mem (s : State) (l x cores) : (s.placeGang l x cores).mem = s.mem := by
  unfold State.placeGang
  extract_lets w gid within start g u v p y q r z
  have hv : v.mem = s.mem := foldl_mem (fun _ _ => by rfl) _ _
  have hp : p.mem = s.mem := by simp only [p]; split <;> simp [foldl_mem, hv]
  have hq : q.mem = s.mem := by
    simp only [q]
    split
    · split <;> simpa [y] using hp
    · exact hp
  split <;> simp [z, r, hq]

@[simp] theorem beginPreempt_mem (s : State) (gang reason v) : (s.beginPreempt gang reason v).mem = s.mem := by simp [State.beginPreempt]

@[simp] theorem stopStrand_mem (s : State) (g k i) : (s.stopStrand g k i).mem = s.mem := by
  unfold State.stopStrand
  dsimp only
  (repeat' split) <;> simp

@[simp] theorem stopCore_mem (s : State) (g k) : (s.stopCore g k).mem = s.mem := by
  unfold State.stopCore
  dsimp only
  (repeat' split) <;> simp [foldl_mem]

@[simp] theorem readOut_mem (s : State) (k) : (s.readOut k).mem = s.mem := by simp [State.readOut, foldl_mem]

@[simp] theorem vfetch_mem (s : State) (t job va n) : (s.vfetch t job va n).1.mem = s.mem :=
  foldl_fst_mem (fun _ _ => by dsimp only; split <;> simp [homeFetch_mem]) _ _

@[simp] theorem startFollow_mem (s : State) (gang g pairs hs late) : (s.startFollow gang g pairs hs late).mem = s.mem := by
  have htouch (s : State) : (pairs.foldl (fun s p => s.touchSlab g.tower p.2) s).mem = s.mem := by exact foldl_mem (fun _ _ => by rfl) _ _
  simp [State.startFollow, foldl_mem, apply_ite State.mem, htouch]

@[simp] theorem rejoinStrand_mem (s : State) (k i) : (s.rejoinStrand k i).mem = s.mem := by
  unfold State.rejoinStrand
  extract_lets x free u
  have hu : u.mem = s.mem := by
    simp only [u]
    split
    · simp [apply_ite State.mem]
    · rfl
  clear_value x u
  generalize x.st = z
  cases z with
  | parked p =>
    cases p with
    | watch => simpa using hu
    | absent h => dsimp only; split <;> simpa using hu
    | join id => dsimp only; split <;> simpa using hu
    | task => dsimp only; split <;> simpa using hu
  | _ => exact hu

@[simp] theorem execGangReturn_keepsMem (gang) : KeepsMem (execGangReturn gang) := by
  intro s
  unfold execGangReturn
  split
  · rfl
  · next g _ =>
    split
    · rfl
    · generalize s.returnCores g = oc, s.launch? g.launch = ol
      cases oc with
      | none => rfl
      | some cs =>
        cases ol with
        | none => rfl
        | some l =>
          extract_lets base
          have hfetch := vfetch_mem s g.tower g.job base g.imageLen
          generalize s.vfetch g.tower g.job base g.imageLen = r at hfetch ⊢
          obtain ⟨u, bad⟩ := r
          refine leaves_ite hfetch ?_
          split
          · exact hfetch
          · exact hfetch
          · extract_lets n one v pairs hs late w x
            have hone (a : State) (e : Nat × Nat) : (one a e).mem = a.mem := by
              simp only [one, modGang_mem, modCore_mem]
              exact foldl_mem (fun _ _ => by simp) _ _
            have hw : w.mem = s.mem := by
              simp only [w, v, modGang_mem, spend_mem]
              exact (foldl_mem hone _ _).trans hfetch
            clear_value w
            have hx : x.mem = s.mem := by simp only [x]; split <;> simpa using hw
            clear_value x
            exact (foldl_mem (fun _ _ => foldl_mem (fun _ _ => by simp) _ _) _ _).trans hx

@[simp] theorem execGbarCompletion_keepsMem (gang) : KeepsMem (execGbarCompletion gang) := by
  intro s
  unfold execGbarCompletion
  split
  · rfl
  · split
    · exact (modGang_mem ..).trans (foldl_mem (fun _ _ => by rfl) _ _)
    · rfl

/-! ### Periods, slices and rate windows -/

@[simp] theorem execPeriodStart_keepsMem : KeepsMem (execPeriodStart) := by intro s; unfold execPeriodStart; split <;> simp

@[simp] theorem execSliceStart_keepsMem (job) : KeepsMem (execSliceStart job) := by
  intro s
  unfold execSliceStart
  dsimp only
  (repeat' split) <;> simp

@[simp] theorem execRateWindowStart_keepsMem : KeepsMem (execRateWindowStart) := by intro s; unfold execRateWindowStart; split <;> simp

/-! ### Completions of engines and arrivals -/

@[simp] theorem failStream_mem (s : State) (k st detail addr) : (s.failStream k st detail addr).mem = s.mem := by
  simp [State.failStream, apply_ite State.mem]

@[simp] theorem finishCmd_mem (s : State) (k e x w) : (s.finishCmd k e x w).mem = s.mem := by simp [State.finishCmd, apply_ite State.mem]

@[simp] theorem execPlaneLoadComplete_keepsMem (t f) : KeepsMem (execPlaneLoadComplete t f) := by
  intro s
  unfold execPlaneLoadComplete
  dsimp only
  (repeat' split) <;> simp

@[simp] theorem execScaleLoadComplete_keepsMem (t f) : KeepsMem (execScaleLoadComplete t f) := by
  intro s
  unfold execScaleLoadComplete
  dsimp only
  (repeat' split) <;> simp

@[simp] theorem execWswapEffect_keepsMem (t f) : KeepsMem (execWswapEffect t f) := by
  intro s
  unfold execWswapEffect
  dsimp only
  (repeat' split) <;> simp

@[simp] theorem execMrdComplete_keepsMem (t f) : KeepsMem (execMrdComplete t f) := by
  intro s
  unfold execMrdComplete
  dsimp only
  (repeat' split) <;> simp

@[simp] theorem execStateEngineComplete_keepsMem (t f) : KeepsMem (execStateEngineComplete t f) := by
  intro s
  unfold execStateEngineComplete
  dsimp only
  split <;> simp

@[simp] theorem execCopyOnWriteComplete_keepsMem (t f) : KeepsMem (execCopyOnWriteComplete t f) := fun _ => rfl

theorem registerArrival_mem (s : State) (t job key) : ∀ u ∈ (s.registerArrival t job key), u.mem = s.mem := by
  unfold State.registerArrival
  dsimp only
  split <;> simp

theorem pushKey_mem (s : State) (tag d key) : ∀ u ∈ s.pushKey tag d key, u.mem = s.mem := by
  unfold State.pushKey
  split
  · simp
  · split
    · simp
    · exact registerArrival_mem _ _ _ _

@[simp] theorem modCmd_mem (s : State) (k e u f) : (s.modCmd k e u f).mem = s.mem := rfl

@[simp] theorem pushKeys_mem (s : State) (k) : (s.pushKeys k).mem = s.mem := by
  unfold State.pushKeys
  refine foldl_mem (fun u x => ?_) _ _
  split
  · split
    · split
      · next h => exact (pushKey_mem _ _ _ _ _ h :)
      · rfl
    · rfl
  · rfl

@[simp] theorem execPushComplete_keepsMem (t f) : KeepsMem (execPushComplete t f) := by
  intro s
  unfold execPushComplete
  dsimp only
  (repeat' split) <;> simp

@[simp] theorem execArrivalRegistration_keepsMem (t job key) : KeepsMem (execArrivalRegistration t job key) := by
  intro s
  unfold execArrivalRegistration
  split
  · next h => exact registerArrival_mem _ _ _ _ _ h
  · rfl

/-! ### The state pager and moved states -/

@[simp] theorem startMove_mem (s : State) (t i j inward bytes) : (s.startMove t i j inward bytes).mem = s.mem := by simp [State.startMove]

theorem startOut_mem (s : State) (t i j) : ∀ u ∈ (s.startOut t i j), u.mem = s.mem := by simp [State.startOut]

theorem startIn_mem (s : State) (t i first) : ∀ u ∈ s.startIn t i first, u.mem = s.mem := by
  unfold State.startIn
  dsimp only
  split
  · simp
  · intro u hu
    obtain ⟨v, -, hv⟩ := Option.bind_eq_some_iff.1 hu
    exact startOut_mem _ _ _ _ _ hv

theorem serveFault_mem (s : State) (t) : ∀ u ∈ s.serveFault t, u.mem = s.mem := by
  intro u hu
  obtain ⟨e, -, he⟩ := pick1_some hu
  dsimp only at he
  split at he
  · cases he; simp
  · split at he
    · exact startIn_mem _ _ _ _ _ he
    · cases he

theorem serveHint_mem (s : State) (t hint) : ∀ u ∈ s.serveHint t hint, u.mem = s.mem := by
  have hin (i : Nat) (done : State → State) (hd : ∀ v, (done v).mem = v.mem) : ∀ u ∈ (s.startIn t i []).map fun u => if (u.handle i).res = 2 then done u else u, u.mem = s.mem := by
    intro u hu
    obtain ⟨v, hv, rfl⟩ := Option.map_eq_some_iff.1 hu
    split <;> simp [hd, startIn_mem _ _ _ _ _ hv]
  have hout (i j : Nat) (done : State → State) (hd : ∀ v, (done v).mem = v.mem) : ∀ u ∈ (s.startOut t i j).map done, u.mem = s.mem := by
    intro u hu
    obtain ⟨v, hv, rfl⟩ := Option.map_eq_some_iff.1 hu
    rw [hd, startOut_mem _ _ _ _ _ hv]
  unfold State.serveHint
  dsimp only
  repeat' split
  · simp
  · simp
  · simp
  · simp
  · exact hin _ _ fun _ => rfl
  · simp
  · simp
  · exact hout _ _ _ fun _ => rfl
  · simp

theorem serveHints_mem (s : State) (t) : ∀ u ∈ s.serveHints t, u.mem = s.mem := by
  intro u hu
  obtain ⟨e, -, he⟩ := pick1_some hu
  exact serveHint_mem _ _ _ _ he

@[simp] theorem execPagerServe_keepsMem (t) : KeepsMem (execPagerServe t) := by
  intro s
  unfold execPagerServe
  split
  · next h => exact serveFault_mem _ _ _ h
  · split
    · next h => exact serveHints_mem _ _ _ h
    · rfl

@[simp] theorem endMove_mem (s : State) (t i) : (s.endMove t i).mem = s.mem := rfl

@[simp] theorem readState_mem (s : State) (i) : (s.readState i).mem = s.mem := by simp [State.readState, foldl_mem]

@[simp] theorem tilesOf_mem (s : State) (h) : (s.tilesOf h).1.mem = s.mem := by
  unfold State.tilesOf
  exact foldl_fst_mem (fun _ _ => by simp) _ _

@[simp] theorem sendState_mem (s : State) (peer dst h tag k) : (s.sendState peer dst h tag k).1.mem = s.mem := by
  unfold State.sendState
  refine (foldl_fst_mem (fun a f => ?_) _ _).trans (tilesOf_mem ..)
  split <;> simp

theorem placeTiles_mem (s : State) (t fmt16 l) : ∀ u ∈ s.placeTiles t fmt16 l, u.1.mem = s.mem := by
  refine foldl_keeps (fun o : Option (State × List Word) => ∀ u ∈ o, u.1.mem = s.mem) _ (fun o e ho => ?_) l (by simp)
  cases o with
  | none => simp
  | some v =>
    have hv := ho v rfl
    dsimp only
    (repeat' split) <;> simpa using hv

/-! ### Banks -/

@[simp] theorem setBank_mem (s : State) (t slab b x) : (s.setBank t slab b x).mem = s.mem := rfl

@[simp] theorem execRetentionEntry_keepsMem (t slab bank) : KeepsMem (execRetentionEntry t slab bank) := by
  intro s
  unfold execRetentionEntry
  dsimp only
  split <;> simp

@[simp] theorem poisonWaiting_mem (s : State) (t key) : (s.poisonWaiting t key).mem = s.mem := by
  unfold State.poisonWaiting
  refine foldl_mem (fun u e => ?_) _ _
  exact foldl_mem (fun _ _ => by rfl) _ _

@[simp] theorem execRetentionExit_keepsMem (t slab bank) : KeepsMem (execRetentionExit t slab bank) := by
  intro s
  unfold execRetentionExit
  dsimp only
  (repeat' split) <;> simp

/-! ### Tasks, fences and waits -/

@[simp] theorem execTaskDispatch_keepsMem (t) : KeepsMem (execTaskDispatch t) := by intro s; unfold execTaskDispatch; split <;> simp

@[simp] theorem execTaskStart_keepsMem (t f) : KeepsMem (execTaskStart t f) := by intro s; unfold execTaskStart; dsimp only; (repeat' split) <;> simp

@[simp] theorem writeSome_mem (s : State) (k) : (s.writeSome k).mem = s.mem := by simp [State.writeSome, foldl_mem]

@[simp] theorem execTranslationDropAck_keepsMem (t f st) : KeepsMem (execTranslationDropAck t f st) := by
  intro s
  unfold execTranslationDropAck
  dsimp only
  (repeat' split) <;> simp

@[simp] theorem execWaitRecheck_keepsMem (t f st) : KeepsMem (execWaitRecheck t f st) := by
  intro s
  unfold execWaitRecheck
  extract_lets k x
  clear_value x
  generalize x.st = z
  cases z with
  | parked p =>
    cases p with
    | watch =>
      dsimp only
      split
      · have hfetch (b c : Prop) [Decidable b] [Decidable c] (pa : Nat) : (if b then s else if c then (s.homeFetch t (s.jobOf k) pa 64).1 else s).mem = s.mem := by
          split
          · rfl
          · split <;> simp [homeFetch_mem]
        refine leaves_ite ?_ ?_ <;> simp [hfetch]
      · rfl
    | absent i => dsimp only; split <;> simp
    | join id => dsimp only; split <;> simp
    | task => dsimp only; split <;> simp
  | _ => rfl

/-! ### Migration -/

@[simp] theorem propose_mem (s : State) (t user job va frame e) : (s.propose t user job va frame e).mem = s.mem := by
  simp [State.propose, apply_ite State.mem]

@[simp] theorem execHotPageProposal_keepsMem (t user job va frame) : KeepsMem (execHotPageProposal t user job va frame) := by
  intro s
  unfold execHotPageProposal
  dsimp only
  (repeat' split) <;> simp

@[simp] theorem execMigrationFreeze_keepsMem (t k) : KeepsMem (execMigrationFreeze t k) := by
  intro s
  unfold execMigrationFreeze
  dsimp only
  (repeat' split) <;> simp

@[simp] theorem forgetPage_mem (s : State) (base bits) : (s.forgetPage base bits).mem = s.mem := rfl

@[simp] theorem dropPage_mem (s : State) (base bits) : (s.dropPage base bits).mem = s.mem := by simp [State.dropPage, foldl_mem]

@[simp] theorem rekey_mem (s : State) (f) : (s.rekey f).mem = s.mem := rfl

/-! ### The host and the mailbox -/

@[simp] theorem hostDrop_mem (s : State) (fn) : (s.hostDrop fn).mem = s.mem := rfl

@[simp] theorem execEqcfgWrite_keepsMem (fn v) : KeepsMem (execEqcfgWrite fn v) := fun _ => rfl

@[simp] theorem execEqheadWrite_keepsMem (fn v) : KeepsMem (execEqheadWrite fn v) := by intro s; unfold execEqheadWrite; dsimp only; split <;> simp

@[simp] theorem doorbell_mem (s : State) : s.doorbell.mem = s.mem := rfl

@[simp] theorem registerPut_keepsMem (fn off v) : KeepsMem fun s => s.registerPut fn off v := by
  intro s
  have hcfg := execEqcfgWrite_keepsMem fn (v.setWidth 32) s
  have hhead := execEqheadWrite_keepsMem fn (v.setWidth 32) s
  simp only [State.registerPut]
  (repeat' split) <;> simp [hcfg, hhead]

@[simp] theorem execMsixMessage_keepsMem (fn) : KeepsMem (execMsixMessage fn) := by intro s; unfold execMsixMessage; dsimp only; split <;> simp

@[simp] theorem mailEnd_mem (s : State) (r) : (s.mailEnd r).mem = s.mem := rfl

@[simp] theorem createJob_mem (s : State) (j) : (s.createJob j).mem = s.mem := rfl

@[simp] theorem execCreate_keepsMem (addr) : KeepsMem (execCreate addr) := by intro s; unfold execCreate; split <;> simp

@[simp] theorem execCheckpoint_keepsMem : KeepsMem (execCheckpoint) := fun _ => rfl

@[simp] theorem areaRead_mem (s : State) (j) : (s.areaRead j).mem = s.mem := by
  unfold State.areaRead
  refine (foldl_mem (fun u g => ?_) _ _).trans (vfetch_mem ..)
  split <;> simp

theorem restoreTiles_mem (s : State) (t l seen) : ∀ u ∈ s.restoreTiles t l seen, u.1.mem = s.mem := by
  refine foldl_keeps (fun o : Option (State × List Word × List (Word × Nat)) => ∀ u ∈ o, u.1.mem = s.mem) _ (fun o e ho => ?_) l (by simp)
  cases o with
  | none => simp
  | some v =>
    have hv := ho v rfl
    dsimp only
    (repeat' split) <;> simpa using hv

@[simp] theorem execParam_keepsMem (num tower value) : KeepsMem (execParam num tower value) := by
  intro s
  simp [execParam, Out.Leaves, apply_ite State.mem]

@[simp] theorem execPower_keepsMem : KeepsMem (execPower) := fun _ => rfl

@[simp] theorem readForImage_mem (s : State) (t w) : (s.readForImage t w).1.mem = s.mem := by
  unfold State.readForImage
  dsimp only
  (repeat' split) <;> simp

@[simp] theorem imageRead_mem (s : State) (n) : (s.imageRead n).1.mem = s.mem := by
  unfold State.imageRead
  refine foldl_fst_mem (fun a e => ?_) _ _
  refine (foldl_fst_mem (fun _ _ => by simp) _ _).trans ?_
  exact (foldl_fst_mem (fun _ _ => by simp [homeFetch_mem]) _ _).trans (homeFetch_mem ..)

/-! ### Links -/

@[simp] theorem execHbmParityRetry_keepsMem (t stack pc lane tries wr addr mism ok) : KeepsMem (execHbmParityRetry t stack pc lane tries wr addr mism ok) := by
  intro s
  unfold execHbmParityRetry
  dsimp only
  split <;> simp

@[simp] theorem pushAnswer_mem (s : State) (k u w) : (s.pushAnswer k u w).mem = s.mem := rfl

@[simp] theorem moveAnswer_mem (s : State) (k t w) : (s.moveAnswer k t w).mem = s.mem := rfl

@[simp] theorem dupGone_mem (s : State) (d) : (s.dupGone d).mem = s.mem := by unfold State.dupGone; split <;> simp

@[simp] theorem failFlit_mem (s : State) (f) : (s.failFlit f).mem = s.mem := by unfold State.failFlit; dsimp only; (repeat' split) <;> simp

@[simp] theorem portDown_mem (s : State) (p) : (s.portDown p).mem = s.mem := by
  unfold State.portDown
  refine (foldl_mem (fun u f => ?_) _ _).trans (foldl_mem (fun _ _ => by simp) _ _)
  have hsent := sendFlit_mem u f.dst f.vl f.ty f.payload f.tag f.core f.who
  split
  · rfl
  · split <;> next h => rw [h] at hsent; simpa using hsent

@[simp] theorem learn_mem (s : State) (p f dev) : (s.learn p f dev).mem = s.mem := by simp [State.learn, foldl_mem, apply_ite State.mem]

@[simp] theorem trainFlit_mem (s : State) (p raw) : (s.trainFlit p raw).mem = s.mem := by unfold State.trainFlit; dsimp only; (repeat' split) <;> simp

@[simp] theorem replay_mem (s : State) (p) : (s.replay p).mem = s.mem := by simp [State.replay, apply_ite State.mem]

@[simp] theorem pumpPort_mem (s : State) (p) : (s.pumpPort p).mem = s.mem := rfl

@[simp] theorem execFlitReceive_keepsMem (port raw) : KeepsMem (execFlitReceive port raw) := by
  intro s
  unfold execFlitReceive
  dsimp only
  (repeat' split) <;> simp

@[simp] theorem execLinkRetrain_keepsMem (port ok) : KeepsMem (execLinkRetrain port ok) := by
  intro s
  unfold execLinkRetrain
  dsimp only
  (repeat' split) <;> simp

@[simp] theorem execPowerRemoval_keepsMem : KeepsMem (execPowerRemoval) := by intro s; unfold execPowerRemoval; split <;> simp

/-! ### Parts of a cycle -/

@[simp] theorem execRetentionEntryEnd_keepsMem (t slab bank) : KeepsMem (execRetentionEntryEnd t slab bank) := by
  intro s
  unfold execRetentionEntryEnd
  dsimp only
  split <;> simp

@[simp] theorem holdCounters_mem (s : State) : s.holdCounters.mem = s.mem := rfl

@[simp] theorem readUse_mem (s : State) (t job pa n) : (s.readUse t job pa n).1.mem = s.mem := by
  unfold State.readUse
  split
  · rfl
  · exact foldl_fst_mem (fun _ _ => by dsimp only; split <;> simp [homeFetch_mem]) _ _

@[simp] theorem vused_mem (s : State) (t job va n) : (s.vused t job va n).1.mem = s.mem :=
  foldl_fst_mem (fun _ _ => by dsimp only; split <;> simp) _ _

theorem engineBytes_mem (s v : State) (k job a n) : ∀ u, s.engineBytes v k job a n = .ok u → u.2.mem = s.mem := by
  intro u h
  unfold State.engineBytes at h
  dsimp only at h
  (repeat' split at h) <;> cases h <;> simp

@[simp] theorem viewed_mem (s : State) (k) : (s.viewed k).mem = s.mem := rfl

@[simp] theorem transferCharge_mem (s : State) (k x u) : (s.transferCharge k x u).mem = s.mem := by unfold State.transferCharge; split <;> simp

@[simp] theorem admitMoving_mem (s : State) (k e fuel) : (s.admitMoving k e fuel).mem = s.mem := by
  induction fuel generalizing s with
  | zero => rfl
  | succ n ih => unfold State.admitMoving; (repeat' split) <;> simp [ih]

@[simp] theorem startGoesOn_mem (s : State) : s.startGoesOn.mem = s.mem := by unfold State.startGoesOn; split <;> simp

@[simp] theorem select_mem (s : State) (k) : (s.select k).mem = s.mem := by
  unfold State.select
  (repeat' split) <;> simp

@[simp] theorem fetchStop_mem (s : State) (k i e) : (s.fetchStop k i e).mem = s.mem := by unfold State.fetchStop; split <;> simp

@[simp] theorem stubFails_mem (s : State) (k i) : (s.stubFails k i).mem = s.mem := rfl

theorem inStub_mem (s t : State) (k i n) : (s.inStub t k i n).mem = s.mem ∨ (s.inStub t k i n).mem = t.mem := by
  unfold State.inStub; dsimp only; (repeat' split) <;> simp

@[simp] theorem bundleUse_mem (s : State) (k b) : (s.bundleUse k b).mem = s.mem := by unfold State.bundleUse; split <;> simp

@[simp] theorem stubEnds_mem (s : State) (k i a) : (s.stubEnds k i a).mem = s.mem := rfl

@[simp] theorem groupOf_mem (s : State) (k i f) : (s.groupOf k i f).1.mem = s.mem := rfl

@[simp] theorem countCycle_mem (s : State) : s.countCycle.mem = s.mem := by simp [State.countCycle, foldl_mem, apply_ite State.mem]

@[simp] theorem strike_mem (s : State) (u) : (s.strike u).mem = s.mem := by unfold State.strike; dsimp only; (repeat' split) <;> simp

@[simp] theorem upsetsEnd_mem (s : State) : s.upsetsEnd.mem = s.mem := by simp [State.upsetsEnd, foldl_mem]

theorem landCycle_mem (s : State) (live) : (s.landCycle live).mem = s.mem := by
  have hland (u : State) (k i n : Nat) : (u.rerun (execResultLanding (k / 16) (k % 16) i) n).mem = u.mem := rerun_mem (execResultLanding_keepsMem _ _ _) _ _
  have hpend (u : State) (k i n : Nat) : (u.rerun (execPendingResultLands (k / 16) (k % 16) i) n).mem = u.mem := rerun_mem (execPendingResultLands_keepsMem _ _ _) _ _
  simp [State.landCycle, foldl_mem, hland, hpend]

@[simp] theorem strandsEnd_mem (s : State) (k) : (s.strandsEnd k).mem = s.mem := by
  unfold State.strandsEnd
  refine foldl_mem (fun u i => ?_) _ _
  dsimp only
  split
  · split <;> simp
  · exact run_mem (execRecoveryRewind_keepsMem _ _ _) _
  · rfl

@[simp] theorem chooseUnits_mem (s : State) (x r n) : (s.chooseUnits x r n).1.mem = s.mem := rfl

@[simp] theorem codesAt_mem (s v : State) (k job r l) : (s.codesAt v k job r l).1.mem = s.mem := by
  induction l generalizing s with
  | nil => rfl
  | cons n ns ih =>
    rw [State.codesAt]
    dsimp only
    split
    · rfl
    · split
      · rfl
      · next h => exact (ih _).trans (engineBytes_mem _ _ _ _ _ _ _ h)

@[simp] theorem sendCodes_mem (s : State) (k x r l last) : (s.sendCodes k x r l last).1.mem = s.mem := by
  unfold State.sendCodes
  split
  · next pa _ _ _ =>
    have hruns (runs : List (Nat × List Nat)) (b : Bool) : (runs.foldl (fun acc c =>
        if acc.2 then acc.1.sendFlit (peerOf pa.toNat) 0 2 (.pushData (pa.toNat % 2 ^ 41) r.sf r.d.elems c.1 c.2 x.tag) x.tag k else acc) (s, b)).1.mem = s.mem := by
      refine foldl_fst_mem (fun a c => ?_) _ _
      split <;> simp
    dsimp only
    split
    · rw [sendFlit_mem, hruns]
    · exact hruns ..
  · rfl

@[simp] theorem readCycle_mem (s v : State) (k y r n) : (s.readCycle v k y r n).1.mem = s.mem := by
  have hcodes := codesAt_mem s v k y.job r (y.todo.take n)
  unfold State.readCycle
  split
  · next h => rwa [h] at hcodes
  · next t l h =>
    rw [h] at hcodes
    dsimp only
    split
    · have hsent := sendCodes_mem t k y r l (decide (y.got + l.length = r.d.elems))
      split <;> next hs => rw [hs] at hsent; exact hsent.trans hcodes
    · split <;> exact hcodes

@[simp] theorem registerTower_mem (s : State) (t) : (s.registerTower t).mem = s.mem := by
  unfold State.registerTower
  exact (foldl_mem (fun _ _ => foldl_mem (fun _ _ => by rfl) _ _) _ _).trans (foldl_mem (fun _ _ => by simp) _ _)

@[simp] theorem retireTask_mem (s : State) (t y job uid w) : (s.retireTask t y job uid w).mem = s.mem := by simp [State.retireTask]

@[simp] theorem wakeDone_mem (s : State) (l) : (s.wakeDone l).mem = s.mem := by simp [State.wakeDone, foldl_mem, apply_ite State.mem]

@[simp] theorem finishPool_mem (s : State) (t n) : (s.finishPool t n).mem = s.mem := by unfold State.finishPool; split <;> simp

@[simp] theorem moverTick_mem (s : State) (t job g reqs busy) : (s.moverTick t job g reqs busy).1.mem = s.mem := by
  unfold State.moverTick
  split
  · rfl
  · split
    · rfl
    · split <;> simp

@[simp] theorem movesTick_mem (s : State) (t) : (s.movesTick t).mem = s.mem := by unfold State.movesTick; split <;> simp

@[simp] theorem pagerTick_mem (s : State) (t) : (s.pagerTick t).mem = s.mem := by simp [State.pagerTick, foldl_mem, apply_ite State.mem]

@[simp] theorem wqTick_mem (s : State) (t) : (s.wqTick t).mem = s.mem := rfl

@[simp] theorem banksEnd_mem (s : State) (t) : (s.banksEnd t).mem = s.mem := by
  unfold State.banksEnd
  refine foldl_mem (fun u b => ?_) _ _
  rw [run_mem (execRetentionExit_keepsMem _ _ _), run_mem (execRetentionEntryEnd_keepsMem _ _ _), run_mem (execRetentionEntry_keepsMem _ _ _)]

@[simp] theorem proposeNext_mem (s : State) (t) : (s.proposeNext t).mem = s.mem := by unfold State.proposeNext; dsimp only; (repeat' split) <;> simp

@[simp] theorem readScales_mem (s : State) (k x) : (s.readScales k x).1.mem = s.mem := by
  unfold State.readScales
  split
  · exact foldl_fst_mem (fun _ _ => by dsimp only; split <;> simp [homeFetch_mem]) _ _
  · rfl

@[simp] theorem scaleTick_mem (s : State) (k) : (s.scaleTick k).mem = s.mem := by unfold State.scaleTick; dsimp only; (repeat' split) <;> simp

@[simp] theorem arrayFault_mem (s : State) (k i seg pc bank) : (s.arrayFault k i seg pc bank).mem = s.mem := by
  simp [State.arrayFault, apply_ite State.mem]

@[simp] theorem readErrs_mem (s : State) (k) : (s.readErrs k).mem = s.mem := by unfold State.readErrs; dsimp only; (repeat' split) <;> simp

@[simp] theorem mmaErrs_mem (s : State) (k) : (s.mmaErrs k).mem = s.mem := by unfold State.mmaErrs; dsimp only; split <;> simp [apply_ite State.mem]

@[simp] theorem modHead_mem (s : State) (k e f) : (s.modHead k e f).mem = s.mem := rfl

@[simp] theorem writerProgress_mem (s : State) (k) : (s.writerProgress k).mem = s.mem := by
  unfold State.writerProgress
  dsimp only
  (repeat' split) <;> simp

@[simp] theorem engineTick_mem (s : State) (k frozen) : (s.engineTick k frozen).mem = s.mem := by simp [State.engineTick, apply_ite State.mem]

@[simp] theorem takeSnap_mem (s : State) (k i) : (s.takeSnap k i).mem = s.mem := rfl

@[simp] theorem tick_mem (s : State) (fz) : (s.tick fz).mem = s.mem := by simp [State.tick, foldl_mem, apply_ite State.mem]

/-! ### What arrives on links -/

@[simp] theorem respond_mem (s : State) (peer tag status bs) : (s.respond peer tag status bs).mem = s.mem := by simp [State.respond]

@[simp] theorem modInbound_mem (s : State) (u f) : (s.modInbound u f).mem = s.mem := rfl

@[simp] theorem peerRead_mem (s : State) (pa n) : (s.peerRead pa n).1.mem = s.mem := homeFetch_mem ..

@[simp] theorem inboundPush_mem (s : State) (peer pa tag f) : (s.inboundPush peer pa tag f).mem = s.mem := by unfold State.inboundPush; split <;> simp

@[simp] theorem gotResponse_mem (s : State) (tag status bs) : (s.gotResponse tag status bs).mem = s.mem := by unfold State.gotResponse; split <;> simp

@[simp] theorem keepDup_mem (s : State) (a bs) : (s.keepDup a bs).mem = s.mem := rfl

@[simp] theorem gotAcks_mem (s : State) (n) : (s.gotAcks n).mem = s.mem := by simp [State.gotAcks, foldl_mem]

@[simp] theorem peerWatches_mem (s : State) : s.peerWatches.mem = s.mem := by simp [State.peerWatches]

end Sys2Proof.Machine
end

section
/-! The canonical form of memory (log entry 4, R198): what has it keeps it through the accesses that reach memory, each of which writes by `putMem`. -/

set_option Elab.async false -- one proof at a time: many at once exhaust the memory of a build

namespace Sys2Proof.Machine

variable {s u : State}

/-- Memory is in its canonical form (log entry 4). -/
def State.Canon (s : State) : Prop := Memory.wf s.mem = true

/-- An event that keeps the canonical form. -/
def KeepsForm (f : State → Out) : Prop := ∀ s, s.Canon → (f s).Leaves State.Canon

theorem KeepsMem.keepsForm {f : State → Out} (hf : KeepsMem f) : KeepsForm f := by
  intro s h
  have hs := hf s
  generalize f s = o at hs ⊢
  cases o with
  | next t => rw [leaves_next] at hs ⊢; rw [State.Canon, hs]; exact h
  | _ => trivial

namespace State.Canon

theorem same (h : s.Canon) (e : u.mem = s.mem := by simp) : u.Canon := by rw [Canon, e]; exact h

theorem fst {γ : Type} {r : State × γ} {o : γ} (h : r.1.Canon) (e : r = (u, o)) : u.Canon := by rw [e] at h; exact h

theorem foldl {β : Type} {f : State → β → State} (h : s.Canon) (hf : ∀ u x, u.Canon → (f u x).Canon) (l : List β) : (l.foldl f s).Canon :=
  foldl_keeps State.Canon f hf l h

theorem foldl_fst {β γ : Type} {f : State × γ → β → State × γ} {a : State × γ} (h : a.1.Canon) (hf : ∀ b x, b.1.Canon → (f b x).1.Canon) (l : List β) :
    (l.foldl f a).1.Canon :=
  foldl_keeps (fun b : State × γ => b.1.Canon) f hf l h

theorem foldl_some {α β : Type} {f : Option α → β → Option α} {p : α → Prop} {a : α} (h : p a) (hn : ∀ x, f none x = none)
    (hf : ∀ u x, p u → ∀ v ∈ f (some u) x, p v) (l : List β) : ∀ v ∈ l.foldl f (some a), p v :=
  foldl_keeps (fun o : Option α => ∀ v ∈ o, p v) f (fun o x ho => by
    cases o with
    | none => simp [hn]
    | some u => exact hf u x (ho u rfl)) l (by simpa using h)

theorem run {f : State → Out} (h : s.Canon) (hf : KeepsForm f) : (s.run f).Canon := by
  have hs := hf s h
  unfold State.run
  split
  · next t ht => rwa [ht] at hs
  · exact h

theorem rerun {f : State → Out} (h : s.Canon) (hf : KeepsForm f) (n) : (s.rerun f n).Canon := by
  induction n generalizing s with
  | zero => exact h
  | succ n ih => exact ih (h.run hf)

/-! ## Performing accesses -/

theorem putMem (h : s.Canon) (cells) : (s.putMem cells).Canon := wf_putMem h cells
theorem performHome (h : s.Canon) (t j cells po near) : (s.performHome t j cells po near).Canon := wf_performHome h t j cells po near
theorem sendHome (h : s.Canon) (t e) : (s.sendHome t e).Canon := wf_sendHome h t e
theorem poke (h : s.Canon) (a bs) : (s.poke a bs).Canon := h.putMem _

theorem pushHome (h : s.Canon) (t f) : (s.pushHome t f).Canon := by
  unfold State.pushHome
  dsimp only
  split
  · exact h
  · refine h.foldl (fun u e hu => ?_) _
    split
    · exact hu.sendHome t e
    · exact hu

theorem recalls (h : s.Canon) (pa) : (s.recall pa).Canon := by
  unfold State.recall
  extract_lets ln v w
  have hv : v.Canon := by
    simp only [v]
    exact h.foldl (fun u e hu => by exact hu.same) _
  have hw : w.Canon := by
    simp only [w]
    exact hv.foldl (fun u t hu => by exact hu.pushHome t _) _
  clear_value w
  exact hw.same rfl

theorem homeAtomic (h : s.Canon) (t job pa op dbl x cmp red) : (s.homeAtomic t job pa op dbl x cmp red).1.Canon := by
  unfold State.homeAtomic
  extract_lets n home r steps v
  have hv : v.Canon := (h.recalls pa).same (by simp [v, r])
  clear_value v
  generalize v.physRead pa n = r
  obtain ⟨bs, po⟩ := r
  have hnew (o : Option Nat) (cells : Nat → List Host.Cell) : (match o with | some w => v.performHome t job (cells w) po | none => v.hotCount t pa).Canon := by
    split
    · exact hv.performHome ..
    · exact hv.same
  dsimp only
  split
  · exact (hnew _ _).same (wqNote_mem ..)
  · exact hnew _ _

theorem performAtom (h : s.Canon) (k e) : (s.performAtom k e).Canon := by
  have hat := h.homeAtomic (towerOf k) e.job e.pa e.op e.dbl e.operand e.comparand (decide (e.kind = .red))
  unfold State.performAtom
  extract_lets t
  generalize s.homeAtomic t e.job e.pa e.op e.dbl e.operand e.comparand (decide (e.kind = .red)) = r at hat ⊢
  obtain ⟨v, old, po, new⟩ := r
  dsimp only
  split
  · refine same ?_ (resolve_mem ..)
    split
    · exact hat.same
    · exact hat
  · split
    · exact hat.same
    · exact hat

theorem performEntry (h : s.Canon) (k e) : (s.performEntry k e).Canon := by
  unfold State.performEntry
  dsimp only
  split
  · exact h.same
  · split
    · exact h.same
    · split
      · exact h.performHome ..
      · split
        · exact h.same
        · split
          · exact h
          · exact h.performAtom k e

theorem performOne (h : s.Canon) (k e) : (s.performOne k e).Canon := by
  unfold State.performOne
  extract_lets v
  have hv : v.Canon := by
    simp only [v]
    split
    · exact h.recalls _
    · exact h
  clear_value v
  split
  · exact hv
  · exact hv.same.performEntry k e

theorem flush (h : s.Canon) (k i f) : (s.flush k i f).Canon := by
  refine h.foldl (fun u e hu => ?_) _
  split
  · exact hu.performOne k e
  · exact hu

theorem flushAll (h : s.Canon) (k i) : (s.flushAll k i).Canon := h.flush k i _

theorem release (h : s.Canon) (k i) : (s.release k i).Canon := ((h.flushAll k i).same (writeBack_mem _ k)).pushHome _ _

theorem scopePush (h : s.Canon) (k i n sc) : (s.scopePush k i n sc).Canon := by
  unfold State.scopePush
  dsimp only
  split
  · exact h.flush ..
  · exact (h.flush ..).pushHome _ _

theorem loadPush (h : s.Canon) (k i c loc n coh) : (s.loadPush k i c loc n coh).Canon := (h.flush ..).pushHome _ _

theorem post (h : s.Canon) (k e) : (s.post k e).Canon := by
  unfold State.post
  extract_lets v
  have hv : v.Canon := by
    simp only [v]
    split
    · split
      · exact h.performOne ..
      · exact h
    · exact h
  exact hv

theorem storeDirect (h : s.Canon) (k i c ps bs) : (s.storeDirect k i c ps bs).Canon := by
  induction ps generalizing s bs with
  | nil => exact h
  | cons p ps ih => exact ih (h.post ..) _

theorem storeBytes (h : s.Canon) (k i c a bs) : ∀ u, s.storeBytes k i c a bs = .ok u → u.Canon := by
  intro u hu
  unfold State.storeBytes at hu
  dsimp only at hu
  (repeat' split at hu) <;> cases hu
  · exact h.same
  · exact h.storeDirect ..

/-! ## Loads -/

theorem readPart (h : s.Canon) (k i c p) : ∀ u, s.readPart k i c p = .ok u → u.1.Canon := by
  intro u hu
  unfold State.readPart at hu
  extract_lets coh v w at hu
  have hw : w.Canon := by
    refine loadPush ?_ ..
    simp only [v]
    split
    · exact h.same
    · exact h
  clear_value w
  split at hu
  · cases hu
  · split at hu
    · cases hu
      exact hw.same
    · split at hu
      · split at hu
        · split at hu <;> (cases hu; exact hw)
        · cases hu
      · dsimp only at hu
        split at hu
        · exact hw.same (l1Read_mem _ _ _ _ _ _ _ _ hu)
        · split at hu
          · cases hu; exact hw
          · cases hu

theorem readParts (h : s.Canon) (k i c ps) : ∀ u, s.readParts k i c ps = .ok u → u.1.Canon := by
  induction ps generalizing s with
  | nil => intro u hu; cases hu; exact h
  | cons p ps ih =>
    intro u hu
    rw [State.readParts] at hu
    split at hu
    · split at hu <;> cases hu
    · cases hu
    · next v _ _ hp =>
      have hv : v.Canon := h.readPart k i c p _ hp
      have hrest := ih (hv.same (rowErrs_mem v k i fun l => l.phys == p.line))
      dsimp only at hu
      split at hu
      · cases hu
      · next hr =>
        cases hu
        exact (hrest _ hr :)

theorem loadBytes (h : s.Canon) (k i c a n) : ∀ u, s.loadBytes k i c a n = .ok u → u.1.Canon := by
  intro u hu
  unfold State.loadBytes at hu
  split at hu
  · cases hu
  · dsimp only at hu
    split at hu
    · exact h.readParts _ _ _ _ _ hu
    · cases hu

theorem readRecord (h : s.Canon) (k i a) : ∀ u, s.readRecord k i a = .ok u → u.1.Canon := by
  intro u hu
  unfold State.readRecord at hu
  split at hu
  · cases hu
  · split at hu
    · cases hu
    · next hl =>
      split at hu
      · cases hu
      · cases hu
        exact h.loadBytes _ _ _ _ _ _ hl

end State.Canon

end Sys2Proof.Machine
end

section
/-! The canonical form of memory through tiles and state handles, writes by virtual address, events to the host and task rings. -/

set_option Elab.async false -- one proof at a time: many at once exhaust the memory of a build

namespace Sys2Proof.Machine

variable {s u : State}
namespace State.Canon

/-! ## States and their tiles -/

theorem setTileWords (h : s.Canon) (arr ws) : (s.setTileWords arr ws).Canon := h.poke ..
theorem setTileWord (h : s.Canon) (arr i w) : (s.setTileWord arr i w).Canon := h.poke ..

theorem mapTileWords (h : s.Canon) (e f) : (s.mapTileWords e f).Canon := by
  unfold State.mapTileWords
  exact h.foldl (fun u a hu => by exact hu.setTileWords ..) _

theorem tilesOut (h : s.Canon) (i) : (s.tilesOut i).Canon := by
  unfold State.tilesOut
  exact (h.mapTileWords _ _).same (modTower_mem ..)

theorem placeFor (h : s.Canon) (i tile fuel wait) : ∀ u ∈ s.placeFor i tile fuel wait, u.1.Canon := by
  induction fuel generalizing s wait with
  | zero => simp [State.placeFor]
  | succ n ih =>
    rw [State.placeFor]
    dsimp only
    split
    · simpa using h
    · split
      · simpa using h
      · split
        · simp
        · next v _ =>
          split
          · simp
          · exact ih ((h.tilesOut v).same (by simp)) _

theorem ownTile (h : s.Canon) (i tile) : ∀ u ∈ s.ownTile i tile, u.1.Canon := by
  unfold State.ownTile
  dsimp only
  split
  · simpa using h
  · have hplace := h.placeFor i tile (s.handles.length + 1) 0
    split
    · simp
    · next v wait hp =>
      have hv : v.Canon := hplace _ hp
      simp only [Option.mem_def, Option.some.injEq, forall_eq']
      split
      · exact hv
      · exact hv.same
    · next v p wait hp =>
      have hv : v.Canon := hplace _ hp
      simp only [Option.mem_def, Option.some.injEq, forall_eq']
      exact (hv.same.setTileWord ..).same (modHandle_mem ..)

theorem newHandle (h : s.Canon) (t job fmt16 res words) : ∀ u, s.newHandle t job fmt16 res words = .ok u → u.1.Canon := by
  intro u hu
  unfold State.newHandle at hu
  split at hu
  · cases hu
  · split at hu
    · cases hu
    · next ha =>
      cases hu
      exact ((h.same (arenaAlloc_mem _ _ _ _ ha)).setTileWords ..).same (setHandle_mem ..)

theorem avgInto (h : s.Canon) (d l) : ∀ u ∈ s.avgInto d l, u.Canon := by
  refine foldl_some (p := State.Canon) h (fun _ => rfl) (fun u e hu => ?_) l
  dsimp only
  split
  · simp
  · next ho =>
    simp only [Option.mem_def, Option.some.injEq, forall_eq']
    exact (hu.ownTile d e.1 _ ho).same (putTile_mem ..)

theorem performState (h : s.Canon) (t o) : ∀ u ∈ s.performState t o, u.Canon := by
  unfold State.performState
  dsimp only
  split
  · split
    · simp
    · split
      · simpa using h.same
      · next hr =>
        split at hr
        · cases hr
        · simpa using (h.newHandle _ _ _ _ _ _ hr).same
  · split
    · simp
    · split
      · simpa using h
      · simp only [Option.mem_def, Option.some.injEq, forall_eq']
        refine (setTileWords ?_ ..).same (modHandle_mem ..)
        refine same ?_ (modTower_mem ..)
        split
        · split
          · exact h.same
          · exact h.same
        · exact h
  · split
    · simp
    · split
      · simpa using h.same.setTileWords ..
      · simpa using h
  · split
    · simpa using h
    · split
      · simp
      · exact (h.same (avgTiles_mem ..)).avgInto _ _
  · split
    · simp
    · split
      · simpa using h.same
      · simpa using h
  · simp

theorem serveStates (h : s.Canon) (t) : (s.serveStates t).Canon := by
  unfold State.serveStates
  refine h.foldl_fst (fun a o ha => ?_) _
  obtain ⟨v, held⟩ := a
  have hprep := prepare_mem v t o
  dsimp only
  split
  · exact ha
  · split
    · next hp => rw [hp] at hprep; exact ha.same hprep
    · next w hp =>
      rw [hp] at hprep
      have hw : w.Canon := ha.same hprep
      split
      · split
        · exact hw
        · exact hw.same
      · split
        · next hs => exact (hw.performState _ _ _ hs).same
        · exact hw

theorem acceptState (h : s.Canon) (kind tag) : (s.acceptState kind tag).2.Canon := by
  unfold State.acceptState
  extract_lets k o v w x
  have hw : w.Canon := by
    simp only [w]
    refine foldl ?_ (fun u i hu => ?_) _
    · exact h.same (by simp [v])
    · split
      · exact hu
      · exact hu.same
  clear_value w
  have hx : x.Canon := by
    simp only [x]
    split
    · exact hw.same
    · exact hw.same
    · exact hw
  exact hx.serveStates _

theorem acceptResult (h : s.Canon) (d kind) : (s.acceptResult d kind).Canon := by
  unfold State.acceptResult
  refine same (acceptState ?_ kind s.uid) (spend_mem _)
  exact h.same (resultVar_mem ..)

theorem acceptEngine (h : s.Canon) (kind n) : (s.acceptEngine kind n).Canon := by
  have hs := h.acceptState kind 0
  unfold State.acceptEngine
  exact hs.same (by simp)

/-! ## Writes by virtual address, events, pools -/

theorem vwrite (h : s.Canon) (t who job va bs tag) : (s.vwrite t who job va bs tag).1.Canon := by
  unfold State.vwrite
  refine h.foldl_fst (fun a p ha => ?_) _
  obtain ⟨v, o, r⟩ := a
  dsimp only
  split
  · next hq => cases hq; exact ha
  · next hq =>
    cases hq
    split
    · exact ha
    · next pa e _ =>
      have hv : State.Canon { v with uid := v.uid + 1 } := ha
      have hhome := hv.performHome t job (cellsOf pa (r.take p.2)) false false
      dsimp only
      split
      · split <;> exact hv.same
      · split
        · exact hhome.same rfl
        · split
          · exact hv.same
          · split
            · exact hv.same
            · split
              · exact hhome.same
              · exact hhome

theorem pushEvent (h : s.Canon) (n r) : (s.pushEvent n r).Canon := by
  unfold State.pushEvent
  exact (h.poke ..).same (setFn_mem ..)

theorem deliverHeld (h : s.Canon) (n m) : (s.deliverHeld n m).Canon := by
  induction m generalizing s with
  | zero => exact h
  | succ m ih =>
    rw [State.deliverHeld]
    split
    · split
      · exact ih (h.same.pushEvent n _)
      · exact h
    · exact h

theorem postRecord (h : s.Canon) (n r) : (s.postRecord n r).Canon := by
  have hd := h.deliverHeld n (s.fn n).held.length
  unfold State.postRecord
  dsimp only
  split
  · exact hd.pushEvent n r
  · split <;> exact hd.same

theorem postEvent (h : s.Canon) (n ty job t htag ws) : (s.postEvent n ty job t htag ws).Canon := by
  unfold State.postEvent
  exact h.same.postRecord ..

theorem postJob (h : s.Canon) (ty job t htag ws) : (s.postJob ty job t htag ws).Canon := by
  unfold State.postJob
  split
  · exact h.postEvent ..
  · exact h

theorem ringFault (h : s.Canon) (t x addr) : (s.ringFault t x addr).Canon := by
  unfold State.ringFault
  exact (h.postJob ..).same (haltLaunch_mem ..)

theorem ringPut (h : s.Canon) (t p front r) : (s.ringPut t p front r).Canon := by
  unfold State.ringPut
  split
  · exact h
  · extract_lets n idx
    next x _ =>
    have hw := h.vwrite t none x.job (x.ringAddr idx) (bytesOf r.words) 0
    generalize s.vwrite t none x.job (x.ringAddr idx) (bytesOf r.words) = z at hw ⊢
    obtain ⟨v, f⟩ := z
    dsimp only
    split
    · exact (hw.same (modPool_mem ..)).ringFault ..
    · exact hw.same

theorem insertHead (h : s.Canon) (t p r) : ∀ u ∈ s.insertHead t p r, u.Canon := by
  unfold State.insertHead
  split
  · simpa using h
  · extract_lets r v w
    have hv : v.Canon := h
    split
    · simpa using hv.same
    · split
      · simp
      · have hw : w.Canon := by
          simp only [w]
          split
          · exact hv.same.ringPut ..
          · exact hv
        simpa using hw.same

theorem serveDiscard (h : s.Canon) (t p) : (s.serveDiscard t p).Canon := by
  unfold State.serveDiscard
  split
  · exact h
  · split
    · next hi => exact (h.same (modTower_mem ..)).insertHead _ _ _ _ hi
    · exact h

theorem serveDiscards (h : s.Canon) (t p) : (s.serveDiscards t p).Canon := by
  unfold State.serveDiscards
  exact h.foldl (fun u e hu => by exact hu.serveDiscard t p) _

theorem acceptTask (h : s.Canon) (t p w) : ∀ u ∈ s.acceptTask t p w, u.Canon := by
  unfold State.acceptTask
  extract_lets pri v r x
  have hv : v.Canon := by
    simp only [v]
    split
    · exact h.serveDiscards t p
    · exact h
  have hx : x.Canon := hv
  clear_value v x
  split
  · simp
  · split
    · simp
    · split
      · exact hx.insertHead t p r
      · split
        · simpa using hx.same
        · simpa using hx.ringPut ..

theorem writeItems (h : s.Canon) (t job base l) : (s.writeItems t job base l).1.Canon := by
  unfold State.writeItems
  refine h.foldl_fst (fun a e ha => ?_) _
  obtain ⟨v, o⟩ := a
  have hw := ha.vwrite t none job (base + e.1) e.2.1 0
  dsimp only at hw ⊢
  split
  · next hq => cases hq; exact ha
  · next hq =>
    cases hq
    split
    · next hv =>
      rw [hv] at hw
      exact hw
    · next hv =>
      rw [hv] at hw
      split
      · exact hw.same
      · exact hw

end State.Canon

end Sys2Proof.Machine
end

section
/-! The canonical form of memory through the events of gangs, launches and jobs. -/

set_option Elab.async false -- one proof at a time: many at once exhaust the memory of a build

namespace Sys2Proof.Machine

variable {s u : State}
namespace State.Canon

/-! ## The shade context, gangs, launches -/

theorem serveNeed (h : s.Canon) (k n) : (s.serveNeed k n).Canon := by
  unfold State.serveNeed
  extract_lets job i
  split
  · exact h
  · split
    · split
      · exact h
      · split <;> exact h.same
    · split
      · exact h
      · exact h.same
    · next pa len c _ =>
      have hpush := (h.same (dropCopies_mem s k pa len)).loadPush k i c pa len true
      dsimp only
      split
      · exact hpush.same
      · exact hpush
    · exact h.same
    · exact h.loadPush ..
    · exact h.release ..
    · exact h.same
    · split
      · exact h
      · exact h.same
    · exact h

theorem drainLine (h : s.Canon) (g k i l) : ∀ u ∈ s.drainLine g k i l, u.Canon := by
  unfold State.drainLine
  extract_lets loc v es
  have hv : v.Canon := h.flush ..
  clear_value v
  split
  · simp
  · split
    · split
      · simp
      · simp only [Option.mem_def, Option.some.injEq, forall_eq']
        split
        · exact foldl (hv.same (modCore_mem ..)) (fun u e hu => by exact hu.same) _
        · exact hv.same (modCore_mem ..)
    · split
      · simp only [Option.mem_def, Option.some.injEq, forall_eq']
        exact foldl (s := { v with uid := v.uid + es.length }) hv (fun u e hu => by exact hu.performEntry k e) _
      · simp

theorem drainUnits (h : s.Canon) (g k i n m) : (s.drainUnits g k i n m).1.Canon := by
  induction n generalizing s m with
  | zero => exact h
  | succ n ih =>
    rw [State.drainUnits]
    split
    · exact h
    · extract_lets v
      have hv : v.Canon := h.same (by simp [v])
      clear_value v
      split
      · exact hv
      · extract_lets mask
        split
        · exact hv
        · next hd =>
          have hw := hv.drainLine _ _ _ _ _ hd
          split
          · exact ih hw.same _
          · exact hw.same

theorem drainTask (h : s.Canon) (g n) : (s.drainTask g n).Canon := by
  unfold State.drainTask
  exact (h.drainUnits ..).same (spend_mem _)

theorem drainRow (h : s.Canon) (g n) : (s.drainRow g n).Canon := by
  unfold State.drainRow
  exact h.foldl_fst (fun a m ha => by exact ha.drainUnits ..) _

theorem advanceRow (h : s.Canon) (gang g) : (s.advanceRow gang g).Canon := by
  unfold State.advanceRow
  split
  · extract_lets d
    have hd : d.Canon := (h.drainRow ..).same (spend_mem _)
    clear_value d
    split
    · exact hd.same
    · exact hd
  · exact h

theorem considerHead (h : s.Canon) (t q r) : (s.considerHead t q r).Canon := by
  unfold State.considerHead
  split
  · exact h.same
  · dsimp only
    split
    · exact postEvent (h.same (modTower_mem ..)) ..
    · exact h.same rfl

theorem serveUnit (h : s.Canon) (t z) : ∀ u ∈ s.serveUnit t z, u.Canon := by
  unfold State.serveUnit
  split
  · split
    · simpa using h.considerHead ..
    · simp
  · split
    · simp
    · split
      · simp
      · split
        · simpa using h.same
        · split
          · simp
          · split
            · simpa using h.same
            · intro u hu
              obtain ⟨g, -, rfl⟩ := Option.map_eq_some_iff.1 hu
              exact h.same

theorem saveGang (h : s.Canon) (gang g) : (s.saveGang gang g).Canon := by
  unfold State.saveGang
  extract_lets v w hidden staged streams x
  have hv : v.Canon := by
    simp only [v]
    exact h.foldl (fun u k hu => by exact hu.same) _
  have hw : w.Canon := by
    simp only [w]
    exact hv.writeItems ..
  clear_value w
  exact foldl (s := x) (hw.same (by simp [x])) (fun u k hu => by exact hu.same) _

theorem completeLaunch (h : s.Canon) (l) : (s.completeLaunch l).Canon := by
  unfold State.completeLaunch
  split
  · split
    · exact h
    · dsimp only
      split
      · exact (h.postJob ..).same (releaseLaunch_mem ..)
      · exact h.same
  · exact h

theorem writeDump (h : s.Canon) (j) : (s.writeDump j).1.Canon := by
  unfold State.writeDump
  refine h.foldl_fst (fun a g ha => ?_) _
  obtain ⟨v, o, n⟩ := a
  have hw := ha.writeItems g.tower j.num (j.dump.toNat + n) (v.dumpItems g)
  dsimp only at hw ⊢
  split
  · next hq => cases hq; exact ha
  · next hq => cases hq; exact hw

theorem haltJob (h : s.Canon) (n dump event) : (s.haltJob n dump event).Canon := by
  unfold State.haltJob
  split
  · exact h
  · next j _ =>
    split
    · exact h
    · extract_lets v
      have hv : v.Canon := by
        simp only [v]
        exact h.foldl (fun u e hu => by exact hu.same) _
      clear_value v
      have hdump : (if dump && j.dump != 0 then v.writeDump j else (v, none)).1.Canon := by
        split
        · exact hv.writeDump j
        · exact hv
      generalize (if dump && j.dump != 0 then v.writeDump j else (v, none)) = r at hdump ⊢
      obtain ⟨w, fault⟩ := r
      have hstop (l : Map Gang) (m : Map Launch) (ts : Map Tower) (f : Job → Job) :
          (State.modJob { m.foldl (fun s e => s.releaseLaunch e.1) (l.foldl (fun s e => s.stopGang e.1) w) with towers := ts } n f).Canon :=
        ((foldl hdump (fun u e hu => by exact hu.same) l).foldl (fun u e hu => by exact hu.same) m).same (modJob_mem ..)
      dsimp only
      split
      · exact (hstop ..).postJob ..
      · exact hstop ..

end State.Canon

/-! ## Events of gangs and jobs -/

theorem execShadeMissService_keepsForm (t f) : KeepsForm (execShadeMissService t f) := by
  intro s h
  unfold execShadeMissService
  extract_lets k
  split
  · exact h
  · next z _ =>
    refine leaves_ite h ?_
    have herr : ((s.coreErrs k fun e => decide (e.sram = .shade)).1).Canon := h.same
    generalize (s.coreErrs k fun e => decide (e.sram = .shade)) = r at herr ⊢
    obtain ⟨v, bad⟩ := r
    have hfetch : (z.needs.foldl (fun s n => s.walkFetch k n) v).Canon := herr.foldl (fun u n hu => by exact hu.same) _
    have hserve := hfetch.foldl (f := fun s n => s.serveNeed k n) (fun u n hu => hu.serveNeed k n) z.needs
    exact leaves_ite hfetch.same (leaves_ite hserve.same hserve)

theorem execGangFailure_keepsForm (gang gsi reason) : KeepsForm (execGangFailure gang gsi reason) := by
  intro s h
  unfold execGangFailure
  split
  · exact h
  · next g _ =>
    extract_lets v x base tag w y z
    have hv : v.Canon := by
      simp only [v]
      split
      · exact h
      · exact h.same
    have hw : w.Canon := by
      simp only [w]
      split
      · exact hv
      · exact hv.writeItems ..
    have hy : y.Canon := by
      simp only [y]
      split
      · exact hw
      · exact hw
    exact (hy.postJob ..).same (haltLaunch_mem ..)

theorem execGangPlacement_keepsForm (t) : KeepsForm (execGangPlacement t) := by
  intro s h
  unfold execGangPlacement
  refine leaves_ite h ?_
  split
  · next hp =>
    obtain ⟨z, -, hz⟩ := pick1_some hp
    exact h.serveUnit _ _ _ hz
  · exact h

theorem execPreemption_keepsForm (gang) : KeepsForm (execPreemption gang) := by
  intro s h
  unfold execPreemption
  split
  · exact h
  · next g _ =>
    split
    · exact h.same
    · extract_lets v
      have hv : v.Canon := h.foldl (fun u k hu => by exact (hu.same (stopCore_mem _ g k)).pushHome _ _) _
      clear_value v
      exact leaves_ite (hv.saveGang ..) hv
    · exact h

theorem execRowDrain_keepsForm (gang) : KeepsForm (execRowDrain gang) := by
  intro s h
  unfold execRowDrain
  split
  · exact h
  · next g _ =>
    extract_lets live
    exact leaves_ite h ((h.advanceRow gang g).foldl (fun u n hu => by exact hu.drainTask g n) _)

theorem execGangRetirement_keepsForm (gang) : KeepsForm (execGangRetirement gang) := by
  intro s h
  unfold execGangRetirement
  split
  · exact h
  · next g _ =>
    refine leaves_ite ?_ h
    extract_lets v sys w x y
    have hv : v.Canon := h.foldl (fun u k hu => by exact (hu.same (writeBack_mem _ k)).pushHome _ _) _
    have hw : w.Canon := hv.foldl (fun u k hu => by exact hu.same) _
    have hy : y.Canon := hw.same (by simp [y, x])
    clear_value v y
    exact leaves_ite (hy.completeLaunch _) hv

theorem execWaitBudgetPreemption_keepsForm (gang) : KeepsForm (execWaitBudgetPreemption gang) := by
  intro s h
  unfold execWaitBudgetPreemption
  split
  · exact h
  · split
    · exact h
    · dsimp only
      exact leaves_ite ((h.postJob ..).same ((beginPreempt_mem ..).trans (modGang_mem ..))) h

theorem execDeadlineHalt_keepsForm (job) : KeepsForm (execDeadlineHalt job) := by
  intro s h
  unfold execDeadlineHalt
  split
  · exact leaves_ite (h.haltJob ..) h
  · exact h

end Sys2Proof.Machine
end

section
/-! The canonical form of memory through transfers, accesses that waited, the ends of jobs, starts, checkpoints and links. -/

set_option Elab.async false -- one proof at a time: many at once exhaust the memory of a build

namespace Sys2Proof.Machine

variable {s u : State}
namespace State.Canon

/-! ## States that move -/

theorem tilesIn (h : s.Canon) (i tile places) : (s.tilesIn i tile places).Canon := by
  unfold State.tilesIn
  refine h.foldl_fst (fun a pos ha => ?_) _
  obtain ⟨v, ps, done⟩ := a
  dsimp only
  split
  · split
    · exact poke (same ha (modTower_mem ..)) ..
    · split
      · exact ha
      · exact poke (same ha (modTower_mem ..)) ..
  · split
    · split
      · exact ha
      · exact poke (same ha (modTower_mem ..)) ..
    · exact ha

theorem arriveState (h : s.Canon) (t job fmt16 snap tiles) : ∀ u, s.arriveState t job fmt16 snap tiles = .ok u → u.1.Canon := by
  intro u hu
  unfold State.arriveState at hu
  extract_lets ns nt at hu
  split at hu
  · cases hu
  · split at hu
    · cases hu
    · next v ws hp =>
      have hv : v.Canon := h.same (placeTiles_mem _ _ _ _ _ hp)
      extract_lets groups first res at hu
      split at hu
      · cases hu
      · next w i hn =>
        have hw : w.Canon := hv.newHandle _ _ _ _ _ _ hn
        have hfold (l : List (Nat × List Word)) := foldl_some (p := State.Canon) (a := w)
          (f := fun (acc : Option State) e => match acc with
          | none => none
          | some s => match s.arenaAlloc job (arrayBytes nt) with
            | none => none
            | some (a, s) => some ((s.setTileWords a e.2).modHandle i fun h => { h with snaps := mput h.snaps e.1 a, snap := h.snap ||| (1 <<< e.1) }))
          hw (fun _ => rfl) (fun x e hx => by
            dsimp only
            split
            · simp
            · next ha =>
              simp only [Option.mem_def, Option.some.injEq, forall_eq']
              exact ((hx.same (arenaAlloc_mem _ _ _ _ ha)).setTileWords ..).same (modHandle_mem ..)) l
        dsimp only at hu
        split at hu
        · cases hu
        · next hr =>
          cases hu
          exact hfold _ _ hr

theorem followTile (h : s.Canon) (t job : Nat) (pair : Nat × Nat) (key : Nat) : (s.followTile t job pair key).Canon := by
  -- Unfolded while its arguments are absent: with `twResident key` in place the kernel would evaluate that word.
  suffices hfun : ∀ f, f = @State.followTile → (f s t job pair key).Canon from hfun _ rfl
  intro f hf
  delta State.followTile at hf
  have hread := h.same (readTile_mem s t (twResident key))
  rw [hf]
  beta_reduce
  split
  next v tile hr =>
  rw [hr] at hread
  extract_lets x n place y
  clear_value place
  cases place with
  | none => exact hread
  | some w => exact foldl (same hread (by simp)) (fun u e hu => by exact hu.mapTileWords ..) _

theorem endFollow (h : s.Canon) (g pairs) : (s.endFollow g pairs).Canon := by
  unfold State.endFollow
  extract_lets t hs keys v
  have hv : v.Canon := by
    simp only [v]
    refine h.foldl (fun u key hu => ?_) _
    split
    · exact hu.followTile ..
    · exact hu
  clear_value v
  refine hv.foldl (fun u e hu => ?_) _
  dsimp only
  split <;> exact hu.same

/-! ## Transfers -/

theorem postPush (h : s.Canon) (d w) : (s.postPush d w).Canon := by
  unfold State.postPush
  split
  · exact h.postJob ..
  · exact h

theorem failTransfer (h : s.Canon) (k e x w) : (s.failTransfer k e x w).Canon := by
  unfold State.failTransfer
  extract_lets v
  have hv : v.Canon := by
    simp only [v]
    split
    · exact h
    · exact h.postPush ..
    · exact h
  exact hv.same

theorem readSender (h : s.Canon) (k e x) : (s.readSender k e x).Canon := by
  unfold State.readSender
  extract_lets go
  have hgo (a : Word) (bad : Desc → Bool) : (go a bad).Canon := by
    simp only [go]
    split
    · exact h
    · split
      · exact h.failTransfer ..
      · next hb =>
        have hv := (h.same (viewed_mem s k)).same (engineBytes_mem _ _ _ _ _ _ _ hb)
        split
        · exact hv.failTransfer ..
        · exact hv.same
  clear_value go
  split
  · exact hgo _ _
  · exact hgo _ _
  · exact h

theorem readReceiver (h : s.Canon) (k e x) : (s.readReceiver k e x).Canon := by
  unfold State.readReceiver
  extract_lets begun
  have hbegun (v : State) (f : Cmd → Cmd) (hv : v.Canon) : (begun v f).Canon := hv.same (modCmd_mem ..)
  clear_value begun
  split
  · exact hbegun _ _ h
  · have hv (a : Nat) := h.same (vfetch_mem s (towerOf k) x.job a 160)
    split
    · exact h
    · split
      · exact h.failTransfer ..
      · exact h.failTransfer ..
      · dsimp only
        split
        · exact (hv _).failTransfer ..
        · exact hbegun _ _ (hv _)
      · exact h.failTransfer ..
  · exact hbegun _ _ h

theorem beginTransfer (h : s.Canon) (k e x) : (s.beginTransfer k e x).Canon := by
  unfold State.beginTransfer
  extract_lets v
  have hv : v.Canon := by
    simp only [v]
    split
    · exact readSender h ..
    · exact h
  clear_value v
  split
  · exact hv
  · extract_lets d acq w
    split
    · exact hv
    · have hw : w.Canon := by
        simp only [w]
        split
        · exact hv.scopePush ..
        · exact hv
      clear_value w
      split
      · exact hw
      · refine readReceiver ?_ ..
        split
        · exact hw.same
        · exact hw

theorem transferStart (h : s.Canon) (k) : (s.transferStart k).Canon := by
  unfold State.transferStart
  extract_lets one v move
  have hone (u : State) (e : Nat) (hu : u.Canon) : (one u e).Canon := by
    simp only [one]
    split
    · exact hu
    · refine same ?_ (admitMoving_mem ..)
      split
      · exact hu
      · exact hu.beginTransfer ..
  have hv : v.Canon := hone _ _ (hone _ _ h)
  have hmove (e : Nat) : (move v e).Canon := by
    simp only [move]
    split
    · exact hv.same
    · exact hv
  split <;> exact hmove _

theorem pinWrite (h : s.Canon) (t job tag a bs) : (s.pinWrite t job tag a bs).1.Canon := by
  have hw := h.vwrite t none job a.toNat bs tag
  unfold State.pinWrite
  split
  · exact h
  · split
    · exact h
    · split
      · exact h
      · split <;> next hv => rw [hv] at hw; exact hw

theorem engineWrite (h : s.Canon) (k i job tag a bs) : (s.engineWrite k i job tag a bs).1.Canon := by
  have hw := h.vwrite (towerOf k) (some (k, i)) job a.toNat bs tag
  unfold State.engineWrite
  split
  · exact h
  · split
    · exact h
    · exact h.same
  · split <;> next hv => rw [hv] at hw; exact hw

theorem putItems (h : s.Canon) (k x r l) : (s.putItems k x r l).1.Canon := by
  unfold State.putItems
  refine h.foldl_fst (fun a i ha => ?_) _
  obtain ⟨v, o⟩ := a
  split
  · next hq => cases hq; exact ha
  · next hq =>
    cases hq
    split
    · exact ha.pinWrite ..
    · exact ha.engineWrite ..

theorem transferCycle (h : s.Canon) (k e x r) : (s.transferCycle k e x r).Canon := by
  unfold State.transferCycle
  generalize x.bounds r = b
  obtain ⟨least, most, more⟩ := b
  dsimp only
  generalize hn : least + _ % _ = n
  have hv := h.same ((chooseUnits_mem s.spend x r n).trans (spend_mem s))
  generalize s.spend.chooseUnits x r n = c at hv ⊢
  obtain ⟨v, y⟩ := c
  dsimp only at hv ⊢
  split
  · exact hv
  · have hread := (hv.same (viewed_mem v k)).same (readCycle_mem (v.viewed k) (v.copyView k) k y r n)
    generalize (v.viewed k).readCycle (v.copyView k) k y r n = q at hread ⊢
    obtain ⟨w, got⟩ := q
    cases got with
    | error c => exact hread.failTransfer ..
    | ok z =>
      dsimp only
      have hput (c : Nat) (is : List (Word × List Byte)) := putItems (s := { w with freeCtr := c }) hread k x r is
      split
      · next hp => exact failTransfer (fst (hput _ _) hp) ..
      · next hp => exact same (fst (hput _ _) hp)

theorem transferMove (h : s.Canon) (k) : (s.transferMove k).Canon := by
  unfold State.transferMove
  extract_lets go
  have hgo (e : Nat) : (go e).Canon := by
    simp only [go]
    split
    · split
      · split
        · exact h
        · exact h.transferCycle ..
      · exact h
    · exact h
  split <;> exact hgo _

/-! ## Fences and accesses that waited -/

theorem fenceActs (h : s.Canon) (k st m r) : (s.fenceActs k st m r).1.Canon := by
  unfold State.fenceActs
  extract_lets v w x n y
  have hv : v.Canon := h.flush ..
  have hx : x.Canon := by
    simp only [x]
    split
    · exact hv.same
    · exact hv
  have hy : y.Canon := hx.same (by simp [y])
  clear_value y
  show (if _ then _ else y : State).Canon
  split
  · exact hy.pushHome ..
  · exact hy

theorem heldGo (h : s.Canon) (t e) : (s.heldGo t e).Canon := by
  unfold State.heldGo
  split
  · exact h
  · dsimp only
    split
    · exact ((h.recalls _).same (modTower_mem ..)).performAtom ..
    · exact h.recalls _

theorem reissue (h : s.Canon) (pa n) : (s.reissue pa n).Canon := by
  unfold State.reissue
  extract_lets mine mark v
  have hv : v.Canon := h
  clear_value v
  refine hv.foldl (fun u t hu => ?_) _
  refine hu.foldl (fun w z hw => ?_) _
  split
  · exact hw.heldGo ..
  · split
    · exact hw.sendHome ..
    · exact hw

/-! ## The host, jobs, starts -/

theorem submitDrop (h : s.Canon) (fn job t off) : (s.submitDrop fn job t off).Canon := by
  unfold State.submitDrop
  split <;> exact h.postEvent ..

theorem endJob (h : s.Canon) (n) : (s.endJob n).Canon := by
  unfold State.endJob
  split
  · exact h
  · extract_lets v w freed clean x y z
    have hv : v.Canon := h.haltJob ..
    have hw : w.Canon := by
      simp only [w]
      exact hv.foldl (fun u e hu => by exact hu.same) _
    have hx : x.Canon := hw
    have hy : y.Canon := by
      simp only [y]
      exact foldl (hx.same (dropTlb_mem ..)) (fun u m hu => by exact hu.reissue ..) _
    clear_value y
    exact hy.same rfl

theorem statesOut (h : s.Canon) : s.statesOut.Canon := by
  unfold State.statesOut
  exact h.foldl (fun u e hu => by exact hu.tilesOut _) _

theorem allHome (h : s.Canon) : s.allHome.Canon := by
  unfold State.allHome
  refine h.foldl (fun u t hu => ?_) _
  exact hu.foldl (fun v e hv => by exact hv.performHome ..) _

theorem hostMem (h : s.Canon) : Memory.wf s.hostMem = true := wf_filter h _

theorem warmed (h : s.Canon) (keep frames gmask) : (s.warmed keep frames gmask).Canon := by
  show Memory.wf (s.warmed keep frames gmask).mem = true
  unfold State.warmed
  dsimp only
  split
  · exact h.allHome
  · exact h.allHome.hostMem

theorem restoreState (h : s.Canon) (job e seen) : ∀ u ∈ s.restoreState job e seen, u.1.Canon := by
  unfold State.restoreState
  extract_lets hd here
  split
  · simp
  · next v ws now hr =>
    have hv : v.Canon := h.same (restoreTiles_mem _ _ _ _ _ hr)
    intro u hu
    obtain ⟨r, hr, rfl⟩ := Option.map_eq_some_iff.1 hu
    refine same (s := r.1) ?_ (setHandle_mem ..)
    refine foldl_some (p := fun r : State × List Nat => r.1.Canon) (a := (v, [])) hv (fun _ => rfl) (fun a row ha => ?_) _ _ hr
    intro w hw
    obtain ⟨z, hz, rfl⟩ := Option.map_eq_some_iff.1 hw
    exact (ha.same (arenaAlloc_mem _ _ _ _ hz)).setTileWords ..

theorem rebuild (h : s.Canon) (job im) : ∀ u ∈ s.rebuild job im, u.Canon := by
  unfold State.rebuild
  split
  · simp
  · extract_lets im v w
    have hv : v.Canon := h
    have hw : w.Canon := by
      simp only [w]
      exact hv.foldl (fun u t hu => by exact hu.same) _
    clear_value w
    intro u hu
    obtain ⟨r, hr, rfl⟩ := Option.map_eq_some_iff.1 hu
    refine foldl_some (p := fun r : State × List (Nat × List (Word × Nat)) => r.1.Canon) (a := (w, [])) hw (fun _ => rfl) (fun a e ha => ?_) _ _ hr
    obtain ⟨v, seen⟩ := a
    exact restoreState (s := v) ha _ _ _

theorem endCkpt (h : s.Canon) (n status gen seq) : (s.endCkpt n status gen seq).Canon := by
  unfold State.endCkpt
  extract_lets v w
  have hw : w.Canon := (h.same (modJob_mem ..)).postJob ..
  clear_value w
  exact hw.same rfl

theorem failCkpt (h : s.Canon) (j status) : (s.failCkpt j status).Canon := h.endCkpt ..

theorem writeImage (h : s.Canon) (j) : (s.writeImage j).Canon := by
  unfold State.writeImage
  extract_lets n v
  have hv : v.Canon := h
  have hread := hv.same (imageRead_mem v j.num)
  generalize v.imageRead j.num = r at hread ⊢
  obtain ⟨w, bad⟩ := r
  have hw (a : Nat) (bs : List Byte) := hread.vwrite 0 none j.num a bs 0
  dsimp only
  split
  · exact hread.failCkpt ..
  · split
    · exact hread.failCkpt ..
    · split
      · exact hread.failCkpt ..
      · split
        · exact hread.failCkpt ..
        · split
          · next hp => exact failCkpt (fst (hw _ _) hp) ..
          · next hp => exact same (fst (hw _ _) hp) rfl

theorem aperturePut (h : s.Canon) (pa bs) : (s.aperturePut pa bs).Canon := by
  unfold State.aperturePut
  dsimp only
  split
  · exact h.same
  · exact h.performHome ..

theorem mapOut (h : s.Canon) (t layer) : (s.mapOut t layer).Canon := by
  unfold State.mapOut
  extract_lets x cap v
  have hv : v.Canon := h.same (by simp [v])
  clear_value v
  refine hv.foldl (fun u e hu => ?_) _
  split
  · exact hu.postJob ..
  · exact hu

theorem haltAll (h : s.Canon) : s.haltAll.Canon := by
  unfold State.haltAll
  exact h.foldl (fun u n hu => by exact hu.haltJob ..) _

/-! ## Links -/

theorem pushFails (h : s.Canon) (x d w) : (s.pushFails x d w).Canon := by
  unfold State.pushFails
  exact (h.postPush ..).same (modInbound_mem ..)

theorem pushTick (h : s.Canon) (x bs src key) : (s.pushTick x bs src key).Canon := by
  unfold State.pushTick
  extract_lets done
  have hdone (v : State) (w : Word) (hv : v.Canon) : (done v w).Canon := hv.same (respond_mem ..)
  clear_value done
  split
  · split
    · exact hdone _ _ h
    · exact h
  · exact h
  · next sf total _ _ =>
    generalize s.descCheckAt bs total = r
    obtain ⟨d, bad⟩ := r
    dsimp only
    split
    · exact h.pushFails ..
    · split
      · exact h.pushFails ..
      · have hput (t j c : Nat) (l : List ((Word × List Byte) × Nat)) : ((l.foldl (fun (acc : State × Option Fail) i => match acc with
            | (s, some f) => (s, some f)
            | (s, none) => s.pinWrite t j x.uid i.1.1 i.1.2) ({ s with freeCtr := c }, none))).1.Canon := by
          refine foldl_fst (a := ({ s with freeCtr := c }, none)) h (fun a i ha => ?_) _
          obtain ⟨v, o⟩ := a
          cases o with
          | none => exact ha.pinWrite ..
          | some f => exact ha
        split
        · next hp => exact pushFails (fst (hput _ _ _ _) hp) ..
        · next v hp =>
          have hv : v.Canon := fst (hput _ _ _ _) hp
          split
          · split
            · split
              · next hk => exact hdone _ _ ((hv.same (modInbound_mem ..)).same (pushKey_mem _ _ _ _ _ hk))
              · exact hv.same
            · exact hv.same
          · exact hv.same

theorem stateTick (h : s.Canon) (x job tower fmt16 snap n) : (s.stateTick x job tower fmt16 snap n).Canon := by
  unfold State.stateTick
  extract_lets done whole
  have hdone (v : State) (w : Word) (hv : v.Canon) : (done v w).Canon := hv.same (respond_mem ..)
  clear_value done
  split
  · exact h
  · split
    · exact hdone _ _ h
    · next ha =>
      extract_lets slabs
      split
      · refine hdone _ _ (foldl (h.arriveState _ _ _ _ _ _ ha) (fun u b hu => ?_) _)
        exact hu.same
      · refine same (h.foldl (f := fun s b => s.touchSlab tower b) (fun u b hu => ?_) slabs) (spend_mem _)
        exact hu.same

theorem serveInbound (h : s.Canon) : s.serveInbound.Canon := by
  unfold State.serveInbound
  refine h.foldl (fun u y hu => ?_) _
  split
  · exact hu
  · split
    · exact hu.pushTick ..
    · exact hu.stateTick ..

theorem peerWrite (h : s.Canon) (pa bs pois) : (s.peerWrite pa bs pois).Canon := by
  unfold State.peerWrite
  split
  · exact h.performHome ..
  · exact h

theorem peerAtomic (h : s.Canon) (pa code dbl x cmp red) : (s.peerAtomic pa code dbl x cmp red).1.Canon := by
  unfold State.peerAtomic
  split
  · exact h
  · next op _ =>
    split
    · exact h
    · extract_lets v
      have hv : v.Canon := h.recalls pa
      clear_value v
      have hat := hv.homeAtomic (homeTower pa) 64 pa op dbl x cmp red
      split
      · exact hv
      · split
        · exact hv
        · exact hat

theorem performFlit (h : s.Canon) (peer f) : (s.performFlit peer f).1.Canon := by
  unfold State.performFlit
  split
  · exact h
  · split
    · exact h
    · exact h.peerWrite ..
  · exact h.same
  · exact h.same
  · exact h.same
  · next a code dbl x cmp tag ret =>
    have hat := h.peerAtomic (a % 2 ^ 41) code dbl x cmp (!ret)
    split
    · exact h
    · split
      · next hp => rw [hp] at hat; exact hat
      · next hp =>
        rw [hp] at hat
        dsimp only at hat ⊢
        split
        · exact hat.same
        · exact hat
  · exact h.same
  · exact h.same
  · exact h.same
  · exact h
  · dsimp only
    split
    · exact h.same
    · exact h
  · exact h

theorem serveLane (h : s.Canon) (p v) : (s.serveLane p v).Canon := by
  unfold State.serveLane
  split
  · exact h
  · next f _ _ =>
    have hp := h.performFlit (s.port p).peer f
    split
    · next hf => rw [hf] at hp; exact hp.same
    · next hf => rw [hf] at hp; exact hp

theorem serveLinks (h : s.Canon) : s.serveLinks.Canon := by
  unfold State.serveLinks
  refine h.foldl (fun u e hu => ?_) _
  exact hu.foldl (fun w v hw => by exact hw.serveLane ..) _

end State.Canon

end Sys2Proof.Machine
end

section
/-! The canonical form of memory through the other events: engines, states, memory, the host, the mailbox and the device. -/

set_option Elab.async false -- one proof at a time: many at once exhaust the memory of a build

namespace Sys2Proof.Machine

variable {s u : State}

/-! ## Events of engines and states -/

theorem execDecompressBlock_keepsForm (t f) : KeepsForm (execDecompressBlock t f) := by
  intro s h
  unfold execDecompressBlock
  extract_lets k
  split
  · rw [leaves_next]
    split
    · split
      · split
        · exact h.scopePush ..
        · exact h
      · exact h
    · exact h
  · next st _ =>
    have hs : (if !st.started && (st.acq.any fun sc => decide (4 ≤ sc)) then s.acquire k else s).Canon := by
      split
      · exact h.same
      · exact h
    generalize (if !st.started && (st.acq.any fun sc => decide (4 ≤ sc)) then s.acquire k else s) = v at hs ⊢
    dsimp only
    split
    · exact hs.same
    · split
      · exact hs.same
      · split
        · exact hs.same
        · split
          · exact hs.same
          · rw [leaves_next]
            exact hs.same (by simp [apply_ite State.mem])

theorem execCopyComplete_keepsForm (t f) : KeepsForm (execCopyComplete t f) := by
  intro s h
  unfold execCopyComplete
  extract_lets k
  split
  · next x _ =>
    split
    · exact h.same
    · extract_lets d v
      have hv : v.Canon := by
        simp only [v]
        split
        · exact h.pushHome ..
        · exact h
      rw [leaves_next]
      split
      · exact hv.same
      · exact hv
  · exact h

theorem execPageOutComplete_keepsForm (t) : KeepsForm (execPageOutComplete t) := by
  intro s h
  unfold execPageOutComplete
  split
  · exact h
  · next m _ =>
    extract_lets i v w
    have hv : v.Canon := h.same (touchState_mem s _)
    have hw : w.Canon := ((hv.same (readState_mem v _)).tilesOut _).same (modHandle_mem ..)
    clear_value v w
    refine leaves_ite hv ?_
    rw [leaves_next]
    exact State.Canon.serveStates (s := (w.endMove t i).bump t 0x104) hw.same t

theorem execPageInComplete_keepsForm (t) : KeepsForm (execPageInComplete t) := by
  intro s h
  unfold execPageInComplete
  split
  · exact h
  · next m _ =>
    extract_lets i hd fault first tile was v w
    have hv : v.Canon := h.same ((modTower_mem ..).trans (endMove_mem ..))
    have hw : w.Canon := by
      simp only [w]
      split
      · exact hv.same
      · exact hv
    clear_value tile w v
    refine leaves_ite ?_ ?_
    · rw [leaves_next]
      exact State.Canon.same (State.Canon.serveStates (hv.same ((wakeAbsent_mem ..).trans (modHandle_mem ..))) t) (spend_mem _)
    · split
      · exact hv.same
      · next ps _ =>
        extract_lets slabs x y
        refine leaves_ite (h.foldl (fun u b hu => by exact hu.same) _) ?_
        have hx : x.Canon := (State.Canon.tilesIn (s := { w with freeCtr := w.freeCtr + ps.length }) hw i tile ps).same (modHandle_mem ..)
        have hy : y.Canon := hx.foldl (fun u b hu => by exact hu.same) _
        clear_value y
        rw [leaves_next]
        exact State.Canon.same (State.Canon.serveStates (hy.same ((wakeAbsent_mem ..).trans (bump_mem ..))) t) (spend_mem _)

theorem execStateMoveComplete_keepsForm (t f st) : KeepsForm (execStateMoveComplete t f st) := by
  intro s h
  unfold execStateMoveComplete
  extract_lets k
  split
  · exact h
  · next o _ =>
    split
    · next i dst _ =>
      extract_lets hd drop fail done finish u
      have hfinish (v : State) (c : Word) (hv : v.Canon) : (finish v c).Canon := by
        refine State.Canon.same (State.Canon.serveStates ?_ t) (spend_mem _)
        split
        · exact hv.same (by simp [fail, drop])
        · exact hv.same (by simp [done, drop])
      clear_value finish
      refine leaves_ite ?_ ?_
      · split
        · exact hfinish _ _ h
        · refine leaves_ite h ?_
          have hsend (p d : Nat) (b : Nat) := State.Canon.same (s := { s with uid := s.uid + 1 }) h (sendState_mem _ p d hd b k)
          split
          · next hp => exact State.Canon.same (State.Canon.fst (hsend _ _ _) hp) rfl
          · next hp => exact hfinish _ _ (State.Canon.fst (hsend _ _ _) hp)
      · have hread := h.same (tilesOf_mem s hd)
        generalize s.tilesOf hd = q at hread ⊢
        obtain ⟨r, l⟩ := q
        dsimp only
        split
        · exact hfinish _ _ h
        · next hz =>
          have hz := hread.arriveState _ _ _ _ _ _ hz
          refine leaves_ite (hfinish _ _ (hz.foldl (fun u b hu => by exact hu.same) _)) ?_
          exact State.Canon.same (h.foldl (fun u b hu => by exact hu.same) _) (spend_mem _)
    · exact h

theorem execReturnTileMovesComplete_keepsForm (gang) : KeepsForm (execReturnTileMovesComplete gang) := by
  intro s h
  unfold execReturnTileMovesComplete
  split
  · exact h
  · next g _ =>
    split
    · extract_lets pairs awake v left next_
      refine leaves_ite h ?_
      have hv : v.Canon := (h.endFollow ..).serveStates _
      clear_value v
      exact leaves_ite hv.same hv.same
    · exact h

/-! ## Events of memory and queues -/

theorem execRingRefill_keepsForm (t pool) : KeepsForm (execRingRefill t pool) := by
  intro s h
  unfold execRingRefill
  split
  · exact h
  · refine leaves_ite ?_ h
    split
    · exact h
    · split
      · exact h.ringFault ..
      · exact h.same

theorem execPostedWritePerform_keepsForm (t f k) : KeepsForm (execPostedWritePerform t f k) := by
  intro s h
  unfold execPostedWritePerform
  dsimp only
  split
  · exact leaves_ite (h.performOne ..) h
  · exact h

theorem execFenceActionsComplete_keepsForm (t f st) : KeepsForm (execFenceActionsComplete t f st) := by
  intro s h
  unfold execFenceActionsComplete
  extract_lets k
  split
  · exact h
  · next m r _ =>
    refine leaves_ite ?_ ?_
    · rw [leaves_next]
      split
      · exact h.same
      · exact h
    · have hacts := h.fenceActs k st m r
      generalize s.fenceActs k st m r = q at hacts ⊢
      obtain ⟨v, m⟩ := q
      refine leaves_ite ?_ hacts
      split
      · exact State.Canon.same (State.Canon.same hacts (acquire_mem _ k)) (modStrand_mem ..)
      · exact State.Canon.same hacts (modStrand_mem ..)

/-- A migration's copy writes bytes one at a time. -/
theorem wf_migration_copy (m : Migration) {mem : Memory} (h : Memory.wf mem = true) : Memory.wf (m.copy mem) = true :=
  wf_foldl _ (fun _ _ hm => wf_wrByte hm _ _) _ (wf_foldl _ (fun _ _ hm => wf_wrByte hm _ _) _ h)

theorem execMigrationCopyComplete_keepsForm (t k) : KeepsForm (execMigrationCopyComplete t k) := by
  intro s h
  unfold execMigrationCopyComplete
  split
  · exact h
  · next m _ =>
    refine leaves_ite h ?_
    extract_lets root moved kept v w x y z
    have hv : v.Canon := h.same (forgetPage_mem ..)
    have hw : w.Canon := wf_migration_copy m hv
    have hx : x.Canon := by
      simp only [x]
      split
      · exact hw.performHome ..
      · exact hw
    have hz : z.Canon := hx.same (by simp [z, y])
    clear_value z
    exact (hz.reissue ..).same (bump_mem ..)

/-! ## Events of the host -/

theorem execLaunchRecordSubmit_keepsForm (fn t q words) : KeepsForm (execLaunchRecordSubmit fn t q words) := by
  intro s h
  unfold execLaunchRecordSubmit
  refine leaves_ite h.same (leaves_ite (h.submitDrop ..) ?_)
  dsimp only
  split
  · exact h.postEvent ..
  · refine leaves_ite (h.postEvent ..) (leaves_ite (h.submitDrop ..) h.same)

theorem execTaskRecordSubmit_keepsForm (fn t pool words) : KeepsForm (execTaskRecordSubmit fn t pool words) := by
  intro s h
  unfold execTaskRecordSubmit
  refine leaves_ite h.same ?_
  dsimp only
  split
  · exact h.submitDrop ..
  · refine leaves_ite (h.submitDrop ..) (leaves_ite h.same ?_)
    split
    · next ha => exact h.acceptTask _ _ _ _ ha
    · exact h.submitDrop ..

theorem windowPut_keepsForm (fn off bs) : KeepsForm fun s => s.windowPut fn off bs := by
  intro s h
  show (s.windowPut fn off bs).Leaves _
  unfold State.windowPut
  extract_lets t o v
  refine leaves_ite (execLaunchRecordSubmit_keepsForm _ _ _ _ s h) (leaves_ite (execTaskRecordSubmit_keepsForm _ _ _ _ s h) ?_)
  have hv : v.Canon := h.submitDrop ..
  rw [leaves_next]
  split
  · exact hv
  · exact hv.same

theorem execRegisterWrite_keepsForm (fn off a) : KeepsForm (execRegisterWrite fn off a) := by
  intro s h
  unfold execRegisterWrite
  refine leaves_ite h ?_
  split
  · refine leaves_ite (windowPut_keepsForm _ _ _ s h) (leaves_ite ?_ h.same)
    exact (registerPut_keepsMem fn off _).keepsForm s h
  · exact leaves_ite h.same h.same

theorem execHeldEventDelivery_keepsForm (fn) : KeepsForm (execHeldEventDelivery fn) := by
  intro s h
  unfold execHeldEventDelivery
  dsimp only
  split
  · exact leaves_ite (h.same.pushEvent ..) h
  · exact h

theorem execHostApertureAccess_keepsForm (off a) : KeepsForm (execHostApertureAccess off a) := by
  intro s h
  unfold execHostApertureAccess
  extract_lets pa n
  refine leaves_ite ?_ ?_
  · split
    · exact h.same
    · exact h.same
  · split
    · exact h.foldl (fun u p hu => by exact hu.aperturePut ..) _
    · exact State.Canon.same (h.foldl (fun u p hu => by exact hu.same (homeFetch_mem ..)) _) (setFn_mem ..)

/-! ## Commands of the mailbox -/

theorem execClose_keepsForm (arg) : KeepsForm (execClose arg) := by
  intro s h
  unfold execClose
  exact leaves_ite h.same (leaves_ite h.same (leaves_ite h.same ((h.endJob _).same (mailEnd_mem ..))))

theorem execWarm_keepsForm (keep gmask) : KeepsForm (execWarm keep gmask) := by
  intro s h
  unfold execWarm
  refine leaves_ite h.same ?_
  extract_lets k v frames w x
  have hv : v.Canon := by
    simp only [v]
    split
    · exact h.statesOut
    · exact h
  have hw : w.Canon := hv.foldl (fun u n hu => by exact hu.endJob n) _
  have hx : x.Canon := hw.warmed ..
  clear_value x
  rw [leaves_next]
  split
  · exact hx.same
  · exact hx

theorem execAttest_keepsForm (nonce dest) : KeepsForm (execAttest nonce dest) := by
  intro s h
  unfold execAttest
  exact leaves_ite h.same ((h.poke ..).same (mailEnd_mem ..))

theorem execRestore_keepsForm (addr) : KeepsForm (execRestore addr) := by
  intro s h
  unfold execRestore
  split
  · exact h.same
  · next j _ =>
    extract_lets v refused
    have hv : v.Canon := h.same ((areaRead_mem ..).trans (createJob_mem ..))
    have hrefused : refused.Canon := (hv.endJob _).same (mailEnd_mem ..)
    clear_value refused v
    refine leaves_ite hrefused ?_
    split
    · exact hrefused
    · refine leaves_ite hrefused ?_
      split
      · exact hrefused
      · split
        · exact hrefused
        · next hw => exact (hv.rebuild _ _ _ hw).same ((mailEnd_mem ..).trans (modJob_mem ..))

theorem execMailbox_keepsForm : KeepsForm execMailbox := by
  intro s h
  unfold execMailbox
  extract_lets g rest bad
  have hbad : bad.Leaves State.Canon := h.same (mailEnd_mem ..)
  clear_value bad
  refine leaves_ite (leaves_ite ((execCreate_keepsMem _).keepsForm s h) hbad) ?_
  refine leaves_ite (leaves_ite (execClose_keepsForm _ s h) hbad) ?_
  refine leaves_ite (leaves_ite (execWarm_keepsForm _ _ s h) hbad) ?_
  refine leaves_ite (leaves_ite (execAttest_keepsForm _ _ s h) hbad) ?_
  refine leaves_ite (leaves_ite (execCheckpoint_keepsMem.keepsForm s h) hbad) ?_
  refine leaves_ite (leaves_ite (execRestore_keepsForm _ s h) hbad) ?_
  refine leaves_ite (leaves_ite ((execParam_keepsMem _ _ _).keepsForm s h) hbad) ?_
  exact leaves_ite (leaves_ite (execPower_keepsMem.keepsForm s h) hbad) hbad

theorem execJobCheckpoint_keepsForm (job) : KeepsForm (execJobCheckpoint job) := by
  intro s h
  unfold execJobCheckpoint
  refine leaves_ite h ?_
  split
  · exact h
  · next j _ =>
    refine leaves_ite h ?_
    extract_lets at_
    split
    · exact h.same
    · next r _ =>
      have hw (a : Nat) (bs : List Byte) := h.vwrite 0 none job a bs 0
      refine leaves_ite ?_ (leaves_ite ?_ (leaves_ite ?_ (leaves_ite ?_ h)))
      · exact leaves_ite (h.writeImage j) (h.foldl (fun u e hu => by exact hu.same) _)
      · exact leaves_ite (h.failCkpt ..) (leaves_ite (hw _ _) h)
      · exact (hw _ _).failCkpt ..
      · exact (h.same (modJob_mem ..)).endCkpt ..

/-! ## Events of the device -/

theorem execHbmArrayError_keepsForm (t unc loc addr syms) : KeepsForm (execHbmArrayError t unc loc addr syms) := by
  intro s h
  unfold execHbmArrayError
  extract_lets v layer w x n y
  refine leaves_ite h ?_
  have hv : v.Canon := h.same (modTower_mem ..)
  refine leaves_ite (hv.same (bumpErr_mem ..)) ?_
  have hy : y.Canon := hv.same (by simp [y, w])
  clear_value y
  rw [leaves_next]
  split
  · exact hy.mapOut ..
  · exact hy

theorem execLaneSwap_keepsForm (t stack pc lane tries wr addr mism) : KeepsForm (execLaneSwap t stack pc lane tries wr addr mism) := by
  intro s h
  unfold execLaneSwap
  dsimp only
  refine leaves_ite h (leaves_ite ?_ ?_)
  · exact (h.same (by simp)).postEvent ..
  · exact h.same

theorem execMeshLinkFailure_keepsForm (a b ok) : KeepsForm (execMeshLinkFailure a b ok) := by
  intro s h
  unfold execMeshLinkFailure
  exact leaves_ite h h.haltAll

theorem execSensorRead_keepsForm (deci t die) : KeepsForm (execSensorRead deci t die) := by
  intro s h
  unfold execSensorRead
  extract_lets v
  have hv : v.Canon := h
  exact leaves_ite hv.haltAll hv

theorem execColdStart_keepsForm (cfg) : KeepsForm (execColdStart cfg) := by
  intro s h
  unfold execColdStart
  exact h.hostMem

end Sys2Proof.Machine
end

section
/-! The canonical form of memory through the operation of each instruction. -/

set_option Elab.async false -- one proof at a time: many at once exhaust the memory of a build

namespace Sys2Proof.Machine

variable {s u : State}

/-! ## Operations -/

/-- Where the operation goes on, its state satisfies p. -/
def Gives (p : State → Prop) : Except Stop State → Prop
  | .ok t => p t
  | .error _ => True

@[simp] theorem gives_ok (p : State → Prop) (t : State) : Gives p (.ok t) ↔ p t := Iff.rfl

@[simp] theorem gives_error (p : State → Prop) (e : Stop) : Gives p (.error e) := trivial

theorem gives_ite {p : State → Prop} {c : Prop} [Decidable c] {a b : Except Stop State} (ha : Gives p a) (hb : Gives p b) :
    Gives p (if c then a else b) := by
  split
  · exact ha
  · exact hb

/-- An operation that keeps the canonical form. -/
structure GOp.KeepsForm (g : GOp) : Prop where
  ok : ∀ s, s.Canon → Gives State.Canon (g.op s)

namespace GOp.KeepsForm

theorem of_writesOnly {g : GOp} {ds : List Reg} (h : g.WritesOnly ds) : g.KeepsForm where
  ok s hs := by
    have hok := h.ok s
    generalize g.op s = o at hok ⊢
    cases o with
    | error e => trivial
    | ok u => exact hs.same (hok u rfl).frame.mem

theorem of_mem {g : GOp} (h : ∀ s, Gives (fun u => u.mem = s.mem) (g.op s)) : g.KeepsForm where
  ok s hs := by
    have hok := h s
    generalize g.op s = o at hok ⊢
    cases o with
    | error e => trivial
    | ok u => exact hs.same hok

/-- An operation that always gives one result. -/
theorem lands {g : GOp} (h : ∀ s, ∃ r l v fl po, g.op s = .ok (s.result s.cur.core s.cur.strand r l v fl po)) : g.KeepsForm :=
  of_mem fun s => by
    obtain ⟨r, l, v, fl, po, h⟩ := h s
    rw [h, gives_ok]
    exact result_mem ..

theorem pends {g : GOp} (h : ∀ s, ∃ r v due tag fl po, g.op s = .ok (s.resultVar s.cur.core s.cur.strand r v due tag fl po)) : g.KeepsForm :=
  of_mem fun s => by
    obtain ⟨r, v, due, tag, fl, po, h⟩ := h s
    rw [h, gives_ok]
    exact resultVar_mem ..

/-! ### Control and system operations -/

theorem loop (lvl c e) : (gopLoop lvl c e).KeepsForm := of_mem fun s => by
  unfold gopLoop
  exact gives_ite trivial (startLoop_mem ..)

theorem loopi (lvl n e) : (gopLoopi lvl n e).KeepsForm := of_mem fun _ => startLoop_mem ..

theorem lbrk (g lvl) : (gopLbrk g lvl).KeepsForm := of_mem fun _ => leaveLoop_mem ..

theorem syswr (g d n) : (gopSyswr g d n).KeepsForm := of_mem fun _ => rfl

theorem trap (g n) : (gopTrap g n).KeepsForm := ⟨fun _ _ => trivial⟩

theorem eret (g) : (gopEret g).KeepsForm := of_mem fun s => by
  unfold gopEret
  refine gives_ite ?_ trivial
  rw [gives_ok]
  exact modStrand_mem s s.cur.core s.cur.strand fun x => x.setTH false

theorem cmpt (g f a b) : (gopCmpt g f a b).KeepsForm := of_mem fun s => by
  unfold gopCmpt
  exact gives_ite rfl trivial

theorem exit (g) : (gopExit g).KeepsForm := of_mem fun s => by
  unfold gopExit
  refine gives_ite trivial ?_
  dsimp only
  rw [gives_ok]
  split <;> simp

theorem xlinv (g a b) : (gopXlinv g a b).KeepsForm where
  ok s h := by
    unfold gopXlinv
    dsimp -zeta only
    extract_lets k i va w j t v
    have ht : t.Canon := h.loadPush ..
    have hv : v.Canon := ht.same (dropTlb_mem ..)
    clear_value t v
    exact gives_ite trivial (gives_ite trivial (gives_ite trivial hv.same))

/-! ### Loads and stores -/

theorem load (g oc p n r u f bad s) : (gopLoad g oc p n r u f bad s).KeepsForm where
  ok s h := by
    unfold gopLoad
    dsimp only
    split
    · trivial
    · next hl =>
      have hv := h.loadBytes _ _ _ _ _ _ hl
      exact hv.same

theorem store (g oc p n r u f bad) : (gopStore g oc p n r u f bad).KeepsForm where
  ok s h := by
    unfold gopStore
    dsimp only
    split
    · trivial
    · next hs => exact (h.storeBytes _ _ _ _ _ _ hs).same (updatePtr_mem ..)

theorem rowLoad (g oc p d u f strided s) : (gopRowLoad g oc p d u f strided s).KeepsForm where
  ok s h := by
    unfold gopRowLoad
    dsimp -zeta only
    extract_lets k i r l hb
    refine gives_ite h.same ?_
    split
    · trivial
    · refine gives_ite trivial ?_
      split
      · trivial
      · next hp =>
        have hv := h.readParts _ _ _ _ _ hp
        exact hv.same

theorem rowStore (g oc p d u f strided) : (gopRowStore g oc p d u f strided).KeepsForm where
  ok s h := by
    unfold gopRowStore
    dsimp -zeta only
    extract_lets k i r x v bs
    refine gives_ite h.same ?_
    split
    · trivial
    · refine gives_ite trivial (gives_ite (gives_ite trivial h.same) (gives_ite trivial ?_))
      exact (h.storeDirect ..).same ((wideFreeze_mem ..).trans (updatePtr_mem ..))

theorem ldk (g p d u f) : (gopLdk g p d u f).KeepsForm := of_mem fun s => by
  unfold gopLdk
  dsimp only
  refine gives_ite trivial (gives_ite trivial (gives_ite trivial ?_))
  split
  · trivial
  · refine gives_ite trivial ?_
    split
    · exact gives_ite (by simp) (by simp)
    · exact gives_ite trivial (by simp)

theorem tset (g a b) : (gopTset g a b).KeepsForm := of_mem fun s => by
  unfold gopTset
  exact gives_ite trivial (gives_ite trivial (setCore_mem ..))

theorem tclr (g a) : (gopTclr g a).KeepsForm := of_mem fun _ => modCore_mem ..

theorem tinv (g) : (gopTinv g).KeepsForm := of_mem fun _ => modCore_mem ..

/-! ### Atomics, fences and watches -/

theorem amo (g oc p d q op dbl) : (gopAmo g oc p d q op dbl).KeepsForm where
  ok s h := by
    unfold gopAmo
    dsimp only
    split
    · trivial
    · exact (h.same (by simp)).post ..

theorem red (g oc p q op dbl) : (gopRed g oc p q op dbl).KeepsForm where
  ok s h := by
    unfold gopRed
    dsimp only
    split
    · trivial
    · exact gives_ite trivial (h.post ..)

theorem fence (g m sc) : (gopFence g m sc).KeepsForm := of_mem fun s => by
  unfold gopFence
  rw [gives_ok]
  split
  · rfl
  · exact fenceMark_mem ..

theorem fenceD (g) : (gopFenceD g).KeepsForm := of_mem fun _ => fenceMark_mem ..

theorem row (g) : (gopRow g).KeepsForm := of_mem fun _ => modStrand_mem ..

theorem watch (g p u f) : (gopWatch g p u f).KeepsForm := of_mem fun s => by
  unfold gopWatch
  dsimp only
  refine gives_ite trivial (gives_ite trivial ?_)
  split
  · trivial
  · refine gives_ite trivial (gives_ite ?_ (gives_ite ?_ ?_))
    · split
      · simp
      · trivial
    · simp [homeFetch_mem]
    · split
      · simp
      · trivial

theorem waitw (g) : (gopWaitw g).KeepsForm := of_mem fun s => by
  unfold gopWaitw
  dsimp only
  split
  · rfl
  · refine gives_ite (by simp) (gives_ite trivial (gives_ite ?_ ?_))
    · split
      · trivial
      · exact gives_ite (by simp) trivial
    · split
      · trivial
      · exact gives_ite (by simp) trivial

theorem kinv (g) : (gopKinv g).KeepsForm where
  ok s h := by
    unfold gopKinv
    dsimp -zeta only
    extract_lets k i t
    have ht : t.Canon := (h.release k i).pushHome ..
    clear_value t
    exact gives_ite (ht.same (modStrand_mem ..)) trivial

/-! ### Engines and the array -/

theorem wstr (g f a b acq sc) : (gopWstr g f a b acq sc).KeepsForm := of_mem fun s => by
  unfold gopWstr
  dsimp only
  split
  · trivial
  · exact gives_ite trivial (gives_ite (by simp) (by simp))

theorem wld (g) : (gopWld g).KeepsForm := of_mem fun s => by
  unfold gopWld
  dsimp only
  split
  · trivial
  · split
    · trivial
    · exact gives_ite trivial (gives_ite trivial (by simp))

theorem wscl (g a acq sc) : (gopWscl g a acq sc).KeepsForm where
  ok s h := by
    unfold gopWscl
    dsimp -zeta only
    extract_lets k i va n v w
    refine gives_ite trivial ?_
    split
    · trivial
    · refine gives_ite trivial ?_
      have hv : v.Canon := by
        simp only [v]
        split
        · exact h.scopePush ..
        · exact h
      exact hv.same (by simp [w])

theorem wswap (g) : (gopWswap g).KeepsForm := of_mem fun s => by
  unfold gopWswap
  exact gives_ite trivial (gives_ite trivial (by simp))

theorem mma (g d a n zs s) : (gopMma g d a n zs s).KeepsForm := of_mem fun s => by
  unfold gopMma
  dsimp only
  refine gives_ite trivial ?_
  split
  · trivial
  · refine gives_ite trivial (gives_ite trivial (gives_ite trivial (gives_ite trivial (gives_ite trivial (gives_ite trivial (gives_ite trivial ?_))))))
    rw [gives_ok]
    refine (modCore_mem ..).trans ((foldl_mem (fun u r => ?_) _ _).trans (by simp))
    simp

theorem mrd (g d a b n s) : (gopMrd g d a b n s).KeepsForm := of_mem fun s => by
  unfold gopMrd
  dsimp only
  split
  · trivial
  · exact gives_ite trivial (by simp)

theorem acfg (g f) : (gopAcfg g f).KeepsForm := of_mem fun _ => modStrand_mem ..

theorem fwd (form g d a b c s) : (gopFwd form g d a b c s).KeepsForm where
  ok s h := by
    unfold gopFwd
    extract_lets rd outs
    dsimp -zeta only
    extract_lets k i ref hd t f
    split
    · trivial
    · next w _ =>
      refine gives_ite trivial ?_
      have hread := h.same (readTile_mem s t w)
      generalize s.readTile t w = q at hread ⊢
      obtain ⟨v, tile⟩ := q
      dsimp -zeta only
      extract_lets rows cols off plane qs os own
      have hown : ∀ z ∈ own, z.1.Canon := by
        simp only [own]
        split
        · simpa using hread
        · exact State.Canon.ownTile hread _ _
      clear_value own
      split
      · trivial
      · next x w' =>
        have hx : x.Canon := hown _ rfl
        dsimp only
        exact hx.same (by simp [apply_ite State.mem])

theorem opu (g d a b c s) : (gopOpu g d a b c s).KeepsForm where
  ok s h := by
    unfold gopOpu
    dsimp only
    split
    · trivial
    · refine gives_ite trivial ?_
      split
      · trivial
      · next ho => exact (h.ownTile _ _ _ ho).same (by simp)

/-! ### States -/

theorem sfork (g d a b) : (gopSfork g d a b).KeepsForm where
  ok s h := by
    unfold gopSfork
    dsimp only
    refine gives_ite (gives_ite trivial ?_) ?_
    · split
      · trivial
      · exact h.acceptResult ..
    · split
      · trivial
      · split
        · trivial
        · exact h.acceptResult ..

theorem ssnap (g a b) : (gopSsnap g a b).KeepsForm where
  ok s h := by
    unfold gopSsnap
    dsimp -zeta only
    extract_lets k i xa xb n
    split
    · trivial
    · next hd _ =>
      extract_lets r
      refine gives_ite trivial ?_
      have hr : ∀ z ∈ r, z.2.Canon := by
        simp only [r]
        split
        · simpa using h
        · intro z hz
          exact h.same (arenaAlloc_mem _ _ _ _ hz)
      clear_value r
      split
      · trivial
      · trivial
      · exact gives_ite trivial (State.Canon.acceptEngine (hr _ rfl) ..)

theorem sroll (g a b) : (gopSroll g a b).KeepsForm where
  ok s h := by
    unfold gopSroll
    dsimp only
    split
    · trivial
    · exact gives_ite trivial (gives_ite trivial (gives_ite trivial (h.acceptEngine ..)))

theorem savg (g d a b w fs) : (gopSavg g d a b w fs).KeepsForm where
  ok s h := by
    unfold gopSavg
    dsimp only
    split
    · trivial
    · split
      · trivial
      · exact gives_ite trivial (h.acceptEngine ..)

theorem sfree (g a) : (gopSfree g a).KeepsForm where
  ok s h := by
    unfold gopSfree
    dsimp only
    split
    · trivial
    · exact gives_ite trivial (h.acceptEngine ..)

theorem smove (g d a b) : (gopSmove g d a b).KeepsForm where
  ok s h := by
    unfold gopSmove
    dsimp only
    split
    · trivial
    · exact gives_ite trivial (h.acceptResult ..)

theorem sqry (g d a) : (gopSqry g d a).KeepsForm := of_mem fun s => by
  unfold gopSqry
  exact gives_ite trivial (by simp)

theorem ewait (g m) : (gopEwait g m).KeepsForm := of_mem fun _ => gives_ite rfl trivial

/-! ### Tasks, launches and copies -/

theorem tsub (g a) : (gopTsub g a).KeepsForm where
  ok s h := by
    unfold gopTsub
    dsimp -zeta only
    extract_lets k i t xa
    split
    · trivial
    · next hr =>
      have hv := h.readRecord _ _ _ _ hr
      extract_lets p pool grd mine w
      clear_value pool grd mine
      refine gives_ite trivial ?_
      split
      · trivial
      · refine gives_ite trivial (gives_ite (hv.same (modPool_mem ..)) ?_)
        have hw : w.Canon := hv.release k i
        refine gives_ite trivial ?_
        split
        · next ha => exact hw.acceptTask _ _ _ _ ha
        · trivial

theorem tdone (g) : (gopTdone g).KeepsForm := of_mem fun s => by
  unfold gopTdone
  dsimp -zeta only
  extract_lets k i t x park shut c v w
  have hpark (v : State) : (park v).mem = v.mem := by simp [park]
  clear_value park
  refine gives_ite trivial ?_
  split
  · exact hpark _
  · refine gives_ite (hpark _) (gives_ite (by simp [hpark]) (gives_ite trivial ?_))
    exact gives_ite trivial (gives_ite (by simp [hpark, w]) (gives_ite trivial (by simp [hpark, w])))

theorem launch (g d a) : (gopLaunch g d a).KeepsForm where
  ok s h := by
    unfold gopLaunch
    dsimp -zeta only
    extract_lets k i t xa
    split
    · trivial
    · next hr =>
      have hv := State.Canon.release (h.readRecord _ _ _ _ hr) k i
      dsimp only
      refine gives_ite trivial ?_
      split
      · split
        · exact hv.same
        · refine gives_ite hv.same ?_
          split
          · exact hv.same
          · exact hv.same
      · exact hv.same

theorem ljoin (g a) : (gopLjoin g a).KeepsForm := of_mem fun s => by
  unfold gopLjoin
  exact gives_ite trivial (gives_ite trivial (gives_ite trivial (gives_ite trivial (by simp))))

theorem range (g d a b) : (gopRange g d a b).KeepsForm := of_mem fun s => by
  unfold gopRange
  dsimp only
  exact gives_ite trivial (gives_ite trivial (by simp))

theorem gbar (g) : (gopGbar g).KeepsForm := of_mem fun s => by
  unfold gopGbar
  dsimp only
  refine gives_ite trivial ?_
  rw [gives_ok]
  split <;> simp

theorem yield (g) : (gopYield g).KeepsForm := of_mem fun _ => rfl

theorem spage (g a b) : (gopSpage g a b).KeepsForm := of_mem fun s => by
  unfold gopSpage
  dsimp only
  refine gives_ite trivial ?_
  split
  · rfl
  · exact gives_ite (by simp) (by simp)

theorem cpy (g a) : (gopCpy g a).KeepsForm := of_mem fun s => by
  unfold gopCpy
  dsimp only
  split
  · trivial
  · exact gives_ite trivial (by simp)

theorem push (g a b) : (gopPush g a b).KeepsForm := of_mem fun s => by
  unfold gopPush
  dsimp only
  split
  · trivial
  · exact gives_ite trivial (by simp)

end GOp.KeepsForm

end Sys2Proof.Machine
end

section
/-! The canonical form of memory through issue and the parts of a cycle. -/

set_option Elab.async false -- one proof at a time: many at once exhaust the memory of a build

namespace Sys2Proof.Machine

variable {s u : State}

/-! ## Every encoded instruction -/

section
open GOp.WritesOnly GOp.KeepsForm

theorem GOp.KeepsForm.of_some {g : GOp} (h : g.KeepsForm) : ∀ o ∈ some g, o.KeepsForm := by simpa using h

/-- The instructions whose operation writes registers only. -/
def registerOnly : Instr → Bool
  | .add .. | .sub .. | .and_ .. | .or_ .. | .xor .. | .andn .. | .shl .. | .shr .. | .sra .. | .rot .. | .mul .. | .mulh .. | .mulhu ..
  | .min .. | .max .. | .minu .. | .maxu .. | .clz .. | .ctz .. | .popc .. | .brev .. | .sext .. | .zext .. | .addi .. | .andi .. | .ori ..
  | .xori .. | .shli .. | .shri .. | .srai .. | .muli .. | .mini .. | .maxi .. | .movi .. | .movw .. | .div .. | .divu .. | .rem ..
  | .remu .. | .cmp .. | .cmpi .. | .pand .. | .por .. | .pxor .. | .pandn .. | .pnot .. | .pmov .. | .fcmp .. | .fadd .. | .fsub ..
  | .fmul .. | .ffma .. | .fdiv .. | .fsqrt .. | .fmin .. | .fmax .. | .fabs .. | .fneg .. | .fcvt .. | .fmov .. | .aadd .. | .aset ..
  | .sel .. | .fnum .. | .fden .. | .fclass .. | .sysrd .. | .cntrd .. | .tlook .. | .epoll .. | .vext .. | .vsel .. | .vshuf .. | .vrot ..
  | .vcvt .. | .vpack .. | .vunpk .. | .vreds .. | .vredm .. | .vidx .. | .vbcast .. | .vins .. | .vmovi .. | .vdot4 .. | .vcmx ..
  | .fmake .. | .frnd .. | .br .. | .call .. | .brx .. | .ret .. | .vadd .. | .vsub .. | .vmul .. | .vfma .. | .vmin .. | .vmax ..
  | .vabs .. | .vneg .. | .vand .. | .vor .. | .vxor .. | .vnot .. | .vshl .. | .vshr .. | .vsra .. | .vshli .. | .vshri .. | .vsrai ..
  | .vaddi .. | .vcmp .. | .vexp .. | .vlog .. | .vrcp .. | .vrsq .. | .vtanh .. | .vsig .. | .vsin .. | .vcos .. | .verf .. | .amset ..
  | .cntrdc .. | .cntsnap .. | .nop .. | .qcnt .. => true
  | _ => false

theorem gopOf_keepsForm_of_registerOnly (i : Instr) (hi : registerOnly i = true) : ∀ g ∈ gopOf i s, g.KeepsForm := by
  cases i with
  | add | sub | and_ | or_ | xor | andn | shl | shr | sra | rot | mul | mulh | mulhu | min | max | minu | maxu => exact of_some (of_writesOnly (two ..))
  | clz | ctz | popc | brev | sext | zext | addi | andi | ori | xori | shli | shri | srai | muli | mini | maxi => exact of_some (of_writesOnly (imm ..))
  | movi | movw => exact of_some (of_writesOnly (const ..))
  | div | divu | rem | remu => exact of_some (of_writesOnly (divide ..))
  | cmp => exact of_some (of_writesOnly (cmp ..))
  | cmpi => exact of_some (of_writesOnly (cmpi ..))
  | pand | por | pxor | pandn | pnot | pmov => exact of_some (of_writesOnly (pred ..))
  | fcmp => exact of_some (of_writesOnly (fcmp ..))
  | fadd | fsub | fmul | ffma => exact of_some (of_writesOnly (arith ..))
  | fdiv => exact of_some (of_writesOnly (fdiv ..))
  | fsqrt => exact of_some (of_writesOnly (fsqrt ..))
  | fmin | fmax => exact of_some (of_writesOnly (selects ..))
  | fabs | fneg => exact of_some (of_writesOnly (sign ..))
  | fcvt => exact of_some (of_writesOnly (fcvt ..))
  | fmov => exact of_some (of_writesOnly (lands (r := .f _) rfl fun _ => ⟨_, _, _, _, rfl⟩))
  | aadd | aset => exact of_some (of_writesOnly (lands (r := .a _) rfl fun _ => ⟨_, _, _, _, rfl⟩))
  | sel | fnum | fden | fclass | sysrd | cntrd | tlook | epoll | vext => exact of_some (of_writesOnly (lands (r := .x _) rfl fun _ => ⟨_, _, _, _, rfl⟩))
  | vsel | vshuf | vrot | vcvt | vpack | vunpk | vreds | vredm | vidx | vbcast | vins | vmovi | vdot4 | vcmx =>
    exact of_some (of_writesOnly (lands (r := .v _) rfl fun _ => ⟨_, _, _, _, rfl⟩))
  | fmake | frnd => exact of_some (of_writesOnly (pends (r := .f _) rfl fun _ => ⟨_, _, _, _, _, rfl⟩))
  | br => exact of_some (of_writesOnly (transfer (link := none) rfl fun _ => rfl))
  | call g d => exact of_some (of_writesOnly (transfer (link := some d) rfl fun _ => rfl))
  | brx => exact of_some (of_writesOnly (transfer (link := none) rfl fun _ => rfl))
  | ret => exact of_some (of_writesOnly (transfer (link := none) rfl fun _ => rfl))
  | vadd | vsub | vmul | vfma | vmin | vmax | vabs | vneg | vand | vor | vxor | vnot | vshl | vshr | vsra | vshli | vshri | vsrai | vaddi =>
    exact of_some (of_writesOnly (lanes ..))
  | vcmp => exact of_some (of_writesOnly (vcmp ..))
  | vexp | vlog | vrcp | vrsq | vtanh | vsig | vsin | vcos | verf => exact of_some (of_writesOnly (special ..))
  | amset => exact of_some (of_writesOnly (amset ..))
  | cntrdc => exact of_some (of_writesOnly (cntrdc ..))
  | cntsnap => exact of_some (of_writesOnly (cntsnap ..))
  | nop => exact of_some (of_writesOnly (nop ..))
  | qcnt => exact of_some (of_writesOnly (qcnt ..))
  | _ => cases hi

theorem gopOf_keepsForm_of_not_registerOnly (i : Instr) (hi : registerOnly i = false) : ∀ g ∈ gopOf i s, g.KeepsForm := by
  cases i with
  | loop => exact of_some (loop _ _ _)
  | loopi => exact of_some (loopi _ _ _)
  | lbrk => exact of_some (lbrk _ _)
  | syswr => exact of_some (syswr _ _ _)
  | trap => exact of_some (trap _ _)
  | eret => exact of_some (eret _)
  | cmpt => exact of_some (cmpt _ _ _ _)
  | exit => exact of_some (exit _)
  | xlinv => exact of_some (xlinv _ _ _)
  | ldB | ldH | ldW | ldD | ldf => exact of_some (load _ _ _ _ _ _ _ _ _)
  | stB | stH | stW | stD | stf => exact of_some (store _ _ _ _ _ _ _ _)
  | vld | vlds => exact of_some (rowLoad _ _ _ _ _ _ _ _)
  | vst | vsts => exact of_some (rowStore _ _ _ _ _ _ _)
  | ldk => exact of_some (ldk _ _ _ _ _)
  | tset => exact of_some (tset _ _ _)
  | tclr => exact of_some (tclr _ _)
  | tinv => exact of_some (tinv _)
  | amo => exact of_some (amo _ _ _ _ _ _ _)
  | red => exact of_some (red _ _ _ _ _ _)
  | fence => exact of_some (fence _ _ _)
  | fenceD => exact of_some (fenceD _)
  | row => exact of_some (row _)
  | watch => exact of_some (watch _ _ _ _)
  | waitw => exact of_some (waitw _)
  | kinv => exact of_some (kinv _)
  | wstr => exact of_some (wstr _ _ _ _ _ _)
  | wld => exact of_some (wld _)
  | wscl => exact of_some (wscl _ _ _ _)
  | wswap => exact of_some (wswap _)
  | mma => exact of_some (mma _ _ _ _ _ _)
  | mrd => exact of_some (mrd _ _ _ _ _ _)
  | acfg => exact of_some (acfg _ _)
  | fwdRead | fwdDelta | fwdOuter => exact of_some (fwd _ _ _ _ _ _ _)
  | opu => exact of_some (opu _ _ _ _ _ _)
  | sfork => exact of_some (sfork _ _ _ _)
  | ssnap => exact of_some (ssnap _ _ _)
  | sroll => exact of_some (sroll _ _ _)
  | savg => exact of_some (savg _ _ _ _ _ _)
  | sfree => exact of_some (sfree _ _)
  | smove => exact of_some (smove _ _ _ _)
  | sqry => exact of_some (sqry _ _ _)
  | ewait => exact of_some (ewait _ _)
  | tsub => exact of_some (tsub _ _)
  | tdone => exact of_some (tdone _)
  | launch => exact of_some (launch _ _ _)
  | ljoin => exact of_some (ljoin _ _)
  | range => exact of_some (range _ _ _ _)
  | gbar => exact of_some (gbar _)
  | yield_ => exact of_some (yield _)
  | spage => exact of_some (spage _ _ _)
  | cpy => exact of_some (cpy _ _)
  | push => exact of_some (push _ _ _)
  | _ => exact fun _ h => by cases h <;> cases hi

theorem gopOf_keepsForm (i : Instr) : ∀ g ∈ gopOf i s, g.KeepsForm := by
  cases hi : registerOnly i with
  | true => exact gopOf_keepsForm_of_registerOnly i hi
  | false => exact gopOf_keepsForm_of_not_registerOnly i hi

end

/-! ## Issue -/

theorem State.Canon.runOp (h : s.Canon) {g : GOp} (hg : g.KeepsForm) : (Machine.runOp s g).1.Canon := by
  have hs := hg.ok s h
  unfold Machine.runOp
  dsimp only
  split
  · exact h
  · split
    · exact h
    · split
      · exact h
      · next ht =>
        rw [ht] at hs
        split
        · exact h
        · exact State.Canon.same hs (popReads_mem ..)

theorem State.Canon.runOps (h : s.Canon) (l : List (Nat × GOp)) (hl : ∀ e ∈ l, e.2.KeepsForm) : (Machine.runOps s l).1.Canon := by
  induction l generalizing s with
  | nil => exact h
  | cons e l ih => exact ih (h.runOp (hl e List.mem_cons_self)) fun x hx => hl x (List.mem_cons_of_mem _ hx)

theorem mem_of_mem_phased {ops : List GOp} {e : Nat × GOp} (h : e ∈ phased ops) : e.2 ∈ ops := by
  have hz : e ∈ ops.zipIdx.map fun e => (e.2, e.1) := by
    simp only [phased, List.mem_append, List.mem_filter] at h
    tauto
  obtain ⟨z, hm, rfl⟩ := List.mem_map.1 hz
  exact List.fst_mem_of_mem_zipIdx hm

theorem issueGroup_keepsForm (enc) {ops : List GOp} (hops : ∀ g ∈ ops, g.KeepsForm) : KeepsForm (issueGroup enc ops) := by
  intro s h
  unfold issueGroup
  extract_lets k i ns
  split
  · exact h.same ((spend_mem _).trans (takeCause_mem ..))
  · have hrun := State.Canon.runOps (s := s.openGroup ns) (h.same (openGroup_mem ..)) (phased ops) fun e he => hops _ (mem_of_mem_phased he)
    dsimp only
    exact leaves_ite (State.Canon.same hrun ((closeGroup_mem ..).trans (advance_mem _))) (h.same (holdGroup_mem ..))

theorem event_keepsForm {i : Instr} (hi : gopOf i s = none) (h : s.Canon) : Out.Leaves State.Canon (exec i s) := by
  cases i with
  | resultLanding => exact (execResultLanding_keepsMem _ _ _).keepsForm s h
  | pendingResultLands => exact (execPendingResultLands_keepsMem _ _ _).keepsForm s h
  | shadeMissService => exact execShadeMissService_keepsForm _ _ s h
  | trapEntry => exact (execTrapEntry_keepsMem _ _ _ _ _ _ _).keepsForm s h
  | recoveryRewind => exact (execRecoveryRewind_keepsMem _ _ _).keepsForm s h
  | gangFailure => exact execGangFailure_keepsForm _ _ _ s h
  | gangPlacement => exact execGangPlacement_keepsForm _ s h
  | preemption => exact execPreemption_keepsForm _ s h
  | gangReturn => exact (execGangReturn_keepsMem _).keepsForm s h
  | gbarCompletion => exact (execGbarCompletion_keepsMem _).keepsForm s h
  | rowDrain => exact execRowDrain_keepsForm _ s h
  | gangRetirement => exact execGangRetirement_keepsForm _ s h
  | waitBudgetPreemption => exact execWaitBudgetPreemption_keepsForm _ s h
  | deadlineHalt => exact execDeadlineHalt_keepsForm _ s h
  | periodStart => exact execPeriodStart_keepsMem.keepsForm s h
  | sliceStart => exact (execSliceStart_keepsMem _).keepsForm s h
  | rateWindowStart => exact execRateWindowStart_keepsMem.keepsForm s h
  | decompressBlock => exact execDecompressBlock_keepsForm _ _ s h
  | planeLoadComplete => exact (execPlaneLoadComplete_keepsMem _ _).keepsForm s h
  | scaleLoadComplete => exact (execScaleLoadComplete_keepsMem _ _).keepsForm s h
  | wswapEffect => exact (execWswapEffect_keepsMem _ _).keepsForm s h
  | mrdComplete => exact (execMrdComplete_keepsMem _ _).keepsForm s h
  | stateEngineComplete => exact (execStateEngineComplete_keepsMem _ _).keepsForm s h
  | copyOnWriteComplete => exact (execCopyOnWriteComplete_keepsMem _ _).keepsForm s h
  | copyComplete => exact execCopyComplete_keepsForm _ _ s h
  | pushComplete => exact (execPushComplete_keepsMem _ _).keepsForm s h
  | arrivalRegistration => exact (execArrivalRegistration_keepsMem _ _ _).keepsForm s h
  | pagerServe => exact (execPagerServe_keepsMem _).keepsForm s h
  | pageInComplete => exact execPageInComplete_keepsForm _ s h
  | pageOutComplete => exact execPageOutComplete_keepsForm _ s h
  | stateMoveComplete => exact execStateMoveComplete_keepsForm _ _ _ s h
  | retentionEntry => exact (execRetentionEntry_keepsMem _ _ _).keepsForm s h
  | retentionExit => exact (execRetentionExit_keepsMem _ _ _).keepsForm s h
  | taskDispatch => exact (execTaskDispatch_keepsMem _).keepsForm s h
  | taskStart => exact (execTaskStart_keepsMem _ _).keepsForm s h
  | ringRefill => exact execRingRefill_keepsForm _ _ s h
  | postedWritePerform => exact execPostedWritePerform_keepsForm _ _ _ s h
  | fenceActionsComplete => exact execFenceActionsComplete_keepsForm _ _ _ s h
  | translationDropAck => exact (execTranslationDropAck_keepsMem _ _ _).keepsForm s h
  | waitRecheck => exact (execWaitRecheck_keepsMem _ _ _).keepsForm s h
  | hotPageProposal => exact (execHotPageProposal_keepsMem _ _ _ _ _).keepsForm s h
  | migrationFreeze => exact (execMigrationFreeze_keepsMem _ _).keepsForm s h
  | migrationCopyComplete => exact execMigrationCopyComplete_keepsForm _ _ s h
  | launchRecordSubmit => exact execLaunchRecordSubmit_keepsForm _ _ _ _ s h
  | taskRecordSubmit => exact execTaskRecordSubmit_keepsForm _ _ _ _ s h
  | eqcfgWrite => exact (execEqcfgWrite_keepsMem _ _).keepsForm s h
  | eqheadWrite => exact (execEqheadWrite_keepsMem _ _).keepsForm s h
  | registerWrite => exact execRegisterWrite_keepsForm _ _ _ s h
  | heldEventDelivery => exact execHeldEventDelivery_keepsForm _ s h
  | msixMessage => exact (execMsixMessage_keepsMem _).keepsForm s h
  | create => exact (execCreate_keepsMem _).keepsForm s h
  | close => exact execClose_keepsForm _ s h
  | warm => exact execWarm_keepsForm _ _ s h
  | attest => exact execAttest_keepsForm _ _ s h
  | checkpoint => exact execCheckpoint_keepsMem.keepsForm s h
  | restore => exact execRestore_keepsForm _ s h
  | param => exact (execParam_keepsMem _ _ _).keepsForm s h
  | power => exact execPower_keepsMem.keepsForm s h
  | jobCheckpoint => exact execJobCheckpoint_keepsForm _ s h
  | hostApertureAccess => exact execHostApertureAccess_keepsForm _ _ s h
  | hbmArrayError => exact execHbmArrayError_keepsForm _ _ _ _ _ s h
  | hbmParityRetry => exact (execHbmParityRetry_keepsMem _ _ _ _ _ _ _ _ _).keepsForm s h
  | laneSwap => exact execLaneSwap_keepsForm _ _ _ _ _ _ _ _ s h
  | flitReceive => exact (execFlitReceive_keepsMem _ _).keepsForm s h
  | linkRetrain => exact (execLinkRetrain_keepsMem _ _).keepsForm s h
  | meshLinkFailure => exact execMeshLinkFailure_keepsForm _ _ _ s h
  | sensorRead => exact execSensorRead_keepsForm _ _ _ s h
  | powerRemoval => exact execPowerRemoval_keepsMem.keepsForm s h
  | coldStart => exact execColdStart_keepsForm _ s h
  | retentionEntryEnd => exact (execRetentionEntryEnd_keepsMem _ _ _).keepsForm s h
  | returnTileMovesComplete => exact execReturnTileMovesComplete_keepsForm _ s h
  | _ => cases hi

theorem exec_keepsForm (i : Instr) : KeepsForm (exec i) := by
  intro s h
  cases hg : gopOf i s with
  | none => exact event_keepsForm hg h
  | some g =>
    rw [exec_eq_issueGroup hg]
    exact issueGroup_keepsForm [] (by simpa using gopOf_keepsForm i g hg) s h

theorem issueFetched_keepsForm (enc is) : KeepsForm (issueFetched enc is) := by
  intro s h
  unfold issueFetched
  split
  · exact exec_keepsForm _ s h
  · refine issueGroup_keepsForm _ (fun g hg => ?_) s h
    obtain ⟨i, -, hi⟩ := List.mem_filterMap.1 hg
    exact gopOf_keepsForm i g hi

theorem leaves_map {o : Out} {f : State → State} (h : o.Leaves State.Canon) (hf : ∀ u, u.Canon → (f u).Canon) : (o.map f).Leaves State.Canon := by
  cases o with
  | next t => exact hf t h
  | _ => trivial

theorem State.Canon.inStub (h : s.Canon) (hu : u.Canon) (k i n) : (s.inStub u k i n).Canon := by
  obtain he | he := inStub_mem s u k i n
  · exact h.same he
  · exact hu.same he

theorem issueTurn_keepsForm (k i) : KeepsForm (issueTurn k i) := by
  intro s h
  unfold issueTurn
  extract_lets x
  refine leaves_ite h.same ?_
  split
  · next e _ =>
    have ht : (s.fetchStop k i e).Canon := h.same
    dsimp only
    rw [leaves_next]
    split
    · exact h.inStub ht ..
    · exact ht
  · next f _ =>
    extract_lets v
    have hv : v.Canon := h.foldl (fun u b hu => by exact hu.same) _
    clear_value v
    refine leaves_ite h (leaves_ite hv.same (leaves_map (issueFetched_keepsForm _ _ _ (hv.same (groupOf_mem ..))) fun t ht => ?_))
    split
    · exact hv.inStub ht ..
    · exact ht

theorem coreTurn_keepsForm (k) : KeepsForm (coreTurn k) := by
  intro s h
  unfold coreTurn
  refine leaves_ite h (leaves_ite h.same ?_)
  have hv : (s.select k).Canon := h.same
  dsimp only
  split
  · exact hv
  · exact leaves_ite (leaves_map (issueTurn_keepsForm _ _ _ hv) fun t ht => ht.transferStart k) hv

/-! ## The parts of a cycle -/

namespace State.Canon

theorem keep (h : s.Canon) {f : State → Out} (hf : KeepsMem f) : (s.run f).Canon := h.run hf.keepsForm

theorem startCycle (h : s.Canon) : s.startCycle.Canon := by
  unfold State.startCycle
  extract_lets v w
  have hv : v.Canon := (State.Canon.keep (h.same (holdCounters_mem s)) execRateWindowStart_keepsMem).keep execPeriodStart_keepsMem
  have hw : w.Canon := hv.foldl (fun u j hu => by exact hu.keep (execSliceStart_keepsMem j)) _
  exact hw.foldl (fun u k hu => by exact hu.transferStart k) _

theorem perform (h : s.Canon) (k) : (s.perform k).Canon := by
  unfold State.perform
  extract_lets n v
  split
  · exact h
  · have hv : v.Canon := (h.run (execPostedWritePerform_keepsForm _ _ _)).same (spend_mem _)
    refine hv.foldl (fun u e hu => ?_) _
    split
    · exact hu.run (execPostedWritePerform_keepsForm _ _ _)
    · exact hu

theorem memoryEnd (h : s.Canon) (k) : (s.memoryEnd k).Canon := by
  unfold State.memoryEnd
  extract_lets t f v
  have hv : v.Canon := (h.perform k).run (execShadeMissService_keepsForm t f)
  refine hv.foldl (fun u i hu => ?_) _
  have hw := (hu.run (execFenceActionsComplete_keepsForm t f i)).keep (execTranslationDropAck_keepsMem t f i)
  dsimp only
  split
  · exact hw.keep (execWaitRecheck_keepsMem t f i)
  · exact hw

theorem enginesEnd (h : s.Canon) (k) : (s.enginesEnd k).Canon := by
  unfold State.enginesEnd
  extract_lets t f n v w x y z
  have hv : v.Canon := h.run (execDecompressBlock_keepsForm t f)
  have hw : w.Canon := hv.rerun (fun u hu => (leaves_next _ _).2
    (((State.Canon.keep hu (execPlaneLoadComplete_keepsMem t f)).keep (execScaleLoadComplete_keepsMem t f)).keep (execWswapEffect_keepsMem t f))) _
  have hx : x.Canon := hw.rerun (execMrdComplete_keepsMem t f).keepsForm _
  have hy : y.Canon := hx.rerun (execStateEngineComplete_keepsMem t f).keepsForm _
  have hz : z.Canon := (hy.keep (execCopyOnWriteComplete_keepsMem t f)).transferMove k
  exact (hz.rerun (execCopyComplete_keepsForm t f) _).rerun (execPushComplete_keepsMem t f).keepsForm _

theorem endTask (h : s.Canon) (k i) : (s.endTask k i).Canon := by
  unfold State.endTask
  split
  · exact h
  · next r _ =>
    extract_lets t v u w
    have hv : v.Canon := by
      simp only [v]
      split
      · exact h.same
      · exact h
    have hw : w.Canon := State.Canon.pushHome (hv.same (modStrand_mem ..)) ..
    clear_value w
    split
    · exact h
    · split
      · exact hw
      · exact hw.same

theorem poolsEnd (h : s.Canon) (t) : (s.poolsEnd t).Canon := by
  unfold State.poolsEnd
  extract_lets v w
  have hv : v.Canon := h.same (registerTower_mem ..)
  have hw : w.Canon := hv.foldl (fun u l hu => by exact hu.same (wakeDone_mem ..)) _
  refine hw.foldl (fun u p hu => ?_) _
  have hx := (hu.serveDiscards t p).run (execRingRefill_keepsForm t p)
  dsimp only
  split
  · split
    · exact hx
    · split
      · exact (hx.same (finishPool_mem ..)).completeLaunch _
      · exact hx
  · exact hx

theorem tasksEnd (h : s.Canon) (t) : (s.tasksEnd t).Canon := by
  unfold State.tasksEnd
  extract_lets ks v w
  have hv : v.Canon := h.foldl (fun u k hu => by exact hu.foldl (fun x i hx => by exact hx.endTask k i) _) _
  have hw : w.Canon := (hv.poolsEnd t).keep (execTaskDispatch_keepsMem t)
  exact hw.foldl (fun u k hu => by exact hu.keep (execTaskStart_keepsMem t _)) _

theorem heldTick (h : s.Canon) (t) : (s.heldTick t).Canon := by
  unfold State.heldTick
  exact h.foldl (fun u e hu => by exact hu.heldGo t e) _

theorem outTick (h : s.Canon) (t) : (s.outTick t).Canon := by
  unfold State.outTick
  refine h.foldl (fun u e hu => ?_) _
  split
  · exact (hu.sendHome t e).same (spend_mem _)
  · exact hu.same

theorem towerEnd (h : s.Canon) (t) : (s.towerEnd t).Canon := by
  unfold State.towerEnd
  extract_lets n v w x y z m a
  have hv : v.Canon := ((h.outTick t).heldTick t).same ((pagerTick_mem ..).trans (wqTick_mem ..))
  have hw : w.Canon := hv.rerun (fun u hu => (leaves_next _ _).2 (State.Canon.run (State.Canon.run hu (execPageInComplete_keepsForm t)) (execPageOutComplete_keepsForm t))) _
  have hx : x.Canon := hw.keep (execPagerServe_keepsMem t)
  have hy : y.Canon := State.Canon.serveStates (hx.same (banksEnd_mem ..)) t
  have hz : z.Canon := hy.foldl (fun u o hu => by exact hu.run (execStateMoveComplete_keepsForm t _ _)) _
  have ha : a.Canon := hz.foldl (fun u k hu => by exact hu.keep (execMigrationFreeze_keepsMem t k)) _
  exact State.Canon.same (ha.foldl (fun u k hu => by exact hu.run (execMigrationCopyComplete_keepsForm t _)) _) (proposeNext_mem ..)

theorem failures (h : s.Canon) : s.failures.Canon := by
  unfold State.failures
  extract_lets mine
  exact State.Canon.foldl (s := { s with agenda := s.agenda.filter fun e => !mine e }) h (fun u (e : Nat × Instr) hu => by exact hu.run (exec_keepsForm e.2)) _

theorem outsideEnd (h : s.Canon) : s.outsideEnd.Canon := by
  unfold State.outsideEnd
  extract_lets v w x
  have hv : v.Canon := State.Canon.serveInbound (State.Canon.serveLinks (h.same (u := State.peerWatches _) (peerWatches_mem _)))
  have hw : w.Canon := by
    simp only [w]
    split
    · exact hv.run (execJobCheckpoint_keepsForm _)
    · exact hv
  have hx : x.Canon := hw.foldl (fun u n hu => by
    exact (hu.foldl (fun y _ hy => by exact hy.run (execHeldEventDelivery_keepsForm n)) _).keep (execMsixMessage_keepsMem n)) _
  exact hx.keep execPowerRemoval_keepsMem

theorem budgetsEnd (h : s.Canon) : s.budgetsEnd.Canon := by
  unfold State.budgetsEnd
  extract_lets count v w
  have hv : v.Canon := h
  have hw : w.Canon := hv.foldl (fun u j hu => by exact hu.run (execDeadlineHalt_keepsForm j)) _
  exact hw.foldl (fun u g hu => by exact hu.run (execWaitBudgetPreemption_keepsForm g)) _

theorem placersEnd (h : s.Canon) : s.placersEnd.Canon := by
  unfold State.placersEnd
  extract_lets v
  have hv : v.Canon := h.foldl (fun u g hu => by exact hu.keep (execGangReturn_keepsMem g)) _
  exact hv.foldl (fun u t hu => by exact hu.run (execGangPlacement_keepsForm t)) _

theorem gangsEnd (h : s.Canon) : s.gangsEnd.Canon := by
  unfold State.gangsEnd
  refine h.foldl (fun u g hu => ?_) _
  extract_lets v w x
  have hv : v.Canon := (hu.run (execRowDrain_keepsForm g)).keep (execGbarCompletion_keepsMem g)
  have hw : w.Canon := hv.run (execReturnTileMovesComplete_keepsForm g)
  have hx : x.Canon := by
    simp only [x]
    split
    · exact hw.run (execPreemption_keepsForm g)
    · exact hw
  exact hx.run (execGangRetirement_keepsForm g)

theorem endCycle (h : s.Canon) : s.endCycle.Canon := by
  unfold State.endCycle
  extract_lets fz v w x y
  have hw : w.Canon := h.same ((upsetsEnd_mem _).trans ((landCycle_mem ..).trans (countCycle_mem s)))
  have hx : x.Canon := hw.foldl (fun u k hu => by exact ((hu.enginesEnd k).memoryEnd k).same (strandsEnd_mem ..)) _
  have hy : y.Canon := hx.foldl (fun u t hu => by exact (hu.towerEnd t).tasksEnd t) _
  exact hy.gangsEnd.placersEnd.budgetsEnd.outsideEnd.failures.same (tick_mem ..)

end State.Canon

theorem stepCycle_keepsForm : KeepsForm stepCycle := by
  intro s h
  unfold stepCycle
  refine leaves_ite ?_ ?_
  · split
    · exact exec_keepsForm _ _ h
    · trivial
  · split
    · refine leaves_ite h.startCycle ?_
      split
      · exact leaves_ite (exec_keepsForm _ _ h) h.same
      · exact h.same
    · split
      · exact h
      · exact coreTurn_keepsForm _ _ h
    · split
      · exact exec_keepsForm _ _ h
      · exact leaves_ite (execMailbox_keepsForm s h) h.endCycle

/-- Settles O60: every part of a cycle keeps the canonical form, those that write memory by `wf_putMem`. -/
theorem stepKeepsMemoryForm : Obligations.StepKeepsMemoryForm := by
  unfold Obligations.StepKeepsMemoryForm
  intro s t h ht
  have hs := stepCycle_keepsForm s h
  rwa [show stepCycle s = .next t from ht, leaves_next] at hs

end Sys2Proof.Machine
end

section
/-! Timers and the retention of banks (R218, R357, R359, R360): what an event of a timer does where its condition holds, and that it leaves the state as it was elsewhere (log entry 8). -/

set_option Elab.async false -- one proof at a time: many at once exhaust the memory of a build

namespace Sys2Proof.Machine

/-! ## Maps -/

theorem mfind_map_of_fst {α β : Type} {g : Nat × α → Nat × β} (hg : ∀ e, (g e).1 = e.1) (m : Map α) (k : Nat) :
    mfind (m.map g) k = (mfind m k).map fun v => (g (k, v)).2 := by
  induction m with
  | nil => rfl
  | cons e m ih =>
    obtain ⟨j, v⟩ := e
    rw [List.map_cons, show g (j, v) = (j, (g (j, v)).2) from Prod.ext (hg _) rfl, mfind, mfind]
    by_cases h : j = k
    · subst h; simp
    · rw [if_neg h, if_neg h, ih]

theorem job?_of_jobs {s u : State} {g : Nat × Job → Nat × Job} (h : u.jobs = s.jobs.map g) (hg : ∀ e, (g e).1 = e.1) (n : Nat) :
    u.job? n = (s.job? n).map fun j => (g (n, j)).2 := by
  rw [State.job?, h, mfind_map_of_fst hg]
  rfl

theorem tower_of_towers {s u : State} {g : Nat × Tower → Nat × Tower} (h : u.towers = s.towers.map g) (hg : ∀ e, (g e).1 = e.1) {t : Nat} {z : Tower}
    (hz : mfind s.towers t = some z) : u.tower t = (g (t, z)).2 := by
  rw [State.tower, mget, h, mfind_map_of_fst hg, hz]
  rfl

/-- A fold that writes the values g at the keys from k on, as a list gives them. -/
theorem mget_foldl_mput {α : Type} (g : Nat → α) (k n : Nat) (d : α) (l : List Nat) (m : Map α) :
    mget (l.foldl (fun m e => mput m (k + e) (g e)) m) (k + n) d = if n ∈ l then g n else mget m (k + n) d := by
  induction l generalizing m with
  | nil => rfl
  | cons e l ih =>
    rw [List.foldl_cons, ih]
    by_cases hl : n ∈ l
    · simp [hl]
    · by_cases he : n = e
      · subst he; simp [hl]
      · rw [if_neg hl, mget_mput_ne _ _ _ (by omega), if_neg (by simp [he, hl])]

/-! ## Periods, slices and rate windows (R357, R359, R360) -/

theorem periodStart_ends {s : State} (n : Nat) (j : Job) (h : s.now % Config.period = 0) : Ends .periodStart s fun u =>
    (s.job? n = some j → (u.job? n).map (·.guse) = some (j.guse.map fun e => (e.1, e.2 - j.gbud.getD (e.1 % 6) 0xFFFFF))) ∧
      (∀ e ∈ u.towers, e.2.paramNext = []) ∧ u.cores = s.cores ∧ u.mem = s.mem ∧ u.now = s.now := by
  refine ⟨_, if_neg (not_not.2 h), fun hj => ?_, fun e he => ?_, rfl, rfl, rfl⟩
  · rw [job?_of_jobs (s := s) rfl (by exact fun _ => rfl) n, hj]
    rfl
  · obtain ⟨x, -, rfl⟩ := List.mem_map.1 he
    rfl

theorem sliceStart_ends {s : State} {n : Nat} {j : Job} (hj : s.job? n = some j) (hd : j.sliceDue s.now = true) : Ends (.sliceStart n) s fun u =>
    (∀ e ∈ u.gangs, e.2.job = n → e.2.wsum = 0) ∧ (u.job? n).map (·.sper) = some 0 ∧ u.cores = s.cores ∧ u.mem = s.mem := by
  have he : exec (.sliceStart n) s = .next { s.setJob n { j with sliceOn := true, sper := 0 } with
      gangs := s.gangs.map fun (e : Nat × Gang) => (e.1, if e.2.job = n then { e.2 with wsum := 0, exceeded := false } else e.2) } := by
    show execSliceStart n s = _
    simp only [execSliceStart, hj, hd, if_true]
  refine ⟨_, he, fun e he hn => ?_, ?_, rfl, rfl⟩
  · obtain ⟨x, -, rfl⟩ := List.mem_map.1 he
    by_cases hx : x.2.job = n
    · simp only [if_pos hx]
    · rw [if_neg hx] at hn
      exact absurd hn hx
  · simp [State.job?, State.setJob]

theorem rateWindowStart_ends {s : State} (t : Nat) (h : s.now % Config.rateWindow = 0) : Ends .rateWindowStart s fun u =>
    (∀ e ∈ u.towers, e.2.layerErr = [] ∧ e.2.requested = []) ∧
      (∀ z, mfind s.towers t = some z → ∀ m, m < 8 → (u.tower t).cntOf (0x130 + m) = BitVec.ofNat 64 ((z.cntOf (0x130 + m)).toNat % 2 ^ 16)) ∧
        u.cores = s.cores ∧ u.mem = s.mem ∧ u.jobs = s.jobs := by
  refine ⟨_, if_neg (not_not.2 h), fun e he => ?_, fun z hz m hm => ?_, rfl, rfl, rfl⟩
  · obtain ⟨x, -, rfl⟩ := List.mem_map.1 he
    exact ⟨rfl, rfl⟩
  · rw [tower_of_towers (s := s) rfl (by exact fun _ => rfl) hz]
    exact (mget_foldl_mput (fun e => w64 ((z.cntOf (0x130 + e)).toNat % 65536)) 0x130 m 0 (List.range 8) z.cnt).trans (if_pos (List.mem_range.2 hm))

/-! ## Retention of banks (R218) -/

@[simp] theorem bank_setBank (s : State) (t slab b : Nat) (x : Bank) : (s.setBank t slab b x).bank t slab b = x := by
  simp [State.bank, State.setBank]

/-- A bank depends on the banks of its tower. -/
theorem bank_congr {s u : State} {t : Nat} (h : (u.tower t).banks = (s.tower t).banks) (slab b : Nat) : u.bank t slab b = s.bank t slab b := by
  rw [State.bank, State.bank, h]

@[simp] theorem bank_spend (s : State) (t slab b : Nat) : s.spend.bank t slab b = s.bank t slab b := rfl

@[simp] theorem bank_bumpErr (s : State) (t e slab b : Nat) : (s.bumpErr t e).bank t slab b = s.bank t slab b := by
  obtain ⟨c, r, h⟩ := bumpErr_tower s t e
  exact bank_congr (by rw [h]) slab b

theorem poisonWaiting_towers (s : State) (t key : Nat) : (s.poisonWaiting t key).towers = s.towers := by
  unfold State.poisonWaiting
  refine foldl_keeps (fun u : State => u.towers = s.towers) _ (fun u e hu => ?_) _ rfl
  exact foldl_keeps (fun u : State => u.towers = s.towers) _ (fun u x hu => by exact hu) _ (by exact hu)

@[simp] theorem bank_poisonWaiting (s : State) (t key t' slab b : Nat) : (s.poisonWaiting t key).bank t' slab b = s.bank t' slab b :=
  bank_congr (by rw [State.tower, State.tower, poisonWaiting_towers]) slab b

theorem retentionEntry_ends {s : State} {t slab b : Nat} (hm : (s.bank t slab b).mode = 0) (hu : (s.bank t slab b).lastUse + s.idleLimit ≤ s.now) :
    Ends (.retentionEntry t slab b) s fun u => (u.bank t slab b).mode = 1 ∧ (u.bank t slab b).due = s.now + 2047 ∧ u.mem = s.mem :=
  ⟨_, if_pos ⟨hm, hu⟩, by simp⟩

theorem retentionEntryEnd_ends {s : State} {t slab b : Nat} (hm : (s.bank t slab b).mode = 1) (hd : (s.bank t slab b).due ≤ s.now) :
    Ends (.retentionEntryEnd t slab b) s fun u =>
      (u.bank t slab b).mode = (if (s.bank t slab b).waiting then 3 else 2) ∧ ((s.bank t slab b).waiting = true → (u.bank t slab b).due = s.now + 1024) ∧ u.mem = s.mem := by
  refine ⟨_, if_pos ⟨hm, hd⟩, ?_⟩
  cases hw : (s.bank t slab b).waiting <;> simp

theorem retentionExit_ends {s : State} {t slab b : Nat} (hm : (s.bank t slab b).mode = 3) (hd : (s.bank t slab b).due ≤ s.now) :
    Ends (.retentionExit t slab b) s fun u => (u.bank t slab b).mode = 0 ∧ u.mem = s.mem := by
  have hslots (v : State) (f : Tower → Tower) (hf : (f (v.tower t)).banks = (v.tower t).banks) : (v.modTower t f).bank t slab b = v.bank t slab b :=
    bank_congr (by rw [tower_modTower_self, hf]) slab b
  show ∃ u, execRetentionExit t slab b s = .next u ∧ _
  unfold execRetentionExit
  dsimp only
  rw [if_pos ⟨hm, hd⟩]
  split
  · exact ⟨_, rfl, by simp⟩
  · refine ⟨_, rfl, ?_, by simp⟩
    rw [bank_spend, bank_poisonWaiting, hslots _ _ (by split <;> rfl), bank_setBank]
  · exact ⟨_, rfl, by simp⟩

/-- Settles O45: each event runs where its condition holds. -/
theorem timersTick : Obligations.TimersTick := by
  unfold Obligations.TimersTick
  intro n t slab bank j s b
  refine ⟨periodStart_ends n j, fun h => if_pos h, fun hj hl hp hs => sliceStart_ends hj ?_, rateWindowStart_ends t, retentionEntry_ends, retentionEntryEnd_ends, retentionExit_ends⟩
  cases ho : j.sliceOn <;> simpa [Job.sliceDue, hl, hp, ho] using hs

end Sys2Proof.Machine
end

section
/-! Tables of migrations: what leaves every tower's table as it was, and what besides leaves every L1 and every list of accesses as it was. -/

set_option Elab.async false -- one proof at a time: many at once exhaust the memory of a build

namespace Sys2Proof.Machine

/-! ## What leaves the migrations of every tower as they were -/

/-- From s to u no tower's table of migrations has changed. -/
structure KeepsMigr (s u : State) : Prop where
  migr : ∀ t, (u.tower t).migr = (s.tower t).migr

/-- Nor has an L1, or a list of accesses held or on their way home. -/
structure KeepsAccesses (s u : State) : Prop extends KeepsMigr s u where
  l1 : ∀ k, (u.core k).l1 = (s.core k).l1
  held : ∀ t, (u.tower t).held = (s.tower t).held
  out : ∀ t, (u.tower t).out = (s.tower t).out

/-- What a change of each tower leaves true of every tower. -/
theorem tower_mapTowers {s u : State} {f : Nat × Tower → Nat × Tower} (h : u.towers = s.towers.map f) (h1 : ∀ e, (f e).1 = e.1) {P : Tower → Prop} {t : Nat}
    (hs : P (s.tower t)) (hf : ∀ x, P x → P (f (t, x)).2) : P (u.tower t) := by
  rw [State.tower, mget, h, mfind_map_of_fst h1]
  rw [State.tower, mget] at hs
  cases hm : mfind s.towers t with
  | none => rwa [hm] at hs
  | some z => exact hf z (by rwa [hm] at hs)

/-- What a change of each core leaves true of every core. -/
theorem core_mapCores {s u : State} {f : Nat × Core → Nat × Core} (h : u.cores = s.cores.map f) (h1 : ∀ e, (f e).1 = e.1) {P : Core → Prop} {k : Nat}
    (hs : P (s.core k)) (hf : ∀ x, P x → P (f (k, x)).2) : P (u.core k) := by
  rw [State.core, mget, h, mfind_map_of_fst h1]
  rw [State.core, mget] at hs
  cases hm : mfind s.cores k with
  | none => rwa [hm] at hs
  | some z => exact hf z (by rwa [hm] at hs)

/-- What a change of one tower keeps of that tower, it keeps of every tower. -/
theorem tower_modTower_keeps {α : Type} (g : Tower → α) (s : State) (t : Nat) {f : Tower → Tower} (hf : ∀ x, g (f x) = g x) (n : Nat) :
    g ((s.modTower t f).tower n) = g (s.tower n) := by
  by_cases hn : n = t
  · subst hn; rw [tower_modTower_self, hf]
  · simp [State.tower, mget_mput_ne _ _ _ hn]

/-- What a change of one core keeps of that core, it keeps of every core. -/
theorem core_modCore_keeps {α : Type} (g : Core → α) (s : State) (k : Nat) {f : Core → Core} (hf : ∀ x, g (f x) = g x) (n : Nat) :
    g ((s.modCore k f).core n) = g (s.core n) := by
  by_cases hn : n = k
  · subst hn; rw [core_modCore_self, hf]
  · rw [core_modCore_ne _ _ hn]

namespace KeepsAccesses

variable {s u v : State}

theorem refl (s : State) : KeepsAccesses s s := ⟨⟨fun _ => rfl⟩, fun _ => rfl, fun _ => rfl, fun _ => rfl⟩

/-- A further change that leaves towers and every L1 alone. -/
theorem step (h : KeepsAccesses s u) (ht : v.towers = u.towers := by rfl) (hl : ∀ k, (v.core k).l1 = (u.core k).l1 := by exact fun _ => rfl) :
    KeepsAccesses s v := by
  have hv (t : Nat) : v.tower t = u.tower t := by rw [State.tower, ht]; rfl
  exact ⟨⟨fun t => by rw [hv, h.migr]⟩, fun k => (hl k).trans (h.l1 k), fun t => by rw [hv, h.held], fun t => by rw [hv, h.out]⟩

theorem modTower (h : KeepsAccesses s u) (t : Nat) {f : Tower → Tower} (hm : ∀ x, (f x).migr = x.migr := by intro x; rfl)
    (hh : ∀ x, (f x).held = x.held := by intro x; rfl) (ho : ∀ x, (f x).out = x.out := by intro x; rfl) : KeepsAccesses s (u.modTower t f) :=
  ⟨⟨fun n => (tower_modTower_keeps Tower.migr u t hm n).trans (h.migr n)⟩, h.l1, fun n => (tower_modTower_keeps Tower.held u t hh n).trans (h.held n),
    fun n => (tower_modTower_keeps Tower.out u t ho n).trans (h.out n)⟩

theorem foldl {α : Type} {f : State → α → State} (h : KeepsAccesses s u) (hf : ∀ v x, KeepsAccesses s v → KeepsAccesses s (f v x)) (l : List α) :
    KeepsAccesses s (l.foldl f u) :=
  foldl_keeps (KeepsAccesses s) f hf l h

theorem setStrand (h : KeepsAccesses s u) (k i : Nat) (x : Strand) : KeepsAccesses s (u.setStrand k i x) :=
  h.step rfl fun n => core_modCore_keeps Core.l1 u k (f := fun c => c.setStrand i x) (fun _ => rfl) n

theorem modStrand (h : KeepsAccesses s u) (k i : Nat) (f : Strand → Strand) : KeepsAccesses s (u.modStrand k i f) := h.setStrand k i _
theorem spend (h : KeepsAccesses s u) : KeepsAccesses s u.spend := h.step
theorem poisonBytes (h : KeepsAccesses s u) (pa n : Nat) : KeepsAccesses s (u.poisonBytes pa n) := h.step

theorem charge (h : KeepsAccesses s u) (j t g n : Nat) : KeepsAccesses s (u.charge j t g n) := by
  unfold State.charge State.modJob
  split
  · exact h.step
  · exact h

/-! ### A write at its home (R209, R213, R266, R355) -/

theorem trigger (h : KeepsAccesses s u) (l : List Nat) : KeepsAccesses s (u.trigger l) := by
  unfold State.trigger
  refine h.foldl (fun v e hv => hv.foldl (fun w i hw => ?_) _) _
  dsimp only
  split
  · split
    · split
      · exact (hw.setStrand ..).modStrand ..
      · exact hw.setStrand ..
    · exact hw
  · exact hw

theorem putMem (h : KeepsAccesses s u) (cells : List Host.Cell) : KeepsAccesses s (u.putMem cells) := by
  unfold State.putMem
  exact (h.step (v := State.cleanSectors _ cells)).trigger _

theorem umbraEvict (h : KeepsAccesses s u) (t : Nat) : KeepsAccesses s (u.umbraEvict t) := by
  unfold State.umbraEvict
  dsimp only
  split
  · exact h.spend
  · split
    · exact (h.modTower t).spend
    · exact (h.modTower t).spend.charge ..

theorem umbraUse (h : KeepsAccesses s u) (job pa n : Nat) (w : Bool) : KeepsAccesses s (u.umbraUse job pa n w) := by
  unfold State.umbraUse
  split
  · exact h
  · refine foldl ?_ (fun v ln hv => ?_) _
    · split
      · exact h
      · exact h.charge ..
    · refine modTower ?_ _
      split
      · exact hv
      · exact hv.umbraEvict _

theorem hotCount (h : KeepsAccesses s u) (t pa : Nat) : KeepsAccesses s (u.hotCount t pa) := by
  unfold State.hotCount
  split
  · exact h.modTower _
  · exact h

end KeepsAccesses

namespace KeepsMigr

variable {s u v : State}

theorem refl (s : State) : KeepsMigr s s := ⟨fun _ => rfl⟩

theorem trans (h : KeepsMigr s u) (h' : KeepsMigr u v) : KeepsMigr s v :=
  ⟨fun t => (h'.migr t).trans (h.migr t)⟩

/-- A further change that leaves towers alone. -/
theorem step (h : KeepsMigr s u) (ht : v.towers = u.towers := by rfl) : KeepsMigr s v :=
  ⟨fun t => by rw [State.tower, ht]; exact h.migr t⟩

theorem spend (h : KeepsMigr s u) : KeepsMigr s u.spend := h.step
theorem setUid (h : KeepsMigr s u) (n : Nat) : KeepsMigr s { u with uid := n } := h.step
theorem poisonBytes (h : KeepsMigr s u) (pa n : Nat) : KeepsMigr s (u.poisonBytes pa n) := h.step
theorem putMem (h : KeepsMigr s u) (cells : List Host.Cell) : KeepsMigr s (u.putMem cells) := h.step (putMem_towers u cells)

theorem modTower (h : KeepsMigr s u) (t : Nat) {f : Tower → Tower} (hf : ∀ x, (f x).migr = x.migr := by intro x; rfl) : KeepsMigr s (u.modTower t f) :=
  ⟨fun n => (tower_modTower_keeps Tower.migr u t hf n).trans (h.migr n)⟩

theorem mapTowers (h : KeepsMigr s u) {f : Nat × Tower → Nat × Tower} (ht : v.towers = u.towers.map f) (h1 : ∀ e, (f e).1 = e.1 := by exact fun _ => rfl)
    (hf : ∀ e, (f e).2.migr = e.2.migr := by exact fun _ => rfl) : KeepsMigr s v :=
  ⟨fun t => tower_mapTowers ht h1 (P := fun x => x.migr = (s.tower t).migr) (h.migr t) fun x hx => (hf (t, x)).trans hx⟩

theorem foldl {α : Type} {f : State → α → State} (h : KeepsMigr s u) (hf : ∀ v x, KeepsMigr s v → KeepsMigr s (f v x)) (l : List α) :
    KeepsMigr s (l.foldl f u) :=
  foldl_keeps (KeepsMigr s) f hf l h

theorem umbraUse (h : KeepsMigr s u) (job pa n : Nat) (w : Bool) : KeepsMigr s (u.umbraUse job pa n w) := h.trans ((KeepsAccesses.refl u).umbraUse job pa n w).toKeepsMigr
theorem hotCount (h : KeepsMigr s u) (t pa : Nat) : KeepsMigr s (u.hotCount t pa) := h.trans ((KeepsAccesses.refl u).hotCount t pa).toKeepsMigr

theorem charge (h : KeepsMigr s u) (j t g n : Nat) : KeepsMigr s (u.charge j t g n) := h.trans ((KeepsAccesses.refl u).charge j t g n).toKeepsMigr

/-! ### Errors of SRAMs (R217, R360) -/

theorem requestCkpt (h : KeepsMigr s u) : KeepsMigr s u.requestCkpt := h.step

theorem noteSelfTest (h : KeepsMigr s u) (e : Nat) : KeepsMigr s (if e = 1 then { u with selfTestDue := true } else u) := by
  split
  · exact h.step
  · exact h

theorem bumpErr (h : KeepsMigr s u) (t e : Nat) : KeepsMigr s (u.bumpErr t e) := by
  have hbump : KeepsMigr s (u.bump t (0x120 + e)) := h.modTower t
  have hcount (c : Word) := (hbump.modTower t (f := fun x => { x with cnt := mput x.cnt (0x130 + e) c })).noteSelfTest e
  unfold State.bumpErr
  dsimp only
  split
  · exact ((hcount _).modTower t).requestCkpt
  · exact hcount _

theorem bumpErrs (h : KeepsMigr s u) (t : Nat) (l : List SramErr) : KeepsMigr s (l.foldl (fun s e => if e.dbl then s else s.bumpErr t 0) u) :=
  h.foldl (fun _ _ hv => by split; exacts [hv, hv.bumpErr t 0]) l

theorem coreErrs (h : KeepsMigr s u) (k : Nat) (f : SramErr → Bool) : KeepsMigr s (u.coreErrs k f).1 := by
  unfold State.coreErrs
  dsimp only
  split
  · exact h
  · exact (h.bumpErrs (towerOf k) _).step

theorem umbraErrs (h : KeepsMigr s u) (t pa n : Nat) : KeepsMigr s (u.umbraErrs t pa n).1 := by
  have herr (f : SramErr → Bool) : KeepsMigr s (u.towerErrs t f).1 := by
    unfold State.towerErrs
    dsimp only
    split
    · exact h
    · exact modTower (f := fun x => { x with errs := x.errs.filter fun e => !f e }) (h.bumpErrs t _) t
  unfold State.umbraErrs
  exact (herr _).foldl (fun _ _ hv => by exact hv.step) _

/-! ### L1 and the way home (R204, R209, R279, R280) -/

theorem toOut (h : KeepsMigr s u) (k : Nat) (e : SqEntry) : KeepsMigr s (u.toOut k e) := ((h.setUid _).modTower _).spend

theorem dropLine (h : KeepsMigr s u) (k ln : Nat) : KeepsMigr s (u.dropLine k ln) := by
  unfold State.dropLine
  split
  · exact h
  · have hdel (f : Core → Core) : KeepsMigr s (u.modCore k f) := h.step
    dsimp only
    split
    · exact hdel _
    · refine foldl (step ((hdel _).coreErrs k _)) (fun v e hv => hv.toOut k e) _

theorem dropTower (h : KeepsMigr s u) (t : Nat) (cells : List Host.Cell) : KeepsMigr s (u.dropTower t cells) := by
  unfold State.dropTower
  exact modTower (h.foldl (fun v e hv => hv.foldl (fun w ln hw => hw.dropLine e.1 ln) _) _) t

theorem performHome (h : KeepsMigr s u) (t j : Nat) (cells : List Host.Cell) (po near : Bool) : KeepsMigr s (u.performHome t j cells po near) := by
  unfold State.performHome
  split
  · exact h
  · next a _ r =>
    extract_lets v w
    have hv : KeepsMigr s v := by
      simp only [v]
      split
      · exact h
      · exact h.dropTower ..
    have hw : KeepsMigr s w := by
      simp only [w]
      split
      · exact h.putMem _
      · exact ((hv.putMem _).umbraUse ..).hotCount ..
    clear_value w
    split
    · exact hw.poisonBytes ..
    · exact hw

theorem sendFlit (h : KeepsMigr s u) (p v y : Nat) (x : FlitPayload) (t c : Nat) (w : Option (Nat × Nat)) : KeepsMigr s (u.sendFlit p v y x t c w).1 := by
  unfold State.sendFlit
  split
  · exact h
  · exact h.step

theorem duplicate (h : KeepsMigr s u) (t : Nat) (who) (job pa : Nat) (bs : List Byte) (cls cmd : Nat) (first : Bool) :
    KeepsMigr s (u.duplicate t who job pa bs cls cmd first) := by
  unfold State.duplicate
  split
  · exact h
  · refine foldl ?_ (fun v p hv => ?_) _
    · split
      · exact h.charge ..
      · exact h
    · have hsent := hv.sendFlit v.partner 2 5 (.dupWrite (pa + p.1) ((bs.drop p.1).take p.2)) v.uid (16 * t) none
      split
      · next hs =>
        rw [hs] at hsent
        dsimp only
        split
        · exact hsent.step
        · exact hsent.step
      · next hs =>
        rw [hs] at hsent
        exact hsent

theorem sendHome (h : KeepsMigr s u) (t : Nat) (e : Nat × SqEntry) : KeepsMigr s (u.sendHome t e) := by
  have hout := h.modTower t (f := fun x => { x with out := x.out.filter fun a => a.2.uid != e.2.uid })
  unfold State.sendHome
  extract_lets v w
  have hw : KeepsMigr s w := by
    refine performHome (hout.foldl (fun z j hz => ?_) _) ..
    dsimp only
    split
    · exact hz
    · exact hz.umbraUse ..
  clear_value w
  split
  · unfold State.sendStore
    refine foldl ?_ (fun z p hz => hz.sendFlit ..) _
    split
    · exact hout.charge ..
    · exact hout
  · split
    · exact hw.duplicate ..
    · exact hw

theorem pushHome (h : KeepsMigr s u) (t : Nat) (f : Nat × SqEntry → Bool) : KeepsMigr s (u.pushHome t f) := by
  unfold State.pushHome
  dsimp only
  split
  · exact h
  · refine h.foldl (fun v e hv => ?_) _
    split
    · exact hv.sendHome t e
    · exact hv

theorem recalls (h : KeepsMigr s u) (pa : Nat) : KeepsMigr s (u.recall pa) := by
  unfold State.recall
  extract_lets ln v w
  have hv : KeepsMigr s v := by
    simp only [v]
    exact h.foldl (fun z e hz => by exact (hz.dropLine ..).dropLine ..) _
  have hw : KeepsMigr s w := by
    simp only [w]
    exact hv.foldl (fun z t hz => by exact hz.pushHome t _) _
  clear_value w
  exact hw.mapTowers rfl

/-! ### Accesses held (R213, R262) -/

theorem homeAtomic (h : KeepsMigr s u) (t job pa : Nat) (op : Aop) (dbl : Bool) (x cmp : Word) (red : Bool) :
    KeepsMigr s (u.homeAtomic t job pa op dbl x cmp red).1 := by
  unfold State.homeAtomic
  extract_lets n home r steps v
  have hv : KeepsMigr s v := ((h.recalls pa).umbraUse ..).umbraErrs ..
  clear_value v
  generalize v.physRead pa n = q
  obtain ⟨bs, po⟩ := q
  have hnew (o : Option Nat) (cells : Nat → List Host.Cell) : KeepsMigr s (match o with | some w => v.performHome t job (cells w) po | none => v.hotCount t pa) := by
    split
    · exact hv.performHome ..
    · exact hv.hotCount ..
  dsimp only
  split
  · exact (hnew _ _).modTower _
  · exact hnew _ _

theorem performAtom (h : KeepsMigr s u) (k : Nat) (e : SqEntry) : KeepsMigr s (u.performAtom k e) := by
  have hat := h.homeAtomic (towerOf k) e.job e.pa e.op e.dbl e.operand e.comparand (decide (e.kind = .red))
  unfold State.performAtom
  extract_lets t
  generalize u.homeAtomic t e.job e.pa e.op e.dbl e.operand e.comparand (decide (e.kind = .red)) = r at hat ⊢
  obtain ⟨v, old, po, new⟩ := r
  have hdup (b : Bool) (o : Option Nat) (z : Nat → State) (hz : ∀ n, KeepsMigr s (z n)) : KeepsMigr s (match b, o with | true, some n => z n | _, _ => v) := by
    split
    · exact hz _
    · exact hat
  dsimp only
  split
  · exact step (hdup _ _ _ fun n => hat.duplicate ..)
  · exact hdup _ _ _ fun n => hat.duplicate ..

theorem heldGo (h : KeepsMigr s u) (t : Nat) (e : Nat × SqEntry) : KeepsMigr s (u.heldGo t e) := by
  unfold State.heldGo
  split
  · exact h
  · dsimp only
    split
    · exact ((h.recalls _).modTower t).performAtom ..
    · exact h.recalls _

/-! ### A page that moves (R213, R214) -/

theorem reissue (h : KeepsMigr s u) (pa n : Nat) : KeepsMigr s (u.reissue pa n) := by
  unfold State.reissue
  extract_lets mine mark v
  have hv : KeepsMigr s v := h.mapTowers rfl
  clear_value v
  refine hv.foldl (fun w t hw => hw.foldl (fun z e hz => ?_) _) _
  split
  · exact hz.heldGo ..
  · split
    · exact hz.sendHome ..
    · exact hz

theorem forgetPage (h : KeepsMigr s u) (base bits : Nat) : KeepsMigr s (u.forgetPage base bits) := by
  unfold State.forgetPage
  exact h.mapTowers rfl

theorem dropTlb (h : KeepsMigr s u) (f : Tlb → Bool) : KeepsMigr s (u.dropTlb f) := by
  unfold State.dropTlb
  exact h.mapTowers rfl

theorem dropPage (h : KeepsMigr s u) (base bits : Nat) : KeepsMigr s (u.dropPage base bits) := by
  unfold State.dropPage
  extract_lets mine v tower
  have hv : KeepsMigr s v := h.foldl (fun w e hw => hw.foldl (fun z l hz => hz.dropLine e.1 l.1) _) _
  exact hv.mapTowers rfl

theorem rekey (h : KeepsMigr s u) (f : Nat → Nat) : KeepsMigr s (u.rekey f) := by
  unfold State.rekey
  exact h.mapTowers rfl

end KeepsMigr

end Sys2Proof.Machine
end

section
/-! Migration of a hot page (R213, R214, R338): its proposal, its freeze, and its copy, after which the new frame reads as the old one did. -/

set_option Elab.async false -- one proof at a time: many at once exhaust the memory of a build

namespace Sys2Proof.Machine

/-! ## What a copy of cells to other addresses leaves in memory -/

/-- Cells moved by f, each with its byte through g: the address that a goes to reads as the cell at a, and as before where there is none. -/
theorem rdByte_foldl_move {f : Nat → Nat} {g : Byte → Byte} {l : Memory} {lo a : Nat} (hl : memAbove lo l = true) (hf : ∀ c ∈ l, f c.1 = f a → c.1 = a)
    {M : Memory} (hM : Memory.wf M = true) :
    rdByte (l.foldl (fun (M : Memory) (c : Host.Cell) => wrByte M (f c.1) (g c.2)) M) (f a) = if rdByte l a = 0 then rdByte M (f a) else g (rdByte l a) := by
  induction l generalizing lo M with
  | nil => simp [rdByte]
  | cons e r ih =>
    obtain ⟨y, b⟩ := e
    simp only [memAbove, Bool.and_eq_true, decide_eq_true_eq] at hl
    obtain ⟨⟨-, hb⟩, hr⟩ := hl
    rw [List.foldl_cons, ih hr (fun c hc => hf c (List.mem_cons_of_mem _ hc)) (wf_wrByte hM _ _), rdByte_wrByte hM]
    by_cases hy : y = a
    · subst hy
      have hb : b ≠ 0 := by simpa using hb
      rw [rdByte_above hr (by omega), if_pos rfl, if_pos rfl, rdByte, if_pos rfl, if_neg hb]
    · have hfy : f a ≠ f y := fun h => hy (hf (y, b) (List.mem_cons_self ..) h.symm)
      rw [if_neg hfy, rdByte, if_neg hy]

/-- An address that no cell goes to reads as before. -/
theorem rdByte_foldl_other {f : Nat → Nat} {g : Byte → Byte} {l : Memory} {x : Nat} (hf : ∀ c ∈ l, f c.1 ≠ x) {M : Memory} (hM : Memory.wf M = true) :
    rdByte (l.foldl (fun (M : Memory) (c : Host.Cell) => wrByte M (f c.1) (g c.2)) M) x = rdByte M x := by
  induction l generalizing M with
  | nil => rfl
  | cons e r ih =>
    rw [List.foldl_cons, ih (fun c hc => hf c (List.mem_cons_of_mem _ hc)) (wf_wrByte hM _ _), rdByte_wrByte hM,
      if_neg (hf e (List.mem_cons_self ..)).symm]

/-- Where the cells at the addresses of p are cleared, those read as zero and the others as before. -/
theorem rdByte_cleared (p : Nat → Bool) {mem : Memory} (h : Memory.wf mem = true) (x : Nat) :
    rdByte ((mem.filter fun c => p c.1).foldl (fun (a : Memory) (c : Host.Cell) => wrByte a c.1 0) mem) x = if p x then 0 else rdByte mem x := by
  have hmove := rdByte_foldl_move (f := id) (g := fun _ => 0) (a := x) (wf_filter h fun c => p c.1) (fun _ _ hc => hc) h
  rw [rdByte_filter p] at hmove
  refine hmove.trans ?_
  cases p x with
  | false => rfl
  | true => simp +contextual

/-- The new frame reads as the old one did, and every other address as before (R214). -/
theorem rdByte_copy (m : Migration) {mem : Memory} (h : Memory.wf mem = true) (x : Nat) :
    rdByte (m.copy mem) x = if m.new ≤ x ∧ x < m.new + 2 ^ m.bits then rdByte mem (x - m.new + m.old) else rdByte mem x := by
  have hcleared := rdByte_cleared (fun a => decide (m.new ≤ a) && decide (a < m.new + 2 ^ m.bits)) h x
  have hsrc (c : Host.Cell) (hc : c ∈ mem.filter fun c => decide (m.old ≤ c.1) && decide (c.1 < m.old + 2 ^ m.bits)) :
      m.old ≤ c.1 ∧ c.1 < m.old + 2 ^ m.bits := by
    simpa using (List.mem_filter.1 hc).2
  have hwf := wf_foldl (fun (a : Memory) (c : Host.Cell) => wrByte a c.1 0) (fun _ _ hm => wf_wrByte hm _ _)
    (mem.filter fun c => decide (m.new ≤ c.1) && decide (c.1 < m.new + 2 ^ m.bits)) h
  unfold Migration.copy
  dsimp only
  by_cases hx : m.new ≤ x ∧ x < m.new + 2 ^ m.bits
  · have hnew : (decide (m.new ≤ x) && decide (x < m.new + 2 ^ m.bits)) = true := by simpa using hx
    have hold : (decide (m.old ≤ x - m.new + m.old) && decide (x - m.new + m.old < m.old + 2 ^ m.bits)) = true := by
      rw [Bool.and_eq_true, decide_eq_true_eq, decide_eq_true_eq]
      omega
    have hmove := rdByte_foldl_move (f := fun a => a - m.old + m.new) (g := id) (a := x - m.new + m.old)
      (wf_filter h fun c => decide (m.old ≤ c.1) && decide (c.1 < m.old + 2 ^ m.bits)) (fun c hc he => by have := hsrc c hc; omega) hwf
    rw [rdByte_filter fun a => decide (m.old ≤ a) && decide (a < m.old + 2 ^ m.bits), if_pos hold,
      show x - m.new + m.old - m.old + m.new = x by omega, hcleared, if_pos hnew] at hmove
    rw [if_pos hx]
    refine hmove.trans ?_
    split
    · next h0 => exact h0.symm
    · rfl
  · have hother := rdByte_foldl_other (f := fun a => a - m.old + m.new) (g := id) (x := x) (fun c hc => by have := hsrc c hc; omega) hwf
    rw [if_neg hx]
    refine hother.trans (hcleared.trans (if_neg ?_))
    simpa using hx

theorem foldl_cellsOf (M : Memory) (a : Nat) (bs : List Byte) :
    (cellsOf a bs).foldl (fun (m : Memory) (c : Host.Cell) => wrByte m c.1 c.2) M = wrBytes M a bs := by
  induction bs generalizing M a with
  | nil => rfl
  | cons b bs ih => exact ih _ _

/-- A byte outside the word written reads as before. -/
theorem rdByte_wrWord {M : Memory} (h : Memory.wf M = true) {a x : Nat} (w : Word) (hx : x < a ∨ a + 8 ≤ x) : rdByte (wrWord M a w) x = rdByte M x := by
  rw [wrWord, rdByte_wrBytes h, length_toLE, if_neg (by omega)]

/-- Memory after a page's copy, with the walk's last entry, where there is one, rewritten to the new frame (R214). -/
def Migration.remapped (m : Migration) (mem : Memory) : Option Nat → Memory
  | some w => wrWord (m.copy mem) w (setBits (rdWord (m.copy mem) w) 47 8 (m.new / 256))
  | none => m.copy mem

theorem rdByte_remapped (m : Migration) {mem : Memory} (h : Memory.wf mem = true) {entry : Option Nat} {a : Nat} (ha : ∀ w, entry = some w → a < w ∨ w + 8 ≤ a) :
    rdByte (m.remapped mem entry) a = rdByte (m.copy mem) a := by
  cases entry with
  | none => rfl
  | some w => exact rdByte_wrWord (wf_migration_copy m h) _ (ha w rfl)

theorem rdWord_remapped (m : Migration) {mem : Memory} (h : Memory.wf mem = true) (w : Nat) :
    rdWord (m.remapped mem (some w)) w = setBits (rdWord (m.copy mem) w) 47 8 (m.new / 256) :=
  rdWord_wrWord (wf_migration_copy m h) _ _

/-! ## A device where no dirty line and no access stands in the way -/

/-- No L1 holds a line, and no tower an access, held or on its way home. -/
structure Quiet (s : State) : Prop where
  l1 : ∀ k, (s.core k).l1 = []
  held : ∀ t, (s.tower t).held = []
  out : ∀ t, (s.tower t).out = []

theorem mget_of_forall {α : Type} {P : α → Prop} {m : Map α} {d : α} (h : ∀ e ∈ m, P e.2) (hd : P d) (k : Nat) : P (mget m k d) := by
  induction m with
  | nil => exact hd
  | cons e r ih =>
    obtain ⟨j, v⟩ := e
    rw [mget, mfind]
    split
    · exact h (j, v) (List.mem_cons_self ..)
    · exact ih fun e he => h e (List.mem_cons_of_mem _ he)

namespace Quiet

variable {s u : State}

theorem of_forall (hc : ∀ c ∈ s.cores, c.2.l1 = []) (ht : ∀ c ∈ s.towers, c.2.held = [] ∧ c.2.out = []) : Quiet s :=
  ⟨mget_of_forall (P := fun c : Core => c.l1 = []) hc rfl, mget_of_forall (P := fun x : Tower => x.held = []) (fun e he => (ht e he).1) rfl,
    mget_of_forall (P := fun x : Tower => x.out = []) (fun e he => (ht e he).2) rfl⟩

theorem keeps (h : Quiet s) (hk : KeepsAccesses s u) : Quiet u :=
  ⟨fun k => (hk.l1 k).trans (h.l1 k), fun t => (hk.held t).trans (h.held t), fun t => (hk.out t).trans (h.out t)⟩

/-- A further change that leaves towers and cores alone. -/
theorem step (h : Quiet s) (ht : u.towers = s.towers := by rfl) (hc : u.cores = s.cores := by rfl) : Quiet u :=
  h.keeps ((KeepsAccesses.refl s).step ht fun k => by rw [State.core, hc]; rfl)

/-- A change of every tower that brings in no access, beside one of the cores that brings in no line. -/
theorem mapTowers (h : Quiet s) {g : Nat × Tower → Nat × Tower} (hl : ∀ k, (u.core k).l1 = []) (ht : u.towers = s.towers.map g)
    (g1 : ∀ e, (g e).1 = e.1) (hh : ∀ e, e.2.held = [] → (g e).2.held = []) (ho : ∀ e, e.2.out = [] → (g e).2.out = []) : Quiet u :=
  ⟨hl, fun t => tower_mapTowers ht g1 (P := fun c => c.held = []) (h.held t) fun x => hh (t, x),
    fun t => tower_mapTowers ht g1 (P := fun c => c.out = []) (h.out t) fun x => ho (t, x)⟩

theorem mapCores (h : Quiet s) {f : Nat × Core → Nat × Core} (hc : u.cores = s.cores.map f) (f1 : ∀ e, (f e).1 = e.1)
    (hl : ∀ e, e.2.l1 = [] → (f e).2.l1 = []) (k : Nat) : (u.core k).l1 = [] :=
  core_mapCores hc f1 (P := fun c => c.l1 = []) (h.l1 k) fun x => hl (k, x)

theorem modTower (h : Quiet s) (t : Nat) {f : Tower → Tower} (hh : ∀ x, (f x).held = x.held := by intro x; rfl) (ho : ∀ x, (f x).out = x.out := by intro x; rfl) :
    Quiet (s.modTower t f) :=
  ⟨h.l1, fun n => (tower_modTower_keeps Tower.held s t hh n).trans (h.held n), fun n => (tower_modTower_keeps Tower.out s t ho n).trans (h.out n)⟩

theorem dropLine (h : Quiet s) (k ln : Nat) : s.dropLine k ln = s := by
  rw [State.dropLine, h.l1]
  rfl

/-- Dropping lines, whichever they are, changes nothing. -/
theorem foldl_dropLine {α β : Type} (h : Quiet s) (f : α → List β) (k : α → Nat) (ln : β → Nat) (l : List α) :
    l.foldl (fun s e => (f e).foldl (fun s x => s.dropLine (k e) (ln x)) s) s = s :=
  foldl_keeps (fun u => u = s) _ (fun u e hu => foldl_keeps (fun u => u = s) _ (fun u x hu => by rw [hu, h.dropLine]) _ hu) l rfl

theorem performHome (h : Quiet s) (t j : Nat) (cells : List Host.Cell) : Quiet (s.performHome t j cells) := by
  have hk := KeepsAccesses.refl s
  unfold State.performHome
  split
  · exact h
  · dsimp only
    rw [if_neg (by simp)]
    split
    · exact h.keeps (hk.putMem _)
    · rw [if_neg (by simp), State.dropTower, h.foldl_dropLine]
      exact h.keeps ((((hk.modTower _).putMem _).umbraUse ..).hotCount ..)

theorem forgetPage (h : Quiet s) (base bits : Nat) : Quiet (s.forgetPage base bits) := by
  unfold State.forgetPage
  exact h.mapTowers (h.mapCores rfl (fun _ => rfl) fun e he => by simp [he]) rfl (fun _ => rfl) (fun _ he => he) fun _ he => he

theorem dropTlb (h : Quiet s) (f : Tlb → Bool) : Quiet (s.dropTlb f) := by
  unfold State.dropTlb
  exact h.mapTowers (h.mapCores rfl (fun _ => rfl) fun _ he => he) rfl (fun _ => rfl) (fun _ he => he) fun _ he => he

theorem dropPage (h : Quiet s) (base bits : Nat) : Quiet (s.dropPage base bits) := by
  unfold State.dropPage
  dsimp only
  rw [h.foldl_dropLine]
  exact h.mapTowers h.l1 rfl (fun _ => rfl) (fun _ he => he) fun _ he => he

theorem rekey (h : Quiet s) (f : Nat → Nat) : Quiet (s.rekey f) := by
  unfold State.rekey
  exact h.mapTowers (h.mapCores rfl (fun _ => rfl) fun _ he => he) rfl (fun _ => rfl) (fun e he => by simp [he]) fun e he => by simp [he]

/-- Where no access waits, none is sent again. -/
theorem reissue_mem (h : Quiet s) (pa n : Nat) : (s.reissue pa n).mem = s.mem := by
  unfold State.reissue
  extract_lets mine mark v
  have hv : Quiet v := h.mapTowers h.l1 rfl (fun _ => rfl) (fun e he => by simp [mark, he]) fun e he => by simp [mark, he]
  show _ = v.mem
  refine congrArg State.mem (foldl_keeps (fun w => w = v) _ (fun w t hw => ?_) _ rfl)
  rw [hw, show v.waitedFor t pa n = [] by simp [State.waitedFor, hv.held, hv.out]]
  rfl

end Quiet

/-! ## Proposal, freeze and copy (R213, R214, R338) -/

theorem hotOf_hotClear (x : Tower) (base bits user : Nat) : (x.hotClear base bits user).hotOf base bits user = 0 := by
  unfold Tower.hotClear Tower.hotOf
  rw [List.foldl_filter]
  refine foldl_keeps (fun n => n = 0) _ (fun n h hn => ?_) _ rfl
  by_cases hh : h.1 / 2 ^ (bits - 16) = base / 2 ^ bits ∧ h.2.1 = user
  · simp [hh, hn]
  · rw [if_neg hh, hn, ite_self]

theorem hotPageProposal_ends {t user job : Nat} {va frame : Word} {e : Tlb} {s : State} (hw : s.walk job va.toNat = .ok e) (hr : region (e.pfn * 2 ^ e.bits) = 0)
    (ht : homeTower (e.pfn * 2 ^ e.bits) = t) (hu : user ≠ t) (hb : e.bits ≤ 21)
    (hc : ((s.tower t).cntOf 0x108).toNat ≤ (s.tower t).hotOf (e.pfn * 2 ^ e.bits) e.bits user) (hp : e.pin = false) (hd : e.dup = false)
    (hfr : region frame.toNat = 0) (hft : homeTower frame.toNat = user) (hfa : frame.toNat % 2 ^ e.bits = 0) :
    exec (.hotPageProposal t user job va frame) s =
      .next ((s.setTower t ((s.tower t).hotClear (e.pfn * 2 ^ e.bits) e.bits user)).propose t user job va frame e) := by
  show execHotPageProposal t user job va frame s = _
  simp only [execHotPageProposal, hw]
  rw [if_neg (by simp [hr, ht, hu, hb, hc]), if_neg (by simp [hp, hd]), if_neg (by simp [hfr, hft, hfa])]

/-- A proposal takes a place in the table where it has one, and waits elsewhere. -/
theorem propose_tower (s : State) (t user job : Nat) (va frame : Word) (e : Tlb) :
    (s.propose t user job va frame e).tower t =
      if 4 ≤ (s.tower t).migr.length then { s.tower t with proposals := (s.tower t).proposals ++ [(user, job, va, frame)] }
      else { s.tower t with migr := (s.tower t).migr ++ [{ job := job, va := w64 (va.toNat / 2 ^ e.bits * 2 ^ e.bits), bits := e.bits, old := e.pfn * 2 ^ e.bits,
                                                           new := frame.toNat, frozen := false, due := 0 }] } := by
  unfold State.propose
  dsimp only
  split <;> exact tower_setTower_self ..

@[simp] theorem tower_spend (s : State) (t : Nat) : s.spend.tower t = s.tower t := rfl

theorem migrationFreeze_ends {t k : Nat} {e : Tlb} {m : Migration} {s : State} (hm : (s.tower t).migr[k]? = some m) (hf : m.frozen = false)
    (hw : s.walk m.job m.va.toNat = .ok e) (ho : e.pfn * 2 ^ e.bits = m.old) (hb : e.bits = m.bits) (hp : e.pin = false) (hd : e.dup = false) :
    Ends (.migrationFreeze t k) s fun u => ∃ z, (u.tower t).migr[k]? = some z ∧ z.frozen = true ∧ z.old = m.old ∧ z.new = m.new ∧ u.mem = s.mem := by
  have he : exec (.migrationFreeze t k) s =
      .next (s.modTower t fun x => { x with migr := x.migr.set k { m with frozen := true, due := s.now + Config.extra s.freeCtr } }).spend := by
    show execMigrationFreeze t k s = _
    simp [execMigrationFreeze, hm, hf, hw, hb, hb ▸ ho, hp, hd]
  refine ⟨_, he, { m with frozen := true, due := s.now + Config.extra s.freeCtr }, ?_, rfl, rfl, rfl, rfl⟩
  have hk : k < (s.tower t).migr.length := (List.getElem?_eq_some_iff.1 hm).1
  rw [tower_spend, tower_modTower_self]
  exact List.getElem?_set_self hk

/-- The copy ends: its entry leaves the table; and memory, where nothing stands in the way, is the copied one with the page's entry rewritten. -/
theorem migrationCopyComplete_ends {t k : Nat} {m : Migration} {s : State} (hm : (s.tower t).migr[k]? = some m) (hf : m.frozen = true) (hd : m.due ≤ s.now) :
    Ends (.migrationCopyComplete t k) s fun u =>
      (u.tower t).migr = (s.tower t).migr.eraseIdx k ∧
      (Quiet s → u.mem = m.remapped s.mem (walkReads (m.copy s.mem) m.va.toNat 3 ((s.job? m.job).elim 0 Job.root)).getLast?) := by
  show ∃ u, execMigrationCopyComplete t k s = .next u ∧ _
  unfold execMigrationCopyComplete
  rw [hm]
  dsimp -zeta only
  rw [if_neg (by simp [hf, hd])]
  extract_lets root moved kept v w x y z
  refine ⟨_, rfl, ?_, fun hq => ?_⟩
  · have hv : KeepsMigr s v := (KeepsMigr.refl s).forgetPage ..
    have hw : KeepsMigr s w := hv.step
    have hx : KeepsMigr s x := by
      simp only [x]
      split
      · exact hw.performHome ..
      · exact hw
    have hy : KeepsMigr s y := (hx.dropTlb _).dropPage ..
    have hu : KeepsMigr (y.modTower t fun x => { x with migr := x.migr.eraseIdx k }) ((z.reissue m.new (2 ^ m.bits)).bump t 0x107) :=
      (((KeepsMigr.refl _).rekey _).reissue ..).modTower t
    rw [hu.migr, tower_modTower_self, hy.migr]
  · have hv : Quiet v := hq.forgetPage ..
    have hw : Quiet w := hv.step
    have hroot : root = (s.job? m.job).elim 0 Job.root := by
      simp only [root]
      cases s.job? m.job <;> rfl
    have hx : Quiet x ∧ x.mem = m.remapped s.mem (walkReads w.mem m.va.toNat 3 root).getLast? := by
      simp only [x]
      cases (walkReads w.mem m.va.toNat 3 root).getLast? with
      | none => exact ⟨hw, rfl⟩
      | some a => exact ⟨hw.performHome .., (performHome_mem ..).trans (foldl_cellsOf ..)⟩
    have hy : Quiet y := (hx.1.dropTlb _).dropPage ..
    have hz : Quiet z := (hy.modTower t).rekey _
    have hzx : z.mem = x.mem := by simp [z, y]
    rw [bump_mem, hz.reissue_mem, hzx, hx.2, ← hroot]
    rfl

/-- Settles O46: each event by what it does where its condition holds, the copy's bytes by the two runs of writes that make it. -/
theorem pagesMigrate : Obligations.PagesMigrate := by
  unfold Obligations.PagesMigrate
  intro t user job k va frame e m s base x
  refine ⟨fun hw hr ht hu hb hc hp hd hfr hft hfa => ⟨_, hotPageProposal_ends hw hr ht hu hb hc hp hd hfr hft hfa, by simp, ?_⟩,
    fun hm hf hw ho hb hp hd => migrationFreeze_ends hm hf hw ho hb hp hd, fun hm hf hd => ?_⟩
  · have hclear := hotOf_hotClear x base e.bits user
    rw [propose_tower, tower_setTower_self]
    split
    · next hfull => exact ⟨hclear, fun h => absurd hfull (Nat.not_le.2 h), fun _ => ⟨rfl, rfl⟩⟩
    · next hroom => exact ⟨hclear, fun _ => ⟨rfl, _, rfl, rfl, rfl, rfl, rfl, rfl⟩, fun h => absurd h hroom⟩
  · obtain ⟨u, hu, hmigr, hmem⟩ := migrationCopyComplete_ends hm hf hd
    refine ⟨u, hu, hmigr, fun hwf hc ht _ => ?_⟩
    intro entry
    have hentry : entry = (walkReads (m.copy s.mem) m.va.toNat 3 ((s.job? m.job).elim 0 Job.root)).getLast? := by
      simp only [entry]
      cases s.job? m.job <;> rfl
    rw [hmem (Quiet.of_forall hc ht), ← hentry]
    refine ⟨fun a ha => (rdByte_remapped m hwf ha).trans (rdByte_copy m hwf a), fun w hw => ?_⟩
    rw [hw]
    exact rdWord_remapped m hwf w

end Sys2Proof.Machine
end

section
/-! What the issue of a command of the array, and the work of the state pager, leaves alone: the pager's moves, accepted state instructions and the
handles; and of errors
counted, L1 written back, banks touched and strands woken also the tiles and the group that issues. -/

set_option Elab.async false -- as in the laws above: one proof at a time keeps the build within its memory

namespace Sys2Proof.Machine

/-- From s to u no move of a pager, no accepted state instruction and no handle has changed. -/
structure KeepsMoves (s u : State) : Prop where
  moves : ∀ t, (u.tower t).moves = (s.tower t).moves
  stateq : ∀ t, (u.tower t).stateq = (s.tower t).stateq
  handles : u.handles = s.handles

/-- Nor has a tile in state SRAM or in a frame, or what the issue knows of its group. -/
structure KeepsTiles (s u : State) : Prop extends KeepsMoves s u where
  slots : ∀ t, (u.tower t).slots = (s.tower t).slots
  frames : ∀ t, (u.tower t).frames = (s.tower t).frames
  cur : u.cur = s.cur

namespace KeepsMoves

variable {s u v : State}

theorem refl (s : State) : KeepsMoves s s := ⟨fun _ => rfl, fun _ => rfl, rfl⟩

theorem trans (h : KeepsMoves s u) (h' : KeepsMoves u v) : KeepsMoves s v :=
  ⟨fun t => (h'.moves t).trans (h.moves t), fun t => (h'.stateq t).trans (h.stateq t), h'.handles.trans h.handles⟩

/-- A further change that leaves towers and handles alone. -/
theorem step (h : KeepsMoves s u) (ht : v.towers = u.towers := by rfl) (hh : v.handles = u.handles := by rfl) : KeepsMoves s v :=
  ⟨fun t => by rw [State.tower, ht]; exact h.moves t, fun t => by rw [State.tower, ht]; exact h.stateq t, hh.trans h.handles⟩

theorem modTower (h : KeepsMoves s u) (t : Nat) {f : Tower → Tower} (hm : ∀ x, (f x).moves = x.moves := by intro x; rfl)
    (hq : ∀ x, (f x).stateq = x.stateq := by intro x; rfl) : KeepsMoves s (u.modTower t f) :=
  ⟨fun n => (tower_modTower_keeps Tower.moves u t hm n).trans (h.moves n),
    fun n => (tower_modTower_keeps Tower.stateq u t hq n).trans (h.stateq n), h.handles⟩

theorem foldl {α : Type} {f : State → α → State} (h : KeepsMoves s u) (hf : ∀ v x, KeepsMoves s v → KeepsMoves s (f v x)) (l : List α) :
    KeepsMoves s (l.foldl f u) :=
  foldl_keeps (KeepsMoves s) f hf l h

end KeepsMoves

namespace KeepsTiles

variable {s u v : State}

theorem refl (s : State) : KeepsTiles s s := ⟨.refl s, fun _ => rfl, fun _ => rfl, rfl⟩

theorem trans (h : KeepsTiles s u) (h' : KeepsTiles u v) : KeepsTiles s v :=
  ⟨h.toKeepsMoves.trans h'.toKeepsMoves, fun t => (h'.slots t).trans (h.slots t), fun t => (h'.frames t).trans (h.frames t), h'.cur.trans h.cur⟩

/-- A further change that leaves towers, handles and the group alone. -/
theorem step (h : KeepsTiles s u) (ht : v.towers = u.towers := by rfl) (hh : v.handles = u.handles := by rfl) (hc : v.cur = u.cur := by rfl) :
    KeepsTiles s v := by
  have hv (t : Nat) : v.tower t = u.tower t := by rw [State.tower, ht]; rfl
  exact ⟨h.toKeepsMoves.step ht hh, fun t => by rw [hv, h.slots], fun t => by rw [hv, h.frames], hc.trans h.cur⟩

theorem modTower (h : KeepsTiles s u) (t : Nat) {f : Tower → Tower} (hm : ∀ x, (f x).moves = x.moves := by intro x; rfl)
    (hq : ∀ x, (f x).stateq = x.stateq := by intro x; rfl) (hs : ∀ x, (f x).slots = x.slots := by intro x; rfl) (hr : ∀ x, (f x).frames = x.frames := by intro x; rfl) :
    KeepsTiles s (u.modTower t f) :=
  ⟨h.toKeepsMoves.modTower t hm hq, fun n => (tower_modTower_keeps Tower.slots u t hs n).trans (h.slots n),
    fun n => (tower_modTower_keeps Tower.frames u t hr n).trans (h.frames n), h.cur⟩

theorem foldl {α : Type} {f : State → α → State} (h : KeepsTiles s u) (hf : ∀ v x, KeepsTiles s v → KeepsTiles s (f v x)) (l : List α) :
    KeepsTiles s (l.foldl f u) :=
  foldl_keeps (KeepsTiles s) f hf l h

theorem modCore (h : KeepsTiles s u) (k : Nat) (f : Core → Core) : KeepsTiles s (u.modCore k f) := h.step
theorem modStrand (h : KeepsTiles s u) (k i : Nat) (f : Strand → Strand) : KeepsTiles s (u.modStrand k i f) := h.step
theorem setStrand (h : KeepsTiles s u) (k i : Nat) (x : Strand) : KeepsTiles s (u.setStrand k i x) := h.step
theorem setUid (h : KeepsTiles s u) (n : Nat) : KeepsTiles s { u with uid := n } := h.step
theorem spend (h : KeepsTiles s u) : KeepsTiles s u.spend := h.step

/-- A tower's tile is the same, whichever word names it. -/
theorem tileOf (h : KeepsTiles s u) (t : Nat) (w : Word) : (u.tower t).tileOf w = (s.tower t).tileOf w := by
  simp only [Tower.tileOf, h.slots, h.frames]

/-! ## Errors (R217, R360) -/

theorem bump (h : KeepsTiles s u) (t n : Nat) : KeepsTiles s (u.bump t n) := h.modTower t

theorem requestCkpt (h : KeepsTiles s u) : KeepsTiles s u.requestCkpt := h.step

theorem noteSelfTest (h : KeepsTiles s u) (e : Nat) : KeepsTiles s (if e = 1 then { u with selfTestDue := true } else u) := by
  split
  · exact h.step
  · exact h

theorem bumpErr (h : KeepsTiles s u) (t e : Nat) : KeepsTiles s (u.bumpErr t e) := by
  have hcount (c : Word) := ((h.bump t (0x120 + e)).modTower t (f := fun x => { x with cnt := mput x.cnt (0x130 + e) c })).noteSelfTest e
  unfold State.bumpErr
  dsimp only
  split
  · exact ((hcount _).modTower t).requestCkpt
  · exact hcount _

theorem bumpErrs (h : KeepsTiles s u) (t : Nat) (l : List SramErr) : KeepsTiles s (l.foldl (fun s e => if e.dbl then s else s.bumpErr t 0) u) :=
  h.foldl (fun _ _ hv => by split; exacts [hv, hv.bumpErr t 0]) l

theorem coreErrs (h : KeepsTiles s u) (k : Nat) (f : SramErr → Bool) : KeepsTiles s (u.coreErrs k f).1 := by
  unfold State.coreErrs
  dsimp only
  split
  · exact h
  · exact (h.bumpErrs (towerOf k) _).modCore k fun c => { c with errs := c.errs.filter fun e => !f e }

theorem towerErrs (h : KeepsTiles s u) (t : Nat) (f : SramErr → Bool) : KeepsTiles s (u.towerErrs t f).1 := by
  unfold State.towerErrs
  dsimp only
  split
  · exact h
  · exact (h.bumpErrs _ _).modTower t (f := fun x => { x with errs := x.errs.filter fun e => !f e })

/-! ## L1 and the way home (R204, R279) -/

theorem toOut (h : KeepsTiles s u) (k : Nat) (e : SqEntry) : KeepsTiles s (u.toOut k e) := ((h.setUid _).modTower _).spend

theorem dropLine (h : KeepsTiles s u) (k ln : Nat) : KeepsTiles s (u.dropLine k ln) := by
  unfold State.dropLine
  split
  · exact h
  · have hdel (f : Core → Core) := h.modCore k f
    dsimp only
    split
    · exact hdel _
    · exact (((hdel _).coreErrs k _).setUid _).foldl (fun _ e hv => hv.toOut k e) _

theorem dropOthers (h : KeepsTiles s u) (k ln : Nat) : KeepsTiles s (u.dropOthers k ln) := by
  have hdrop (l : Map Core) : KeepsTiles s (l.foldl (fun s e => s.dropLine e.1 ln) u) := h.foldl (fun _ e hv => hv.dropLine e.1 ln) l
  unfold State.dropOthers
  dsimp only
  split
  · exact (hdrop _).dropLine k ln
  · exact hdrop _

theorem performL2 (h : KeepsTiles s u) (k : Nat) (e : SqEntry) : KeepsTiles s (u.performL2 k e) :=
  ((h.foldl (fun _ ln hv => hv.dropOthers k ln) _).modCore k _).toOut k e

theorem writeBackLine (h : KeepsTiles s u) (k ln : Nat) : KeepsTiles s (u.writeBackLine k ln) := by
  unfold State.writeBackLine
  split
  · exact h
  · dsimp only
    split
    · exact h
    · exact ((h.coreErrs k _).setUid _).foldl (fun _ e hv => hv.performL2 k e) _

theorem acquire (h : KeepsTiles s u) (k : Nat) : KeepsTiles s (u.acquire k) := by
  have hback (l : Map L1Line) := h.foldl (f := fun s (e : Nat × L1Line) => s.writeBackLine k e.1) (fun _ e hv => hv.writeBackLine k e.1) l
  unfold State.acquire
  exact ((hback _).modCore k _).modTower _

/-! ## Banks and strands that wait (R218, R333) -/

theorem touchSlab (h : KeepsTiles s u) (t slab : Nat) : KeepsTiles s (u.touchSlab t slab) := h.modTower t

theorem touchSlabs (h : KeepsTiles s u) (t : Nat) (l : List Nat) : KeepsTiles s (l.foldl (fun s b => s.touchSlab t b) u) :=
  h.foldl (fun _ b hv => hv.touchSlab t b) l

theorem touchState (h : KeepsTiles s u) (i : Nat) : KeepsTiles s (u.touchState i) := by
  unfold State.touchState
  exact h.foldl (fun _ b hv => hv.touchSlab _ b) _

theorem wake (h : KeepsTiles s u) (k i kind : Nat) : KeepsTiles s (u.wake k i kind) := (h.modTower (towerOf k)).modStrand k i _

theorem wakeAbsent (h : KeepsTiles s u) (n : Nat) : KeepsTiles s (u.wakeAbsent n) := by
  unfold State.wakeAbsent
  refine h.foldl (fun v e hv => hv.foldl (fun w i hw => ?_) _) _
  split
  · split
    · exact hw.wake e.1 i 2
    · exact hw
  · exact hw

end KeepsTiles

end Sys2Proof.Machine
end

section
/-! Proofs about commands of a core that begin (R221, R224, R226, R238, R243): what a command given before, a strand that waits, and the issue then still find. -/

set_option Elab.async false -- as in the laws above: one proof at a time keeps the build within its memory

namespace Sys2Proof.Machine

/-! ## Commands that begin (R221, R243) -/

/-- What a command is for, and whose. -/
def Cmd.order (x : Cmd) : Nat × CmdKind := (x.strand, x.kind)

/-- What a pending result is to deliver. -/
def Pending.owed (p : Pending) : List Reg × List Val × Bool := (p.dests, p.vals, p.poison)

/-- From s to u commands of core k have begun: no tile has changed, the plane loader and the FIFO have what they had, and every strand waits for what it waited for. -/
structure CommandsBegin (k : Nat) (s u : State) : Prop extends KeepsTiles s u where
  fifo : (u.core k).fifo = (s.core k).fifo
  orders : ((u.core k).cmdsOf 1).map Cmd.order = ((s.core k).cmdsOf 1).map Cmd.order
  owed : ∀ i, (u.strand k i).pend.map Pending.owed = (s.strand k i).pend.map Pending.owed

/-- The orders of the plane loader, where a queue of the core is replaced. -/
theorem orders_mput (c : Core) {e : Nat} {l : List Cmd} (h : e = 1 → l.map Cmd.order = (c.cmdsOf 1).map Cmd.order) :
    (({ c with cmds := mput c.cmds e l } : Core).cmdsOf 1).map Cmd.order = (c.cmdsOf 1).map Cmd.order := by
  by_cases he : e = 1
  · subst he
    rw [cmdsOf_mput_self, h rfl]
  · rw [Core.cmdsOf, mget_mput_ne _ _ _ (Ne.symm he), Core.cmdsOf]

namespace CommandsBegin

variable {k : Nat} {s u : State}

theorem refl (k : Nat) (s : State) : CommandsBegin k s s := ⟨.refl s, rfl, rfl, fun _ => rfl⟩

/-- A further change of the core that leaves FIFO, strands and the orders of the plane loader alone. -/
theorem modCore (h : CommandsBegin k s u) {f : Core → Core} (ho : ∀ c, ((f c).cmdsOf 1).map Cmd.order = (c.cmdsOf 1).map Cmd.order)
    (hf : ∀ c, (f c).fifo = c.fifo := by intro c; rfl) (hs : ∀ c, (f c).strands = c.strands := by intro c; rfl) : CommandsBegin k s (u.modCore k f) where
  toKeepsTiles := h.toKeepsTiles.modCore k f
  fifo := by rw [core_modCore_self, hf, h.fifo]
  orders := by rw [core_modCore_self, ho, h.orders]
  owed i := by
    rw [strand_modCore_self, Core.strand, hs]
    exact h.owed i

theorem dueOf (h : CommandsBegin k s u) (i tag due : Nat) : CommandsBegin k s (u.dueOf k i tag due) where
  toKeepsTiles := h.toKeepsTiles.modStrand k i _
  fifo := by rw [State.dueOf, core_modStrand_self]; exact h.fifo
  orders := by rw [State.dueOf, core_modStrand_self]; exact h.orders
  owed n := by
    by_cases hn : n = i
    · subst hn
      rw [State.dueOf, strand_modStrand_self, List.map_map, ← h.owed n]
      refine List.map_congr_left fun p _ => ?_
      rw [Function.comp_apply]
      split <;> rfl
    · rw [State.dueOf, strand_modStrand_ne _ _ _ hn]
      exact h.owed n

theorem acquire (h : CommandsBegin k s u) : CommandsBegin k s (u.acquire k) := by
  obtain ⟨l, e, hcore⟩ := ((OnlyL1.refl u).acquire k).core k
  refine ⟨h.toKeepsTiles.acquire k, by rw [hcore]; exact h.fifo, by rw [hcore]; exact h.orders, fun i => ?_⟩
  rw [State.strand, hcore]
  exact h.owed i

theorem foldl {α : Type} {f : State → α → State} (h : CommandsBegin k s u) (hf : ∀ v x, CommandsBegin k s v → CommandsBegin k s (f v x)) (l : List α) :
    CommandsBegin k s (l.foldl f u) :=
  foldl_keeps (CommandsBegin k s) f hf l h

theorem beginCmd (h : CommandsBegin k s u) (e : Nat) (x : Cmd) (due : Nat) : CommandsBegin k s (u.beginCmd k e x due) := by
  have hstart : CommandsBegin k s (u.modCore k fun c =>
      { c with cmds := mput c.cmds e ((c.cmdsOf e).map fun y => if y.uid = x.uid then { y with started := true, due := due } else y) }) := by
    refine h.modCore fun c => orders_mput c ?_
    rintro rfl
    rw [List.map_map]
    refine List.map_congr_left fun y _ => ?_
    rw [Function.comp_apply]
    split <;> rfl
  unfold State.beginCmd
  dsimp only
  cases x.kind with
  | fwdRead r plane n form slab =>
    dsimp only
    have hfill := hstart.modCore (f := fun c =>
      { c with shadow := { plane with resident := !sclWaits (c.cmdsOf 1) false }, errs := c.errs.filter fun e => decide (e.sram ≠ .shadow) }) fun _ => rfl
    split
    · exact hfill.dueOf ..
    · exact hfill.modCore fun c => orders_mput c fun h => absurd h (by decide)
  | fwdWrite r n form slab filled => exact hstart.dueOf ..
  | wscl ps n scr =>
    dsimp only
    split
    · exact hstart.acquire
    · exact hstart
  | _ => exact hstart

theorem beginAll (k : Nat) (s : State) : CommandsBegin k s (s.beginAll k) := by
  unfold State.beginAll
  refine (refl k s).foldl (fun v e hv => hv.foldl (fun w p hw => ?_) _) _
  split
  · exact hw
  · split
    · exact hw
    · split
      · exact hw.beginCmd ..
      · exact hw

/-- The order last given to the plane loader is still its last. -/
theorem getLast_cmds (h : CommandsBegin k s u) {x : Cmd} (hx : ((s.core k).cmdsOf 1).getLast? = some x) :
    ∃ y, ((u.core k).cmdsOf 1).getLast? = some y ∧ y.strand = x.strand ∧ y.kind = x.kind := by
  have horder := congrArg List.getLast? h.orders
  rw [List.getLast?_map, List.getLast?_map, hx, Option.map_some] at horder
  obtain ⟨y, hy, hxy⟩ := Option.map_eq_some_iff.1 horder
  obtain ⟨hstrand, hkind⟩ := Prod.mk.inj hxy
  exact ⟨y, hy, hstrand, hkind⟩

/-- What a strand waited for it still waits for. -/
theorem exists_pend (h : CommandsBegin k s u) {i : Nat} {p : Pending} (hp : p ∈ (s.strand k i).pend) :
    ∃ q ∈ (u.strand k i).pend, q.dests = p.dests ∧ q.vals = p.vals ∧ q.poison = p.poison := by
  have hmem : p.owed ∈ (u.strand k i).pend.map Pending.owed := h.owed i ▸ List.mem_map_of_mem hp
  obtain ⟨q, hq, hqp⟩ := List.mem_map.1 hmem
  obtain ⟨hdests, hrest⟩ := Prod.mk.inj hqp
  obtain ⟨hvals, hpoison⟩ := Prod.mk.inj hrest
  exact ⟨q, hq, hdests, hvals, hpoison⟩

end CommandsBegin

theorem enqueue_getLast (s : State) (e : Nat) (kind : CmdKind) (tag : Nat) (reqs : List Request) :
    (((s.enqueue e kind tag reqs).core s.cur.core).cmdsOf e).getLast? = some (s.command kind tag reqs) := by
  obtain ⟨l, henq⟩ := enqueue_core s e kind tag reqs
  rw [henq]
  exact (congrArg List.getLast? (mget_mput_self ..)).trans List.getLast?_concat

/-! ## The core of the opened group, and after its issue -/

theorem opened_core (s : State) (i : Instr) :
    (s.opened i).core s.cur.core = (s.core s.cur.core).setStrand s.cur.strand ((s.opened i).strand s.cur.core s.cur.strand) := openGroup_core ..

theorem opened_jobOf (s : State) (i : Instr) : (s.opened i).jobOf s.cur.core = s.jobOf s.cur.core := by
  simp only [State.jobOf, State.gangOf, opened_core]
  rfl

/-- The end of an issue that notes nothing for it leaves the array's queues and the FIFO as the effect left them. -/
theorem after_array {i : Instr} {s u : State} (h : u.cur = (s.opened i).cur) :
    ((s.after i u).core s.cur.core).cmdsOf = (u.core s.cur.core).cmdsOf ∧ ((s.after i u).core s.cur.core).fifo = (u.core s.cur.core).fifo ∧
      ((s.after i u).core s.cur.core).streams = (u.core s.cur.core).streams := by
  have hkeeps : u.cur.core = s.cur.core ∧ u.cur.strand = s.cur.strand ∧ u.cur.give = false ∧ u.cur.sysw = [] := by
    rw [h]
    exact ⟨rfl, rfl, rfl, rfl⟩
  obtain ⟨hk, hj, hgive, hsysw⟩ := hkeeps
  obtain ⟨q, l, hafter⟩ := after_core (i := i) hk hj hgive hsysw
  rw [hafter]
  exact ⟨rfl, rfl, rfl⟩

/-! ## Recovered causes (R224, R227, R368) -/

theorem sealed_recov_lt {x : Strand} {n : Nat} (h : x.recov < n) : x.sealed.recov < n := by
  rw [sealed_recov]
  split
  · exact Nat.lt_of_le_of_lt (Nat.zero_le _) h
  · exact h

/-- A recovery takes nothing out of a queue of the core or of its FIFO. -/
theorem takeCause_recovers_queues {s : State} {k j : Nat} (hth : (s.strand k j).th = false) (hr : (s.strand k j).sealed.recov < 2) (d y : Nat) (pc w : Word) :
    ((s.takeCause k j 3 d y pc w).core k).cmds = (s.core k).cmds ∧ ((s.takeCause k j 3 d y pc w).core k).fifo = (s.core k).fifo := by
  have hrec := noteRecovery_sealed_recov (s.strand k j) 3 d y pc w
  rw [State.takeCause, if_pos (by decide), takeRecovery_eq]
  dsimp only
  rw [noteRecovery_th, hth, if_neg Bool.false_ne_true, hrec, if_neg (Nat.not_le.2 hr), giveUp_core_self, core_setStrand]
  exact ⟨rfl, rfl⟩

/-- The operation of instruction i meets the recovered cause 0x03, detail d, at its group. -/
theorem exec_ready_recovers {i : Instr} {s : State} {g : GOp} {d : Nat} (hg : gopOf i s = some g) (hop : g.op (s.opened i) = .error (.cause 3 d 0))
    (hd : d < 256) (hready : s.ready i = true) (hth : (s.strand s.cur.core s.cur.strand).th = false) (hrec : (s.strand s.cur.core s.cur.strand).recov < 2) :
    Ends i s fun t => (t.strand s.cur.core s.cur.strand).st = .recovering 3 d ∧
      (t.strand s.cur.core s.cur.strand).scause = BitVec.ofNat 64 (0x030000 + d * 256) ∧ (t.strand s.cur.core s.cur.strand).sepc = s.cur.start ∧
      (t.core s.cur.core).cmds = (s.core s.cur.core).cmds ∧ (t.core s.cur.core).fifo = (s.core s.cur.core).fifo := by
  have hstrand : (s.modCore s.cur.core fun c => { c with fills := [] }).strand s.cur.core s.cur.strand = s.strand s.cur.core s.cur.strand := by
    rw [strand_modCore_self]
    rfl
  have hth' := hstrand ▸ hth
  have hrec' := sealed_recov_lt (hstrand ▸ hrec)
  have hcause := takeCause_recovers hth' hrec' (c := 3) rfl d 0 s.cur.start 0
  obtain ⟨hcmds, hfifo⟩ := takeCause_recovers_queues hth' hrec' d 0 s.cur.start 0
  rw [causeWord_of_lt hd (by decide) (by decide)] at hcause
  refine ⟨_, (exec_ready_error hg hready hop).trans (congrArg _ (holdGroup_cause (p := 0) rfl rfl (by decide) (by decide) ..)),
    hcause.st, hcause.scause, hcause.sepc, hcmds.trans ?_, hfifo.trans ?_⟩ <;> rw [core_modCore_self]

end Sys2Proof.Machine
end

section
/-! Proofs about the weight path (R222, R224, R226, R227, R233): streams, the plane loader's commands, and the two recovered causes of WLD and WSWAP. -/

set_option Elab.async false -- as in the laws above: one proof at a time keeps the build within its memory

namespace Sys2Proof.Machine

theorem opened_cur_core (s : State) (i : Instr) : (s.opened i).cur.core = s.cur.core := rfl

/-! ## Weight streams (R222) -/

theorem wstrStop_none {va : Word} (hspace : bits va 63 57 = 0) (halign : va.toNat % 8 = 0) : wstrStop va = none := by simp [wstrStop, hspace, halign]

/-- The stream of n tiles at va that a WSTR of the opened group o asks for. -/
def State.streamOf (o : State) (f n : Nat) (va : Word) (acq : Option Nat) : Stream :=
  { fmt := f, next := va, tiles := n, total := n, strand := o.cur.strand, job := o.jobOf o.cur.core, acq := acq, due := o.now + 1 + Config.extra o.freeCtr, uid := o.uid }

/-- The state in which engine 0 has taken it. -/
def State.takeStream (o : State) (st : Stream) : State :=
  (({ o.modStrand o.cur.core o.cur.strand fun x => x.issueTo 0 with uid := o.uid + 1 }).modCore o.cur.core fun c => { c with streams := c.streams ++ [st] }).spend

theorem modStrand_jobOf (s : State) (k i : Nat) (f : Strand → Strand) : (s.modStrand k i f).jobOf k = s.jobOf k := by
  simp only [State.jobOf, State.gangOf, core_modStrand_self]
  rfl

section

variable {o : State} {a b : Nat} (hstop : wstrStop (o.xOp a) = none) (hfull : (o.core o.cur.core).engineFull 0 = false) (g f : Nat) (acq : Bool) (sc : Nat)

include hstop hfull

theorem gopWstr_nothing (hn : bits (o.xOp b) 31 0 = 0) : (gopWstr g f a b acq sc).op o =
    .ok ((o.modStrand o.cur.core o.cur.strand fun x => x.issueTo 0).complete o.cur.core o.cur.strand 0 0) := by
  simp only [gopWstr, show ∀ n, o.readX o.cur.core o.cur.strand n = o.xOp n from fun _ => rfl, hstop, hfull, hn, Bool.false_eq_true, if_false, if_true]

theorem gopWstr_stream (hn : bits (o.xOp b) 31 0 ≠ 0) : (gopWstr g f a b acq sc).op o =
    .ok (o.takeStream (o.streamOf f (bits (o.xOp b) 31 0) (o.xOp a) (if acq then some sc else none))) := by
  simp only [gopWstr, show ∀ n, o.readX o.cur.core o.cur.strand n = o.xOp n from fun _ => rfl, hstop, hfull, hn, Bool.false_eq_true, if_false, modStrand_jobOf]
  rfl

end

theorem takeStream_cur (o : State) (st : Stream) : (o.takeStream st).cur = o.cur := rfl

theorem takeStream_streams (o : State) (st : Stream) : ((o.takeStream st).core o.cur.core).streams.getLast? = some st := by
  rw [State.takeStream, core_spend, core_modCore_self]
  exact List.getLast?_concat

/-! ## The plane loader (R224, R226, R227) -/

/-- The state in which the whole tile z has left the FIFO, with the errors of its bytes counted. -/
def State.claimTile (o : State) (z : FifoTile) (r : List FifoTile) : State × Bool :=
  let n := z.elems.length * fmtBytes z.fmt
  (o.setCore o.cur.core { o.core o.cur.core with fifo := r, fifoHeld := (o.core o.cur.core).fifoHeld + n }).coreErrs o.cur.core
    fun e => decide (e.sram = .fifo) && decide (e.word * 8 < n)

theorem claimTile_fifo (o : State) (z : FifoTile) (r : List FifoTile) : ((o.claimTile z r).1.core o.cur.core).fifo = r := by
  unfold State.claimTile
  extract_lets n
  obtain ⟨l, e, hcore⟩ := ((OnlyL1.refl (o.setCore o.cur.core { o.core o.cur.core with fifo := r, fifoHeld := (o.core o.cur.core).fifoHeld + n })).coreErrs o.cur.core
    fun e => decide (e.sram = .fifo) && decide (e.word * 8 < n)).core o.cur.core
  rw [hcore, core_setCore_self]

theorem claimTile_cur (o : State) (z : FifoTile) (r : List FifoTile) : (o.claimTile z r).1.cur = o.cur := by
  unfold State.claimTile
  exact ((KeepsTiles.refl _).coreErrs o.cur.core _).cur

/-- The state in which a WLD has claimed the tile. -/
def State.loadTile (o : State) (z : FifoTile) (r : List FifoTile) : State :=
  ((o.claimTile z r).1.enqueue 1 (.wld { z with pois := (o.claimTile z r).2 })).beginAll o.cur.core

theorem gopWld_whole {o : State} {z : FifoTile} {r : List FifoTile} (hfifo : (o.core o.cur.core).fifo = z :: r) (hfail : z.fail = none) (hz : z.remaining = 0)
    (hfull : (o.core o.cur.core).engineFull 1 = false) (g : Nat) : (gopWld g).op o = .ok (o.loadTile z r) := by
  simp only [gopWld, State.loadTile, State.claimTile, hfifo, hfail, hz, hfull, ne_eq, not_true_eq_false, Bool.false_eq_true, if_false]

theorem gopWld_partial {o : State} {z : FifoTile} {r : List FifoTile} (hfifo : (o.core o.cur.core).fifo = z :: r) (hfail : z.fail = none) (hz : z.remaining ≠ 0)
    (g : Nat) : (gopWld g).op o = .error (.cause 3 1 0) := by
  simp only [gopWld, hfifo, hfail, hz, ne_eq, not_false_eq_true, if_true]

theorem gopWld_empty {o : State} (hfifo : (o.core o.cur.core).fifo = []) (g : Nat) : (gopWld g).op o = .error (.cause 3 1 0) := by
  simp only [gopWld, hfifo]

theorem loadTile_cur (o : State) (z : FifoTile) (r : List FifoTile) : (o.loadTile z r).cur = o.cur :=
  (CommandsBegin.beginAll ..).cur.trans ((enqueue_cur ..).trans (claimTile_cur ..))

theorem loadTile_fifo (o : State) (z : FifoTile) (r : List FifoTile) : ((o.loadTile z r).core o.cur.core).fifo = r := by
  obtain ⟨l, henq⟩ := enqueue_core (o.claimTile z r).1 1 (.wld { z with pois := (o.claimTile z r).2 }) 0 []
  rw [claimTile_cur] at henq
  rw [State.loadTile, (CommandsBegin.beginAll ..).fifo, henq]
  exact claimTile_fifo ..

theorem loadTile_command (o : State) (z : FifoTile) (r : List FifoTile) :
    ∃ c, (((o.loadTile z r).core o.cur.core).cmdsOf 1).getLast? = some c ∧ c.strand = o.cur.strand ∧ ∃ po, c.kind = .wld { z with pois := po } := by
  have hlast := enqueue_getLast (o.claimTile z r).1 1 (.wld { z with pois := (o.claimTile z r).2 }) 0 []
  rw [claimTile_cur] at hlast
  obtain ⟨c, hc, hstrand, hkind⟩ := (CommandsBegin.beginAll o.cur.core _).getLast_cmds hlast
  exact ⟨c, hc, hstrand.trans (congrArg GroupCtx.strand (claimTile_cur o z r)), _, hkind⟩

theorem gopWscl_ok {o : State} {a : Nat} {ps : List Part} (halign : (o.xOp a).toNat % 64 = 0) (hparts : o.parts o.cur.core (o.xOp a) (4 * o.me.ncols) false = .ok ps)
    (hfull : (o.core o.cur.core).engineFull 1 = false) (g : Nat) (acq : Bool) (sc : Nat) : (gopWscl g a acq sc).op o =
      .ok (((((if acq then o.scopePush o.cur.core o.cur.strand o.uid sc else o).modCore o.cur.core fun c =>
          if c.swapsOdd then { c with active := { c.active with resident := false } } else { c with shadow := { c.shadow with resident := false } }).enqueue 1
        (.wscl (ps.map fun q => (q.scr, q.pa, q.len)) (4 * o.me.ncols) (spaceOf (o.xOp a) == .scr)) (if acq then sc + 1 else 0)).beginAll o.cur.core).spend) := by
  have hshape : ¬ (spaceOf (o.xOp a) ≠ .none ∧
      !(spaceOf (o.xOp a) = .scr ∧ ((o.core o.cur.core).scrOff (o.xOp a) (4 * o.me.ncols)).isNone) ∧ (o.xOp a).toNat % 64 ≠ 0) := fun h => h.2.2 halign
  simp only [gopWscl, show o.readX o.cur.core o.cur.strand a = o.xOp a from rfl]
  rw [if_neg hshape]
  simp only [hparts, hfull, Bool.false_eq_true, if_false]

theorem gopWswap_ok {o : State} (hno : ∀ c ∈ (o.core o.cur.core).cmdsOf 1, ∀ z, c.kind ≠ .wld z) (hfull : (o.core o.cur.core).engineFull 1 = false) (g : Nat) :
    (gopWswap g).op o = .ok (o.enqueue 1 .wswap) := by
  simp only [gopWswap, hfull, Bool.false_eq_true, if_false]
  refine if_neg ?_
  rw [Bool.not_eq_true, List.any_eq_false]
  intro c hc
  split
  · next z hz => exact absurd hz (hno c hc z)
  · exact Bool.false_ne_true

theorem gopWswap_loading {o : State} {c : Cmd} {z : FifoTile} (hc : c ∈ (o.core o.cur.core).cmdsOf 1) (hz : c.kind = .wld z) (g : Nat) :
    (gopWswap g).op o = .error (.cause 3 2 0) := by
  refine if_pos (List.any_eq_true.2 ⟨c, hc, ?_⟩)
  rw [hz]

/-- Settles O31: each instruction by its operation, the recovered causes by what a recovery leaves. -/
theorem weightPath : Obligations.WeightPath := by
  unfold Obligations.WeightPath
  intro g f a b sc acq s k j traps
  have hcore (i : Instr) := opened_core s i
  refine ⟨?_, fun z r hfifo hfail => ⟨fun hz hfull hready => ?_, fun hz hready hth hrec => ?_⟩, fun hfifo hready hth hrec => ?_, ?_, fun hno hfull hready => ?_,
    fun c z hc hz hready hth hrec => ?_, fun s hready => exec_ready rfl hready rfl⟩
  · intro i o va hready hspace halign hfull
    have hstop := wstrStop_none hspace halign
    refine ⟨fun hn => exec_ready rfl hready (gopWstr_nothing hstop hfull g f acq sc hn), fun hn => ?_⟩
    refine ⟨_, exec_ready rfl hready (gopWstr_stream hstop hfull g f acq sc hn), o.streamOf f (bits (o.xOp b) 31 0) va (if acq then some sc else none),
      ?_, rfl, rfl, rfl, rfl, opened_jobOf s i, rfl⟩
    obtain ⟨-, -, hstreams⟩ := after_array (i := i) (takeStream_cur o (o.streamOf f (bits (o.xOp b) 31 0) va (if acq then some sc else none)))
    rw [hstreams]
    exact takeStream_streams ..
  · have hok := gopWld_whole (o := s.opened (.wld g)) (z := z) (r := r) (by rw [opened_cur_core, hcore]; exact hfifo) hfail hz
      (by rw [opened_cur_core, hcore]; exact hfull) g
    obtain ⟨hcmds, hleft, -⟩ := after_array (i := .wld g) (loadTile_cur (s.opened (.wld g)) z r)
    refine ⟨_, exec_ready rfl hready hok, hleft.trans (loadTile_fifo ..), ?_⟩
    rw [hcmds]
    exact loadTile_command ..
  · exact exec_ready_recovers rfl (gopWld_partial (by rw [opened_cur_core, hcore]; exact hfifo) hfail hz g) (by decide) hready hth hrec
  · exact exec_ready_recovers rfl (gopWld_empty (by rw [opened_cur_core, hcore]; exact hfifo) g) (by decide) hready hth hrec
  · intro ps i o n hready halign hparts hfull
    exact exec_ready rfl hready (gopWscl_ok halign hparts hfull g acq sc)
  · exact exec_ready rfl hready (gopWswap_ok (by rw [opened_cur_core, hcore]; exact hno) (by rw [opened_cur_core, hcore]; exact hfull) g)
  · exact exec_ready_recovers rfl (gopWswap_loading (by rw [opened_cur_core, hcore]; exact hc) hz g) (by decide) hready hth hrec

end Sys2Proof.Machine
end

section
/-! Tiles as the fast-weight instructions find and leave them (R208, R217, R235 to R242, R339): rows of a tile, the word that a reference names, the tile as a
reader finds it, and the writer's own. -/

set_option Elab.async false -- as in the laws above: one proof at a time keeps the build within its memory

namespace Sys2Proof.Machine

/-! ## Rows of a tile (R238 to R241) -/

/-- 128 rows of 128 elements. -/
def Square (l : List (List Nat)) : Prop := l.length = 128 ∧ ∀ r ∈ l, r.length = 128

theorem inRows_flatten {α : Type} {n : Nat} (l : List (List α)) (h : ∀ r ∈ l, r.length = n) : inRows n l.length l.flatten = l := by
  induction l with
  | nil => rfl
  | cons r l ih =>
    have hr : r.length = n := h r List.mem_cons_self
    rw [List.length_cons, inRows, List.flatten_cons, List.take_left' hr, List.drop_left' hr, ih fun x hx => h x (List.mem_cons_of_mem _ hx)]

theorem inRows_lengths {α : Type} {n m : Nat} {l : List α} (h : l.length = n * m) : (inRows n m l).length = m ∧ ∀ r ∈ inRows n m l, r.length = n := by
  induction m generalizing l with
  | zero => exact ⟨rfl, fun r hr => absurd hr List.not_mem_nil⟩
  | succ m ih =>
    rw [Nat.mul_succ] at h
    obtain ⟨hlen, hrows⟩ := ih (l := l.drop n) (by rw [List.length_drop, h, Nat.add_sub_cancel])
    refine ⟨by rw [inRows, List.length_cons, hlen], fun r hr => ?_⟩
    obtain rfl | hr := List.mem_cons.1 hr
    · rw [List.length_take, h, Nat.min_eq_left (Nat.le_add_left ..)]
    · exact hrows r hr

theorem length_padTo {α : Type} (d : α) (n : Nat) (l : List α) : (padTo d n l).length = n := by
  rw [padTo, List.length_append, List.length_take, List.length_replicate]
  omega

theorem padTo_of_length {α : Type} (d : α) {n : Nat} {l : List α} (h : l.length = n) : padTo d n l = l := by
  rw [padTo, h, Nat.sub_self, List.take_of_length_le (Nat.le_of_eq h), List.replicate_zero, List.append_nil]

theorem square_rows (x : Tile) : Square x.rows := inRows_lengths (length_padTo ..)

/-- Elements of a tile are 32 bits wide. -/
theorem rows_ofRows {l : List (List Nat)} (h : Square l) (x : Tile) (po : Bool) : (x.ofRows l po).rows = l.map fun r => r.map fun e => e % 2 ^ 32 := by
  obtain ⟨hlen, hrows⟩ := h
  have helems : ((x.ofRows l po).elems.map (·.toNat)) = (l.map fun r => r.map fun e => e % 2 ^ 32).flatten := by
    rw [Tile.ofRows, List.map_map, ← List.map_flatten]
    exact List.map_congr_left fun e _ => BitVec.toNat_ofNat e 32
  have hrows' : ∀ r ∈ l.map fun r => r.map fun e => e % 2 ^ 32, r.length = 128 := by
    intro r hr
    obtain ⟨y, hy, rfl⟩ := List.mem_map.1 hr
    rw [List.length_map, hrows y hy]
  have hall : (l.map fun r => r.map fun e => e % 2 ^ 32).flatten.length = 16384 := by
    rw [List.length_flatten, List.map_congr_left hrows', List.map_const', List.sum_replicate, List.length_map, hlen]
    rfl
  rw [Tile.rows, helems, padTo_of_length 0 hall]
  have hflat := inRows_flatten _ hrows'
  rwa [List.length_map, hlen] at hflat

theorem length_vec (s : State) (r : Nat) : (s.vec r).length = 128 := by rw [State.vec, State.lanes, List.length_map, List.length_range]

theorem square_fadeRows (f : Ieee) (g : Nat) {l : List (List Nat)} (h : Square l) : Square (fadeRows f g l) := by
  obtain ⟨hlen, hrows⟩ := h
  refine ⟨by rw [fadeRows, List.length_map, hlen], fun r hr => ?_⟩
  obtain ⟨y, hy, rfl⟩ := List.mem_map.1 hr
  rw [List.length_map, hrows y hy]

theorem square_rankOne (f : Ieee) {b k : List Nat} (hb : b.length = 128) (hk : k.length = 128) {l : List (List Nat)} (h : Square l) : Square (rankOne f b k l) := by
  obtain ⟨hlen, hrows⟩ := h
  refine ⟨by rw [rankOne, List.length_map, List.length_zip, hlen, hb, Nat.min_self], fun r hr => ?_⟩
  obtain ⟨⟨y, e⟩, hy, rfl⟩ := List.mem_map.1 hr
  rw [List.length_map, List.length_zip, hrows y (List.of_mem_zip hy).1, hk, Nat.min_self]

theorem square_deltaStep (f : Ieee) (beta : Nat) {k u : List Nat} (hk : k.length = 128) (hu : u.length = 128) {l : List (List Nat)} (h : Square l) :
    Square (deltaStep f beta l (k, u)) :=
  square_rankOne f (by rw [List.length_map, List.length_zip, h.1, hu, Nat.min_self]) hk h

theorem square_outerStep (f : Ieee) (eta : Nat) {k u : List Nat} (hk : k.length = 128) (hu : u.length = 128) {l : List (List Nat)} (h : Square l) :
    Square (outerStep f eta l (k, u)) :=
  square_rankOne f (by rw [List.length_map, hu]) hk h

/-! ## The word of a reference (R234, R235, R339) -/

theorem twSlab_lt (w : Word) : twSlab w < 64 := Nat.mod_lt _ (by decide)

/-- The word of a place of one of the 64 slabs names a resident tile. -/
theorem twKind_twResident {p : Nat} (h : p < 16384) : twKind (twResident p) = 1 := by
  have hlow : p / 256 * 2 ^ 40 + p % 2 * 2 ^ 39 + p / 2 % 128 * 2 ^ 32 < 2 ^ 62 := by omega
  rw [twKind, twResident, bits, w64, BitVec.toNat_ofNat, Nat.add_assoc, Nat.add_assoc, ← Nat.add_assoc (p / 256 * 2 ^ 40)]
  generalize p / 256 * 2 ^ 40 + p % 2 * 2 ^ 39 + p / 2 % 128 * 2 ^ 32 = n at hlow ⊢
  omega

theorem refLookup_ok {s : State} {k : Nat} {ref w : Word} (h : s.refLookup k ref = .ok w) :
    twKind w = 1 ∧ (s.handle (bits ref 23 0)).twr = towerOf k ∧ rdWord s.mem ((s.handle (bits ref 23 0)).tiles + 8 * bits ref 47 32) = w := by
  unfold State.refLookup at h
  dsimp only at h
  iterate 7 (split at h; · cases h)
  split at h
  · cases h
  next hres =>
  split at h
  · cases h
  next htwr =>
  obtain ⟨-, hkind⟩ := not_or.1 hres
  obtain ⟨htower, -⟩ := not_or.1 htwr
  rw [← Except.ok.inj h]
  exact ⟨not_not.1 hkind, not_not.1 htower, rfl⟩

theorem refLookup_of_fwdLookup {s : State} {ref w : Word} (h : s.fwdLookup ref = .ok w) : s.refLookup s.cur.core ref = .ok w := by
  have hwait {c : Prop} [Decidable c] {e : Stop} (hc : (if c then .error e else s.refLookup s.cur.core ref) = .ok w) : s.refLookup s.cur.core ref = .ok w := by
    split at hc
    · cases hc
    · exact hc
  unfold State.fwdLookup at h
  dsimp only at h
  split at h
  · exact hwait h
  · exact h
  · exact h
  · split at h
    · exact hwait h
    · exact h
  · exact h

/-! ## The tile as a reader finds it (R217, R371) -/

theorem readTile_cur (s : State) (t : Nat) (w : Word) : (s.readTile t w).1.cur = s.cur := by
  unfold State.readTile
  dsimp only
  split
  · rfl
  · split
    · exact ((KeepsTiles.refl s).towerErrs t _).cur
    · exact ((KeepsTiles.refl s).towerErrs t _).cur

/-- What a reader finds is what the tower then holds. -/
theorem tileOf_readTile (s : State) (t : Nat) (w : Word) : ((s.readTile t w).1.tower t).tileOf w = (s.readTile t w).2 := by
  unfold State.readTile
  dsimp only
  split
  · rfl
  · next hkind =>
    rw [not_not] at hkind
    have hkeep := ((KeepsTiles.refl s).towerErrs t (tileHas w ((s.tower t).tileOf w).wide)).tileOf t w
    generalize s.towerErrs t (tileHas w ((s.tower t).tileOf w).wide) = p at hkeep ⊢
    split
    · rw [tower_modTower_self, Tower.tileOf, if_pos hkind]
      exact mget_mput_self ..
    · next hbad => rw [hkeep, Bool.eq_false_of_not_eq_true hbad, Bool.or_false]

/-! ## The writer's own tile (R242, R340) -/

theorem trigger_cur (s : State) (l : List Nat) : (s.trigger l).cur = s.cur := by
  unfold State.trigger
  refine foldl_keeps (fun u : State => u.cur = s.cur) _ (fun u e hu => foldl_keeps (fun u : State => u.cur = s.cur) _ (fun u i hu => ?_) _ hu) _ rfl
  dsimp only
  repeat' split
  all_goals exact hu

theorem poke_cur (s : State) (a : Nat) (bs : List Byte) : (s.poke a bs).cur = s.cur := trigger_cur ..

theorem tilesOut_cur (s : State) (i : Nat) : (s.tilesOut i).cur = s.cur := by
  unfold State.tilesOut State.mapTileWords
  exact foldl_keeps (fun u : State => u.cur = s.cur) _ (fun u a hu => (poke_cur ..).trans hu) _ rfl

theorem charge_cur (s : State) (j t g n : Nat) : (s.charge j t g n).cur = s.cur := by
  unfold State.charge State.modJob
  split <;> rfl

theorem freeOf_mem {c p : Nat} {l : List Nat} (h : freeOf c l = some p) : p ∈ l := by
  cases l with
  | nil => cases h
  | cons a r =>
    obtain rfl := Option.some.inj h
    have hlt : Config.pick c (r.length + 1) % (r.length + 1) < (a :: r).length := Nat.mod_lt _ (Nat.succ_pos _)
    rw [List.getD_eq_getElem _ _ hlt]
    exact List.getElem_mem hlt

/-- A free place of a slab is one of its 128 slots of two halves. -/
theorem freePlace_lt {x : Tower} {c slab p : Nat} {fmt16 : Bool} (h : x.freePlace c fmt16 slab = some p) (hs : slab < 64) : p < 16384 := by
  have hp := freeOf_mem h
  rw [List.flatMap_singleton, Tower.freePlaces] at hp
  split at hp
  · obtain ⟨n, hn, rfl⟩ := List.mem_map.1 (List.mem_filter.1 hp).1
    have hlt := List.mem_range.1 hn
    omega
  · obtain ⟨n, hn, rfl⟩ := List.mem_map.1 (List.mem_filter.1 hp).1
    have hlt := List.mem_range.1 hn
    omega

theorem placeFor_some {s v : State} {i tile fuel wait n : Nat} {o : Option Nat} (h : s.placeFor i tile fuel wait = some (v, o, n)) :
    v.cur = s.cur ∧ ∀ p ∈ o, p < 16384 := by
  induction fuel generalizing s wait with
  | zero => cases h
  | succ fuel ih =>
    unfold State.placeFor at h
    dsimp only at h
    split at h
    · cases h
      exact ⟨rfl, fun p hp => by cases hp⟩
    · split at h
      · next p hp =>
        cases h
        refine ⟨rfl, fun q hq => ?_⟩
        cases hq
        exact freePlace_lt hp (twSlab_lt _)
      · split at h
        · cases h
        · split at h
          · cases h
          · obtain ⟨hcur, hlt⟩ := ih h
            exact ⟨hcur.trans ((charge_cur ..).trans (tilesOut_cur ..)), hlt⟩

/-- The writer's own tile is resident, as the shared one was. -/
theorem ownTile_some {s v : State} {i tile : Nat} {w : Word} (h : s.ownTile i tile = some (v, w))
    (hk : twKind (rdWord s.mem ((s.handle i).tiles + 8 * tile)) = 1) : v.cur = s.cur ∧ twKind w = 1 := by
  unfold State.ownTile at h
  dsimp only at h
  split at h
  · cases h
    exact ⟨rfl, hk⟩
  · split at h
    · cases h
    · next hplace =>
      cases h
      refine ⟨?_, hk⟩
      split
      · exact (placeFor_some hplace).1
      · exact (placeFor_some hplace).1
    · next hplace =>
      obtain ⟨hcur, hlt⟩ := placeFor_some hplace
      cases h
      exact ⟨(poke_cur ..).trans hcur, twKind_twResident (hlt _ rfl)⟩

theorem tileOf_putTile {w : Word} (h : twKind w = 1) (s : State) (t : Nat) (x : Tile) : ((s.putTile t w x).tower t).tileOf w = x := by
  rw [State.putTile, tower_modTower_self, Tower.tileOf, if_pos h]
  exact mget_mput_self ..

end Sys2Proof.Machine
end

section
/-! Proofs about FWD.READ, FWD.DELTA, FWD.OUTER and OPU (R235 to R242): the rows that each sends on their way, the tile that it leaves, and the freeze of one that
state instructions precede (log entries 27 and 97). -/

set_option Elab.async false -- as in the laws above: one proof at a time keeps the build within its memory

namespace Sys2Proof.Machine

/-! ## What a queued command leaves (R221) -/

theorem KeepsTiles.enqueue (s : State) (e : Nat) (kind : CmdKind) (tag : Nat) (reqs : List Request) : KeepsTiles s (s.enqueue e kind tag reqs) := by
  unfold State.enqueue
  dsimp only
  split
  · exact (((KeepsTiles.refl s).setUid _).modCore ..).modStrand ..
  · exact ((KeepsTiles.refl s).setUid _).modCore ..

theorem enqueue_pend (s : State) (e : Nat) (kind : CmdKind) (tag : Nat) (reqs : List Request) :
    ((s.enqueue e kind tag reqs).strand s.cur.core s.cur.strand).pend = (s.strand s.cur.core s.cur.strand).pend := by
  unfold State.enqueue
  dsimp only
  split
  · rw [strand_modStrand_self, Strand.issueTo, strand_modCore_self]
    rfl
  · rw [strand_modCore_self]
    rfl

/-! ## The end of an issue -/

theorem advance_towers (s : State) : s.advance.towers = s.towers := by
  unfold State.advance
  dsimp only
  split
  · rfl
  · split <;> rfl

theorem closeGroup_towers {s : State} (h : s.cur.sysw = []) (irr : Bool) : (s.closeGroup irr).towers = s.towers := by
  unfold State.closeGroup
  rw [h]
  dsimp only
  split <;> rfl

theorem popReads_towers (s : State) (k : Nat) (l : List Reg) : (s.popReads k l).towers = s.towers := by
  unfold State.popReads
  refine foldl_keeps (fun u : State => u.towers = s.towers) _ (fun u r hu => ?_) l rfl
  cases r with
  | x n =>
    dsimp only
    unfold State.popX
    split
    · exact hu
    · exact hu
  | _ => exact hu

/-- The end of an issue that notes nothing for it leaves the tiles, and what the strand waits for, as the effect left them. -/
theorem after_tower_pend {i : Instr} {s u : State} (h : u.cur = (s.opened i).cur) (t : Nat) :
    (s.after i u).tower t = u.tower t ∧
      ((s.after i u).strand s.cur.core s.cur.strand).pend = (u.strand s.cur.core s.cur.strand).pend := by
  have hkeeps : u.cur.core = s.cur.core ∧ u.cur.strand = s.cur.strand ∧ u.cur.give = false ∧ u.cur.sysw = [] := by
    rw [h]
    exact ⟨rfl, rfl, rfl, rfl⟩
  obtain ⟨hk, hj, hgive, hsysw⟩ := hkeeps
  constructor
  · have hcur : ((u.popReads s.cur.core (s.infoOf i).reads).advance).cur.sysw = [] := by rw [advance_cur, popReads_cur, hsysw]
    rw [State.tower, State.after, closeGroup_towers hcur, advance_towers, popReads_towers]
    rfl
  · obtain ⟨m, pc, hmoved⟩ := moved_eq (u.strand s.cur.core s.cur.strand) u.cur (u.spcAt s.cur.core)
    rw [after_strand hk hj hgive hsysw, hmoved]

/-! ## A form of FWD (R237 to R240, R243) -/

/-- What a form of FWD has read of its tile, through the shadow plane: the plane, and the row that each of c q rows from V[a] on gives. -/
def State.fwdPlane (r : State) (k : Nat) (f : Ieee) (w : Word) (tile : Tile) : Plane :=
  fillPlane (r.core k).shadow f r.me.ncols (128 * (r.slabsOf k).findIdx (· == twSlab w)) tile.rows tile.poison

def State.fwdOut (r : State) (k : Nat) (f : Ieee) (w : Word) (tile : Tile) (a c : Nat) : List (List Nat) :=
  ((List.range c).map fun n => r.vec (a + n)).map (readRow (r.fwdPlane k f w tile) r.me.ncols (128 * (r.slabsOf k).findIdx (· == twSlab w)))

/-- The rows that the steps of a form leave of these (R239, R240). -/
def State.fwdSteps (v : State) (form : Nat) (f : Ieee) (a c : Nat) (rows : List (List Nat)) : List (List Nat) :=
  (List.range c).foldl (fun acc n =>
    if form = 1 then deltaStep f ((v.vec (a + 3 * c)).getD n 0) acc (v.vec (a + n), v.vec (a + c + n))
    else outerStep f ((v.vec (a + 3 * c)).getD 65 0) acc (v.vec (a + n), v.vec (a + c + n))) (fadeRows f ((v.vec (a + 3 * c)).getD 64 0) rows)

theorem square_foldl {g : List (List Nat) → Nat → List (List Nat)} (hg : ∀ l n, Square l → Square (g l n)) (c : Nat) {l : List (List Nat)} (h : Square l) :
    Square ((List.range c).foldl g l) :=
  foldl_keeps Square g hg _ h

theorem square_fwdSteps (v : State) (form : Nat) (f : Ieee) (a c : Nat) {rows : List (List Nat)} (h : Square rows) : Square (v.fwdSteps form f a c rows) := by
  refine square_foldl (fun l n hl => ?_) c (square_fadeRows f _ h)
  split
  · exact square_deltaStep f _ (length_vec ..) (length_vec ..) hl
  · exact square_outerStep f _ (length_vec ..) (length_vec ..) hl

/-- The effect of a form after it has written its tile, if it writes: the state used and its banks touched, the output rows pending, the commands queued. -/
def State.sendFwd (s : State) (k i form d c : Nat) (os : List (List Nat)) (plane : Plane) (ref w : Word) (po : Bool) : State :=
  let outs := (List.range c).map fun n => Reg.v (d + n)
  let t := ((({ s with uid := s.uid + 1 } : State).useState (bits ref 23 0)).touchSlab (towerOf k) (twSlab w)).modStrand k i fun x => { x with
    pend := x.pend ++ [{ dests := outs, vals := os.map row128, due := none, tag := s.uid, poison := po }]
    vdest := outs ++ x.vdest.filter fun r => !outs.contains r }
  let u := t.enqueue 6 (.fwdRead ref plane c form (twSlab w)) s.uid
  (if form = 0 then u else u.enqueue 3 (.fwdWrite ref c form (twSlab w) none) s.uid).beginAll k

/-- Neither a tile nor the group changes in it, and the output rows are pending. -/
theorem sendFwd_leaves {s : State} {k i : Nat} (hk : s.cur.core = k) (hi : s.cur.strand = i) (form d c : Nat) (os : List (List Nat)) (plane : Plane) (ref w : Word)
    (po : Bool) :
    (s.sendFwd k i form d c os plane ref w po).cur = s.cur ∧
      (∀ t x, ((s.sendFwd k i form d c os plane ref w po).tower t).tileOf x = (s.tower t).tileOf x) ∧
      ∃ z ∈ ((s.sendFwd k i form d c os plane ref w po).strand k i).pend,
        z.dests = ((List.range c).map fun n => Reg.v (d + n)) ∧ z.vals = os.map row128 ∧ z.poison = po := by
  subst hk hi
  unfold State.sendFwd
  extract_lets outs t u
  have hu : KeepsTiles (({ s with uid := s.uid + 1 } : State).useState (bits ref 23 0)) u :=
    (((KeepsTiles.refl _).touchSlab ..).modStrand ..).trans (.enqueue ..)
  have hpend : (u.strand s.cur.core s.cur.strand).pend =
      (s.strand s.cur.core s.cur.strand).pend ++ [{ dests := outs, vals := os.map row128, due := none, tag := s.uid, poison := po }] := by
    refine (enqueue_pend t ..).trans ?_
    rw [show t.cur = s.cur from rfl, strand_modStrand_self]
    rfl
  have hqueued (y : State) (hy : y = if form = 0 then u else u.enqueue 3 (.fwdWrite ref c form (twSlab w) none) s.uid) :
      KeepsTiles (({ s with uid := s.uid + 1 } : State).useState (bits ref 23 0)) y ∧
        (y.strand s.cur.core s.cur.strand).pend = (u.strand s.cur.core s.cur.strand).pend := by
    rw [hy]
    split
    · exact ⟨hu, rfl⟩
    · refine ⟨hu.trans (.enqueue ..), ?_⟩
      have hkeep := enqueue_pend u 3 (.fwdWrite ref c form (twSlab w) none) s.uid []
      rwa [hu.cur] at hkeep
  obtain ⟨hkeep, hsame⟩ := hqueued _ rfl
  have hbegin := CommandsBegin.beginAll s.cur.core (if form = 0 then u else u.enqueue 3 (.fwdWrite ref c form (twSlab w) none) s.uid)
  have hall := hkeep.trans hbegin.toKeepsTiles
  refine ⟨hall.cur, fun t x => hall.tileOf t x, hbegin.exists_pend (p := { dests := outs, vals := os.map row128, due := none, tag := s.uid, poison := po }) ?_⟩
  rw [hsame, hpend]
  exact List.mem_append_right _ (List.mem_singleton_self _)


theorem zipIdx_map_range {α : Type} (g : Nat → α) (c : Nat) : ((List.range c).map g).zipIdx = (List.range c).map fun n => (g n, n) := by
  refine List.ext_getElem (by simp) fun n h h' => ?_
  simp

/-- The steps of a form, over its rows of k and v. -/
theorem fwdSteps_eq (v : State) (form : Nat) (f : Ieee) (a c : Nat) (rows : List (List Nat)) :
    (if form = 1 then
      ((((List.range c).map fun r => v.vec (a + r)).zip ((List.range c).map fun r => v.vec (a + c + r))).zipIdx.foldl
        (fun acc e => deltaStep f ((v.vec (a + 3 * c)).getD e.2 0) acc e.1) (fadeRows f ((v.vec (a + 3 * c)).getD 64 0) rows))
    else
      (((List.range c).map fun r => v.vec (a + r)).zip ((List.range c).map fun r => v.vec (a + c + r))).foldl
        (outerStep f ((v.vec (a + 3 * c)).getD 65 0)) (fadeRows f ((v.vec (a + 3 * c)).getD 64 0) rows)) = v.fwdSteps form f a c rows := by
  rw [List.zip_map', State.fwdSteps]
  split
  · rw [zipIdx_map_range, List.foldl_map]
  · rw [List.foldl_map]

/-- The effect of a form that finds its tile, and its own place for it where it writes. -/
theorem gopFwd_ok {o r v : State} {tile : Tile} {w w' : Word} {f : Ieee} {k j form b : Nat} (hk : o.cur.core = k) (hj : o.cur.strand = j)
    (hf : tileIeee (o.handle (bits (o.xOp b) 23 0)).fmt16 = f) (hlook : o.fwdLookup (o.xOp b) = .ok w) (hread : o.readTile (towerOf k) w = (r, tile))
    (hroom : form ≠ 0 → (o.core k).engineFull 3 = false)
    (hown : (if form = 0 then some (r, w) else r.ownTile (bits (o.xOp b) 23 0) (bits (o.xOp b) 47 32)) = some (v, w')) (g d a c : Nat) (s : State) :
    (gopFwd form g d a b c s).op o =
      .ok ((if form = 0 then v else v.putTile (towerOf k) w' (tile.ofRows (v.fwdSteps form f a c tile.rows) false)).sendFwd k j form d c
        (r.fwdOut k f w tile (a + if form = 0 then 0 else 2 * c) c) (r.fwdPlane k f w tile) (o.xOp b) w tile.poison) := by
  subst hk hj hf
  have hno : ¬ (form ≠ 0 ∧ (o.core o.cur.core).engineFull 3 = true) := fun h => Bool.false_ne_true ((hroom h.1).symm.trans h.2)
  simp only [gopFwd, show o.readX o.cur.core o.cur.strand b = o.xOp b from rfl, hlook]
  rw [if_neg hno, hread]
  dsimp only
  rw [hown]
  dsimp only
  rw [fwdSteps_eq]
  rfl


namespace KeepsMoves

theorem readTile {s u : State} (h : KeepsMoves s u) (t : Nat) (w : Word) : KeepsMoves s (u.readTile t w).1 := by
  have herrs (f : SramErr → Bool) : KeepsMoves s (u.towerErrs t f).1 := h.trans ((KeepsTiles.refl u).towerErrs t f).toKeepsMoves
  unfold State.readTile
  dsimp only
  split
  · exact h
  · split
    · exact modTower (f := fun y => { y with slots := mput y.slots (twKey w) _ }) (herrs _) t
    · exact herrs _

end KeepsMoves

/-- The tile that a form is to write is resident, and its group is the opened one. -/
theorem ownTile_of_lookup {o v : State} {ref w w' : Word} (hlook : o.fwdLookup ref = .ok w)
    (hown : (o.readTile (towerOf o.cur.core) w).1.ownTile (bits ref 23 0) (bits ref 47 32) = some (v, w')) : v.cur = o.cur ∧ twKind w' = 1 := by
  obtain ⟨hkind, -, hword⟩ := refLookup_ok (refLookup_of_fwdLookup hlook)
  obtain ⟨hcur, hkind'⟩ := ownTile_some hown (by rw [readTile_mem, State.handle, ((KeepsMoves.refl o).readTile ..).handles, ← State.handle, hword, hkind])
  exact ⟨hcur.trans (readTile_cur ..), hkind'⟩

theorem opened_cur_strand (s : State) (i : Instr) : (s.opened i).cur.strand = s.cur.strand := rfl

/-- What an issue that notes nothing for its end leaves of towers and of what its strand waits for. -/
theorem ends_of_effect {i : Instr} {s x : State} {p : State → Prop} (h : exec i s = .next (s.after i x)) (hcur : x.cur = (s.opened i).cur)
    (hp : ∀ u : State, (∀ t, u.tower t = x.tower t) → (u.strand s.cur.core s.cur.strand).pend = (x.strand s.cur.core s.cur.strand).pend → p u) : Ends i s p :=
  ⟨_, h, hp _ (fun t => (after_tower_pend hcur t).1) (after_tower_pend hcur 0).2⟩

theorem fwdOut_rows (r : State) (k : Nat) (f : Ieee) (w : Word) (tile : Tile) (a c : Nat) : (r.fwdOut k f w tile a c).map row128 =
    (List.range c).map fun n => row128 (readRow (r.fwdPlane k f w tile) r.me.ncols (128 * (r.slabsOf k).findIdx (· == twSlab w)) (r.vec (a + n))) := by
  rw [State.fwdOut, List.map_map, List.map_map]
  rfl

/-- What the issue of a form leaves: the tile that it read, or the steps of its writes in its own, and its output rows pending. -/
theorem fwd_ends {i : Instr} {s v : State} {w w' : Word} {form first g d a b c : Nat} (hfirst : (if form = 0 then 0 else 2 * c) = first)
    (hg : gopOf i s = some (gopFwd form g d a b c s)) (hready : s.ready i = true)
    (hlook : (s.opened i).fwdLookup ((s.opened i).xOp b) = .ok w) (hroom : form ≠ 0 → ((s.opened i).core s.cur.core).engineFull 3 = false)
    (hown : (if form = 0 then some (((s.opened i).readTile (towerOf s.cur.core) w).1, w)
      else ((s.opened i).readTile (towerOf s.cur.core) w).1.ownTile (bits ((s.opened i).xOp b) 23 0) (bits ((s.opened i).xOp b) 47 32)) = some (v, w')) :
    let o := s.opened i
    let r := (o.readTile (towerOf s.cur.core) w).1
    let tile := (o.readTile (towerOf s.cur.core) w).2
    let f := tileIeee (o.handle (bits (o.xOp b) 23 0)).fmt16
    Ends i s fun u =>
      (form = 0 → (u.tower (towerOf s.cur.core)).tileOf w = tile) ∧
      (form ≠ 0 → ((u.tower (towerOf s.cur.core)).tileOf w').rows = (v.fwdSteps form f a c tile.rows).map fun l => l.map fun e => e % 2 ^ 32) ∧
      ∃ z ∈ (u.strand s.cur.core s.cur.strand).pend, z.dests = ((List.range c).map fun n => Reg.v (d + n)) ∧
        z.vals = (List.range c).map (fun n => row128 (readRow (r.fwdPlane s.cur.core f w tile) r.me.ncols (128 * (r.slabsOf s.cur.core).findIdx (· == twSlab w))
          (r.vec (a + first + n)))) ∧ z.poison = tile.poison := by
  subst hfirst
  intro o r tile f
  have hok := gopFwd_ok (o := o) (r := r) (tile := tile) (f := f) (k := s.cur.core) (j := s.cur.strand) rfl rfl rfl hlook rfl hroom hown g d a c s
  have hwrite : (if form = 0 then v else v.putTile (towerOf s.cur.core) w' (tile.ofRows (v.fwdSteps form f a c tile.rows) false)).cur = o.cur ∧
      (form = 0 → v = r) ∧ (form ≠ 0 → twKind w' = 1) := by
    by_cases hform : form = 0
    · rw [if_pos hform] at hown ⊢
      cases hown
      exact ⟨readTile_cur .., fun _ => rfl, fun h => absurd hform h⟩
    · rw [if_neg hform] at hown ⊢
      obtain ⟨hcur, hkind⟩ := ownTile_of_lookup hlook hown
      exact ⟨hcur, fun h => absurd h hform, fun _ => hkind⟩
  obtain ⟨hcur, hread, hkind⟩ := hwrite
  have hcore := (congrArg GroupCtx.core hcur).trans (opened_cur_core s i)
  have hstrand := (congrArg GroupCtx.strand hcur).trans (opened_cur_strand s i)
  obtain ⟨hsent, htiles, hpend⟩ := sendFwd_leaves hcore hstrand form d c
    (r.fwdOut s.cur.core f w tile (a + if form = 0 then 0 else 2 * c) c) (r.fwdPlane s.cur.core f w tile) (o.xOp b) w tile.poison
  refine ends_of_effect (exec_ready hg hready hok) (hsent.trans hcur) fun u htower hwaits => ⟨fun hform => ?_, fun hform => ?_, ?_⟩
  · rw [htower, htiles, if_pos hform, hread hform]
    exact tileOf_readTile ..
  · rw [htower, htiles, if_neg hform, tileOf_putTile (hkind hform)]
    exact rows_ofRows (square_fwdSteps v form f a c (square_rows tile)) ..
  · rw [fwdOut_rows] at hpend
    rw [hwaits]
    exact hpend

/-! ## OPU (R241) -/

/-- The rows that the updates of an OPU leave of these. -/
def State.opuSteps (r : State) (f : Ieee) (a b c : Nat) (rows : List (List Nat)) : List (List Nat) :=
  (List.range c).foldl (fun acc n => rankOne f (r.vec (a + n)) (r.vec (b + n)) acc) rows

theorem square_opuSteps (r : State) (f : Ieee) (a b c : Nat) {rows : List (List Nat)} (h : Square rows) : Square (r.opuSteps f a b c rows) :=
  square_foldl (fun _ _ hl => square_rankOne f (length_vec ..) (length_vec ..) hl) c h

/-- The effect of an OPU after it has written its tile. -/
def State.sendOpu (s : State) (k c : Nat) (ref w : Word) : State :=
  (((s.useState (bits ref 23 0)).touchSlab (towerOf k) (twSlab w)).enqueue 3 (.opu ref c (twSlab w))).beginAll k

theorem sendOpu_leaves (s : State) (k c : Nat) (ref w : Word) :
    (s.sendOpu k c ref w).cur = s.cur ∧ ∀ t x, ((s.sendOpu k c ref w).tower t).tileOf x = (s.tower t).tileOf x := by
  have hkeep : KeepsTiles (s.useState (bits ref 23 0)) (s.sendOpu k c ref w) :=
    (((KeepsTiles.refl _).touchSlab ..).trans (.enqueue ..)).trans (CommandsBegin.beginAll ..).toKeepsTiles
  exact ⟨hkeep.cur, hkeep.tileOf⟩

/-- The effect of an OPU that finds its tile, and its own place for it. -/
theorem gopOpu_ok {o v r : State} {tile : Tile} {k d : Nat} {w w' : Word} {f : Ieee} (hk : o.cur.core = k)
    (hf : tileIeee (r.handle (bits (o.xOp d) 23 0)).fmt16 = f) (hlook : o.fwdLookup (o.xOp d) = .ok w)
    (hroom : (o.core k).engineFull 3 = false) (hown : o.ownTile (bits (o.xOp d) 23 0) (bits (o.xOp d) 47 32) = some (v, w'))
    (hread : v.readTile (towerOf k) w' = (r, tile)) (g a b c : Nat) (s : State) :
    (gopOpu g d a b c s).op o = .ok ((r.putTile (towerOf k) w'
      (tile.ofRows (r.opuSteps f a b c tile.rows) false)).sendOpu k c (o.xOp d) w') := by
  subst hk hf
  simp only [gopOpu, show o.readX o.cur.core o.cur.strand d = o.xOp d from rfl, hlook, hroom, hown, hread, Bool.false_eq_true, if_false]
  rfl

theorem opu_ends {i : Instr} {s v : State} {w w' : Word} {g d a b c : Nat} (hg : gopOf i s = some (gopOpu g d a b c s)) (hready : s.ready i = true)
    (hlook : (s.opened i).fwdLookup ((s.opened i).xOp d) = .ok w) (hroom : ((s.opened i).core s.cur.core).engineFull 3 = false)
    (hown : (s.opened i).ownTile (bits ((s.opened i).xOp d) 23 0) (bits ((s.opened i).xOp d) 47 32) = some (v, w')) :
    let r := (v.readTile (towerOf s.cur.core) w').1
    let f := tileIeee (r.handle (bits ((s.opened i).xOp d) 23 0)).fmt16
    Ends i s fun u => ((u.tower (towerOf s.cur.core)).tileOf w').rows =
      (r.opuSteps f a b c (v.readTile (towerOf s.cur.core) w').2.rows).map fun l => l.map fun e => e % 2 ^ 32 := by
  intro r f
  obtain ⟨hkind, -, hword⟩ := refLookup_ok (refLookup_of_fwdLookup hlook)
  obtain ⟨hcur, hkind'⟩ := ownTile_some hown (by rw [hword, hkind])
  obtain ⟨hsent, htiles⟩ := sendOpu_leaves (r.putTile (towerOf s.cur.core) w' ((v.readTile (towerOf s.cur.core) w').2.ofRows
    (r.opuSteps f a b c (v.readTile (towerOf s.cur.core) w').2.rows) false)) s.cur.core c ((s.opened i).xOp d) w'
  have hok := gopOpu_ok (o := s.opened i) (f := f) (opened_cur_core s i) rfl hlook hroom hown (Prod.eta (v.readTile (towerOf s.cur.core) w')).symm g a b c s
  refine ends_of_effect (exec_ready hg hready hok) (hsent.trans ((readTile_cur ..).trans hcur)) fun u htower _ => ?_
  rw [htower, htiles, tileOf_putTile hkind']
  exact rows_ofRows (square_opuSteps r f a b c (square_rows _)) ..

/-! ## Lookups that wait (R242, R342) -/

/-- A reference that accepted state instructions are to precede freezes the core until they are performed (R242). -/
theorem fwd_freezes {i : Instr} {s : State} {w : Word} {form g d a b c : Nat} (hg : gopOf i s = some (gopFwd form g d a b c s)) (hready : s.ready i = true)
    (hlook : (s.opened i).refLookup s.cur.core ((s.opened i).xOp b) = .ok w)
    (hahead : (s.opened i).statesAhead (towerOf s.cur.core) (bits ((s.opened i).xOp b) 23 0) = true) : Ends i s fun u =>
      ∃ z, (u.core s.cur.core).frozen = some z ∧ z.needs = [.states (bits ((s.opened i).xOp b) 23 0)] := by
  have hstop : (s.opened i).fwdLookup ((s.opened i).xOp b) = .error (.freeze [.states (bits ((s.opened i).xOp b) 23 0)]) := by
    simp only [State.fwdLookup, opened_cur_core, hlook, hahead, if_true]
  have hop : (gopFwd form g d a b c s).op (s.opened i) = .error (.freeze [.states (bits ((s.opened i).xOp b) 23 0)]) := by
    simp only [gopFwd, show (s.opened i).readX (s.opened i).cur.core (s.opened i).cur.strand b = (s.opened i).xOp b from rfl, hstop]
  refine ⟨_, (exec_ready_error hg hready hop).trans (congrArg _ (if_pos rfl)),
    { needs := [.states (bits ((s.opened i).xOp b) 23 0)], due := s.now + Config.extra s.freeCtr, since := s.now }, ?_, rfl⟩
  rw [State.freezeOn, core_spend, core_modCore_self]
  rfl

/-- A place of its own, with room in engine 3, is both. -/
theorem own_some {c : Bool} {p : Option (State × Word)} {q : State × Word} (h : (if c = true then none else p) = some q) : c = false ∧ p = some q := by
  cases c
  · exact ⟨rfl, h⟩
  · cases h

/-- Settles O34: each form by what it reads and the steps that it writes, OPU by its updates, and the freeze by the lookup. -/
theorem fastWeights : Obligations.FastWeights := by
  unfold Obligations.FastWeights
  intro g d a b c s v w w' k t form own fwd after faded
  refine ⟨fun hready hlook hplace => ?_, fun hready hlook hplace => ?_, fun hready hlook hplace => ?_, fun hready hlook hplace => ?_,
    fun hready hlook hahead => fwd_freezes rfl hready hlook hahead⟩
  · obtain ⟨u, hu, hread, -, hpend⟩ := fwd_ends (form := 0) (g := g) (d := d) (a := a) (c := c) rfl rfl hready hlook (fun h => absurd rfl h) hplace
    exact ⟨u, hu, hread rfl, hpend⟩
  · obtain ⟨hroom, hown⟩ := own_some hplace
    obtain ⟨u, hu, -, hrows, hpend⟩ := fwd_ends (form := 1) (g := g) (d := d) (a := a) (c := c) rfl rfl hready hlook (fun _ => hroom) hown
    exact ⟨u, hu, hrows (by decide), hpend⟩
  · obtain ⟨hroom, hown⟩ := own_some hplace
    obtain ⟨u, hu, -, hrows, hpend⟩ := fwd_ends (form := 2) (g := g) (d := d) (a := a) (c := c) rfl rfl hready hlook (fun _ => hroom) hown
    exact ⟨u, hu, hrows (by decide), hpend⟩
  · obtain ⟨hroom, hown⟩ := own_some hplace
    exact opu_ends rfl hready hlook hroom hown

end Sys2Proof.Machine
end

section
/-! Proofs about the shade context, the pager and moves of states (R236, R317, R318, R347, R366, R367): what the end of each finds and leaves. -/

set_option Elab.async false -- as in the laws above: one proof at a time keeps the build within its memory

namespace Sys2Proof.Machine

/-! ## The shade context (R366, R367) -/

/-- The state in which the shade context looks for lost data: its store read, and every table that a need walks. -/
def State.shadeWalked (s : State) (k : Nat) (z : Freeze) : State :=
  z.needs.foldl (fun w n => w.walkFetch k n) (s.coreErrs k fun e => decide (e.sram = .shade)).1

/-- A service that is due, by what it finds. -/
theorem shadeMissService_due {t f : Nat} {s : State} {z : Freeze} (hz : (s.core (16 * t + f)).frozen = some z) (hdue : z.due ≤ s.now)
    (hfrozen : s.frozenNow (16 * t + f) = true) :
    let k := 16 * t + f
    let w := s.shadeWalked k z
    let u := z.needs.foldl (fun u n => u.serveNeed k n) w
    exec (.shadeMissService t f) s =
      if ((s.coreErrs k fun e => decide (e.sram = .shade)).2 || w.walkPoisoned k z.needs) = true then
        .next ((w.modCore k fun c => { c with frozen := none }).failAt k (w.frozenStrand k) 3)
      else if z.needs.all (fun n => u.needMet k n) = true then .next (u.modCore k fun c => { c with frozen := none }) else .next u := by
  have hnow : ¬ (s.now < z.due ∨ (!s.frozenNow (16 * t + f)) = true) := by simp [hdue, hfrozen]
  simp only [exec, execShadeMissService, hz]
  exact if_neg hnow

/-! ## Hints (R317) -/

/-- The pager takes the first hint where it can serve it. -/
theorem serveHints_head {t : Nat} {s u : State} {hint : Nat × Nat} {r : List (Nat × Nat)} (hhints : (s.tower t).hints = hint :: r)
    (hserve : s.serveHint t hint = some u) : s.serveHints t = some u := by
  simp [State.serveHints, hhints, List.zipIdx_cons, pick1, hserve]

/-- A keep or release hint on a state of the tower is carried out at once. -/
theorem serveHint_keep {t i c : Nat} {s : State} (hv : (s.handle i).v = true) (htower : (s.handle i).twr = t) (hres : (s.handle i).res ≠ 3) (hc : c = 2 ∨ c = 3) :
    s.serveHint t (i, c) = some ((s.modTower t fun x => { x with hints := x.hints.erase (i, c) }).modHandle i fun h => { h with keep := decide (c = 2) }) := by
  have hlive : ¬ ((!(s.handle i).v) = true ∨ (s.handle i).twr ≠ t ∨ (s.handle i).res = 3) := by simp [hv, htower, hres]
  unfold State.serveHint
  dsimp only
  rw [if_neg hlive]
  rcases hc with rfl | rfl <;> rfl

theorem handle_modHandle_self (s : State) (i : Nat) (g : HEntry → HEntry) : (s.modHandle i g).handle i = g (s.handle i) := mget_mput_self ..

theorem serveFault_of_faults_nil {s : State} {t : Nat} (h : (s.tower t).faults = []) : s.serveFault t = none := by
  rw [State.serveFault, h]
  rfl

/-! ## The pager's service (R318) -/

theorem pagerServe_of_fault {t : Nat} {s u : State} (h : s.serveFault t = some u) : exec (.pagerServe t) s = .next u := by
  simp only [exec, execPagerServe, h]

theorem pagerServe_of_hint {t : Nat} {s u : State} (h : s.serveFault t = none) (hh : s.serveHints t = some u) : exec (.pagerServe t) s = .next u := by
  simp only [exec, execPagerServe, h, hh]

theorem pagerServe_of_none {t : Nat} {s : State} (h : s.serveFault t = none) (hh : s.serveHints t = none) : exec (.pagerServe t) s = .next s.spend := by
  simp only [exec, execPagerServe, h, hh]

theorem pagerServe_keep {t i c : Nat} {r : List (Nat × Nat)} {s : State} (hfaults : (s.tower t).faults = []) (hhints : (s.tower t).hints = (i, c) :: r)
    (hv : (s.handle i).v = true) (htower : (s.handle i).twr = t) (hres : (s.handle i).res ≠ 3) (hc : c = 2 ∨ c = 3) :
    Ends (.pagerServe t) s fun u => (u.handle i).keep = decide (c = 2) ∧ (u.tower t).hints = r ∧ u.mem = s.mem ∧ u.cores = s.cores := by
  refine ⟨_, pagerServe_of_hint (serveFault_of_faults_nil hfaults) (serveHints_head hhints (serveHint_keep hv htower hres hc)), ?_, ?_, rfl, rfl⟩
  · rw [handle_modHandle_self]
  · have hrest : ((s.modTower t fun x => { x with hints := x.hints.erase (i, c) }).tower t).hints = r := by
      rw [tower_modTower_self, hhints]
      exact List.erase_cons_head ..
    exact hrest

/-! ## What the pager's moves of tiles leave (R340) -/

namespace KeepsMoves

variable {s u : State}

theorem trigger (h : KeepsMoves s u) (l : List Nat) : KeepsMoves s (u.trigger l) := by
  have hhandles : (u.trigger l).handles = u.handles := by
    unfold State.trigger
    refine foldl_keeps (fun v : State => v.handles = u.handles) _ (fun v e hv => foldl_keeps (fun v : State => v.handles = u.handles) _ (fun v i hv => ?_) _ hv) _ rfl
    dsimp only
    repeat' split
    all_goals exact hv
  exact h.step (trigger_towers ..) hhandles

theorem poke (h : KeepsMoves s u) (a : Nat) (bs : List Byte) : KeepsMoves s (u.poke a bs) :=
  (h.step (v := ({ u with mem := _, past := _ } : State).cleanSectors _)).trigger _

theorem mapTileWords (h : KeepsMoves s u) (e : HEntry) (g : Word → Word) : KeepsMoves s (u.mapTileWords e g) := by
  unfold State.mapTileWords
  exact h.foldl (fun _ _ hv => hv.poke ..) _

end KeepsMoves

/-- Of a tower, the pager's moves and the accepted state instructions are as they were. -/
def Tower.SameMoves (x y : Tower) : Prop := y.moves = x.moves ∧ y.stateq = x.stateq

namespace Tower.SameMoves

variable {x y : Tower}

theorem setSlots (h : x.SameMoves y) (l : Map Tile) : x.SameMoves { y with slots := l } := h

theorem setFrames (h : x.SameMoves y) (l : Map Tile) : x.SameMoves { y with frames := l } := h

theorem addRef (h : x.SameMoves y) (w : Word) : x.SameMoves (y.addRef w) := by
  unfold Tower.addRef
  split
  · exact h
  · split <;> exact h

theorem dropFrame (h : x.SameMoves y) (n : Nat) : x.SameMoves (y.dropFrame n) := by
  unfold Tower.dropFrame
  split <;> exact h

theorem dropPlace (h : x.SameMoves y) (n : Nat) : x.SameMoves (y.dropPlace n) := by
  unfold Tower.dropPlace
  split <;> exact h

end Tower.SameMoves

namespace KeepsMoves

variable {s u : State}

theorem modTower_same (h : KeepsMoves s u) (t : Nat) {g : Tower → Tower} (hg : ∀ x : Tower, x.SameMoves (g x)) : KeepsMoves s (u.modTower t g) :=
  h.modTower t (fun x => (hg x).1) fun x => (hg x).2

theorem readState (h : KeepsMoves s u) (i : Nat) : KeepsMoves s (u.readState i) := by
  unfold State.readState
  exact h.foldl (fun _ w hv => hv.readTile _ w) _

theorem tilesOut (h : KeepsMoves s u) (i : Nat) : KeepsMoves s (u.tilesOut i) := by
  unfold State.tilesOut
  refine (h.mapTileWords _ _).modTower_same _ fun x => ?_
  refine foldl_keeps x.SameMoves _ (fun y w hy => ?_) _ (foldl_keeps x.SameMoves _ (fun y m hy => hy.setFrames _) _ ⟨rfl, rfl⟩)
  split
  · exact (hy.dropPlace _).addRef _
  · exact hy

theorem tilesIn (h : KeepsMoves s u) (i tile : Nat) (places : List Nat) : KeepsMoves s (u.tilesIn i tile places) := by
  unfold State.tilesIn
  refine foldl_keeps (fun acc : State × List Nat × List (Nat × Nat) => KeepsMoves s acc.1) _ (fun acc pos hacc => ?_) _ h
  obtain ⟨v, ps, done⟩ := acc
  dsimp only
  split
  · split
    · exact (hacc.modTower_same _ fun x => (Tower.SameMoves.addRef ⟨rfl, rfl⟩ _).dropFrame _).poke ..
    · split
      · exact hacc
      · exact (hacc.modTower_same _ fun x => ((Tower.SameMoves.setSlots ⟨rfl, rfl⟩ _).addRef _).dropFrame _).poke ..
  · split
    · split
      · exact hacc
      · exact (hacc.modTower_same _ fun x => (Tower.SameMoves.setSlots ⟨rfl, rfl⟩ _).addRef _).poke ..
    · exact hacc

end KeepsMoves


/-! ## The end of a move between pager memory and state SRAM (R318) -/

theorem endMove_moves (s : State) (t i : Nat) : ((s.endMove t i).tower t).moves = (s.tower t).moves.filter fun n => n.handle != i := by
  rw [State.endMove, tower_modTower_self]

theorem endMove_stateq (s : State) (t i n : Nat) : ((s.endMove t i).tower n).stateq = (s.tower n).stateq :=
  tower_modTower_keeps Tower.stateq s t (f := fun x => { x with moves := x.moves.filter fun m => m.handle != i }) (fun _ => rfl) n

theorem endMove_modHandle (s : State) (t i : Nat) (g : HEntry → HEntry) : (s.modHandle i g).endMove t i = (s.endMove t i).modHandle i g := rfl

theorem KeepsMoves.endMove {s u : State} (h : KeepsMoves s u) (t i : Nat) : KeepsMoves (s.endMove t i) (u.endMove t i) := by
  refine ⟨fun n => ?_, fun n => by rw [endMove_stateq, endMove_stateq, h.stateq], h.handles⟩
  by_cases hn : n = t
  · subst hn
    rw [endMove_moves, endMove_moves, h.moves]
  · have hother (v : State) : (v.endMove t i).tower n = v.tower n := by simp [State.endMove, State.tower, mget_mput_ne _ _ _ hn]
    rw [hother, hother, h.moves]

/-- The end of a move of state i, no state instruction accepted: the move is gone, and its handle as the pager set it. -/
theorem move_ended {s v u : State} {t i : Nat} {g : HEntry → HEntry} (hq : (s.tower t).stateq = []) (hv : KeepsMoves (s.endMove t i) v)
    (hu : KeepsMoves (v.modHandle i g) u) :
    ((u.serveStates t).tower t).moves = ((s.tower t).moves.filter fun n => n.handle != i) ∧ (u.serveStates t).handle i = g (s.handle i) := by
  rw [serveStates_of_stateq_nil ((hu.stateq t).trans ((hv.stateq t).trans ((endMove_stateq s t i t).trans hq)))]
  refine ⟨(hu.moves t).trans ((hv.moves t).trans (endMove_moves s t i)), ?_⟩
  rw [State.handle, hu.handles, ← State.handle, handle_modHandle_self, State.handle, hv.handles]
  rfl

/-- A state's move in is over, and no strand's fault waits for it. -/
def State.endIn (s : State) (t i : Nat) : State := (s.endMove t i).modTower t fun x => { x with faults := x.faults.filter fun e => e.1 != i }

/-- A single wrong bit that the pager meets is counted, and nothing else (R217). -/
theorem pageIn_errors (o : State) (t : Nat) : KeepsMoves o (if Config.pagerError o.freeCtr = 1 then o.bumpErr t 0 else o) ∧
    (if Config.pagerError o.freeCtr = 1 then o.bumpErr t 0 else o).now = o.now := by
  split
  · exact ⟨((KeepsTiles.refl o).bumpErr t 0).toKeepsMoves, bumpErr_now ..⟩
  · exact ⟨.refl o, rfl⟩

section PageIn

variable {t : Nat} {s : State} {m : PagerMove}

/-- A move in that ends, by what the pager meets. -/
theorem pageInComplete_lost (hm : (s.tower t).moveDone true = some m) (herr : Config.pagerError s.freeCtr = 2) : exec (.pageInComplete t) s =
    .next ((((s.endIn t m.handle).modHandle m.handle fun h => { h with res := 1, inward := false, lost := true }).wakeAbsent m.handle).serveStates t).spend := by
  simp only [exec, execPageInComplete, hm]
  exact if_pos herr

/-- The state once the tiles of state i stand in state SRAM, in the given places: what the pager met is counted, the banks are touched, the strands that waited
are ready. -/
def State.broughtIn (o : State) (t i : Nat) (ps : List Nat) : State :=
  let e := if Config.pagerError o.freeCtr = 1 then o.bumpErr t 0 else o
  let v := (({ e with freeCtr := e.freeCtr + ps.length } : State).tilesIn i 0 ps).modHandle i fun h => { h with res := 0, inward := false, used := e.now }
  ((((ps.map (· / 256)).eraseDups.foldl (fun v b => v.touchSlab t b) v).bump t 0x103).wakeAbsent i)

theorem broughtIn_ends {i : Nat} {o : State} (hq : (s.tower t).stateq = []) (ho : KeepsMoves (s.endMove t i) o) (ps : List Nat) :
    let u := (o.broughtIn t i ps).serveStates t
    (u.tower t).moves = ((s.tower t).moves.filter fun n => n.handle != i) ∧ u.handle i = { s.handle i with res := 0, inward := false, used := o.now } := by
  obtain ⟨herrs, hnow⟩ := pageIn_errors o t
  rw [← hnow]
  exact move_ended hq ((ho.trans herrs).step.tilesIn i 0 ps) ((((KeepsTiles.refl _).touchSlabs t _).bump t 0x103).wakeAbsent i).toKeepsMoves

theorem pageInComplete_resident {ps : List Nat} (hm : (s.tower t).moveDone true = some m) (hfaults : (s.tower t).faults = [])
    (herr : Config.pagerError s.freeCtr ≠ 2) :
    let o := s.endIn t m.handle
    o.roomFor (s.handle m.handle) [] ((o.framesOf (s.handle m.handle)).length + o.zeroCount (s.handle m.handle)) = some ps →
    o.slabsReady t ((ps.map (· / 256)).eraseDups) = true →
    exec (.pageInComplete t) s = .next ((o.broughtIn t m.handle ps).serveStates t).spend := by
  intro o hroom hready
  simp only [exec, execPageInComplete, hm, hfaults, List.find?_nil]
  refine (if_neg herr).trans ?_
  simp only [o, State.endIn] at hroom
  rw [hroom]
  have hawake : ¬ (!o.slabsReady t ((ps.map (· / 256)).eraseDups)) = true := by rw [hready]; decide
  exact if_neg hawake

/-- R318: a state that came in is resident, or absent for good. -/
theorem pageIn_ends (hm : (s.tower t).moveDone true = some m) (hfaults : (s.tower t).faults = []) (hq : (s.tower t).stateq = []) :
    let o := s.endIn t m.handle
    let room := o.roomFor (s.handle m.handle) [] ((o.framesOf (s.handle m.handle)).length + o.zeroCount (s.handle m.handle))
    (Config.pagerError s.freeCtr = 2 → Ends (.pageInComplete t) s fun u =>
      (u.tower t).moves = (s.tower t).moves.filter (fun n => n.handle != m.handle) ∧ (u.handle m.handle).res = 1 ∧ (u.handle m.handle).lost = true) ∧
    (Config.pagerError s.freeCtr ≠ 2 → (∀ ps, room = some ps → o.slabsReady t ((ps.map (· / 256)).eraseDups) = true) → room.isSome = true →
      Ends (.pageInComplete t) s fun u => (u.tower t).moves = (s.tower t).moves.filter (fun n => n.handle != m.handle) ∧
        (u.handle m.handle).res = 0 ∧ (u.handle m.handle).used = s.now) := by
  intro o room
  have hin : KeepsMoves (s.endMove t m.handle) o := (KeepsMoves.refl _).modTower t
  refine ⟨fun herr => ⟨_, pageInComplete_lost hm herr, ?_⟩, fun herr hready hroom => ?_⟩
  · obtain ⟨hmoves, hhandle⟩ := move_ended hq hin ((KeepsTiles.refl _).wakeAbsent m.handle).toKeepsMoves
    exact ⟨hmoves, (congrArg HEntry.res hhandle).trans rfl, (congrArg HEntry.lost hhandle).trans rfl⟩
  · obtain ⟨ps, hps⟩ := Option.isSome_iff_exists.1 hroom
    obtain ⟨hmoves, hhandle⟩ := broughtIn_ends hq hin ps
    exact ⟨_, pageInComplete_resident hm hfaults herr hps (hready ps hps), hmoves, (congrArg HEntry.res hhandle).trans rfl, (congrArg HEntry.used hhandle).trans rfl⟩

end PageIn

/-- The tiles of state i read and written into frames. -/
def State.sentOut (s : State) (i : Nat) : State := ((s.touchState i).readState i).tilesOut i

theorem sentOut_keeps (s : State) (i : Nat) : KeepsMoves s (s.sentOut i) := (((KeepsTiles.refl s).touchState i).toKeepsMoves.readState i).tilesOut i

section PageOut

variable {t : Nat} {s : State} {m : PagerMove}

theorem pageOutComplete_absent (hm : (s.tower t).moveDone false = some m) (hawake : (s.touchState m.handle).stateAwake m.handle = true) :
    exec (.pageOutComplete t) s =
      .next (((((s.sentOut m.handle).modHandle m.handle fun h => { h with res := 1 }).endMove t m.handle).bump t 0x104).serveStates t) := by
  have hasleep : ¬ (!(s.touchState m.handle).stateAwake m.handle) = true := by rw [hawake]; decide
  simp only [exec, execPageOutComplete, hm]
  exact if_neg hasleep

/-- R318: a state whose banks are awake goes out, and is absent. -/
theorem pageOut_ends (hm : (s.tower t).moveDone false = some m) (hq : (s.tower t).stateq = [])
    (hawake : (s.touchState m.handle).stateAwake m.handle = true) : Ends (.pageOutComplete t) s fun u =>
      (u.handle m.handle).res = 1 ∧ (u.tower t).moves = (s.tower t).moves.filter fun n => n.handle != m.handle := by
  have hbump := ((KeepsTiles.refl (((s.sentOut m.handle).modHandle m.handle fun h => { h with res := 1 }).endMove t m.handle)).bump t 0x104).toKeepsMoves
  rw [endMove_modHandle] at hbump
  obtain ⟨hmoves, hhandle⟩ := move_ended hq ((sentOut_keeps s m.handle).endMove t m.handle) hbump
  refine ⟨_, pageOutComplete_absent hm hawake, ?_⟩
  rw [endMove_modHandle]
  exact ⟨(congrArg HEntry.res hhandle).trans rfl, hmoves⟩

end PageOut

/-! ## A state that moves within the device (R347) -/

theorem bitOf_codeWord {e : Nat} (h : e < 8) : bitOf (codeWord e) 63 = true := by
  revert h e
  decide

section StateMove

variable {t f st : Nat} {s : State} {o : StateOp} {h : Nat} {dst : Word}

/-- The oldest move of a strand whose bytes are written. -/
def State.moveWritten (s : State) (t k st : Nat) : Option StateOp :=
  (s.tower t).stateq.find? fun y => y.core == k && y.strand == st && y.started && y.reqs.isEmpty && y.busy == 0

/-- A state instruction of tower t has left its queue. -/
def State.dropState (s : State) (t : Nat) (o : StateOp) : State := s.modTower t fun x => { x with stateq := x.stateq.filter fun y => y.uid != o.uid }

theorem stateMove_fails (ho : s.moveWritten t (16 * t + f) st = some o) (hk : o.kind = .move h dst) (hlocal : bitOf dst 4 = false) {e : Nat} (he : e < 8)
    (hgot : (s.tilesOf (s.handle h)).1.arriveState (bits dst 3 0) (s.handle h).job (s.handle h).fmt16 (s.handle h).snap (s.tilesOf (s.handle h)).2 = .error e) :
    exec (.stateMoveComplete t f st) s =
      .next (((((s.dropState t o).modHandle h fun y => { y with res := o.res }).resolve (16 * t + f) st o.tag (codeWord e) s.now false).serveStates t).spend) := by
  simp only [State.moveWritten] at ho
  simp only [exec, execStateMoveComplete, ho, hk, hlocal, hgot, bitOf_codeWord he, if_true, Bool.false_eq_true, if_false]
  rfl

theorem stateMove_arrives {u : State} {w : Word} (ho : s.moveWritten t (16 * t + f) st = some o) (hk : o.kind = .move h dst) (hlocal : bitOf dst 4 = false)
    (hgot : (s.tilesOf (s.handle h)).1.arriveState (bits dst 3 0) (s.handle h).job (s.handle h).fmt16 (s.handle h).snap (s.tilesOf (s.handle h)).2 = .ok (u, w))
    (hw : bitOf w 63 = false) :
    let slabs := u.slabsHeld (u.handle (bits w 23 0))
    let v := slabs.foldl (fun v b => v.touchSlab (bits dst 3 0) b) u
    exec (.stateMoveComplete t f st) s = if slabs.all (s.tower (bits dst 3 0)).slabAwake = true then
      .next (((((v.dropState t o).freeHandle h).resolve (16 * t + f) st o.tag w v.now false).serveStates t).spend)
      else .next (slabs.foldl (fun v b => v.touchSlab (bits dst 3 0) b) s).spend := by
  simp only [State.moveWritten] at ho
  simp only [exec, execStateMoveComplete, ho, hk, hlocal, hgot, hw, Bool.false_eq_true, if_false]
  rfl

end StateMove

/-- Settles O47: each clause by the event's own lemma above. -/
theorem pagerServes : Obligations.PagerServes := by
  unfold Obligations.PagerServes
  intro t f st i c r s k
  refine ⟨fun z hz hdue hfrozen => ?_, fun hf hh hv ht hr hc => pagerServe_keep hf hh hv ht hr hc,
    ⟨fun _ => pagerServe_of_fault, fun _ => pagerServe_of_hint, pagerServe_of_none⟩, fun m hm hfaults hq => pageIn_ends hm hfaults hq,
    fun m hm hq hawake => pageOut_ends hm hq hawake, fun o h dst ho hk hlocal => ?_⟩
  · have hservice := shadeMissService_due hz hdue hfrozen
    refine ⟨fun hbad => hservice.trans (if_pos (Bool.or_eq_true_iff.2 hbad)), fun hstore htables => ?_⟩
    have hsound := Bool.eq_false_iff.1 (Bool.or_eq_false_iff.2 ⟨hstore, htables⟩)
    refine ⟨fun hmet => ?_, fun hunmet => ?_⟩
    · exact (hservice.trans (if_neg hsound)).trans (if_pos hmet)
    · exact (hservice.trans (if_neg hsound)).trans (if_neg (Bool.eq_false_iff.1 hunmet))
  · refine ⟨fun e hgot he => stateMove_fails ho hk hlocal he hgot, fun u w hgot hw => ⟨fun hall => ?_, fun hall => ?_⟩⟩
    · exact (stateMove_arrives ho hk hlocal hgot hw).trans (if_pos hall)
    · exact (stateMove_arrives ho hk hlocal hgot hw).trans (if_neg (Bool.eq_false_iff.1 hall))

end Sys2Proof.Machine
end
